-- ==== Sys2Proof/Word.lean ====
section
/-! DEFINITION. The word types of the KZ-9604: bytes, 64-bit words, 512-bit payloads and lines (04 R75 R76, 05 R104). -/

namespace Sys2Proof

/-- A byte of memory. -/
abbrev Byte := BitVec 8

/-- An instruction word, a register of 64 bits, a word of a record (05 R104). -/
abbrev Word64 := BitVec 64

/-- The payload of a token, and one line of memory (04 R75). -/
abbrev Payload := BitVec 512

end Sys2Proof
end

