-- ==== Sys2Proof/Syntax.lean ====
section
/-! DEFINITION. The syntax of the machine: the operand fields of an instruction word (05 R104-R110), the names of places, and the one
inductive Instr with a constructor for each of the 257 steps of the opcode table: 188 firings of instruction words, 69 steps of units and
of the host. -/

namespace Sys2Proof

/-- The type field (05 R108). -/
inductive Ty where
  | i64 | i32 | i16 | i8 | f32 | bf16 | f16 | kf8e | kf8m | kf6 | kf4 | int4 | pred | tf
  deriving DecidableEq, Repr

/-- The PM field (05 R106); 0b11 is reserved and never decodes. -/
inductive PM where
  | none | onTrue | onFalse
  deriving DecidableEq, Repr

/-- The flags field (05 R106); its reserved bit is 0. -/
structure Flags where
  /-- early firing -/
  e : Bool := false
  /-- breakpoint -/
  b : Bool := false
  pm : PM := .none
  /-- sticky R operand -/
  k : Bool := false
  deriving DecidableEq, Repr

/-- An operand slot of an instruction (05 R107). -/
inductive Slot where
  | l | r | p
  deriving DecidableEq, Repr

/-- A target (05 R107). -/
inductive Target where
  | none
  /-- an operand slot of an instruction of the block -/
  | slot (idx : BitVec 7) (s : Slot)
  /-- an output port of the block -/
  | port (p : BitVec 4)
  /-- a context register: 0-15 s0-s15, 16-23 v0-v7 -/
  | creg (i : BitVec 5)
  deriving DecidableEq, Repr

/-- The fields of Format A below the opcode (05 R104). -/
structure OpA where
  fn : BitVec 6 := 0
  ty : Ty := .i64
  fl : Flags := {}
  t0 : Target := .none
  t1 : Target := .none
  imm : BitVec 18 := 0
  deriving DecidableEq, Repr

/-- The fields of Format B below the opcode (05 R104 R105). -/
structure OpB where
  fl : Flags := {}
  t0 : Target := .none
  t1 : Target := .none
  t2 : Target := .none
  t3 : Target := .none
  deriving DecidableEq, Repr

/-- The fields of Format C below the opcode (05 R104 R105). -/
structure OpC where
  ty : Ty := .i64
  fl : Flags := {}
  t0 : Target := .none
  imm : BitVec 35 := 0
  deriving DecidableEq, Repr

/-- The place of an instruction of a resident block: the core and first tile of the block's span, its context bank and the instruction's
index in the block (02 R27 R28). -/
structure Site where
  core : Nat
  tile : Nat
  bank : Nat
  idx : Nat
  deriving DecidableEq, Repr

/-- What a marker passes (02 R25, 12 R271): an instruction, the bank of a block as a whole, a memory tile, a matrix node, the port of
a core. The last three name the launch whose marker it is; launch key 0 modulo 65,536 is the system bank of the core (18 R312). -/
inductive MarkerUnit where
  | elem (e : Site)
  | bank (bank : Nat)
  | memoryTile (lk core tile : Nat)
  | node (lk core tile : Nat)
  | corePort (lk core : Nat)
  deriving DecidableEq, Repr

/-- A CXL.mem access of the host to device memory (13 R291): the device address, the number of bytes and, for a write, the bytes. -/
structure HostAccess where
  addr : Nat
  size : Nat
  write : Bool
  /-- the host keeps the line in its own cache (host bias) -/
  caches : Bool
  data : BitVec 512
  deriving DecidableEq, Repr

/-- A host command: the eight words of a ring entry (23 R404). -/
structure HostCommand where
  words : List (BitVec 64)
  deriving DecidableEq, Repr

/-- A flit of a Tilhorn Link: 256 bytes as 32 words (23 R411). -/
structure Flit where
  words : List (BitVec 64)
  deriving DecidableEq, Repr

/-- What the hardwired clamps see (23 R414). -/
inductive ThermalLevel where
  | normal | clamp | limit
  deriving DecidableEq, Repr

/-- What patrol scrub visits (23 R418): a line of a memory tile, or a line of device memory held in a slice. -/
inductive ScrubUnit where
  | memoryTile (core tile line : Nat)
  | slice (addr : Nat)
  deriving DecidableEq, Repr

/-- The steps of the machine, one constructor for each row of the opcode table. A constructor with operand fields is a firing of an
instruction word; the others are steps of units, of the host and of the hardware. -/
inductive Instr where
  /-- STEER, R129. -/
  | steer (o : OpA)
  /-- MERGE, R130. -/
  | merge (o : OpA)
  /-- CARRY, R134. -/
  | carry (o : OpA)
  /-- INVAR, R135. -/
  | invar (o : OpA)
  /-- FANOUT, R131. -/
  | fanout (o : OpB)
  /-- DROP, R131. -/
  | drop (o : OpA)
  /-- ORDF, R132. -/
  | ordf (o : OpA)
  /-- ORDJ, R132. -/
  | ordj (o : OpA)
  /-- GATE_CREDIT_FIRING, R136. -/
  | gateCreditFiring (o : OpA)
  /-- GATE_PASS_FIRING, R136. -/
  | gatePassFiring (o : OpA)
  /-- COUNT_L_FIRING, R138. -/
  | countLFiring (o : OpA)
  /-- COUNT_P_FIRING, R138. -/
  | countPFiring (o : OpA)
  /-- REPEAT, R137. -/
  | repeatCopies (o : OpA)
  /-- CONST, R133. -/
  | const (o : OpC)
  /-- EXIT, R144. -/
  | exit (o : OpC)
  /-- EXITP, R144. -/
  | exitp (o : OpC)
  /-- EXITQ, R144. -/
  | exitq (o : OpC)
  /-- SPAWN, R146. -/
  | spawn (o : OpC)
  /-- RETIRE, R147. -/
  | retire (o : OpA)
  /-- LAUNCH, R155. -/
  | launch (o : OpA)
  /-- PATCH, R156. -/
  | patch (o : OpA)
  /-- TRIG, R158. -/
  | trig (o : OpA)
  /-- QPUSH, R149. -/
  | qpush (o : OpA)
  /-- QPOP, R150. -/
  | qpop (o : OpA)
  /-- CRD, R153. -/
  | crd (o : OpA)
  /-- CWR, R154. -/
  | cwr (o : OpA)
  /-- RMARK, R159. -/
  | rmark (o : OpA)
  /-- QUIET, R160. -/
  | quiet (o : OpA)
  /-- QUIET_EMIT, R160. -/
  | quietEmit (e : Site)
  /-- ADD, R170. -/
  | add (o : OpA)
  /-- SUB, R170. -/
  | sub (o : OpA)
  /-- ADDS, R170. -/
  | adds (o : OpA)
  /-- SUBS, R170. -/
  | subs (o : OpA)
  /-- NEG, R170. -/
  | neg (o : OpA)
  /-- ABS, R170. -/
  | abs (o : OpA)
  /-- MUL, R170. -/
  | mul (o : OpA)
  /-- MULH, R170. -/
  | mulh (o : OpA)
  /-- DIV, R171. -/
  | div (o : OpA)
  /-- REM, R171. -/
  | rem (o : OpA)
  /-- MIN, R170. -/
  | min (o : OpA)
  /-- MAX, R170. -/
  | max (o : OpA)
  /-- AND, R170. -/
  | and (o : OpA)
  /-- OR, R170. -/
  | or (o : OpA)
  /-- XOR, R170. -/
  | xor (o : OpA)
  /-- ANDN, R170. -/
  | andn (o : OpA)
  /-- NOT, R170. -/
  | not (o : OpA)
  /-- SHL, R172. -/
  | shl (o : OpA)
  /-- SHR, R172. -/
  | shr (o : OpA)
  /-- SAR, R172. -/
  | sar (o : OpA)
  /-- ROTL, R172. -/
  | rotl (o : OpA)
  /-- CLZ, R172. -/
  | clz (o : OpA)
  /-- CTZ, R172. -/
  | ctz (o : OpA)
  /-- POPC, R172. -/
  | popc (o : OpA)
  /-- CMP, R173. -/
  | cmp (o : OpA)
  /-- SEL, R174. -/
  | sel (o : OpA)
  /-- TRUNC, R175. -/
  | trunc (o : OpA)
  /-- BFX, R175. -/
  | bfx (o : OpA)
  /-- BFI, R175. -/
  | bfi (o : OpA)
  /-- ADDR, R176. -/
  | addr (o : OpA)
  /-- IMAD, R170. -/
  | imad (o : OpA)
  /-- BSWAP, R170. -/
  | bswap (o : OpA)
  /-- FADD, R177. -/
  | fadd (o : OpA)
  /-- FSUB, R177. -/
  | fsub (o : OpA)
  /-- FMUL, R177. -/
  | fmul (o : OpA)
  /-- FMA, R178. -/
  | fma (o : OpA)
  /-- FDIV, R177. -/
  | fdiv (o : OpA)
  /-- FSQRT, R177. -/
  | fsqrt (o : OpA)
  /-- FRCP, R182. -/
  | frcp (o : OpA)
  /-- FRSQ, R182. -/
  | frsq (o : OpA)
  /-- FEXP2, R182. -/
  | fexp2 (o : OpA)
  /-- FLOG2, R182. -/
  | flog2 (o : OpA)
  /-- FEXP, R182. -/
  | fexp (o : OpA)
  /-- FMIN, R179. -/
  | fmin (o : OpA)
  /-- FMAX, R179. -/
  | fmax (o : OpA)
  /-- FABS, R179. -/
  | fabs (o : OpA)
  /-- FNEG, R179. -/
  | fneg (o : OpA)
  /-- FCPYS, R179. -/
  | fcpys (o : OpA)
  /-- FCMP, R180. -/
  | fcmp (o : OpA)
  /-- FCLASS, R180. -/
  | fclass (o : OpA)
  /-- FRINT, R181. -/
  | frint (o : OpA)
  /-- FSCALB, R181. -/
  | fscalb (o : OpA)
  /-- FTANH, R182. -/
  | ftanh (o : OpA)
  /-- FSIGM, R182. -/
  | fsigm (o : OpA)
  /-- VBCAST, R183. -/
  | vbcast (o : OpA)
  /-- VEXTR, R183. -/
  | vextr (o : OpA)
  /-- VINS, R183. -/
  | vins (o : OpA)
  /-- VPERM, R183. -/
  | vperm (o : OpA)
  /-- VSHUF, R183. -/
  | vshuf (o : OpA)
  /-- VROT, R183. -/
  | vrot (o : OpA)
  /-- VSLIDE, R183. -/
  | vslide (o : OpA)
  /-- VZIP, R183. -/
  | vzip (o : OpA)
  /-- VUNZIP, R183. -/
  | vunzip (o : OpA)
  /-- VRADD, R185. -/
  | vradd (o : OpA)
  /-- VRMIN, R185. -/
  | vrmin (o : OpA)
  /-- VRMAX, R185. -/
  | vrmax (o : OpA)
  /-- VRAND, R185. -/
  | vrand (o : OpA)
  /-- VRIOR, R185. -/
  | vrior (o : OpA)
  /-- VCOMPR, R183. -/
  | vcompr (o : OpA)
  /-- VEXPND, R183. -/
  | vexpnd (o : OpA)
  /-- VPCNT, R183. -/
  | vpcnt (o : OpA)
  /-- VMASK, R183. -/
  | vmask (o : OpA)
  /-- CVT, R186. -/
  | cvt (o : OpA)
  /-- CVTI, R187. -/
  | cvti (o : OpA)
  /-- SCALEG, R188. -/
  | scaleg (o : OpA)
  /-- SCALES, R188. -/
  | scales (o : OpA)
  /-- FMTCHK, R189. -/
  | fmtchk (o : OpA)
  /-- UFRD, R190. -/
  | ufrd (o : OpA)
  /-- PACK, R191. -/
  | pack (o : OpA)
  /-- UNPACK, R191. -/
  | unpack (o : OpA)
  /-- RNG, R192. -/
  | rng (o : OpA)
  /-- MXLDB_HEADER_FIRING, R229. -/
  | mxldbHeaderFiring (o : OpA)
  /-- MXLDB_PAYLOAD_FIRING, R229. -/
  | mxldbPayloadFiring (o : OpA)
  /-- MXROW, R230. -/
  | mxrow (o : OpA)
  /-- MXROWS, R230. -/
  | mxrows (o : OpA)
  /-- MXDRAIN, R231. -/
  | mxdrain (o : OpA)
  /-- MXCLR, R232. -/
  | mxclr (o : OpA)
  /-- MXCFG, R233. -/
  | mxcfg (o : OpA)
  /-- LD, R199. -/
  | ld (o : OpA)
  /-- ST, R200. -/
  | st (o : OpA)
  /-- LDV, R199. -/
  | ldv (o : OpA)
  /-- STV, R200. -/
  | stv (o : OpA)
  /-- GATH, R204. -/
  | gath (o : OpA)
  /-- SCAT, R204. -/
  | scat (o : OpA)
  /-- MTLD, R203. -/
  | mtld (o : OpA)
  /-- MTST, R203. -/
  | mtst (o : OpA)
  /-- STRCFG, R206. -/
  | strcfg (o : OpA)
  /-- STRGO, R206. -/
  | strgo (o : OpA)
  /-- STRGO_WRITE, R206. -/
  | strgoWrite (o : OpA)
  /-- PREF, R208. -/
  | pref (o : OpA)
  /-- AADD, R209. -/
  | aadd (o : OpA)
  /-- AFADD, R209. -/
  | afadd (o : OpA)
  /-- AMIN, R209. -/
  | amin (o : OpA)
  /-- AMAX, R209. -/
  | amax (o : OpA)
  /-- AAND, R209. -/
  | aand (o : OpA)
  /-- AOR, R209. -/
  | aor (o : OpA)
  /-- AXOR, R209. -/
  | axor (o : OpA)
  /-- AXCHG, R209. -/
  | axchg (o : OpA)
  /-- ACAS, R209. -/
  | acas (o : OpA)
  /-- ATAS, R210. -/
  | atas (o : OpA)
  /-- ATOPK, R211. -/
  | atopk (o : OpA)
  /-- AINCB, R209. -/
  | aincb (o : OpA)
  /-- ATOMIC_PERFORM, R212. -/
  | atomicPerform (id : Nat)
  /-- MEMORY_ACCESS_SERVE, R273. -/
  | memoryAccessServe (id : Nat)
  /-- FENCE, R216. -/
  | fence (o : OpA)
  /-- BAR, R217. -/
  | bar (o : OpA)
  /-- BAR_COPY, R217. -/
  | barCopy (o : OpA)
  /-- PERMIT_TAKE, R218. -/
  | permitTake (o : OpA)
  /-- PERMIT_GIVE, R218. -/
  | permitGive (o : OpA)
  /-- FUTREG, R220. -/
  | futreg (o : OpA)
  /-- FUTRES, R220. -/
  | futres (o : OpA)
  /-- FUTWAIT, R220. -/
  | futwait (o : OpA)
  /-- XCOPY, R240. -/
  | xcopy (o : OpA)
  /-- XFILL, R240. -/
  | xfill (o : OpA)
  /-- XGATHER, R240. -/
  | xgather (o : OpA)
  /-- XCOLL, R242. -/
  | xcoll (o : OpA)
  /-- ENGINE_COMPLETION, R241. -/
  | engineCompletion (id : Nat)
  /-- RSPLIT, R367. -/
  | rsplit (o : OpA)
  /-- RMERGE, R367. -/
  | rmerge (o : OpA)
  /-- RCOMPACT, R368. -/
  | rcompact (o : OpA)
  /-- BIASFLIP, R369. -/
  | biasflip (o : OpA)
  /-- RANGE_COMMAND_COMPLETE, R366. -/
  | rangeCommandComplete (part : Nat)
  /-- RLOOP, R245. -/
  | rloop (o : OpA)
  /-- RSV, R248. -/
  | rsv (o : OpA)
  /-- RSV_DONE, R248. -/
  | rsvDone (o : OpA)
  /-- RCHK, R249. -/
  | rchk (o : OpA)
  /-- RCOMMIT, R249. -/
  | rcommit (o : OpA)
  /-- RRETRY, R249. -/
  | rretry (o : OpA)
  /-- RLDONE, R250. -/
  | rldone (o : OpA)
  /-- RESERVE_PHASE_CLOSE, R249. -/
  | reservePhaseClose (core loop : Nat)
  /-- COMMIT_PHASE_CLOSE, R249. -/
  | commitPhaseClose (core loop : Nat)
  /-- BTASK, R254. -/
  | btask (o : OpA)
  /-- BOP, R258. -/
  | bop (o : OpA)
  /-- BCOMMIT, R259. -/
  | bcommit (o : OpA)
  /-- BABORT, R260. -/
  | babort (o : OpA)
  /-- BUNDO, R260. -/
  | bundo (o : OpA)
  /-- BSTAT, R262. -/
  | bstat (o : OpA)
  /-- CTLOAD, R257. -/
  | ctload (o : OpA)
  /-- CTQ, R257. -/
  | ctq (o : OpA)
  /-- CTAB_INSTALL, R305. -/
  | ctabInstall (part aseq : Nat)
  /-- SVC, R325. -/
  | svc (o : OpA)
  /-- BRK, R325. -/
  | brk (o : OpA)
  /-- CSRR, R316. -/
  | csrr (o : OpA)
  /-- CSRW, R316. -/
  | csrw (o : OpA)
  /-- TFETCH, R326. -/
  | tfetch (o : OpA)
  /-- REINJ, R327. -/
  | reinj (o : OpA)
  /-- TKILL, R328. -/
  | tkill (o : OpA)
  /-- CTXSAVE, R331. -/
  | ctxsave (o : OpA)
  /-- CTXLOAD, R331. -/
  | ctxload (o : OpA)
  /-- SHRINK, R332. -/
  | shrink (o : OpA)
  /-- HALT, R334. -/
  | halt (o : OpA)
  /-- IDLE, R333. -/
  | idle (o : OpA)
  /-- RTTW, R365. -/
  | rttw (o : OpA)
  /-- RTTR, R365. -/
  | rttr (o : OpA)
  /-- RINV, R364. -/
  | rinv (o : OpA)
  /-- RFENCE, R364. -/
  | rfence (o : OpA)
  /-- EXTENSION_OPCODE, R114. -/
  | extensionOpcode (i : BitVec 5) (o : OpA)
  /-- RESULT_EMIT, R22. -/
  | resultEmit (e : Site)
  /-- TOKEN_HOP, R20. -/
  | tokenHop (bank arc hop : Nat)
  /-- ANTI_TOKEN_HOP, R53. -/
  | antiTokenHop (bank arc : Nat)
  /-- CANCELLED_FIRING, R57. -/
  | cancelledFiring (e : Site)
  /-- MARKER_INJECT, R25. -/
  | markerInject (lk core : Nat)
  /-- MARKER_FORWARD, R25. -/
  | markerForward (u : MarkerUnit)
  /-- UNIT_APPLY, R283. -/
  | unitApply (lk core slice : Nat)
  /-- REMOTE_UNIT_APPLY, R288. -/
  | remoteUnitApply (peer core : Nat)
  /-- ENTRY_READER_POP, R31. -/
  | entryReaderPop (bank : Nat)
  /-- SCARAB_DECIDE, R344. -/
  | scarabDecide (core tile : Nat)
  /-- LOAD_CLOSE, R38. -/
  | loadClose (lk : Nat)
  /-- RECONFIG_TOKEN, R39. -/
  | reconfigToken (lk core : Nat)
  /-- GRAPH_RETIRE, R44. -/
  | graphRetire (lk : Nat)
  /-- DECIDE, R341. -/
  | decide (part : Nat)
  /-- SHRINK_CUT, R386. -/
  | shrinkCut (lk : Nat)
  /-- FAULT_RECORD_ENQUEUE, R323. -/
  | faultRecordEnqueue (core : Nat)
  /-- RANGE_WALK, R357. -/
  | rangeWalk (core : Nat)
  /-- TRACE_MODE_OFF, R346. -/
  | traceModeOff (part : Nat)
  /-- TRACE_MODE_RECORD, R346. -/
  | traceModeRecord (part : Nat)
  /-- TRACE_MODE_BIND, R346. -/
  | traceModeBind (part : Nat)
  /-- RND_PERIOD_WRITE, R316. -/
  | rndPeriodWrite (lk value : Nat)
  /-- EXACT_MODE_SET, R392. -/
  | exactModeSet (part : Nat)
  /-- DIRECTORY_LOCK, R370. -/
  | directoryLock (part : Nat)
  /-- RDIR_CNT_WRITE, R370. -/
  | rdirCntWrite (part value : Nat)
  /-- REGISTER_WRITE, R316. -/
  | registerWrite (part index : Nat) (value : BitVec 64)
  /-- PART_CORES, R404. -/
  | partCores (c : HostCommand)
  /-- PART_MEM, R404. -/
  | partMem (c : HostCommand)
  /-- PART_CLR, R400. -/
  | partClr (c : HostCommand)
  /-- PART_REG, R404. -/
  | partReg (c : HostCommand)
  /-- HND_START, R312. -/
  | hndStart (c : HostCommand)
  /-- DMA_WIN, R410. -/
  | dmaWin (c : HostCommand)
  /-- PEER_SET, R404. -/
  | peerSet (c : HostCommand)
  /-- GRP_SET, R413. -/
  | grpSet (c : HostCommand)
  /-- FENCE_CLR, R404. -/
  | fenceClr (c : HostCommand)
  /-- RESUME, R334. -/
  | resume (c : HostCommand)
  /-- DIE_RESET, R408. -/
  | dieReset (c : HostCommand)
  /-- DIE_WRITEBACK_DONE, R408. -/
  | dieWritebackDone (die : Nat)
  /-- DIE_RETRAIN_START, R408. -/
  | dieRetrainStart (die : Nat)
  /-- DIE_RETRAIN_DONE, R408. -/
  | dieRetrainDone (die : Nat)
  /-- ERROR_REPLY, R409. -/
  | errorReply (id : Nat)
  /-- VF_BIND, R404. -/
  | vfBind (c : HostCommand)
  /-- RATE_SET, R412. -/
  | rateSet (c : HostCommand)
  /-- HOST_HALT, R404. -/
  | hostHalt (c : HostCommand)
  /-- BOOT_VERIFY_DONE, R415. -/
  | bootVerifyDone
  /-- ENGINE_WRITE_STAGE, R293. -/
  | engineWriteStage (id : Nat)
  /-- HOST_CXL_REPLY, R291. -/
  | hostCxlReply (id : Nat)
  /-- RESIDUE_MISMATCH, R235. -/
  | residueMismatch (core tile : Nat)
  /-- HOST_CXL_ACCESS, R291. -/
  | hostCxlAccess (a : HostAccess)
  /-- CONTEXT_PARITY_ERROR, R377. -/
  | contextParityError (e : Site) (second : Bool)
  /-- TIMING_ERROR_DETECT, R391. -/
  | timingErrorDetect (e : Site) (second : Bool)
  /-- MARGIN_TRIM_STEP, R391. -/
  | marginTrimStep (core step : Nat)
  /-- DEBUG_SET_BREAKPOINT, R393. -/
  | debugSetBreakpoint (e : Site) (image : Option Nat) (b : Bool)
  /-- VF_LAUNCH_DOORBELL, R402. -/
  | vfLaunchDoorbell (vf queue addr : Nat)
  /-- BOOT_GO, R403. -/
  | bootGo (value : BitVec 64)
  /-- COLD_BOOT, R415. -/
  | coldBoot
  /-- GET_MEASUREMENTS, R417. -/
  | getMeasurements
  /-- FLIT_RECEIVE, R411. -/
  | flitReceive (port : Nat) (flit : Flit)
  /-- FLIT_REPLAY, R411. -/
  | flitReplay (port : Nat)
  /-- THERMAL_CLAMP, R414. -/
  | thermalClamp (level : ThermalLevel)
  /-- MGMT_CORE_RESET, R414. -/
  | mgmtCoreReset
  /-- PATROL_SCRUB, R418. -/
  | patrolScrub (u : ScrubUnit)
  deriving DecidableEq, Repr

end Sys2Proof
end

