-- ==== Sys2Proof/WellFormed.lean ====
section
/-! DEFINITION. Which instructions are well-formed: the checks of step 9 of the block loader that one word decides alone (05 R104-R114, 03 R49
and the field tables of 06 to 10, 18 and 20). The checks that need the block (ICNT, OPMAP, PRIV, the slot class) stand in Machine/Loader.lean. -/

namespace Sys2Proof

/-- The number of 05 R108. -/
def Ty.code : Ty → Nat
  | .i64 => 0 | .i32 => 1 | .i16 => 2 | .i8 => 3 | .f32 => 4 | .bf16 => 5 | .f16 => 6 | .kf8e => 7 | .kf8m => 8 | .kf6 => 9 | .kf4 => 10
  | .int4 => 11 | .pred => 12 | .tf => 13

/-- The width of a lane; 64 under tag-following, the widest (07 R162). -/
def Ty.width : Ty → Nat
  | .i64 => 64 | .i32 => 32 | .i16 => 16 | .i8 => 8 | .f32 => 32 | .bf16 => 16 | .f16 => 16 | .kf8e => 8 | .kf8m => 8 | .kf6 => 6 | .kf4 => 4
  | .int4 => 4 | .pred => 1 | .tf => 64

/-- The lanes of a vector (04 R75); 128 under tag-following, the most (07 R162). -/
def Ty.lanes : Ty → Nat
  | .i64 => 8 | .i32 => 16 | .i16 => 32 | .i8 => 64 | .f32 => 16 | .bf16 => 32 | .f16 => 32 | .kf8e => 64 | .kf8m => 64 | .kf6 => 64 | .kf4 => 128
  | .int4 => 128 | .pred => 128 | .tf => 128

/-- The integer types. -/
def Ty.isInt : Ty → Bool
  | .i64 | .i32 | .i16 | .i8 | .int4 => true
  | .f32 | .bf16 | .f16 | .kf8e | .kf8m | .kf6 | .kf4 | .pred | .tf => false

/-- The floating-point types. -/
def Ty.isFloat : Ty → Bool
  | .f32 | .bf16 | .f16 | .kf8e | .kf8m | .kf6 | .kf4 => true
  | .i64 | .i32 | .i16 | .i8 | .int4 | .pred | .tf => false

/-- All fourteen types. -/
def allTys : List Ty := [.i64, .i32, .i16, .i8, .f32, .bf16, .f16, .kf8e, .kf8m, .kf6, .kf4, .int4, .pred, .tf]
/-- Class INT (07 R162). -/
def intTys : List Ty := [.i64, .i32, .i16, .i8, .int4, .tf]
/-- Class FLT (07 R162). -/
def fltTys : List Ty := [.f32, .bf16, .f16, .tf]

/-- A bit of the fn field. -/
def OpA.bit (o : OpA) (k : Nat) : Bool := o.fn.getLsbD k
/-- The V bit of fn (05 R109). -/
def OpA.v (o : OpA) : Bool := o.bit 5
/-- The I bit of fn (05 R109). -/
def OpA.i (o : OpA) : Bool := o.bit 4
/-- The U bit of fn for the integer opcodes (05 R109). -/
def OpA.u (o : OpA) : Bool := o.bit 0
/-- The RM field (04 R84, 05 R109). -/
def OpA.rm (o : OpA) : Nat := o.fn.toNat / 4 % 4
/-- The SUB field (05 R109). -/
def OpA.sub (o : OpA) : Nat := o.fn.toNat % 4
/-- PART, imm18 bits 17:15 (07 R167). -/
def OpA.part (o : OpA) : Nat := o.imm.toNat / 2 ^ 15

/-- A target is within the register file (05 R107). -/
def Target.ok : Target → Bool
  | .creg i => decide (i.toNat < 24)
  | .none | .slot _ _ | .port _ => true

/-- The immediate of R109 fits the type (07 R163); under tag-following nothing is known yet. -/
def immFits (ty : Ty) (u : Bool) (imm : BitVec 18) : Bool :=
  match ty with
  | .pred => decide (imm.toNat < 2)
  | .tf => true
  | .i64 | .i32 | .i16 | .i8 | .int4 =>
    if u then decide (imm.toNat < 2 ^ ty.width) else decide (-(2 : Int) ^ (ty.width - 1) ≤ imm.toInt ∧ imm.toInt < (2 : Int) ^ (ty.width - 1))
  | .f32 | .bf16 | .f16 | .kf8e | .kf8m | .kf6 | .kf4 => decide (imm.toNat < 65536)

/-- U is allowed on an integer type with an unsigned variant (07 R162). -/
def uOk (ty : Ty) (u : Bool) : Bool := !u || ty == .i64 || ty == .i32 || ty == .i16 || ty == .i8

/-- What one opcode of Format A accepts beyond the common fields: its types, its fn values, its imm18 values, whether PM is allowed, whether
targets 0 and 1 are used. -/
structure FormA where
  tys : List Ty
  fn : Bool
  imm : Bool
  pm : Bool
  t0 : Bool := true
  t1 : Bool := true

/-- imm18 under I, or zero. -/
def immI (o : OpA) (u : Bool) : Bool := if o.i then immFits o.ty u o.imm else decide (o.imm = 0)

/-- Only the fn bits of the mask may be set. -/
def fnMask (o : OpA) (m : Nat) : Bool := decide (o.fn.toNat &&& (63 ^^^ m) = 0)

/-- The integer and address opcodes 0x20 to 0x3F (07 R170-R176). -/
def formInt (op : Nat) (o : OpA) : Option FormA :=
  let bin (tys : List Ty) : Option FormA := some { tys := tys, fn := fnMask o 0x31 && uOk o.ty o.u, imm := immI o o.u, pm := true }
  let un (tys : List Ty) (u : Bool) : Option FormA :=
    some { tys := tys, fn := fnMask o (if u then 0x21 else 0x20) && uOk o.ty o.u, imm := decide (o.imm = 0), pm := true }
  let sh : Option FormA :=
    some { tys := intTys, fn := fnMask o 0x30, imm := if o.i then decide (o.imm.toNat < o.ty.width) else decide (o.imm = 0), pm := true }
  match op with
  | 0x20 | 0x21 | 0x22 | 0x23 | 0x26 | 0x27 | 0x28 | 0x29 | 0x2A | 0x2B => bin intTys
  | 0x2C | 0x2D | 0x2E | 0x2F => bin (.pred :: intTys)
  | 0x24 | 0x25 | 0x35 | 0x36 | 0x37 => un intTys false
  | 0x30 => un (.pred :: intTys) true
  | 0x31 | 0x32 | 0x33 | 0x34 => sh
  | 0x38 => some { tys := intTys, fn := uOk o.ty o.u && decide (o.fn.toNat / 2 % 8 < 6), imm := immI o o.u, pm := true }
  | 0x39 => some { tys := allTys, fn := fnMask o 0x30, imm := immI o false, pm := false }
  | 0x3A => some { tys := [.i64, .i32, .i16, .i8, .tf],
                   fn := fnMask o 0x2D && uOk o.ty o.u && !(o.u && o.rm == 3) && decide (32 >>> o.rm < o.ty.width),
                   imm := decide (o.imm = 0), pm := true }
  | 0x3B => some { tys := intTys, fn := fnMask o 0x21 && uOk o.ty o.u,
                   imm := decide (o.imm.toNat < 4096 ∧ o.imm.toNat % 64 + o.imm.toNat / 64 + 1 ≤ o.ty.width), pm := true }
  | 0x3C => some { tys := intTys, fn := fnMask o 0x20,
                   imm := decide (o.imm.toNat < 4096 ∧ o.imm.toNat % 64 + o.imm.toNat / 64 + 1 ≤ o.ty.width), pm := true }
  | 0x3D => some { tys := [.i64], fn := fnMask o 0x3D, imm := immI o o.u, pm := true }
  | 0x3E => some { tys := intTys, fn := fnMask o 0x31 && uOk o.ty o.u, imm := immI o o.u, pm := false }
  | 0x3F => some { tys := [.i64, .i32, .i16], fn := fnMask o 0x20, imm := decide (o.imm = 0), pm := true }
  | _ => none

/-- imm18 under I of an opcode whose types are floating-point: a BF16 code, under tag-following too (05 R109, 07 R163). -/
def immF (o : OpA) : Bool := if o.i then decide (o.imm.toNat < 65536) else decide (o.imm = 0)

/-- The floating-point opcodes 0x40 to 0x55 (07 R177-R182). -/
def formFloat (op : Nat) (o : OpA) : Option FormA :=
  let f (mask : Nat) (imm : Bool) (pm : Bool := true) : Option FormA := some { tys := fltTys, fn := fnMask o mask, imm := imm, pm := pm }
  match op with
  | 0x40 | 0x41 | 0x42 | 0x44 => f 0x3C (immF o)
  | 0x43 => f 0x3C (immF o) false
  | 0x45 | 0x52 => f 0x2C (decide (o.imm = 0))
  | 0x46 | 0x47 | 0x48 | 0x49 | 0x4A | 0x4D | 0x4E | 0x51 | 0x54 | 0x55 => f 0x20 (decide (o.imm = 0))
  | 0x4B | 0x4C | 0x4F => f 0x30 (immF o)
  | 0x50 => f 0x33 (immF o)
  | 0x53 => f 0x3C (if o.i then o.ty.width != 16 || immFits .i16 false o.imm else decide (o.imm = 0))
  | _ => none

/-- The lane, conversion and format opcodes 0x60 to 0x7F, and RNG (07 R183-R192). -/
def formLane (op : Nat) (o : OpA) : Option FormA :=
  let f (tys : List Ty) (mask : Nat) (imm : Bool) (pm : Bool := true) : Option FormA :=
    some { tys := tys, fn := o.v && fnMask o mask, imm := imm, pm := pm }
  let perm : List Ty := [.i64, .i32, .i16, .i8, .f32, .bf16, .f16, .kf8e, .kf8m, .kf6, .tf]
  let z := decide (o.imm = 0)
  match op with
  | 0x60 => f allTys 0x20 z
  | 0x61 | 0x65 => f allTys 0x30 (if o.i then decide (o.imm.toNat < o.ty.lanes) else z)
  | 0x62 => f allTys 0x20 (decide (o.imm.toNat < 128 ∧ o.imm.toNat < o.ty.lanes))
  | 0x63 => f perm 0x20 z
  | 0x64 => f perm 0x20 z false
  | 0x66 => f allTys 0x20 (decide (o.imm.toNat ≤ o.ty.lanes))
  | 0x67 | 0x68 => f allTys 0x21 z
  | 0x69 => f (intTys ++ [.f32, .bf16, .f16]) 0x2C z
  | 0x6A | 0x6B => f (intTys ++ [.f32, .bf16, .f16]) 0x20 z
  | 0x6C | 0x6D => f (.pred :: intTys) 0x20 z
  | 0x6E | 0x6F => f allTys 0x20 z
  | 0x70 => f [.pred] 0x20 z
  | 0x71 => f [.i64, .i32, .i16, .i8, .f32, .bf16, .f16, .kf8e, .kf8m, .kf6, .kf4, .int4, .pred] 0x20 z
  | 0x78 =>
    let part := if o.v then decide (o.part < 128 / o.ty.lanes) else decide (o.part = 0)
    let low := o.imm.toNat % 2 ^ 15
    let fld := match o.sub with
      | 1 => decide (low ≤ 254)
      | 3 => decide (low < 2048)
      | _ => decide (low = 0)
    some { tys := [.f32, .bf16, .f16, .kf8e, .kf8m, .kf6, .kf4], fn := fnMask o 0x2F, imm := part && fld, pm := true }
  | 0x79 =>
    let part := if o.v then decide (o.part < 128 / o.ty.lanes) else decide (o.part = 0)
    some { tys := [.i64, .i32, .i16, .i8, .int4], fn := fnMask o 0x2D && uOk o.ty o.u, imm := part && decide (o.imm.toNat % 2 ^ 15 = 0), pm := true }
  | 0x7A => some { tys := [.i64], fn := fnMask o 0x20, imm := z, pm := true }
  | 0x7B => some { tys := [.i64], fn := fnMask o 0x31, imm := o.i || z, pm := true }
  | 0x7C =>
    let tag := o.imm.toNat % 64
    some { tys := [.i64], fn := fnMask o 0x01,
           imm := decide (o.imm.toNat < 256) && (decide (tag ≤ 9) || decide (0x10 ≤ tag ∧ tag ≤ 0x16) || tag == 0x20 || tag == 0x21), pm := true }
  | 0x7D => some { tys := [.i64], fn := fnMask o 0, imm := decide (o.imm.toNat < 128), pm := true }
  | 0x7E | 0x7F => some { tys := allTys, fn := fnMask o 0x23 && decide (o.sub < 3),
                          imm := decide (o.imm.toNat % 2 ^ 15 = 0 ∧ o.part < 2 <<< o.sub), pm := true }
  | 0x80 => some { tys := [.i64], fn := fnMask o 0x30, imm := o.i || z, pm := true }
  | _ => none

/-- The routing and thread opcodes of Format A (06 R128 R142). -/
def formControl (op : Nat) (o : OpA) : Option FormA :=
  let z := decide (o.imm = 0)
  let f (tys : List Ty) (mask : Nat) (imm pm t0 t1 : Bool) : Option FormA :=
    some { tys := tys, fn := fnMask o mask, imm := imm, pm := pm, t0 := t0, t1 := t1 }
  match op with
  | 0x01 | 0x02 | 0x03 | 0x04 => f allTys 0 z false true true
  | 0x06 => f [.i64] 0 z false false false
  | 0x07 => f [.i64] 0 z false true true
  | 0x08 => f [.i64] 1 z false true false
  | 0x09 => f allTys 0 true false true true
  | 0x0A | 0x0B => f allTys 0x10 (o.i || z) false true true
  | 0x14 => f [.i64] 0 z true false false
  | 0x15 => f [.i64] 0 (decide (o.imm.toNat < 64)) true true true
  | 0x16 => f [.i64] 0 (decide (o.imm.toNat < 4)) true true true
  | 0x17 | 0x1C => f [.i64] 0 z true true true
  | 0x18 => f allTys 0x20 (decide (o.imm.toNat < 2048)) true false false
  | 0x19 => f allTys 0x20 (decide (o.imm.toNat < 2048)) true true true
  | 0x1A | 0x1B => f allTys 0 (decide (o.imm.toNat < 24)) true true true
  | 0x1D => f [.i64] 0 (decide (o.imm.toNat ≠ 0)) true true true
  | _ => none

/-- The matrix, memory, atomic and synchronisation opcodes (08, 09 R228). -/
def formMemory (op : Nat) (o : OpA) : Option FormA :=
  let z := decide (o.imm = 0)
  let f (tys : List Ty) (fn imm : Bool) : Option FormA := some { tys := tys, fn := fn, imm := imm, pm := false }
  let scalarTys : List Ty := [.i64, .i32, .i16, .i8, .f32, .bf16, .f16, .kf8e, .kf8m, .pred]
  let lineTys : List Ty := [.i64, .i32, .i16, .i8, .f32, .bf16, .f16, .kf8e, .kf8m, .kf6, .kf4, .int4]
  let gatherTys : List Ty := [.i64, .i32, .f32, .i16, .bf16, .f16, .i8]
  let mods (sc u : Bool) : Bool := (!sc || o.ty.isFloat) && (!u || (o.ty.isInt && o.ty != .int4))
  let at2 (tys : List Ty) : Option FormA :=
    f tys (fnMask o 0x19 && !(o.ty.isFloat && o.bit 3)) (if o.i then (!o.ty.isFloat || decide (o.imm.toNat < 65536)) else z)
  match op with
  | 0x88 => f [.i64] (fnMask o 0) (decide (o.imm.toNat < 8))
  | 0x89 | 0x8A => f [.i8, .bf16, .f16, .kf8e, .kf8m, .kf6, .kf4, .int4] (fnMask o 0)
      (decide (o.imm.toNat < 32) && !(o.ty == .kf6 && o.imm.getLsbD 3))
  | 0x8B => f [.i64] (fnMask o 1) (decide (o.imm.toNat < 2 ^ 14 ∧ o.imm.toNat / 4 % 64 + o.imm.toNat / 256 + 1 ≤ 64))
  | 0x8C => f [.f32, .i32] (fnMask o 0) (decide (o.imm.toNat < 4))
  | 0x8D => f [.i64] (fnMask o 1) (decide (o.imm.toNat < 4))
  | 0x90 => f scalarTys (fnMask o 0xF && mods (o.bit 2) (o.bit 3)) true
  | 0x91 => f scalarTys (fnMask o 0) true
  | 0x92 => f lineTys (fnMask o 0xF && mods (o.bit 2) (o.bit 3)) true
  | 0x93 => f lineTys (fnMask o 0) true
  | 0x94 => f gatherTys (fnMask o 0xD && mods (o.bit 2) (o.bit 3)) z
  | 0x95 => f gatherTys (fnMask o 0) (decide (o.imm.toNat % 2 ^ 15 = 0 ∧ o.part < o.ty.lanes / 8))
  | 0x96 => f (if o.v then lineTys else scalarTys) (fnMask o 0x2C && mods (o.bit 2) (o.bit 3)) true
  | 0x97 => f (if o.v then lineTys else scalarTys) (fnMask o 0x20) true
  | 0x98 => f [.i64] (fnMask o 0) (decide (o.imm.toNat < 256))
  | 0x99 => f [.i64] (fnMask o 1) (decide (o.imm.toNat < 256 ∧ o.imm.toNat % 4 = 0))
  | 0x9A => f [.i64] (fnMask o 1) true
  | 0xA0 | 0xA2 | 0xA3 | 0xA4 | 0xA5 | 0xA6 => at2 [.i64, .i32]
  | 0xA1 => at2 [.f32, .bf16, .f16]
  | 0xA7 | 0xA8 => at2 [.i64, .i32, .f32]
  | 0xA9 => f [.i64] (fnMask o 0x11 && o.bit 0) (if o.i then decide (o.imm.toNat < 64) else z)
  | 0xAA => f [.i64] (fnMask o 1) (decide (1 ≤ o.imm.toNat ∧ o.imm.toNat ≤ 8))
  | 0xAB => f [.i64, .i32] (fnMask o 0x19 && o.bit 3) (o.i || z)
  | 0xB0 => f [.i64] (fnMask o 0) (decide (o.imm.toNat ≤ 5))
  | 0xB1 => f [.i64] (fnMask o 1) (decide (1 ≤ o.imm.toNat ∧ o.imm.toNat ≤ 5))
  | 0xB2 => f [.i64] (fnMask o 1) z
  | 0xB3 => f [.i64] (fnMask o 0) (decide (o.imm.toNat < 2 ^ 14 ∧ 1 ≤ o.imm.toNat / 64))
  | 0xB4 | 0xB5 => f [.i64] (fnMask o 0) z
  | 0xB8 | 0xB9 | 0xBA | 0xBB | 0xBC | 0xBD | 0xBE | 0xBF => f [.i64] (fnMask o 0) z
  | _ => none

/-- The access rights of a control and status register: what user and privileged blocks may do (18 R315, 19 R345, 20 R356, 21 R379, 23 R405).
0 nothing, 1 read, 2 read and write; none where the index is unassigned. -/
def csrRights (i : Nat) : Option (Nat × Nat) :=
  if i = 0 then some (2, 2)
  else if i = 3 then some (1, 2)
  else if i ≤ 4 ∨ (0x10 ≤ i ∧ i ≤ 0x13) then some (1, 1)
  else if 0x20 ≤ i ∧ i ≤ 0x22 then some (0, 1)
  else if i = 0x23 ∨ i = 0x101 ∨ i = 0x103 then some (0, 2)
  else if i = 0x100 ∨ i = 0x102 then some (0, 1)
  else if i = 0x180 ∨ i = 0x183 then some (1, 1)
  else if i = 0x181 ∨ i = 0x182 ∨ i = 0x184 ∨ i = 0x185 then some (0, 2)
  else if 0x200 ≤ i ∧ i ≤ 0x202 then some (0, 2)
  else if i = 0x203 then some (0, 1)
  else if 0x240 ≤ i ∧ i ≤ 0x27F then some (1, 1)
  else if i = 0x280 ∨ i = 0x281 then some (1, 1)
  else if i = 0x282 then some (0, 1)
  else none

/-- The loop, task and system opcodes (10 R244, 18 R324, 20 R362). -/
def formSystem (op : Nat) (o : OpA) : Option FormA :=
  let z := decide (o.imm = 0)
  let f (mask : Nat) (imm : Bool) (t : Bool := true) : Option FormA := some { tys := [.i64], fn := fnMask o mask, imm := imm, pm := false, t0 := t, t1 := t }
  match op with
  | 0xC0 | 0xC3 | 0xC4 | 0xC5 | 0xC8 | 0xCA | 0xCB | 0xCC | 0xCD | 0xCE => f 0 z
  | 0xC1 => some { tys := [.i64], fn := fnMask o 3 && !(o.bit 0 && o.bit 1), imm := z, pm := false }
  | 0xC2 => f 1 z
  | 0xC9 => f 0 (decide (o.imm.toNat < 64))
  | 0xCF => f 0 (decide (o.imm.toNat < 4096))
  | 0xD0 | 0xD1 | 0xDB => f 0 (decide (o.imm.toNat < 65536))
  | 0xD2 => f 0 ((csrRights o.imm.toNat).isSome)
  | 0xD3 => some { tys := [.i64], fn := fnMask o 3 && decide (o.sub < 3), imm := (csrRights o.imm.toNat).any (fun r => r.2 == 2), pm := false }
  | 0xD4 | 0xD6 | 0xD7 | 0xD8 | 0xD9 | 0xDC | 0xDD | 0xDF => f 0 z
  | 0xD5 => some { tys := [.i64], fn := fnMask o 3 && decide (o.sub < 3), imm := z, pm := false }
  | 0xDA => f 0 z false
  | 0xDE => f 1 z
  | _ => none

/-- The form of an opcode of Format A; none where the opcode is unassigned (05 R111 R113) or of another format. -/
def formA (op : Nat) (o : OpA) : Option FormA :=
  if op < 0x20 then formControl op o
  else if op < 0x40 then formInt op o
  else if op < 0x60 then formFloat op o
  else if op ≤ 0x80 then formLane op o
  else if op < 0xC0 then formMemory op o
  else if op < 0xE0 then formSystem op o
  else if op < 0x100 then some { tys := allTys, fn := true, imm := true, pm := true }
  else none

/-- E is allowed on these opcodes and types (03 R48 R49). -/
def earlyAllowed (op : Nat) (ty : Ty) : Bool :=
  match op with
  | 0x01 | 0x02 | 0x39 => ty != .tf
  | 0x2C | 0x2D => ty == .pred || ty == .i64 || ty == .i32 || ty == .i16 || ty == .i8
  | 0x26 | 0x2A | 0x2B => ty == .i64 || ty == .i32 || ty == .i16 || ty == .i8
  | _ => false

/-- The opcodes of 0x20 to 0x7F whose R slot is an operand when I is clear (07 R163 R183 R186 R188 R191). -/
def readsR (op : Nat) (o : OpA) : Bool :=
  match op with
  | 0x24 | 0x25 | 0x30 | 0x35 | 0x36 | 0x37 | 0x3A | 0x3B | 0x3F => false
  | 0x45 | 0x46 | 0x47 | 0x48 | 0x49 | 0x4A | 0x4D | 0x4E | 0x51 | 0x52 | 0x54 | 0x55 => false
  | 0x60 | 0x69 | 0x6A | 0x6B | 0x6C | 0x6D | 0x70 | 0x71 => false
  | 0x78 => o.sub == 2
  | 0x79 | 0x7A | 0x7C | 0x7D | 0x7F => false
  | _ => !o.i

/-- The flags of a word are allowed (03 R49, 05 R106). -/
def flagsOk (op : Nat) (ty : Ty) (pmOk : Bool) (readsROk : Bool) (fl : Flags) : Bool :=
  (fl.pm == .none || pmOk) &&
  (!fl.e || (earlyAllowed op ty && fl.pm == .none && !fl.k)) &&
  (!fl.k || (decide (0x20 ≤ op ∧ op < 0x80) && readsROk))

/-- A word of Format A is well-formed. -/
def wfA (op : Nat) (o : OpA) : Bool :=
  match formA op o with
  | none => false
  | some f =>
    f.tys.contains o.ty && f.fn && f.imm && flagsOk op o.ty f.pm (readsR op o) o.fl &&
    (f.t0 || o.t0 == .none) && (f.t1 || o.t1 == .none) && o.t0.ok && o.t1.ok

/-- A word of Format B, FANOUT, is well-formed (06 R128). -/
def wfB (o : OpB) : Bool :=
  o.fl.pm == .none && !o.fl.e && !o.fl.k && o.t0.ok && o.t1.ok && o.t2.ok && o.t3.ok

/-- A word of Format C is well-formed (06 R128 R142 R143). -/
def wfC (op : Nat) (o : OpC) : Bool :=
  !o.fl.e && !o.fl.k && o.t0.ok &&
  (match op with
   | 0x0C => o.ty != .pred && o.fl.pm == .none
   | 0x10 => o.ty == .i64 && o.t0 == .none && decide (o.imm.toNat < 2 ^ 27)
   | 0x11 => o.ty == .i64 && o.fl.pm == .none && decide (o.imm.toNat < 2 ^ 27)
   | 0x12 => o.ty == .i64 && o.t0 == .none
   | 0x13 => o.ty == .i64 && decide (o.imm.toNat < 2 ^ 27)
   | _ => false)

/-- The place exists (01 R9 R10, 02 R26 R27). -/
def Site.ok (e : Site) : Bool := decide (e.core < 96 ∧ e.tile < 16 ∧ e.bank < 4 ∧ e.idx < 128)

/-- The unit exists. -/
def MarkerUnit.ok : MarkerUnit → Bool
  | .elem e => e.ok
  | .bank b => decide (b < 6144)
  | .memoryTile lk c t | .node lk c t => decide (lk < 96 * 65536 ∧ c < 96 ∧ t < 16)
  | .corePort lk c => decide (lk < 96 * 65536 ∧ c < 96)

/-- A host access lies in one line. -/
def HostAccess.ok (a : HostAccess) : Bool := decide (1 ≤ a.size ∧ a.addr % 64 + a.size ≤ 64)

/-- The scrubbed line exists. -/
def ScrubUnit.ok : ScrubUnit → Bool
  | .memoryTile c t l => decide (c < 96 ∧ t < 16 ∧ l < 8192)
  | .slice a => decide (a % 64 = 0)

/-- How an instruction stands to the encoding: a word of one of the three formats under an opcode, or a step that has no word. -/
inductive Form where
  | a (op : Nat) (o : OpA)
  | b (o : OpB)
  | c (op : Nat) (o : OpC)
  | event (argumentsOk : Bool)
  deriving DecidableEq, Repr

/-- The form of every instruction (05 R111). -/
def Instr.form : Instr → Form
  | .steer o => .a 0x01 o
  | .merge o => .a 0x02 o
  | .carry o => .a 0x03 o
  | .invar o => .a 0x04 o
  | .fanout o => .b o
  | .drop o => .a 0x06 o
  | .ordf o => .a 0x07 o
  | .ordj o => .a 0x08 o
  | .gateCreditFiring o => .a 0x09 o
  | .gatePassFiring o => .a 0x09 o
  | .countLFiring o => .a 0x0A o
  | .countPFiring o => .a 0x0A o
  | .repeatCopies o => .a 0x0B o
  | .const o => .c 0x0C o
  | .exit o => .c 0x10 o
  | .exitp o => .c 0x11 o
  | .exitq o => .c 0x12 o
  | .spawn o => .c 0x13 o
  | .retire o => .a 0x14 o
  | .launch o => .a 0x15 o
  | .patch o => .a 0x16 o
  | .trig o => .a 0x17 o
  | .qpush o => .a 0x18 o
  | .qpop o => .a 0x19 o
  | .crd o => .a 0x1A o
  | .cwr o => .a 0x1B o
  | .rmark o => .a 0x1C o
  | .quiet o => .a 0x1D o
  | .quietEmit e => .event (e.ok)
  | .add o => .a 0x20 o
  | .sub o => .a 0x21 o
  | .adds o => .a 0x22 o
  | .subs o => .a 0x23 o
  | .neg o => .a 0x24 o
  | .abs o => .a 0x25 o
  | .mul o => .a 0x26 o
  | .mulh o => .a 0x27 o
  | .div o => .a 0x28 o
  | .rem o => .a 0x29 o
  | .min o => .a 0x2A o
  | .max o => .a 0x2B o
  | .and o => .a 0x2C o
  | .or o => .a 0x2D o
  | .xor o => .a 0x2E o
  | .andn o => .a 0x2F o
  | .not o => .a 0x30 o
  | .shl o => .a 0x31 o
  | .shr o => .a 0x32 o
  | .sar o => .a 0x33 o
  | .rotl o => .a 0x34 o
  | .clz o => .a 0x35 o
  | .ctz o => .a 0x36 o
  | .popc o => .a 0x37 o
  | .cmp o => .a 0x38 o
  | .sel o => .a 0x39 o
  | .trunc o => .a 0x3A o
  | .bfx o => .a 0x3B o
  | .bfi o => .a 0x3C o
  | .addr o => .a 0x3D o
  | .imad o => .a 0x3E o
  | .bswap o => .a 0x3F o
  | .fadd o => .a 0x40 o
  | .fsub o => .a 0x41 o
  | .fmul o => .a 0x42 o
  | .fma o => .a 0x43 o
  | .fdiv o => .a 0x44 o
  | .fsqrt o => .a 0x45 o
  | .frcp o => .a 0x46 o
  | .frsq o => .a 0x47 o
  | .fexp2 o => .a 0x48 o
  | .flog2 o => .a 0x49 o
  | .fexp o => .a 0x4A o
  | .fmin o => .a 0x4B o
  | .fmax o => .a 0x4C o
  | .fabs o => .a 0x4D o
  | .fneg o => .a 0x4E o
  | .fcpys o => .a 0x4F o
  | .fcmp o => .a 0x50 o
  | .fclass o => .a 0x51 o
  | .frint o => .a 0x52 o
  | .fscalb o => .a 0x53 o
  | .ftanh o => .a 0x54 o
  | .fsigm o => .a 0x55 o
  | .vbcast o => .a 0x60 o
  | .vextr o => .a 0x61 o
  | .vins o => .a 0x62 o
  | .vperm o => .a 0x63 o
  | .vshuf o => .a 0x64 o
  | .vrot o => .a 0x65 o
  | .vslide o => .a 0x66 o
  | .vzip o => .a 0x67 o
  | .vunzip o => .a 0x68 o
  | .vradd o => .a 0x69 o
  | .vrmin o => .a 0x6A o
  | .vrmax o => .a 0x6B o
  | .vrand o => .a 0x6C o
  | .vrior o => .a 0x6D o
  | .vcompr o => .a 0x6E o
  | .vexpnd o => .a 0x6F o
  | .vpcnt o => .a 0x70 o
  | .vmask o => .a 0x71 o
  | .cvt o => .a 0x78 o
  | .cvti o => .a 0x79 o
  | .scaleg o => .a 0x7A o
  | .scales o => .a 0x7B o
  | .fmtchk o => .a 0x7C o
  | .ufrd o => .a 0x7D o
  | .pack o => .a 0x7E o
  | .unpack o => .a 0x7F o
  | .rng o => .a 0x80 o
  | .mxldbHeaderFiring o => .a 0x88 o
  | .mxldbPayloadFiring o => .a 0x88 o
  | .mxrow o => .a 0x89 o
  | .mxrows o => .a 0x8A o
  | .mxdrain o => .a 0x8B o
  | .mxclr o => .a 0x8C o
  | .mxcfg o => .a 0x8D o
  | .ld o => .a 0x90 o
  | .st o => .a 0x91 o
  | .ldv o => .a 0x92 o
  | .stv o => .a 0x93 o
  | .gath o => .a 0x94 o
  | .scat o => .a 0x95 o
  | .mtld o => .a 0x96 o
  | .mtst o => .a 0x97 o
  | .strcfg o => .a 0x98 o
  | .strgo o => .a 0x99 o
  | .strgoWrite o => .a 0x99 o
  | .pref o => .a 0x9A o
  | .aadd o => .a 0xA0 o
  | .afadd o => .a 0xA1 o
  | .amin o => .a 0xA2 o
  | .amax o => .a 0xA3 o
  | .aand o => .a 0xA4 o
  | .aor o => .a 0xA5 o
  | .axor o => .a 0xA6 o
  | .axchg o => .a 0xA7 o
  | .acas o => .a 0xA8 o
  | .atas o => .a 0xA9 o
  | .atopk o => .a 0xAA o
  | .aincb o => .a 0xAB o
  | .atomicPerform _ => .event (true)
  | .memoryAccessServe _ => .event (true)
  | .fence o => .a 0xB0 o
  | .bar o => .a 0xB1 o
  | .barCopy o => .a 0xB1 o
  | .permitTake o => .a 0xB2 o
  | .permitGive o => .a 0xB2 o
  | .futreg o => .a 0xB3 o
  | .futres o => .a 0xB4 o
  | .futwait o => .a 0xB5 o
  | .xcopy o => .a 0xB8 o
  | .xfill o => .a 0xB9 o
  | .xgather o => .a 0xBA o
  | .xcoll o => .a 0xBB o
  | .engineCompletion _ => .event (true)
  | .rsplit o => .a 0xBC o
  | .rmerge o => .a 0xBD o
  | .rcompact o => .a 0xBE o
  | .biasflip o => .a 0xBF o
  | .rangeCommandComplete part => .event (part < 96)
  | .rloop o => .a 0xC0 o
  | .rsv o => .a 0xC1 o
  | .rsvDone o => .a 0xC1 o
  | .rchk o => .a 0xC2 o
  | .rcommit o => .a 0xC3 o
  | .rretry o => .a 0xC4 o
  | .rldone o => .a 0xC5 o
  | .reservePhaseClose core loop => .event (core < 96 && loop < 384)
  | .commitPhaseClose core loop => .event (core < 96 && loop < 4)
  | .btask o => .a 0xC8 o
  | .bop o => .a 0xC9 o
  | .bcommit o => .a 0xCA o
  | .babort o => .a 0xCB o
  | .bundo o => .a 0xCC o
  | .bstat o => .a 0xCD o
  | .ctload o => .a 0xCE o
  | .ctq o => .a 0xCF o
  | .ctabInstall part _ => .event (part < 96)
  | .svc o => .a 0xD0 o
  | .brk o => .a 0xD1 o
  | .csrr o => .a 0xD2 o
  | .csrw o => .a 0xD3 o
  | .tfetch o => .a 0xD4 o
  | .reinj o => .a 0xD5 o
  | .tkill o => .a 0xD6 o
  | .ctxsave o => .a 0xD7 o
  | .ctxload o => .a 0xD8 o
  | .shrink o => .a 0xD9 o
  | .halt o => .a 0xDA o
  | .idle o => .a 0xDB o
  | .rttw o => .a 0xDC o
  | .rttr o => .a 0xDD o
  | .rinv o => .a 0xDE o
  | .rfence o => .a 0xDF o
  | .extensionOpcode i o => .a (0xE0 + i.toNat) o
  | .resultEmit e => .event (e.ok)
  | .tokenHop bank _ _ => .event (bank < 6144)
  | .antiTokenHop bank _ => .event (bank < 6144)
  | .cancelledFiring e => .event (e.ok)
  | .markerInject lk core => .event (lk < 96 * 65536 && core < 96)
  | .markerForward u => .event (u.ok)
  | .unitApply lk core slice => .event (lk < 96 * 65536 && core < 96 && slice < 256)
  | .remoteUnitApply peer core => .event (1 ≤ peer && peer < 256 && core < 96)
  | .entryReaderPop bank => .event (bank < 6144)
  | .scarabDecide core tile => .event (core < 96 && tile < 16)
  | .loadClose lk => .event (lk < 96 * 65536)
  | .reconfigToken lk core => .event (lk < 96 * 65536 && core < 96)
  | .graphRetire lk => .event (lk < 96 * 65536)
  | .decide part => .event (part < 96)
  | .shrinkCut lk => .event (lk < 96 * 65536)
  | .faultRecordEnqueue core => .event (core < 96)
  | .rangeWalk core => .event (core < 96)
  | .traceModeOff part => .event (part < 96)
  | .traceModeRecord part => .event (part < 96)
  | .traceModeBind part => .event (part < 96)
  | .rndPeriodWrite lk _ => .event (lk < 96 * 65536)
  | .exactModeSet part => .event (part < 96)
  | .directoryLock part => .event (part < 96)
  | .rdirCntWrite part _ => .event (part < 96)
  | .registerWrite part index _ => .event (part < 96 && index < 4096)
  | .partCores c => .event (c.words.length == 8)
  | .partMem c => .event (c.words.length == 8)
  | .partClr c => .event (c.words.length == 8)
  | .partReg c => .event (c.words.length == 8)
  | .hndStart c => .event (c.words.length == 8)
  | .dmaWin c => .event (c.words.length == 8)
  | .peerSet c => .event (c.words.length == 8)
  | .grpSet c => .event (c.words.length == 8)
  | .fenceClr c => .event (c.words.length == 8)
  | .resume c => .event (c.words.length == 8)
  | .dieReset c => .event (c.words.length == 8)
  | .dieWritebackDone die => .event (die < 4)
  | .dieRetrainStart die => .event (die < 4)
  | .dieRetrainDone die => .event (die < 4)
  | .errorReply _ => .event (true)
  | .vfBind c => .event (c.words.length == 8)
  | .rateSet c => .event (c.words.length == 8)
  | .hostHalt c => .event (c.words.length == 8)
  | .bootVerifyDone => .event (true)
  | .engineWriteStage _ => .event (true)
  | .hostCxlReply _ => .event (true)
  | .residueMismatch core tile => .event (core < 96 && tile < 16)
  | .hostCxlAccess a => .event (a.ok)
  | .contextParityError e _ => .event (e.ok)
  | .timingErrorDetect e _ => .event (e.ok)
  | .marginTrimStep core step => .event (core < 96 && step < 8)
  | .debugSetBreakpoint e _ _ => .event (e.ok)
  | .vfLaunchDoorbell vf queue _ => .event (vf < 384 && queue < 64)
  | .bootGo _ => .event (true)
  | .coldBoot => .event (true)
  | .getMeasurements => .event (true)
  | .flitReceive port flit => .event (port < 16 && flit.words.length == 32)
  | .flitReplay port => .event (port < 16)
  | .thermalClamp _ => .event (true)
  | .mgmtCoreReset => .event (true)
  | .patrolScrub u => .event (u.ok)

/-- The split rows of one opcode: the word fixes by an fn bit which of two rows it is (08 R206 R217 R218, 10 R244). -/
def fnSplitOk : Instr → Bool
  | .strgo o | .bar o | .permitTake o => !o.bit 0
  | .strgoWrite o | .barCopy o | .permitGive o => o.bit 0
  | .rsv o => !o.bit 1
  | .rsvDone o => o.bit 1
  | _ => true

/-- An instruction is well-formed: its word passes the checks of step 9 that the word decides alone, or its arguments name places that exist. -/
def Instr.wf (i : Instr) : Bool :=
  (match i.form with
   | .a op o => wfA op o
   | .b o => wfB o
   | .c op o => wfC op o
   | .event ok => ok) && fnSplitOk i

end Sys2Proof
end

