-- ==== Sys2Proof/Decode.lean ====
section
/-! DEFINITION. The decoder of instruction words, total on any bytes and rejecting by name, and the encoder (05 R104-R114). -/

namespace Sys2Proof

/-- Why a word is no instruction (05 R105-R114): each is a block-load fault at step 9 of R115. -/
inductive DecodeError where
  /-- fewer than eight bytes -/
  | truncated
  /-- an unassigned opcode (R113) -/
  | opcode
  /-- type field 0xE or 0xF (R108) -/
  | reservedType
  /-- PM = 0b11 or the reserved flag bit (R106) -/
  | reservedFlags
  /-- a target outside the table of R107 -/
  | target
  /-- nonzero spare bits of Format B (R105) -/
  | spare
  /-- a field the instruction's description does not allow (R106, R108-R110) -/
  | field
  deriving DecidableEq, Repr

/-- The type of a code (05 R108). -/
def Ty.ofCode (n : BitVec 4) : Option Ty :=
  match n.toNat with
  | 0 => some .i64 | 1 => some .i32 | 2 => some .i16 | 3 => some .i8 | 4 => some .f32 | 5 => some .bf16 | 6 => some .f16 | 7 => some .kf8e
  | 8 => some .kf8m | 9 => some .kf6 | 10 => some .kf4 | 11 => some .int4 | 12 => some .pred | 13 => some .tf | _ => none

/-- The type field. -/
def Ty.enc (t : Ty) : BitVec 4 := BitVec.ofNat 4 t.code

/-- The flags of a field (05 R106). -/
def Flags.ofBits (b : BitVec 6) : Option Flags :=
  if b.getLsbD 0 then none
  else
    let e := b.getLsbD 5
    let bk := b.getLsbD 4
    let k := b.getLsbD 1
    match b.getLsbD 3, b.getLsbD 2 with
    | false, false => some { e := e, b := bk, pm := .none, k := k }
    | false, true => some { e := e, b := bk, pm := .onTrue, k := k }
    | true, false => some { e := e, b := bk, pm := .onFalse, k := k }
    | true, true => none

/-- The flags field. -/
def Flags.enc (f : Flags) : BitVec 6 :=
  let pm : BitVec 2 := match f.pm with
    | .none => 0
    | .onTrue => 1
    | .onFalse => 2
  BitVec.ofBool f.e ++ BitVec.ofBool f.b ++ pm ++ BitVec.ofBool f.k ++ (0 : BitVec 1)

/-- The target of a field (05 R107). -/
def Target.ofBits (b : BitVec 11) : Option Target :=
  let kind := b.extractLsb' 9 2
  let index := b.extractLsb' 2 7
  let slot := b.extractLsb' 0 2
  if kind = 0 then (if b = 0 then some .none else Option.none)
  else if kind = 1 then
    (if slot = 0 then some (.slot index .l) else if slot = 1 then some (.slot index .r) else if slot = 2 then some (.slot index .p) else Option.none)
  else if kind = 2 then (if slot = 0 ∧ index.toNat < 16 then some (.port (index.setWidth 4)) else Option.none)
  else (if slot = 0 ∧ index.toNat < 24 then some (.creg (index.setWidth 5)) else Option.none)

/-- The target field. -/
def Target.enc : Target → BitVec 11
  | .none => 0
  | .slot i s =>
    let n : BitVec 2 := match s with
      | .l => 0
      | .r => 1
      | .p => 2
    (1 : BitVec 2) ++ i ++ n
  | .port p => (2 : BitVec 2) ++ p.setWidth 7 ++ (0 : BitVec 2)
  | .creg i => (3 : BitVec 2) ++ i.setWidth 7 ++ (0 : BitVec 2)

/-- The instruction of an opcode of Format A with its fields (05 R111). The word alone does not tell the two firings of GATE, COUNT and MXLDB
apart: it decodes to the pass firing, the L firing and the header firing, and the state chooses at each firing. -/
def ofOpcodeA (op : Nat) (o : OpA) : Option Instr :=
  match op with
  | 0x01 => some (.steer o)
  | 0x02 => some (.merge o)
  | 0x03 => some (.carry o)
  | 0x04 => some (.invar o)
  | 0x06 => some (.drop o)
  | 0x07 => some (.ordf o)
  | 0x08 => some (.ordj o)
  | 0x09 => some (.gatePassFiring o)
  | 0x0A => some (.countLFiring o)
  | 0x0B => some (.repeatCopies o)
  | 0x14 => some (.retire o)
  | 0x15 => some (.launch o)
  | 0x16 => some (.patch o)
  | 0x17 => some (.trig o)
  | 0x18 => some (.qpush o)
  | 0x19 => some (.qpop o)
  | 0x1A => some (.crd o)
  | 0x1B => some (.cwr o)
  | 0x1C => some (.rmark o)
  | 0x1D => some (.quiet o)
  | 0x20 => some (.add o)
  | 0x21 => some (.sub o)
  | 0x22 => some (.adds o)
  | 0x23 => some (.subs o)
  | 0x24 => some (.neg o)
  | 0x25 => some (.abs o)
  | 0x26 => some (.mul o)
  | 0x27 => some (.mulh o)
  | 0x28 => some (.div o)
  | 0x29 => some (.rem o)
  | 0x2A => some (.min o)
  | 0x2B => some (.max o)
  | 0x2C => some (.and o)
  | 0x2D => some (.or o)
  | 0x2E => some (.xor o)
  | 0x2F => some (.andn o)
  | 0x30 => some (.not o)
  | 0x31 => some (.shl o)
  | 0x32 => some (.shr o)
  | 0x33 => some (.sar o)
  | 0x34 => some (.rotl o)
  | 0x35 => some (.clz o)
  | 0x36 => some (.ctz o)
  | 0x37 => some (.popc o)
  | 0x38 => some (.cmp o)
  | 0x39 => some (.sel o)
  | 0x3A => some (.trunc o)
  | 0x3B => some (.bfx o)
  | 0x3C => some (.bfi o)
  | 0x3D => some (.addr o)
  | 0x3E => some (.imad o)
  | 0x3F => some (.bswap o)
  | 0x40 => some (.fadd o)
  | 0x41 => some (.fsub o)
  | 0x42 => some (.fmul o)
  | 0x43 => some (.fma o)
  | 0x44 => some (.fdiv o)
  | 0x45 => some (.fsqrt o)
  | 0x46 => some (.frcp o)
  | 0x47 => some (.frsq o)
  | 0x48 => some (.fexp2 o)
  | 0x49 => some (.flog2 o)
  | 0x4A => some (.fexp o)
  | 0x4B => some (.fmin o)
  | 0x4C => some (.fmax o)
  | 0x4D => some (.fabs o)
  | 0x4E => some (.fneg o)
  | 0x4F => some (.fcpys o)
  | 0x50 => some (.fcmp o)
  | 0x51 => some (.fclass o)
  | 0x52 => some (.frint o)
  | 0x53 => some (.fscalb o)
  | 0x54 => some (.ftanh o)
  | 0x55 => some (.fsigm o)
  | 0x60 => some (.vbcast o)
  | 0x61 => some (.vextr o)
  | 0x62 => some (.vins o)
  | 0x63 => some (.vperm o)
  | 0x64 => some (.vshuf o)
  | 0x65 => some (.vrot o)
  | 0x66 => some (.vslide o)
  | 0x67 => some (.vzip o)
  | 0x68 => some (.vunzip o)
  | 0x69 => some (.vradd o)
  | 0x6A => some (.vrmin o)
  | 0x6B => some (.vrmax o)
  | 0x6C => some (.vrand o)
  | 0x6D => some (.vrior o)
  | 0x6E => some (.vcompr o)
  | 0x6F => some (.vexpnd o)
  | 0x70 => some (.vpcnt o)
  | 0x71 => some (.vmask o)
  | 0x78 => some (.cvt o)
  | 0x79 => some (.cvti o)
  | 0x7A => some (.scaleg o)
  | 0x7B => some (.scales o)
  | 0x7C => some (.fmtchk o)
  | 0x7D => some (.ufrd o)
  | 0x7E => some (.pack o)
  | 0x7F => some (.unpack o)
  | 0x80 => some (.rng o)
  | 0x88 => some (.mxldbHeaderFiring o)
  | 0x89 => some (.mxrow o)
  | 0x8A => some (.mxrows o)
  | 0x8B => some (.mxdrain o)
  | 0x8C => some (.mxclr o)
  | 0x8D => some (.mxcfg o)
  | 0x90 => some (.ld o)
  | 0x91 => some (.st o)
  | 0x92 => some (.ldv o)
  | 0x93 => some (.stv o)
  | 0x94 => some (.gath o)
  | 0x95 => some (.scat o)
  | 0x96 => some (.mtld o)
  | 0x97 => some (.mtst o)
  | 0x98 => some (.strcfg o)
  | 0x99 => some (if o.bit 0 then .strgoWrite o else .strgo o)
  | 0x9A => some (.pref o)
  | 0xA0 => some (.aadd o)
  | 0xA1 => some (.afadd o)
  | 0xA2 => some (.amin o)
  | 0xA3 => some (.amax o)
  | 0xA4 => some (.aand o)
  | 0xA5 => some (.aor o)
  | 0xA6 => some (.axor o)
  | 0xA7 => some (.axchg o)
  | 0xA8 => some (.acas o)
  | 0xA9 => some (.atas o)
  | 0xAA => some (.atopk o)
  | 0xAB => some (.aincb o)
  | 0xB0 => some (.fence o)
  | 0xB1 => some (if o.bit 0 then .barCopy o else .bar o)
  | 0xB2 => some (if o.bit 0 then .permitGive o else .permitTake o)
  | 0xB3 => some (.futreg o)
  | 0xB4 => some (.futres o)
  | 0xB5 => some (.futwait o)
  | 0xB8 => some (.xcopy o)
  | 0xB9 => some (.xfill o)
  | 0xBA => some (.xgather o)
  | 0xBB => some (.xcoll o)
  | 0xBC => some (.rsplit o)
  | 0xBD => some (.rmerge o)
  | 0xBE => some (.rcompact o)
  | 0xBF => some (.biasflip o)
  | 0xC0 => some (.rloop o)
  | 0xC1 => some (if o.bit 1 then .rsvDone o else .rsv o)
  | 0xC2 => some (.rchk o)
  | 0xC3 => some (.rcommit o)
  | 0xC4 => some (.rretry o)
  | 0xC5 => some (.rldone o)
  | 0xC8 => some (.btask o)
  | 0xC9 => some (.bop o)
  | 0xCA => some (.bcommit o)
  | 0xCB => some (.babort o)
  | 0xCC => some (.bundo o)
  | 0xCD => some (.bstat o)
  | 0xCE => some (.ctload o)
  | 0xCF => some (.ctq o)
  | 0xD0 => some (.svc o)
  | 0xD1 => some (.brk o)
  | 0xD2 => some (.csrr o)
  | 0xD3 => some (.csrw o)
  | 0xD4 => some (.tfetch o)
  | 0xD5 => some (.reinj o)
  | 0xD6 => some (.tkill o)
  | 0xD7 => some (.ctxsave o)
  | 0xD8 => some (.ctxload o)
  | 0xD9 => some (.shrink o)
  | 0xDA => some (.halt o)
  | 0xDB => some (.idle o)
  | 0xDC => some (.rttw o)
  | 0xDD => some (.rttr o)
  | 0xDE => some (.rinv o)
  | 0xDF => some (.rfence o)
  | _ => if 0xE0 ≤ op ∧ op < 0x100 then some (.extensionOpcode (BitVec.ofNat 5 (op - 0xE0)) o) else none

/-- The instruction of an opcode of Format C with its fields (05 R111 R112). -/
def ofOpcodeC (op : Nat) (o : OpC) : Option Instr :=
  match op with
  | 0x0C => some (.const o)
  | 0x10 => some (.exit o)
  | 0x11 => some (.exitp o)
  | 0x12 => some (.exitq o)
  | 0x13 => some (.spawn o)
  | _ => none

/-- Opcodes of Format C (05 R112). -/
def isFormatC (op : Nat) : Bool := op == 0x0C || op == 0x10 || op == 0x11 || op == 0x12 || op == 0x13

/-- The operand fields of Format A. -/
def fieldsA (w : Word64) : Except DecodeError OpA :=
  match Ty.ofCode (w.extractLsb' 46 4), Flags.ofBits (w.extractLsb' 40 6), Target.ofBits (w.extractLsb' 29 11), Target.ofBits (w.extractLsb' 18 11) with
  | none, _, _, _ => .error .reservedType
  | some _, none, _, _ => .error .reservedFlags
  | some ty, some fl, some t0, some t1 =>
    .ok { fn := w.extractLsb' 50 6, ty := ty, fl := fl, t0 := t0, t1 := t1, imm := w.extractLsb' 0 18 }
  | some _, some _, _, _ => .error .target

/-- The operand fields of Format B. -/
def fieldsB (w : Word64) : Except DecodeError OpB :=
  match Flags.ofBits (w.extractLsb' 50 6), Target.ofBits (w.extractLsb' 39 11), Target.ofBits (w.extractLsb' 28 11), Target.ofBits (w.extractLsb' 17 11),
    Target.ofBits (w.extractLsb' 6 11) with
  | none, _, _, _, _ => .error .reservedFlags
  | some fl, some t0, some t1, some t2, some t3 =>
    if w.extractLsb' 0 6 = 0 then .ok { fl := fl, t0 := t0, t1 := t1, t2 := t2, t3 := t3 } else .error .spare
  | some _, _, _, _, _ => .error .target

/-- The operand fields of Format C. -/
def fieldsC (w : Word64) : Except DecodeError OpC :=
  match Ty.ofCode (w.extractLsb' 46 4), Flags.ofBits (w.extractLsb' 40 6), Target.ofBits (w.extractLsb' 29 11) with
  | none, _, _ => .error .reservedType
  | some _, none, _ => .error .reservedFlags
  | some ty, some fl, some t0 => .ok { ty := ty, fl := fl, t0 := t0, imm := w.extractLsb' 50 6 ++ w.extractLsb' 0 29 }
  | some _, some _, none => .error .target

/-- Accept a well-formed instruction. -/
def accept (i : Option Instr) : Except DecodeError Instr :=
  match i with
  | none => .error .opcode
  | some i => if i.wf then .ok i else .error .field

/-- The instruction of a word. -/
def decodeWord (w : Word64) : Except DecodeError Instr :=
  let op := (w.extractLsb' 56 8).toNat
  if op = 0x05 then
    match fieldsB w with
    | .error e => .error e
    | .ok o => accept (some (.fanout o))
  else if isFormatC op then
    match fieldsC w with
    | .error e => .error e
    | .ok o => accept (ofOpcodeC op o)
  else if (ofOpcodeA op {}).isNone then .error .opcode
  else
    match fieldsA w with
    | .error e => .error e
    | .ok o => accept (ofOpcodeA op o)

/-- Eight bytes in memory order, least significant first (00 R3). -/
def wordOfBytes (b0 b1 b2 b3 b4 b5 b6 b7 : Byte) : Word64 := b7 ++ b6 ++ b5 ++ b4 ++ b3 ++ b2 ++ b1 ++ b0

/-- The bytes of a word in memory order (00 R3). -/
def bytesOfWord (w : Word64) : List Byte :=
  [w.extractLsb' 0 8, w.extractLsb' 8 8, w.extractLsb' 16 8, w.extractLsb' 24 8, w.extractLsb' 32 8, w.extractLsb' 40 8, w.extractLsb' 48 8, w.extractLsb' 56 8]

/-- Decoding, total on any bytes: the instruction at the head and the bytes after it. -/
def decode : List Byte → Except DecodeError (Instr × List Byte)
  | b0 :: b1 :: b2 :: b3 :: b4 :: b5 :: b6 :: b7 :: rest =>
    match decodeWord (wordOfBytes b0 b1 b2 b3 b4 b5 b6 b7) with
    | .ok i => .ok (i, rest)
    | .error e => .error e
  | _ => .error .truncated

/-- The word of Format A. -/
def encodeA (op : Nat) (o : OpA) : Word64 := BitVec.ofNat 8 op ++ o.fn ++ o.ty.enc ++ o.fl.enc ++ o.t0.enc ++ o.t1.enc ++ o.imm

/-- The word of Format B. -/
def encodeB (o : OpB) : Word64 := (0x05 : BitVec 8) ++ o.fl.enc ++ o.t0.enc ++ o.t1.enc ++ o.t2.enc ++ o.t3.enc ++ (0 : BitVec 6)

/-- The word of Format C. -/
def encodeC (op : Nat) (o : OpC) : Word64 :=
  BitVec.ofNat 8 op ++ o.imm.extractLsb' 29 6 ++ o.ty.enc ++ o.fl.enc ++ o.t0.enc ++ o.imm.extractLsb' 0 29

/-- The word of an instruction; none for a step that has no word. -/
def encode (i : Instr) : Option Word64 :=
  match i.form with
  | .a op o => some (encodeA op o)
  | .b o => some (encodeB o)
  | .c op o => some (encodeC op o)
  | .event _ => none

/-- The targets of an instruction, by number (05 R107 R120). -/
def Instr.targets (i : Instr) : List Target :=
  match i.form with
  | .a _ o => [o.t0, o.t1]
  | .b o => [o.t0, o.t1, o.t2, o.t3]
  | .c _ o => [o.t0]
  | .event _ => []

/-- The row a word decodes to, for the rows that share their words (06 R136 R138, 09 R229). -/
def Instr.canon : Instr → Instr
  | .gateCreditFiring o => .gatePassFiring o
  | .countPFiring o => .countLFiring o
  | .mxldbPayloadFiring o => .mxldbHeaderFiring o
  | i => i

/-- The instruction the decoder reads from nbits bits of w, numbered from the least significant bit of the first byte. -/
def decodeTableWord (nbits w : Nat) : Option Instr :=
  match decode (bytesOfWord (BitVec.ofNat 64 (w % 2 ^ nbits))) with
  | .ok (i, _) => some i
  | .error _ => none

end Sys2Proof
end

