-- ==== Sys2Proof/Config.lean ====
section
/-! DEFINITION. What one implementation fixes (01 R18, 18 R319) and the free values: opaque constants, which no proof can evaluate. -/

namespace Sys2Proof.Config

/-- Cores of the package (01 R9). -/
def cores : Nat := 96
/-- Etzen dies (01 R7). -/
def dies : Nat := 4
/-- FEAT0 (18 R319). -/
def feat0 : Nat := 0x9604 * 2 ^ 48 + 0x60 * 2 ^ 32 + 0x60 * 2 ^ 24 + 0x04 * 2 ^ 16 + 1
/-- FEAT1: no extension opcode is implemented (18 R319). -/
def feat1 : Nat := 0
/-- FEAT2: margin trim, Tilhorn Link and CXL are present (18 R319). -/
def feat2 : Nat := 7
/-- FEAT3 (18 R319). -/
def feat3 : Nat := 0
/-- The feature level (18 R319). -/
def flevel : Nat := 1

/-- FREE VALUE, log 4: the hash of the address bits above bit 5 that chooses the slice (01 R15). -/
opaque sliceHash : Nat → Nat
/-- FREE VALUE, log 5: the latency of a typical path, above its unloaded figure, read at a counter of the state (01 R18). -/
opaque extraLatency : Nat → Nat
/-- FREE VALUE, log 6: whether a line is present in a fetch cache when a plain load reads it, at a counter of the state (08 R202, 12 R274). -/
opaque fetchCacheHit : Nat → Bool
/-- Lines that a core's fetch cache holds (01 R14): 2 MiB. -/
def fetchLines : Nat := 32768
/-- FREE VALUE, log 6: the line that a full fetch cache gives up for a new one, at a counter of the state. -/
opaque fetchVictim : Nat → Nat
/-- FREE VALUE, log 7: whether TRIG releases at the commit of its own round rather than once round t - 1 is home (06 R158), by launch key. -/
opaque trigLate : Nat → Bool
/-- FREE VALUE, log 7: the fc, up to 16, after an RMARK at which the requested marker is injected (06 R159), at a counter of the state. -/
opaque rmarkDelay : Nat → Nat
/-- FREE VALUE, log 14: whether the signature of the boot image verifies (23 R415), as a function of the image. -/
opaque signatureOk : List (Nat × BitVec 8) → Nat → Bool
/-- FREE VALUE, log 14: whether the certificate's public key equals the key derived from the PUF (23 R416). -/
opaque certificateOk : List (Nat × BitVec 8) → Nat → Bool
/-- FREE VALUE, log 14: whether the configuration record is within the clamps of R414 (23 R415). -/
opaque configRecordOk : List (Nat × BitVec 8) → Nat → Bool
/-- FREE VALUE, log 14: the SHA-512 digests of the ROM, the image and the configuration record (23 R417). -/
opaque digest : Nat → List (Nat × BitVec 8) → Nat → BitVec 512
/-- FREE VALUE, log 14: the alias key derived at boot (23 R416). -/
opaque aliasKey : List (Nat × BitVec 8) → Nat → BitVec 512
/-- FREE VALUE, log 14: a signature under the alias key (23 R417). -/
opaque sign : BitVec 512 → List (BitVec 512) → BitVec 512
/-- FREE VALUE, log 12: the bytes of the shrink save area that the context records and the tile images do not fill (21 R389). -/
opaque saveAreaByte : Nat → BitVec 8
/-- FREE VALUE, log 13: byte i of the SEND extent of a rank's k-th collective on a group (09 R242): a peer supplies it. -/
opaque peerSend : Nat → Nat → Nat → Nat → BitVec 8
/-- FREE VALUE, log 13: whether the RECVs of a group's k-th collective have committed at its other members (09 R242), at a counter of the state. -/
opaque peersCommitted : Nat → Nat → Nat → Bool
/-- FREE VALUE, log 13: whether a rank's k-th collective on a group agrees with this package's in COP, ROP, DT, COUNT and ROOT (09 R242). -/
opaque peerMatches : Nat → Nat → Nat → Bool
/-- FREE VALUE, log 74: the remote unit that a flit carries, as its source core and the bytes it writes (13 R288, 23 R411). -/
opaque flitUnit : List (BitVec 64) → Option (Nat × List (Nat × BitVec 8))

end Sys2Proof.Config
end

