-- ==== Sys2Proof/Machine/Num.lean ====
section
/-! DEFINITION. The number formats, exact values, ENCODE, and the value of every arithmetic operation on one lane (04 R74-R95, 07 R170-R182).
A code is a natural number below 2^width. An exact value is a dyadic, or a dyadic with a sticky part that stands for an irrational remainder. -/

namespace Sys2Proof

/-! ### Bit fields -/

/-- Bits lo upward, n of them. -/
def bitsAt (w lo n : Nat) : Nat := w >>> lo % 2 ^ n

/-- Bit k. -/
def bitAt (w k : Nat) : Bool := w.testBit k

/-- Two's complement reading of the low w bits. -/
def toSigned (w c : Nat) : Int := if c % 2 ^ w < 2 ^ (w - 1) then (c % 2 ^ w : Nat) else ((c % 2 ^ w : Nat) : Int) - (2 ^ w : Nat)

/-- The low w bits of an integer. -/
def ofInt (w : Nat) (x : Int) : Nat := (x % (2 ^ w : Nat)).toNat

/-- Floor of the binary logarithm of a positive number. -/
def lg (n : Nat) : Nat := n.log2

/-! ### Formats -/

/-- The formats of R70 that have values. -/
inductive Fmt where
  | i64 | i32 | i16 | i8 | z64 | z32 | z16 | z8 | int4 | f32 | bf16 | f16 | kf8e | kf8m | kf6 | kf4 | pred
  deriving DecidableEq, Repr

/-- The tag of a format (04 R70). -/
def Fmt.tag : Fmt → Nat
  | .i64 => 1 | .i32 => 2 | .i16 => 3 | .i8 => 4 | .z64 => 5 | .z32 => 6 | .z16 => 7 | .z8 => 8 | .int4 => 9
  | .f32 => 0x10 | .bf16 => 0x11 | .f16 => 0x12 | .kf8e => 0x13 | .kf8m => 0x14 | .kf6 => 0x15 | .kf4 => 0x16 | .pred => 0x20

/-- The format of a tag; none for order tokens, thread tokens and reserved tags (04 R70). -/
def Fmt.ofTag (t : Nat) : Option Fmt :=
  match t with
  | 1 => some .i64 | 2 => some .i32 | 3 => some .i16 | 4 => some .i8 | 5 => some .z64 | 6 => some .z32 | 7 => some .z16 | 8 => some .z8 | 9 => some .int4
  | 0x10 => some .f32 | 0x11 => some .bf16 | 0x12 => some .f16 | 0x13 => some .kf8e | 0x14 => some .kf8m | 0x15 => some .kf6 | 0x16 => some .kf4
  | 0x20 => some .pred | _ => none

/-- The type field that accepts a format (04 R70). -/
def Fmt.ty : Fmt → Ty
  | .i64 | .z64 => .i64 | .i32 | .z32 => .i32 | .i16 | .z16 => .i16 | .i8 | .z8 => .i8 | .int4 => .int4
  | .f32 => .f32 | .bf16 => .bf16 | .f16 => .f16 | .kf8e => .kf8e | .kf8m => .kf8m | .kf6 => .kf6 | .kf4 => .kf4 | .pred => .pred

/-- Bits per lane (04 R75). -/
def Fmt.width (f : Fmt) : Nat := f.ty.width
/-- Lanes of a vector (04 R75). -/
def Fmt.lanes (f : Fmt) : Nat := f.ty.lanes

/-- A signed integer format. -/
def Fmt.signed : Fmt → Bool
  | .i64 | .i32 | .i16 | .i8 | .int4 => true
  | .z64 | .z32 | .z16 | .z8 | .f32 | .bf16 | .f16 | .kf8e | .kf8m | .kf6 | .kf4 | .pred => false
/-- An integer format. -/
def Fmt.isInt (f : Fmt) : Bool := f.ty.isInt
/-- A floating-point format. -/
def Fmt.isFloat (f : Fmt) : Bool := f.ty.isFloat

/-- The format a type field with its unsigned bit names; none under tag-following. -/
def fmtOf (ty : Ty) (u : Bool) : Option Fmt :=
  match ty with
  | .i64 => some (if u then .z64 else .i64)
  | .i32 => some (if u then .z32 else .i32)
  | .i16 => some (if u then .z16 else .i16)
  | .i8 => some (if u then .z8 else .i8)
  | .int4 => some .int4 | .f32 => some .f32 | .bf16 => some .bf16 | .f16 => some .f16 | .kf8e => some .kf8e | .kf8m => some .kf8m
  | .kf6 => some .kf6 | .kf4 => some .kf4 | .pred => some .pred | .tf => none

/-- The numeric flags (04 R83) as bits of NUMF. -/
def flagNV : Nat := 1
def flagOF : Nat := 2
def flagUF : Nat := 4
def flagNX : Nat := 8
def flagDZ : Nat := 16

/-! ### Exact values -/

/-- An exact value: not a number, an infinity, or (-1)^neg × m × 2^e. With sticky set the magnitude lies strictly between m × 2^e and
(m + 1) × 2^e. -/
inductive Exact where
  | nan
  | inf (neg : Bool)
  | fin (neg : Bool) (m : Nat) (e : Int) (sticky : Bool)
  deriving DecidableEq, Repr

/-- The parameters of a floating-point format (04 R77-R81 R85): mantissa bits, exponent bits, smallest normal exponent, largest exponent,
the largest significand at the largest exponent, has infinities, has a NaN, the canonical NaN. -/
structure FloatParams where
  mb : Nat
  eb : Nat
  emin : Int
  emax : Int
  maxSig : Nat
  hasInf : Bool
  hasNan : Bool
  nan : Nat
  deriving DecidableEq, Repr

/-- The table of R85; the integer formats and pred have none and never ask. -/
def Fmt.params : Fmt → FloatParams
  | .f32 => ⟨23, 8, -126, 127, 2 ^ 24 - 1, true, true, 0x7FC00000⟩
  | .f16 => ⟨10, 5, -14, 15, 2 ^ 11 - 1, true, true, 0x7E00⟩
  | .bf16 => ⟨7, 8, -126, 127, 2 ^ 8 - 1, true, true, 0x7FC0⟩
  | .kf8e => ⟨3, 4, -6, 8, 14, false, true, 0x7F⟩
  | .kf8m => ⟨2, 5, -14, 15, 7, true, true, 0x7E⟩
  | .kf6 => ⟨2, 3, -2, 4, 7, false, false, 0⟩
  | .kf4 => ⟨1, 2, 0, 2, 3, false, false, 0⟩
  | .i64 | .i32 | .i16 | .i8 | .z64 | .z32 | .z16 | .z8 | .int4 | .pred => ⟨23, 8, -126, 127, 2 ^ 24 - 1, true, true, 0x7FC00000⟩

/-- The code value of a floating-point code and the flags reading it sets: NV for a signalling NaN and for a reserved code (04 R77-R82). -/
def codeValue (f : Fmt) (c : Nat) : Exact × Nat :=
  let p := f.params
  let neg := bitAt c (p.mb + p.eb)
  let ex := bitsAt c p.mb p.eb
  let mant := c % 2 ^ p.mb
  let top := 2 ^ p.eb - 1
  let finite : Exact := if ex = 0 then .fin neg mant (p.emin - p.mb) false else .fin neg (2 ^ p.mb + mant) (p.emin - p.mb + (ex - 1 : Nat)) false
  match f with
  | .f32 | .bf16 | .f16 =>
    if ex = top then
      (if mant = 0 then (.inf neg, 0) else (.nan, if bitAt mant (p.mb - 1) then 0 else flagNV))
    else (finite, 0)
  | .kf8e => if c % 128 = 127 then (.nan, if neg then flagNV else 0) else (finite, 0)
  | .kf8m => if ex = top then (if mant = 0 then (.inf neg, 0) else (.nan, if c % 256 = 0x7E then 0 else flagNV)) else (finite, 0)
  | _ => (finite, 0)

/-- A value times a power of two. -/
def Exact.scale (x : Exact) (k : Int) : Exact :=
  match x with
  | .fin n m e s => .fin n m (e + k) s
  | .nan => .nan
  | .inf n => .inf n

/-- The value of an integer. -/
def Exact.ofInt (x : Int) : Exact := .fin (decide (x < 0)) x.natAbs 0 false

/-- The effective value of a lane (04 R74 R82): the code value times 2^(scale - 127); scale 255 reads as NaN, or as zero for an integer, with NV. -/
def laneValue (f : Fmt) (scale c : Nat) : Exact × Nat :=
  if f.isFloat then
    (if scale = 255 then (.nan, flagNV) else ((codeValue f c).1.scale ((scale : Int) - 127), (codeValue f c).2))
  else if scale = 255 then (.fin false 0 0 false, flagNV)
  else (Exact.ofInt (if f.signed then toSigned f.width c else ((c % 2 ^ f.width : Nat) : Int)), 0)

/-- ROUNDINT of R85 on the magnitude m × 2^(-sh) with its sticky part. -/
def roundMag (mode : Nat) (neg : Bool) (m : Nat) (sh : Int) (sticky : Bool) : Nat × Bool :=
  if sh ≤ 0 then
    let q := m <<< (-sh).toNat
    let up := sticky && ((mode == 2 && !neg) || (mode == 3 && neg))
    (if up then q + 1 else q, sticky)
  else
    let k := sh.toNat
    let q := m >>> k
    let r := m % 2 ^ k
    let half := 2 ^ (k - 1)
    let inexact := r != 0 || sticky
    let up : Bool :=
      if mode = 0 then decide (half < r) || (r == half && (sticky || q % 2 == 1))
      else if mode = 1 then false
      else if mode = 2 then inexact && !neg
      else inexact && neg
    (if up then q + 1 else q, inexact)

/-- A result of ENCODE: the code, the flags, and whether the lane underflowed to zero. -/
structure Enc where
  code : Nat
  flags : Nat
  uf : Bool
  deriving DecidableEq, Repr

/-- The code of an infinity, or of the largest finite value where the format has none. -/
def Fmt.infCode (f : Fmt) (neg : Bool) : Nat :=
  let p := f.params
  (if neg then 2 ^ (p.mb + p.eb) else 0) + (2 ^ p.eb - 1) * 2 ^ p.mb

/-- The code of the largest finite value. -/
def Fmt.maxCode (f : Fmt) (neg : Bool) : Nat :=
  let p := f.params
  (if neg then 2 ^ (p.mb + p.eb) else 0) + ((p.emax - p.emin + 1).toNat * 2 ^ p.mb + (p.maxSig - 2 ^ p.mb))

/-- ENCODE (04 R85) of an exact value into format f at target scale t in a rounding mode. -/
def encodeValue (x : Exact) (f : Fmt) (t mode : Nat) : Enc :=
  let p := f.params
  match x.scale (127 - (t : Int)) with
  | .nan => if p.hasNan then ⟨p.nan, 0, false⟩ else ⟨0, flagNV, false⟩
  | .inf neg => if p.hasInf then ⟨f.infCode neg, 0, false⟩ else ⟨f.maxCode neg, flagOF, false⟩
  | .fin neg m e sticky =>
    let sign := if neg then 2 ^ (p.mb + p.eb) else 0
    if m = 0 ∧ sticky = false then ⟨sign, 0, false⟩
    else
      let ex : Int := max (e + lg m) p.emin
      let r := roundMag mode neg m (ex - p.mb - e) sticky
      let n := if r.1 = 2 ^ (p.mb + 1) then 2 ^ p.mb else r.1
      let ex := if r.1 = 2 ^ (p.mb + 1) then ex + 1 else ex
      let nx := if r.2 then flagNX else 0
      if ex > p.emax ∨ (ex = p.emax ∧ n > p.maxSig) then
        let toInf := p.hasInf && (mode == 0 || (mode == 2 && !neg) || (mode == 3 && neg))
        ⟨if toInf then f.infCode neg else f.maxCode neg, flagOF ||| flagNX, false⟩
      else if n = 0 then ⟨sign, nx ||| flagUF, true⟩
      else
        let sub := decide (n < 2 ^ p.mb)
        let uf := if sub && r.2 then flagUF else 0
        ⟨sign + (if sub then n else (ex - p.emin + 1).toNat * 2 ^ p.mb + (n - 2 ^ p.mb)), nx ||| uf, false⟩

/-! ### Exact arithmetic -/

/-- Sum of two values without a sticky part; the sign of an exact zero follows IEEE 754 in the mode. -/
def Exact.add (mode : Nat) (a b : Exact) : Exact × Nat :=
  match a, b with
  | .nan, _ => (.nan, 0)
  | _, .nan => (.nan, 0)
  | .inf x, .inf y => if x = y then (.inf x, 0) else (.nan, flagNV)
  | .inf x, .fin _ _ _ _ => (.inf x, 0)
  | .fin _ _ _ _, .inf y => (.inf y, 0)
  | .fin na ma ea _, .fin nb mb eb _ =>
    let e := min ea eb
    let x : Int := ((ma <<< (ea - e).toNat : Nat) : Int) * (if na then -1 else 1)
    let y : Int := ((mb <<< (eb - e).toNat : Nat) : Int) * (if nb then -1 else 1)
    let s := x + y
    if s = 0 then (.fin (if ma = 0 ∧ mb = 0 ∧ na = nb then na else mode == 3 && !(na == nb && ma == 0)) 0 e false, 0)
    else (.fin (decide (s < 0)) s.natAbs e false, 0)

/-- The opposite value. -/
def Exact.neg : Exact → Exact
  | .nan => .nan
  | .inf n => .inf (!n)
  | .fin n m e s => .fin (!n) m e s

/-- The sign. -/
def Exact.isNeg : Exact → Bool
  | .nan => false
  | .inf n => n
  | .fin n _ _ _ => n

/-- Zero of either sign. -/
def Exact.isZero : Exact → Bool
  | .fin _ m _ s => m == 0 && !s
  | .nan => false
  | .inf _ => false

/-- Product. -/
def Exact.mul (a b : Exact) : Exact × Nat :=
  match a, b with
  | .nan, _ => (.nan, 0)
  | _, .nan => (.nan, 0)
  | .inf x, y => if y.isZero then (.nan, flagNV) else (.inf (x != y.isNeg), 0)
  | x, .inf y => if x.isZero then (.nan, flagNV) else (.inf (x.isNeg != y), 0)
  | .fin na ma ea _, .fin nb mb eb _ => (.fin (na != nb) (ma * mb) (ea + eb) false, 0)

/-- Quotient: at least 80 bits with a sticky part. -/
def Exact.div (a b : Exact) : Exact × Nat :=
  match a, b with
  | .nan, _ => (.nan, 0)
  | _, .nan => (.nan, 0)
  | .inf _, .inf _ => (.nan, flagNV)
  | .inf x, .fin nb _ _ _ => (.inf (x != nb), 0)
  | .fin na _ _ _, .inf y => (.fin (na != y) 0 0 false, 0)
  | .fin na ma ea _, .fin nb mb eb _ =>
    if mb = 0 then (if ma = 0 then (.nan, flagNV) else (.inf (na != nb), flagDZ))
    else if ma = 0 then (.fin (na != nb) 0 0 false, 0)
    else
      let k := 80 + lg mb
      (.fin (na != nb) ((ma <<< k) / mb) (ea - eb - k) (decide ((ma <<< k) % mb ≠ 0)), 0)

/-- Integer square root by fuel, bit by bit from 2^k. -/
def isqrtGo (n : Nat) : Nat → Nat → Nat
  | 0, r => r
  | k + 1, r => if (r + 2 ^ k) * (r + 2 ^ k) ≤ n then isqrtGo n k (r + 2 ^ k) else isqrtGo n k r

/-- Integer square root. -/
def isqrt (n : Nat) : Nat := isqrtGo n (lg n / 2 + 1) 0

/-- Square root: at least 80 bits with a sticky part. -/
def Exact.sqrt (a : Exact) : Exact × Nat :=
  match a with
  | .nan => (.nan, 0)
  | .inf n => if n then (.nan, flagNV) else (.inf false, 0)
  | .fin neg m e _ =>
    if m = 0 then (.fin neg 0 0 false, 0)
    else if neg then (.nan, flagNV)
    else
      let odd : Nat := (e % 2).toNat
      let n := m <<< (160 + odd)
      let r := isqrt n
      (.fin false r ((e - odd - 160) / 2) (decide (r * r ≠ n)), 0)

/-- Order of two values that are not NaN: less, with -0 below +0 when strictZero is set. -/
def Exact.lt (strictZero : Bool) (a b : Exact) : Bool :=
  match a, b with
  | .nan, _ => false
  | _, .nan => false
  | .inf x, .inf y => x && !y
  | .inf x, .fin _ _ _ _ => x
  | .fin _ _ _ _, .inf y => !y
  | .fin na ma ea _, .fin nb mb eb _ =>
    if ma = 0 ∧ mb = 0 then strictZero && na && !nb
    else
      let e := min ea eb
      let x : Int := ((ma <<< (ea - e).toNat : Nat) : Int) * (if na then -1 else 1)
      let y : Int := ((mb <<< (eb - e).toNat : Nat) : Int) * (if nb then -1 else 1)
      decide (x < y)

/-- NaN. -/
def Exact.isNan : Exact → Bool
  | .nan => true
  | .inf _ => false
  | .fin _ _ _ _ => false

/-- Rounding to an integer in a mode: the integer and whether it differs. Only for finite values. -/
def Exact.toInt (a : Exact) (mode : Nat) : Int × Bool :=
  match a with
  | .fin neg m e s =>
    let r := roundMag mode neg m (-e) s
    (if neg then -(r.1 : Int) else (r.1 : Int), r.2)
  | .nan => (0, false)
  | .inf _ => (0, false)

/-! ### Transcendental functions (07 R182): exact values with a sticky part, from fixed-point series of 320 bits -/

/-- The fixed-point precision. -/
def fxBits : Nat := 320

/-- Sum over k from k0 of z^(2k+1)/(2k+1) in fixed point, fuel many terms: the inverse hyperbolic tangent. -/
def atanhGo (z2 : Nat) : Nat → Nat → Nat → Nat → Nat
  | 0, _, _, acc => acc
  | fuel + 1, term, k, acc => atanhGo z2 fuel ((term * z2) >>> fxBits) (k + 1) (acc + term / (2 * k + 1))

/-- atanh of num/den below 1/2, in fixed point. -/
def atanhFx (num den : Nat) : Nat :=
  let z := (num <<< fxBits) / den
  atanhGo ((z * z) >>> fxBits) 170 z 0 0

/-- The natural logarithm of 2 in fixed point. -/
def ln2Fx : Nat := 2 * atanhFx 1 3

/-- Taylor series of e^x for x in [0, 1) in fixed point. -/
def expGo (x : Nat) : Nat → Nat → Nat → Nat → Nat
  | 0, _, _, acc => acc
  | fuel + 1, term, k, acc => expGo x fuel (((term * x) >>> fxBits) / (k + 1)) (k + 1) (acc + term)

/-- e^x for x in [0, 1) in fixed point. -/
def expFx (x : Nat) : Nat := expGo x 80 (2 ^ fxBits) 0 0

/-- A dyadic as a signed fixed-point number, rounded down. -/
def toFx (neg : Bool) (m : Nat) (e : Int) : Int :=
  let k := e + fxBits
  let a : Nat := if k ≥ 0 then m <<< k.toNat else m >>> (-k).toNat
  if neg then -(a : Int) else (a : Int)

/-- A fixed-point magnitude cut to about 120 bits with a sticky part. -/
def cutFx (neg : Bool) (x : Nat) (e : Int) : Exact :=
  let sh := lg x - 120
  .fin neg (x >>> sh) (e - fxBits + sh) true

/-- A value just above (up) or just below a power-of-two multiple: m × 2^e, strictly. -/
def justBeside (neg up : Bool) (m : Nat) (e : Int) : Exact :=
  if up then .fin neg (m <<< 120) (e - 120) true else .fin neg ((m <<< 120) - 1) (e - 120) true

/-- 2^k × e^f for f in [0, 1) fixed point. -/
def expParts (k : Int) (f : Nat) : Exact := cutFx false (expFx f) k

/-- Below this exponent the argument is too small to matter beside 1. -/
def tinyArg (m : Nat) (e : Int) : Bool := decide (e + lg m < -100)
/-- Above this exponent the result overflows or underflows every format. -/
def hugeArg (m : Nat) (e : Int) : Bool := decide (e + lg m > 12)

/-- 2^x. -/
def exp2Value (neg : Bool) (m : Nat) (e : Int) : Exact :=
  if m = 0 then .fin false 1 0 false
  else if hugeArg m e then (if neg then justBeside false true 1 (-4000) else .fin false 1 4000 false)
  else if e ≥ 0 then .fin false 1 (if neg then -((m <<< e.toNat : Nat) : Int) else ((m <<< e.toNat : Nat) : Int)) false
  else if m % 2 ^ (-e).toNat = 0 then
    .fin false 1 (if neg then -((m >>> (-e).toNat : Nat) : Int) else ((m >>> (-e).toNat : Nat) : Int)) false
  else if tinyArg m e then justBeside false (!neg) 1 0
  else
    let x := toFx neg m e
    let k := x / (2 ^ fxBits : Nat)
    let f := (x % (2 ^ fxBits : Nat)).toNat
    expParts k ((f * ln2Fx) >>> fxBits)

/-- e^x. -/
def expValue (neg : Bool) (m : Nat) (e : Int) : Exact :=
  if m = 0 then .fin false 1 0 false
  else if hugeArg m e then (if neg then justBeside false true 1 (-4000) else .fin false 1 4000 false)
  else if tinyArg m e then justBeside false (!neg) 1 0
  else
    let x := toFx neg m e
    let k := x / (ln2Fx : Int)
    expParts k (x - k * ln2Fx).toNat

/-- log2 of a positive m × 2^e. -/
def log2Value (m : Nat) (e : Int) : Exact :=
  let k := lg m
  let E : Int := e + k
  if m = 2 ^ k then Exact.ofInt E
  else
    -- ln of the mantissa in [1, 2) as 2 atanh((m - 2^k) / (m + 2^k)), then over ln 2
    let frac : Nat := ((2 * atanhFx (m - 2 ^ k) (m + 2 ^ k)) <<< fxBits) / ln2Fx
    let v : Int := E * (2 ^ fxBits : Nat) + frac
    if v < 0 then cutFx true v.natAbs 0 else cutFx false v.natAbs 0

/-- tanh x. -/
def tanhValue (neg : Bool) (m : Nat) (e : Int) : Exact :=
  if m = 0 then .fin neg 0 0 false
  else if e + lg m > 6 then justBeside neg false 1 0
  else if e + lg m < -60 then justBeside neg false m e
  else
    -- (e^2x - 1) / (e^2x + 1)
    let x := (toFx false m (e + 1)).toNat
    let y := expFx (x % ln2Fx) <<< (x / ln2Fx)
    cutFx neg (((y - 2 ^ fxBits) <<< fxBits) / (y + 2 ^ fxBits)) 0

/-- 1 / (1 + e^(-x)). -/
def sigmoidValue (neg : Bool) (m : Nat) (e : Int) : Exact :=
  if m = 0 then .fin false 1 (-1) false
  else if tinyArg m e then justBeside false (!neg) 1 (-1)
  else if e + lg m > 7 then (if neg then expValue neg m e else justBeside false false 1 0)
  else
    match expValue (!neg) m e with
    | .fin _ mm ee _ =>
      -- 1 / (1 + y) with y over 2^600
      let y := mm * 2 ^ (600 + ee).toNat
      cutFx false (2 ^ 1040 / (2 ^ 600 + y)) (320 - 440)
    | .nan => .nan
    | .inf n => .inf n

/-! ### Lane operations -/

/-- A result of one lane: a code and flags. -/
structure Lane where
  code : Nat
  flags : Nat := 0
  deriving DecidableEq, Repr

/-- The bounds of an integer format. -/
def Fmt.lo (f : Fmt) : Int := if f.signed then -(2 ^ (f.width - 1) : Nat) else 0
def Fmt.hi (f : Fmt) : Int := if f.signed then (2 ^ (f.width - 1) : Nat) - 1 else (2 ^ f.width : Nat) - 1

/-- The integer a code stands for. -/
def intOf (f : Fmt) (c : Nat) : Int := if f.signed then toSigned f.width c else ((c % 2 ^ f.width : Nat) : Int)

/-- Saturation to the bounds of the format (07 R170). -/
def satInt (f : Fmt) (x : Int) : Int := if x < f.lo then f.lo else if x > f.hi then f.hi else x

/-- DIV and REM (07 R171): quotient, remainder, flags. -/
def divRem (f : Fmt) (l r : Int) : Int × Int × Nat :=
  if r = 0 then (0, l, if l ≠ 0 then flagDZ else flagNV)
  else if f.signed = true ∧ l = f.lo ∧ r = -1 then (f.lo, 0, 0)
  else
    let q := Int.tdiv l r
    (q, l - q * r, 0)

/-- Count of leading zeros within w bits. -/
def clzW (w c : Nat) : Nat := if c % 2 ^ w = 0 then w else w - 1 - lg (c % 2 ^ w)
/-- Count of trailing zeros within w bits. -/
def ctzGo : Nat → Nat → Nat
  | 0, _ => 0
  | w + 1, c => if c % 2 = 1 then 0 else 1 + ctzGo w (c / 2)
/-- Count of one bits within w bits. -/
def popW : Nat → Nat → Nat
  | 0, _ => 0
  | w + 1, c => c % 2 + popW w (c / 2)
/-- Bytes reversed (07 R170). -/
def bswapW : Nat → Nat → Nat → Nat
  | 0, _, acc => acc
  | n + 1, c, acc => bswapW n (c / 256) (acc * 256 + c % 256)

/-- The integer operations of two operands (07 R170-R172), on codes of the format. -/
def intBin (op : Nat) (f : Fmt) (l r : Nat) : Lane :=
  let w := f.width
  let a := intOf f l
  let b := intOf f r
  let lu := l % 2 ^ w
  let ru := r % 2 ^ w
  match op with
  | 0x20 => ⟨ofInt w (a + b), 0⟩
  | 0x21 => ⟨ofInt w (a - b), 0⟩
  | 0x22 => ⟨ofInt w (satInt f (a + b)), 0⟩
  | 0x23 => ⟨ofInt w (satInt f (a - b)), 0⟩
  | 0x26 => ⟨ofInt w (a * b), 0⟩
  | 0x27 => ⟨ofInt w ((a * b) / (2 ^ w : Nat)), 0⟩
  | 0x28 => ⟨ofInt w (divRem f a b).1, (divRem f a b).2.2⟩
  | 0x29 => ⟨ofInt w (divRem f a b).2.1, (divRem f a b).2.2⟩
  | 0x2A => ⟨ofInt w (min a b), 0⟩
  | 0x2B => ⟨ofInt w (max a b), 0⟩
  | 0x2C => ⟨lu &&& ru, 0⟩
  | 0x2D => ⟨lu ||| ru, 0⟩
  | 0x2E => ⟨lu ^^^ ru, 0⟩
  | 0x2F => ⟨lu &&& (ru ^^^ (2 ^ w - 1)), 0⟩
  | 0x31 => ⟨if ru ≥ w then 0 else lu <<< ru % 2 ^ w, 0⟩
  | 0x32 => ⟨if ru ≥ w then 0 else lu >>> ru, 0⟩
  | 0x33 => ⟨ofInt w (toSigned w lu / (2 ^ (min ru w) : Nat)), 0⟩
  | 0x34 => ⟨(lu <<< (ru % w) ||| lu >>> (w - ru % w)) % 2 ^ w, 0⟩
  | _ => ⟨0, 0⟩

/-- The integer operations of one operand (07 R170 R172). -/
def intUn (op : Nat) (f : Fmt) (l : Nat) : Lane :=
  let w := f.width
  let a := intOf f l
  match op with
  | 0x24 => ⟨ofInt w (-a), 0⟩
  | 0x25 => ⟨ofInt w (if a < 0 then -a else a), 0⟩
  | 0x30 => ⟨(l % 2 ^ w) ^^^ (2 ^ w - 1), 0⟩
  | 0x35 => ⟨clzW w l, 0⟩
  | 0x36 => ⟨ctzGo w l, 0⟩
  | 0x37 => ⟨popW w l, 0⟩
  | 0x3F => ⟨bswapW (w / 8) l 0, 0⟩
  | _ => ⟨0, 0⟩

/-- The conditions of CMP (07 R173). -/
def cmpCond (cond : Nat) (a b : Int) : Bool :=
  match cond with
  | 0 => a == b
  | 1 => a != b
  | 2 => decide (a < b)
  | 3 => decide (a ≤ b)
  | 4 => decide (b < a)
  | _ => decide (b ≤ a)

/-- ENCODE as a lane result at scale 127. -/
def encLane (x : Exact) (f : Fmt) (mode fl : Nat) : Lane :=
  let r := encodeValue x f 127 mode
  ⟨r.code, r.flags ||| fl⟩

/-- FMIN and FMAX (07 R179) on effective values. -/
def minMaxLane (isMax : Bool) (f : Fmt) (a b : Exact × Nat) : Lane :=
  let fl := a.2 ||| b.2
  match a.1.isNan, b.1.isNan with
  | true, true => ⟨f.params.nan, fl⟩
  | true, false => encLane b.1 f 0 fl
  | false, true => encLane a.1 f 0 fl
  | false, false =>
    let less := a.1.lt true b.1
    encLane (if less == isMax then b.1 else a.1) f 0 fl

/-- The floating-point operations of two operands (07 R177 R179 R181), on effective values. -/
def floatBin (op : Nat) (f : Fmt) (mode : Nat) (a b : Exact × Nat) : Lane :=
  let fl := a.2 ||| b.2
  match op with
  | 0x40 => encLane (a.1.add mode b.1).1 f mode ((a.1.add mode b.1).2 ||| fl)
  | 0x41 => encLane (a.1.add mode b.1.neg).1 f mode ((a.1.add mode b.1.neg).2 ||| fl)
  | 0x42 => encLane (a.1.mul b.1).1 f mode ((a.1.mul b.1).2 ||| fl)
  | 0x44 => encLane (a.1.div b.1).1 f mode ((a.1.div b.1).2 ||| fl)
  | 0x4B => minMaxLane false f a b
  | 0x4C => minMaxLane true f a b
  | _ => ⟨0, 0⟩

/-- FMA (07 R177 R178): the exact product plus the addend, rounded once; 0 times an infinity is invalid whatever the addend. -/
def fmaLane (f : Fmt) (mode : Nat) (a b c : Exact × Nat) : Lane :=
  let p := a.1.mul b.1
  let s := p.1.add mode c.1
  encLane s.1 f mode (p.2 ||| s.2 ||| a.2 ||| b.2 ||| c.2)

/-- A power of two. -/
def isPow2 (m : Nat) : Bool := m == 2 ^ lg m

/-- The flags of an approximation (07 R182): NX outside the exact cases, UF where the rounded result lies below the normal range (04 R83), OF on
overflow. -/
def approxLane (x : Exact) (f : Fmt) (exact : Bool) (fl : Nat) : Lane :=
  let r := encodeValue x f 127 0
  let below : Bool := match x with
    | .fin _ m _ s => (m != 0 || s) && bitsAt r.code f.params.mb f.params.eb == 0
    | .nan => false
    | .inf _ => false
  ⟨r.code, (r.flags &&& flagOF) ||| (if below then flagUF else 0) ||| (if exact then 0 else flagNX) ||| fl⟩

/-- The floating-point operations of one operand (07 R177 R181 R182). -/
def floatUn (op : Nat) (f : Fmt) (mode : Nat) (a : Exact × Nat) : Lane :=
  let nan : Lane := ⟨f.params.nan, a.2⟩
  match op, a.1 with
  | 0x45, x => encLane x.sqrt.1 f mode (x.sqrt.2 ||| a.2)
  | _, .nan => nan
  | 0x46, .inf n => encLane (.fin n 0 0 false) f 0 a.2
  | 0x46, .fin n m e _ =>
    if m = 0 then encLane (.inf n) f 0 (flagDZ ||| a.2)
    else
      let y := (Exact.fin false 1 0 false).div (.fin n m e false)
      approxLane y.1 f (isPow2 m && decide (-(e + lg m) ≥ f.params.emin) && decide (-(e + lg m) ≤ f.params.emax)) a.2
  | 0x47, .inf n => if n then ⟨f.params.nan, flagNV ||| a.2⟩ else encLane (.fin false 0 0 false) f 0 a.2
  | 0x47, .fin n m e _ =>
    if m = 0 then encLane (.inf n) f 0 (flagDZ ||| a.2)
    else if n then ⟨f.params.nan, flagNV ||| a.2⟩
    else if isPow2 m && (e + lg m) % 2 == 0 then approxLane (.fin false 1 (-((e + lg m) / 2)) false) f true a.2
    else
      -- 1/sqrt x = sqrt(1/x), to 160 bits before the cut
      let odd : Nat := (e % 2).toNat
      let k := 400 + 2 * (lg m)
      let q := (2 ^ k) / (m <<< odd)
      approxLane (.fin false (isqrt q) (-(k : Int) / 2 - (e - odd) / 2) true) f false a.2
  | 0x48, .inf n => encLane (if n then .fin false 0 0 false else .inf false) f 0 a.2
  | 0x48, .fin n m e _ =>
    let x := exp2Value n m e
    approxLane x f (match x with
      | .fin _ _ _ s => !s && (encodeValue x f 127 0).flags == 0
      | .nan => false
      | .inf _ => false) a.2
  | 0x4A, .inf n => encLane (if n then .fin false 0 0 false else .inf false) f 0 a.2
  | 0x4A, .fin n m e _ => approxLane (expValue n m e) f (m == 0) a.2
  | 0x49, .inf n => if n then ⟨f.params.nan, flagNV ||| a.2⟩ else encLane (.inf false) f 0 a.2
  | 0x49, .fin n m e _ =>
    if m = 0 then encLane (.inf true) f 0 (flagDZ ||| a.2)
    else if n then ⟨f.params.nan, flagNV ||| a.2⟩
    else approxLane (log2Value m e) f (isPow2 m) a.2
  | 0x54, .inf n => encLane (.fin n 1 0 false) f 0 a.2
  | 0x54, .fin n m e _ => approxLane (tanhValue n m e) f (m == 0) a.2
  | 0x55, .inf n => encLane (.fin false (if n then 0 else 1) 0 false) f 0 a.2
  | 0x55, .fin n m e _ => approxLane (sigmoidValue n m e) f (m == 0) a.2
  | 0x52, .inf n => encLane (.inf n) f mode a.2
  | 0x52, .fin n m e s =>
    let r := roundMag mode n m (-e) s
    encLane (.fin n r.1 0 false) f mode ((if r.2 then flagNX else 0) ||| a.2)
  | _, _ => nan

/-- FABS, FNEG and FCPYS (07 R179) on codes: the sign bit becomes sgn; a NaN lane becomes the canonical NaN, with NV for a
signalling one (04 R77 R83). -/
def signLane (f : Fmt) (scale c : Nat) (sgn : Bool) : Lane :=
  let p := f.params
  let v := codeValue f c
  if scale = 255 then ⟨p.nan, flagNV⟩
  else if v.1.isNan then ⟨p.nan, v.2⟩
  else ⟨c % 2 ^ (p.mb + p.eb) + (if sgn then 2 ^ (p.mb + p.eb) else 0), 0⟩

/-- FCMP (07 R180). -/
def fcmpLane (cond : Nat) (a b : Exact × Nat) : Bool × Nat :=
  let anyNan := a.1.isNan || b.1.isNan
  let fl := a.2 ||| b.2
  match cond with
  | 0 => (!anyNan && !(a.1.lt false b.1) && !(b.1.lt false a.1), fl)
  | 1 => (a.1.lt false b.1, if anyNan then fl ||| flagNV else fl)
  | 2 => (!anyNan && !(b.1.lt false a.1), if anyNan then fl ||| flagNV else fl)
  | _ => (anyNan, fl)

/-- FCLASS (07 R180): the class bit of a code. -/
def fclassLane (f : Fmt) (scale c : Nat) : Lane :=
  let p := f.params
  let neg := bitAt c (p.mb + p.eb)
  let ex := bitsAt c p.mb p.eb
  let mant := c % 2 ^ p.mb
  if scale = 255 then ⟨2 ^ 10, flagNV⟩
  else if ex = 2 ^ p.eb - 1 then
    (if mant = 0 then ⟨if neg then 1 else 2 ^ 7, 0⟩ else ⟨if bitAt mant (p.mb - 1) then 2 ^ 9 else 2 ^ 8, 0⟩)
  else if ex = 0 then
    (if mant = 0 then ⟨if neg then 2 ^ 3 else 2 ^ 4, 0⟩ else ⟨if neg then 2 ^ 2 else 2 ^ 5, 0⟩)
  else ⟨if neg then 2 ^ 1 else 2 ^ 6, 0⟩

/-- Conversion of a lane to an integer format (04 R86): from a floating-point value by the mode, from an integer by saturation. -/
def toIntLane (f : Fmt) (mode : Nat) (fromFloat : Bool) (a : Exact × Nat) : Lane :=
  match a.1 with
  | .nan => ⟨0, flagNV ||| a.2⟩
  | .inf n => ⟨ofInt f.width (if n then f.lo else f.hi), flagNV ||| a.2⟩
  | .fin n m e s =>
    let r := (Exact.fin n m e s).toInt mode
    if r.1 < f.lo ∨ r.1 > f.hi then ⟨ofInt f.width (satInt f r.1), (if fromFloat then flagNV else flagOF) ||| a.2⟩
    else ⟨ofInt f.width r.1, (if r.2 then flagNX else 0) ||| a.2⟩

/-! ### Cyzer-64 (04 R95) -/

/-- Left rotation of 64 bits. -/
def rotl64 (x k : Nat) : Nat := (x <<< k ||| x >>> (64 - k)) % 2 ^ 64

/-- The rounds from i on, fuel many. -/
def cyzerGo (k1 k2 : Nat) : List Nat → Nat → Nat → Nat → Nat × Nat
  | [], _, a, b => (a, b)
  | r :: rs, i, a, b =>
    let a1 := (a + b) % 2 ^ 64
    let b1 := rotl64 b r ^^^ a1
    cyzerGo k1 k2 rs (i + 1) (if i = 1 then (a1 + k2) % 2 ^ 64 else a1) (if i = 3 then (b1 + k1) % 2 ^ 64 else b1)

/-- CYZER(K, P). -/
def cyzer (k p : Nat) : Nat :=
  let c := 0xB5E14A732D9C86F0
  let k1 := k ^^^ c
  let k2 := (rotl64 k 32 + c) % 2 ^ 64
  let r := cyzerGo k1 k2 [12, 28, 44, 20, 36, 52] 0 (p ^^^ k) k1
  r.1 ^^^ rotl64 r.2 32

end Sys2Proof
end

