-- ==== Sys2Proof/Machine/State.lean ====
section
/-! DEFINITION. The state of the machine as plain data: everything the spec gives the device, its hub, its partitions, launches, cores,
tiles, banks and elements, and State.reset. Sparse parts are lists of key and value in ascending key order; an absent key holds the default. -/

namespace Sys2Proof.Machine

/-- A sparse table: keys ascending, no key twice. -/
abbrev Map (α : Type) := List (Nat × α)

/-- Bytes of memory in canonical form: addresses ascending, none twice, none 0, which is what an unlisted address reads as (log 2). -/
abbrev Memory := List Host.Cell

/-! ### Tokens -/

/-- Chain identity and position of an order token (12 R267 R269): graph source port, thread and firing count of the head; POS. -/
structure Chain where
  hgsp : Nat
  thr : Nat
  k : Nat
  pos : Nat
  deriving DecidableEq, Repr

/-- A token with its sideband (04 R70-R76). -/
structure Token where
  pay : Payload := 0
  tag : BitVec 6 := 0x05
  scale : BitVec 8 := 127
  v : Bool := false
  poison : Bool := false
  rv : Bool := true
  chain : Option Chain := none
  thr : Option Nat := none
  deriving DecidableEq, Repr

/-- A commit key (12 R269). -/
structure Key where
  hgsp : Nat
  thr : Nat
  k : Nat
  pos : Nat
  agsp : Nat
  deriving DecidableEq, Repr

/-- The four fields that storage keeps (04 R73), and the chain that queue records keep. -/
structure Stored where
  pay : Payload := 0
  tag : BitVec 6 := 0x05
  scale : BitVec 8 := 127
  v : Bool := false
  poison : Bool := false
  chain : Option Chain := none
  deriving DecidableEq, Repr

/-! ### Elements, arcs, banks -/

/-- An operand slot (02 R21 R25, 18 R327): the latch, what the slot takes ahead of it (a reinjected token, the tokens of a cut that a rollback gives back),
the markers that have arrived, and the anti-tokens (by round) standing at the latch. -/
structure InSlot where
  latch : Option Token := none
  rein : List Token := []
  marks : Nat := 0
  anti : List Nat := []
  /-- the slot awaits the token that REINJ delivers in place of a removed one (06 R127, 18 R322) -/
  waits : Bool := false
  deriving DecidableEq, Repr

/-- A firing in the pipeline (02 R22): the fc of its last stage; what it emits (target number and token), none while the result is awaited;
the round it owes the result to, none for results that belong to the round of emission (08 R215); the round after whose marker alone it may
emit; its identity. -/
structure Flight where
  due : Nat
  outs : Option (List (Nat × Token))
  round : Option Nat
  after : Option Nat
  id : Nat
  /-- thread and field K of the firing, for the keys of register targets (12 R269) -/
  thr : Nat := 0xFFFFFFFF
  k : Nat := 0
  /-- a record that the last stage pushes: memory tile and line (02 R33, 06 R149) -/
  push : Option (Nat × Stored) := none
  /-- the region core whose copy of the successor the record is meant for (05 R122) -/
  copy : Option Nat := none
  /-- the round of the firing -/
  issued : Nat := 0
  /-- the stages of its pipeline -/
  lat : Nat := 1
  /-- numeric flags that belong to the round of emission (04 R83) -/
  fl : Nat := 0
  deriving DecidableEq, Repr

/-- State an instruction keeps between firings (06 R134-R138, 04 R88 R89, 09 R229). -/
inductive OpState where
  | none
  | carry (active : Bool)
  | invar (held : Option Token)
  | gate (credits : Nat)
  | count (c : Nat)
  /-- copies of the present firing already emitted -/
  | copies (k : Nat)
  /-- a header waits for the commit of the marker it requested (09 R229) -/
  | mxwait (marker : Nat)
  /-- payload lines still to come -/
  | mxldb (left : Nat)
  /-- committed UNFC and HC, and the updates staged: round, UNFC and HC after it -/
  | cvt (unfc hc : Nat) (staged : List (Nat × Nat × Nat))
  /-- a stream or drain in progress: next element and total, the payload of a poisoned stream, the flight, the chain, the thread -/
  | stream (next total : Nat) (poison : Option Payload) (flight : Nat) (chain : Chain) (thr : Nat)
  deriving DecidableEq, Repr

/-- What a rollback gives back to an instruction (21 R380 R382): its state, its firings by thread, and the tokens that had entered its slots before the marker
of the cut and that it had not taken when it forwarded that marker (log 62). -/
structure ElemCut where
  ost : OpState
  fires : Map Nat
  l : List Token := []
  r : List Token := []
  p : List Token := []
  deriving DecidableEq, Repr

/-- An element or router-operator slot with the instruction of a resident block (02 R20-R25). -/
structure Elem where
  l : InSlot := {}
  r : InSlot := {}
  p : InSlot := {}
  /-- markers forwarded, which is the round the instruction is in -/
  fwd : Nat := 0
  /-- results of output 0 and of output 1 -/
  q0 : List Flight := []
  q1 : List Flight := []
  /-- pending cancels per target, as the rounds they belong to (03 R55) -/
  pend : List (List Nat) := [[], [], [], []]
  ost : OpState := .none
  /-- the last cuts, by the number of the round after the marker (21 R380) -/
  snaps : Map ElemCut := []
  /-- firings of this copy by thread since it became resident (12 R269 field K) -/
  fires : Map Nat := []
  /-- results that belong to no round of firing and have been emitted: the round of emission, the output, the result (21 R382) -/
  sent : List (Nat × Bool × Flight) := []
  /-- markers that Chafer has given an instruction that no other instruction feeds -/
  chafer : Nat := 0
  /-- a site of this instruction is open (18 R322) -/
  held : Bool := false
  /-- the next firing executes as if B were clear (18 R327) -/
  bpass : Bool := false
  /-- the P firing of a COUNT was ready beside the last L firing and follows it (06 R138) -/
  pturn : Bool := false
  /-- the fc of the last firing, for one firing a stage -/
  last : Option Nat := none
  deriving DecidableEq, Repr

/-- One router hop of a circuit (02 R20, 03 R53): the token, the markers standing behind it, the anti-token. -/
structure Hop where
  fwd : Option Token := none
  marks : Nat := 0
  rev : Option Nat := none
  deriving DecidableEq, Repr

/-- A circuit or an arc between the tiles of a span: from a target of an instruction or an output port to an operand slot or an input port
(02 R20, 05 R98). -/
structure Arc where
  /-- source: instruction index and target number; or output port p as (128 + p, 0) -/
  src : Nat × Nat
  /-- the destination block's number in the load, for a circuit between blocks; none for an arc of the block itself -/
  dstNum : Option Nat
  /-- input port of the destination block, or instruction and operand slot of the block itself -/
  dstIdx : Nat
  dstSlot : Slot
  hops : List Hop
  /-- pending cancels at the router where the circuit splits (03 R56) -/
  pend : List Nat := []
  deriving DecidableEq, Repr

/-- A staged register write (06 R154). -/
structure RegWrite where
  key : Key
  seq : Nat
  reg : Nat
  val : Stored
  deriving DecidableEq, Repr

/-- A staged write of a control and status register (18 R316). -/
structure CsrWrite where
  key : Key
  seq : Nat
  bank : Nat
  round : Nat
  index : Nat
  mode : Nat
  val : Word64
  deriving DecidableEq, Repr

/-- The committed state of a block: what a rollback restores of its bank (21 R380), what Scarab and CTXSAVE write (18 R330). -/
structure BankCut where
  round : Nat
  regs : Map Stored
  numf : BitVec 5
  ops : Map OpState
  deriving DecidableEq, Repr

/-- A context bank with its resident block (02 R26-R28, 18 R317). -/
structure Bank where
  /-- ST: 0 empty, 1 resident, 2 reserved by a pending CTXLOAD -/
  st : Nat := 0
  blk : Nat := 0
  lk : Nat := 0
  pin : Bool := false
  /-- the second tile of a two-tile span, when this bank is the first -/
  tile2 : Option Nat := none
  /-- the bank is the second tile of the block of this bank key -/
  upper : Option Nat := none
  /-- header words of the resident block (05 R97) -/
  h0 : Word64 := 0
  h1 : Word64 := 0
  /-- instruction words of the resident block -/
  words : Map Word64 := []
  /-- region core on which the variant placed the copy (21 R387) -/
  origin : Nat := 0
  /-- its number in the load's block table (02 R37), counted on over the loads: 4,096 × load + number -/
  num : Nat := 0
  elems : Map Elem := []
  arcs : List Arc := []
  /-- input ports that circuits reach, with the number of the source block (02 R422) -/
  srcs : List (Nat × Nat) := []
  /-- pending drops of the input ports (03 R61) -/
  drops : Map (List Nat) := []
  /-- the anti-tokens in the reverse registers next to the input ports, by round (03 R61) -/
  rev : Map Nat := []
  regs : Map Stored := []
  rstage : List (Nat × RegWrite) := []
  numf : BitVec 5 := 0
  nstage : List (Nat × BitVec 5) := []
  /-- queue-table indices bound to q0-q3 (06 R148) -/
  qbind : List Nat := []
  /-- markers that passed the block -/
  mpass : Nat := 0
  /-- round of the last firing -/
  lastFire : Option Nat := none
  /-- a thread-token fault holds the head record (02 R31) -/
  blocked : Bool := false
  /-- B flags that the debug port sets or clears from the next marker on (21 R393) -/
  dbgStage : Map Bool := []
  snaps : List BankCut := []
  /-- a site of the bank was open when the last marker passed (18 R317) -/
  heldC : Bool := false
  deriving DecidableEq, Repr

/-! ### Memory tiles, matrix nodes -/

/-- Configuration of a memory tile (05 R124). -/
inductive TileCfg where
  | store (nbuf : Nat)
  | lbuf (w : Nat)
  /-- the depth and the pushing instructions of the load (06 R151) -/
  | fifo (depth pushers : Nat)
  deriving DecidableEq, Repr

/-- A queue record with its sideband (06 R143) and the round of its push. -/
structure QRec where
  val : Stored
  round : Nat
  /-- the key of a push of a queue with several pushers in ordered mode, poppable after its marker (06 R151) -/
  key : Option Key
  seq : Nat
  /-- in an entry queue, the region core whose copy of the block the record is meant for (05 R122) -/
  copy : Option Nat := none
  /-- the launch of the pusher, whose markers commit the record (12 R271) -/
  lk : Nat := 0
  /-- the device has pushed it at a marker whose cut is complete: no rollback takes it back -/
  ofDevice : Bool := false
  deriving DecidableEq, Repr

/-- A descriptor word that STRCFG wrote (08 R205 R206): staged for the marker that passes the bank's block, or committed there, with what it replaced. -/
structure StrWrite where
  lk : Nat
  bank : Nat
  round : Nat
  word : Nat
  val : Nat
  old : Option Nat := none
  deriving DecidableEq, Repr

/-- A streamer (08 R205): the four descriptor words committed, the words written by rounds whose cut is not complete, the stream in progress as its element and
next index. -/
structure Streamer where
  w0 : Nat := 2 ^ 48
  w1 : Nat := 2 ^ 48 + 2 ^ 16
  w2 : Nat := 0
  w3 : Nat := 127 * 64 + 2
  stage : List StrWrite := []
  busy : Option (Site × Nat) := none
  deriving DecidableEq, Repr

/-- The state of a memory tile a rollback restores (21 R380). -/
structure TileCut where
  lk : Nat
  round : Nat
  bytes : Memory
  deriving DecidableEq, Repr

/-- The operand of an access or of an operation at its home unit. -/
inductive HomeOp where
  /-- a plain write of these bytes -/
  | write (bytes : List Byte)
  /-- an atomic (08 R209-R211): opcode, format tag, unsigned, operand, k of ATOPK -/
  | atomic (op tag : Nat) (u : Bool) (val : Token) (k : Nat)
  | bar (copy : Bool)
  | permit (give : Bool)
  | futreg (pkt queue join : Nat)
  | futres (v : Nat)
  | futwait
  /-- a reservation of a loop cell (10 R248) -/
  | rsv (off : Nat)
  /-- a fence that waits for its chain, with the token it carries through (08 R216) -/
  | fence (scope : Nat) (data : Option Token)
  /-- an RFENCE that waits for the invalidations its chain issued (20 R364) -/
  | rfence
  /-- a decrement of a packet's join word (08 R220) -/
  | jdec (j : Nat)
  /-- a give that passes a permit on: the word stays (08 R218) -/
  | touch
  /-- an operation without effect whose fault the commit of its round reports: code, INFO, the operation (08 R214) -/
  | fault (code info : Nat) (op : HomeOp)
  deriving DecidableEq, Repr

/-- Where bytes live. -/
inductive Space where
  | dev
  | host
  | peer (p : Nat)
  | tile (core t : Nat)
  deriving DecidableEq, Repr

/-- Whose notice a unit sends (21 R374): the firing's site, the tile of its span, and words 2 to 5 of the record. -/
structure Origin where
  site : Option Site := none
  tile : Nat := 0
  words : List Word64 := [0, 0, 0, 0]
  deriving DecidableEq, Repr

/-- A round of a launch, counted at a core: what another operation's outcome rests on until it has committed. -/
structure RoundOf where
  lk : Nat
  core : Nat
  round : Nat
  deriving DecidableEq, Repr

/-- A staged arrival (12 R269 R270), or an operation in the log of its unit (08 R212, log 72). -/
structure Arrival where
  lk : Nat
  /-- the core whose port carries it -/
  core : Nat
  round : Nat
  key : Key
  seq : Nat
  space : Space
  addr : Nat
  op : HomeOp
  /-- request that awaits the answer, 0 for none -/
  req : Nat
  /-- ordered-shared line -/
  osh : Bool := false
  org : Origin := {}
  /-- the firing's block is unprivileged -/
  user : Bool := true
  /-- of a logged operation: its round has committed; the bytes it left; the rounds that its outcome rests on -/
  done : Bool := false
  res : List Byte := []
  deps : List RoundOf := []
  deriving DecidableEq, Repr

/-- A memory tile (01 R13). -/
structure MTile where
  cfg : TileCfg := .store 1
  bytes : Memory := []
  stage : List Arrival := []
  strm : List Streamer := [{}, {}, {}, {}]
  recs : List QRec := []
  /-- records popped in rounds whose cut is not complete, newest first, with the round of the pop (21 R380) -/
  popped : List (Nat × QRec) := []
  /-- operations performed on arrival, in that order, from the first that has not committed on; the bytes before them (08 R212, log 72) -/
  overlay : List Arrival := []
  abase : Map Byte := []
  /-- markers passed, by launch key -/
  pass : Map Nat := []
  snaps : List TileCut := []
  deriving DecidableEq, Repr

/-- A weight slot (09 R221): state 0 INVALID, 1 LOADING, 2 VALID. -/
structure WSlot where
  state : Nat := 0
  tag : Nat := 0
  scale : Nat := 0
  dens : Nat := 0
  seed : Nat := 0
  len : Nat := 0
  pos : Nat := 0
  head : Word64 := 0
  lines : Map Payload := []
  /-- while LOADING, the MXLDB that loads it -/
  owner : Option Site := none
  deriving DecidableEq, Repr

/-- An accumulator (09 R221): i32 rather than f32; lane codes by 64 × row + lane, zero when absent; the row pointer. -/
structure Acc where
  i32 : Bool := false
  lanes : Map Nat := []
  rowp : Nat := 0
  deriving DecidableEq, Repr

/-- The state of a matrix node a rollback restores (09 R222). -/
structure NodeCut where
  lk : Nat
  round : Nat
  slots : Map WSlot
  acc : List Acc
  deriving DecidableEq, Repr

/-- A compute tile: the context counter and the matrix node. -/
structure CTile where
  last : Nat := 3
  slots : Map WSlot := []
  acc : List Acc := [{}, {}, {}, {}]
  /-- the node's committed copies -/
  snaps : List NodeCut := []
  rplc : Nat := 0
  resx : Nat := 0
  /-- a residue mismatch occurred in the present round -/
  mism : Bool := false
  /-- the last six rows accepted, those on their way to the accumulators: slot, accumulator, row, the A row and the fc -/
  kept : List (Nat × Nat × Nat × Token × Nat) := []
  /-- rows are refused up to this fc while kept rows are re-issued -/
  busyTill : Nat := 0
  pass : Map Nat := []
  deriving DecidableEq, Repr

/-! ### Requests, engines, loops, tasks -/

/-- What a request returns. -/
inductive ReqKind where
  /-- a load: result tag, vector, scale; lanes of a gather -/
  | load (tag : Nat) (v : Bool) (scale : Nat)
  | gather (tag : Nat) (scale : Nat)
  /-- the old value of an atomic or another answer from a home unit -/
  | answer (tag : Nat)
  deriving DecidableEq, Repr

/-- One part of an access after translation (08 R195). -/
structure Part where
  space : Space
  addr : Nat
  size : Nat
  /-- offset of the part in the access -/
  off : Nat
  cach : Bool := false
  osh : Bool := false
  hostBias : Bool := false
  /-- program address -/
  prog : Nat := 0
  deriving DecidableEq, Repr

/-- An access in flight (08 R196). -/
structure Req where
  id : Nat
  site : Site
  lk : Nat
  round : Nat
  due : Nat
  kind : ReqKind
  fresh : Bool
  chain : Chain
  parts : List Part
  thr : Nat
  /-- a home operation that is performed on arrival (free mode) -/
  op : Option HomeOp := none
  key : Key := ⟨0, 0, 0, 0, 0⟩
  /-- the operation stands at its home: performed, staged or parked there -/
  arrived : Bool := false
  user : Bool := true
  /-- the parts that the fetch cache answers, by place in the list (08 R202) -/
  hits : List Nat := []
  /-- admitted before the die of its lines left the state ONLINE (23 R408) -/
  admitted : Bool := false
  /-- an error reply gives poison (08 R214), and the operands that it hands back otherwise -/
  cancel : Bool := false
  ops : List (Option Token) := []
  org : Origin := {}
  deriving DecidableEq, Repr

/-- A waiter of a permit, a future or a barrier (08 R217 R218 R220). -/
structure Waiter where
  addr : Nat
  lk : Nat
  req : Nat
  round : Nat
  seq : Nat
  /-- released: the rounds that have to commit before, the round after whose marker it may emit, the tokens -/
  granted : Option (List RoundOf × Nat × List (Nat × Token)) := none
  /-- the round of the give that passed the permit to it -/
  passed : Option RoundOf := none
  deriving DecidableEq, Repr

/-- A round's writes to a peer (13 R288): the launch and the core whose port sends them. -/
structure RemoteUnit where
  peer : Nat
  lk : Nat
  core : Nat
  round : Nat
  deriving DecidableEq, Repr

/-- An accepted engine command (09 R236-R241, 18 R329, 20 R366). -/
structure Cmd where
  id : Nat
  site : Site
  lk : Nat
  core : Nat
  round : Nat
  thr : Nat
  /-- opcode of the command -/
  op : Nat
  words : List Nat
  key : Key
  user : Bool
  /-- bytes, rows or elements already staged -/
  prog : Nat := 0
  /-- round of the last staged part -/
  last : Option Nat := none
  done : Nat := 0
  status : Nat := 0
  finished : Bool := false
  /-- source bytes read, by offset: a command equals reading every source byte before writing any (09 R240) -/
  buf : Memory := []
  loaded : Bool := false
  /-- rows of an XGATHER to be written; bytes to be written in all -/
  rows : List Nat := []
  total : Nat := 0
  /-- the round of each staged part and the progress before it, newest first (09 R243) -/
  hist : List (Nat × Nat) := []
  /-- the round in which it completed, until that round's cut -/
  emitted : Option Nat := none
  org : Origin := {}
  deriving DecidableEq, Repr

/-- A reserving loop (10 R245-R250). Phases: 0 fill, 1 reserve, 2 commit, 3 complete. -/
structure Loop where
  lo : Nat
  hi : Nat
  w : Nat
  mt : Bool
  fut : Bool
  rblk : Nat
  cblk : Nat
  cellbase : Nat
  cellcnt : Nat
  faddr : Nat
  fval : Nat
  lk : Nat
  /-- region core that issued the RLOOP -/
  origin : Nat
  key : Key
  user : Bool
  phase : Nat := 0
  /-- the round in which the phase opens -/
  openAt : Nat := 0
  /-- offsets of the window in ascending position; the next offset to enter -/
  win : List Nat := []
  next : Nat := 0
  notes : Map Nat := []
  /-- iterations that reported in the phase, and whether with RCOMMIT -/
  reports : Map Bool := []
  /-- the cells as committed when the reserve phase closed: by number, absent where free (10 R249) -/
  cells : Map Nat := []
  /-- pairs of a cell's address and an OFFSET -/
  log : List (Nat × Nat) := []
  holds : List Nat := []
  windows : Nat := 0
  /-- flight of an accepted RLDONE -/
  rldone : Option (Site × Nat) := none
  org : Origin := {}
  deriving DecidableEq, Repr

/-- A BOP whose registration stands: its flight, the program address of its undo record, the younger tasks, by launch key and TSEQ, for whose release it
waits; told is set once it has true to emit, and has not emitted it yet (10 R258 R306). -/
structure PendBop where
  site : Site
  flight : Nat
  undo : Nat
  younger : List (Nat × Nat)
  told : Bool := false
  deriving DecidableEq, Repr

/-- A boosted task (10 R254 R255). States: 0 in flight before its numbering, 1 RUNNING, 2 ABORTING, 3 UNDOING, 4 WAITING, 5 READY. -/
structure Task where
  lk : Nat
  origin : Nat
  slot : Nat
  key : Key
  seq : Nat
  user : Bool
  state : Nat := 0
  tseq : Option Nat := none
  eblk : Nat
  fut : Bool
  ubase : Nat
  ulen : Nat
  arg : Nat
  faddr : Nat
  fval : Nat
  /-- BLOCKER as a launch key and TSEQ -/
  blocker : Option (Nat × Nat) := none
  udepth : Nat := 0
  aborts : Nat := 0
  /-- records still to undo; one of them is outstanding; a BUNDO has been accepted for it -/
  undoLeft : Nat := 0
  undoOut : Bool := false
  /-- the flight of BTASK's completion token; that of BCOMMIT's pred -/
  site : Site
  flight : Nat
  commitFl : Option (Site × Nat) := none
  bops : List PendBop := []
  /-- committed STATE, UDEPTH and ABORTS for BSTAT -/
  cState : Nat := 0
  cDepth : Nat := 0
  cAborts : Nat := 0
  org : Origin := {}
  deriving DecidableEq, Repr

/-- A registration at a slice (10 R258): the object, the task by launch key and TSEQ, the ASEQ of its launch, kind and key. -/
structure Reg where
  obj : Nat
  lk : Nat
  tseq : Nat
  aseq : Nat
  kind : Nat
  key : Nat
  deriving DecidableEq, Repr

/-! ### Cores -/

/-- A range translation table entry (20 R352 R355). -/
structure Rtt where
  words : List Nat
  lock : Bool
  used : Nat
  deriving DecidableEq, Repr

/-- A walk in flight (20 R358): the address and, once it has failed, the fault code. -/
structure Walk where
  addr : Nat
  fault : Option Nat
  deriving DecidableEq, Repr

/-- A fault record before it has a serial number (18 R321): word 0 and words 2 to 7. -/
structure FRec where
  word0 : Word64
  rest : List Word64
  /-- identity of the site it opened, 0 for none -/
  siteId : Nat
  deriving DecidableEq, Repr

/-- A pending invalidation at a core (20 R364): the range, or the whole table. -/
structure Inval where
  id : Nat
  all : Bool
  lo : Nat
  hi : Nat
  /-- the core's invalidation marker has passed (20 R363): launch key and round; none before it -/
  marker : Option (Nat × Nat)
  deriving DecidableEq, Repr

/-- A staged write of the range translation table (20 R365). -/
structure RttWrite where
  site : Site
  flight : Nat
  entry : Nat
  words : List Nat
  v : Bool
  lock : Bool
  lk : Nat
  round : Nat
  deriving DecidableEq, Repr

/-- The state of a core's engines that a rollback restores. -/
structure CoreCut where
  lk : Nat
  round : Nat
  loops : Map Loop
  tasks : Map Task
  deriving DecidableEq, Repr

/-- A core (01 R14). -/
structure Core where
  rtt : Map Rtt := []
  walks : List Walk := []
  /-- lines of the fetch cache: program address, the marker it holds, the bytes -/
  fcache : Map (Nat × Payload) := []
  /-- fills on their way: program address, launch key, the bytes -/
  fcFill : List (Nat × Nat × Nat) := []
  gstage : List Arrival := []
  frecs : List FRec := []
  /-- records that units of the core hold while the port is full (18 R323) -/
  fwait : List FRec := []
  cmds : List Cmd := []
  loops : Map Loop := []
  tasks : Map Task := []
  /-- markers injected at the core, by launch key; the fc since the last one of the system bank -/
  inj : Map Nat := []
  sysSince : Nat := 0
  /-- rounds of the system bank whose effects have been applied; a requested marker of it and its fc (18 R312) -/
  sysEff : Nat := 0
  sysRmark : Option Nat := none
  mtuse : BitVec 16 := 0
  nduse : BitVec 16 := 0
  /-- markers passed by the port, by launch key -/
  pass : Map Nat := []
  csrStage : List CsrWrite := []
  rttStage : List RttWrite := []
  invals : List Inval := []
  /-- the launch bound to the core -/
  lk : Option Nat := none
  fenced : Bool := false
  /-- timing replays of the round, present trim step -/
  replays : Nat := 0
  step : Nat := 0
  /-- IDLE waiters: firing site, flight, markers left, event mask at firing -/
  idles : List (Site × Nat × Nat × Nat) := []
  snaps : List CoreCut := []
  deriving DecidableEq, Repr

/-! ### Launches and partitions -/

/-- An effect of the dispatcher or of the graph at a marker (06 R146 R155-R158). -/
inductive EffKind where
  | spawn (blk nlive : Nat) (line : Stored) (core : Nat)
  | launch (queue addr : Nat) (parts : List Part)
  | patch (addr slot : Nat) (val : Word64)
  | trig
  /-- a registration (10 R258): object, task, kind, key, program address of the undo record, the flight of the pred -/
  | bop (obj tseq kind key undo : Nat) (site : Site) (flight : Nat)
  | babort (tseq : Nat) (site : Site)
  | bundo (tseq : Nat)
  deriving DecidableEq, Repr

/-- A staged effect. -/
structure Eff where
  round : Nat
  key : Key
  seq : Nat
  kind : EffKind
  /-- the core of the firing -/
  core : Nat := 0
  /-- the firing's block is one that QUIET leaves out (06 R160) -/
  qex : Bool := false
  org : Origin := {}
  /-- rounds that have to commit before the effect is applied (08 R220) -/
  wait : List RoundOf := []
  deriving DecidableEq, Repr

/-- A QUIET that has fired (06 R160). -/
structure Quiet where
  site : Site
  flight : Nat
  n : Nat
  count : Nat
  /-- rounds up to this one never count -/
  start : Nat
  deriving DecidableEq, Repr

/-- A thread record on its way into an entry queue (05 R122, 10 R247). -/
structure Push where
  blk : Nat
  /-- the region core whose copy of the block the record is meant for -/
  core : Nat
  /-- records may be pushed from this round on -/
  round : Nat
  line : Stored
  deriving DecidableEq, Repr

/-- A decision of Scarab that a rollback takes back (21 R382 R383): its round, the bank and what stood there, the ages and context records
before it, the tile's count, the index of its trace record. -/
structure Swap where
  round : Nat
  bank : Nat
  old : Bank
  ages : Map Nat
  working : Map BankCut
  failed : List Nat
  kdone : Map (Map Nat)
  tile : Nat
  trec : Option Nat
  deriving DecidableEq, Repr

/-- A running launch (19 R342). -/
structure Launch where
  lid : Nat
  img : Nat
  /-- size of the variant and cores now held: region core i is the i-th -/
  size : Nat
  cores : List Nat
  load : Nat := 0
  ord : Bool := false
  ltag : Nat := 0
  trk : Bool := false
  maxc : Nat := 0
  cfut : Nat := 0
  /-- the values of s12 to s15 at the first residency of a block (15 R299) -/
  slots : List Nat := [0, 0, 0, 0]
  ep : Nat := 0
  pri : Nat := 0
  aseq : Nat := 0
  /-- VF that pushed it -/
  vf : Option Nat := none
  period : Nat := 1024
  /-- markers injected; fc since the last; a requested marker and its fc -/
  round : Nat := 0
  since : Nat := 0
  rmark : Option Nat := none
  /-- complete cuts: cuts below this number are complete -/
  cut : Nat := 0
  rbCut : Nat := 0
  /-- rounds whose launch effects have been applied (06 R157) -/
  eff : Nat := 0
  nthr : Nat := 0
  ntseq : Nat := 0
  /-- firings by instruction (its graph source port) and thread of copies that have left (12 R269 field K) -/
  kdone : Map (Map Nat) := []
  /-- the next TSEQ to commit; the ABORTS of the tasks that have committed -/
  tlow : Nat := 0
  tdone : Map Nat := []
  /-- BOPs of tasks that have committed, which wait for the release of younger tasks (10 R258) -/
  bops : List PendBop := []
  staged : List Eff := []
  pushes : List Push := []
  released : Bool := false
  quiets : List Quiet := []
  /-- rounds in which a block without QEX fired; of the handler launch, 2^48 × core + round -/
  active : List Nat := []
  l1cnt : Nat := 0
  rbcnt : Nat := 0
  l3 : Bool := false
  fcore : Nat := 0
  tcnt : Nat := 0
  /-- a reconfiguration in progress: the units that its token has passed, as 128 × core + bank of the core, 64 + memory tile, 80 + compute tile (02 R39) -/
  reconf : Option (List Nat) := none
  /-- blocks marked failed (05 R115), by 4,096 × load + number; ages of waiting blocks (02 R37) -/
  failed : List Nat := []
  ages : Map Nat := []
  /-- decisions of each core and tile (19 R347) -/
  decisions : Map Nat := []
  /-- context records of evicted blocks, by origin core × 2^24 + BLK_ADDR -/
  working : Map BankCut := []
  /-- the sizes folded to, oldest first (21 R387); vacated cores that wait for the engine commands accepted from them, by identity (21 R386) -/
  folds : List Nat := []
  leaving : List (Nat × List Nat) := []
  /-- a shrink in progress: new size, marker, the SHRINK firing -/
  shrink : Option (Nat × Nat × Option (Site × Nat)) := none
  /-- a round-balance fault dooms the launch (03 R63) -/
  doomed : Bool := false
  swaps : List Swap := []
  deriving DecidableEq, Repr

/-- A queued packet (19 R339): the 16 words, its address when it has one, queue, ASEQ, AGE. -/
structure Packet where
  words : List Nat
  addr : Option Nat
  queue : Nat
  aseq : Nat
  age : Nat
  vf : Option Nat
  /-- the table its CTAB names has been installed (17 R305) -/
  ctabDone : Bool := false
  /-- the slots fenced at acceptance (15 R299) -/
  fenced : Nat := 0
  deriving DecidableEq, Repr

/-- An open site (18 R322, 21 R375). -/
structure OpenSite where
  id : Nat
  fser : Option Nat
  word0 : Word64
  lk : Nat
  round : Nat
  site : Site
  /-- a call, whose result REINJ supplies to this flight -/
  call : Option Nat
  need : BitVec 3
  refilled : BitVec 3
  bp : Bool
  ops : List (Option Token)
  deriving DecidableEq, Repr

/-- A record in the fault queue. -/
structure Queued where
  fser : Nat
  record : FRec
  deriving DecidableEq, Repr

/-- A CTLOAD that waits (10 R257): the table's address, its site and flight, the launch and round, the chain it is on. -/
structure CtLoad where
  addr : Nat
  site : Site
  flight : Nat
  org : Origin
  lk : Nat
  round : Nat
  chain : Chain
  deriving DecidableEq, Repr

/-- A range command (20 R366). Phases: 0 waiting, 1 settling, 2 working. -/
structure RCmd where
  cmd : Cmd
  phase : Nat
  base : Nat
  deriving DecidableEq, Repr

/-- An invalidation issued by RINV (20 R364): accepted but waiting for its chain, or sent; the cores that have settled it. -/
structure RInv where
  id : Nat
  site : Site
  flight : Nat
  chain : Chain
  all : Bool
  lo : Nat
  hi : Nat
  sent : Bool
  left : List Nat
  deriving DecidableEq, Repr

/-- A partition (23 R398). -/
structure Partition where
  cores : List Nat := []
  bw : List Nat := [0, 0, 0, 0]
  slices : List Nat := [0, 0, 0, 0]
  shareB : List Nat := [0, 0, 0, 0]
  shareS : List Nat := [0, 0, 0, 0]
  ports : BitVec 16 := 0
  halted : Bool := false
  /-- the open round of each launch when the partition halted: the last it runs (18 R334) -/
  haltAt : Map Nat := []
  en : Bool := false
  fqlog : Nat := 0
  hcore : Nat := 0
  fqBase : Word64 := 0
  hndMsg : Word64 := 0
  fq : List Queued := []
  fser : Nat := 0
  rdirBase : Nat := 0
  rdirCnt : Nat := 0
  rdirCap : Nat := 0
  dlock : Bool := false
  busy : Bool := false
  rcmds : List RCmd := []
  rinvs : List RInv := []
  rbmax : Nat := 3
  exact : Bool := false
  tlim : Nat := 0
  shrBase : Word64 := 0
  shrLen : BitVec 40 := 0
  trcMode : Nat := 0
  trcBase : Word64 := 0
  trcLen : BitVec 32 := 0
  trcPos : Nat := 0
  trcOvf : Bool := false
  trcDiv : Bool := false
  trcErr : Bool := false
  /-- records of the bound trace that have been consumed, by buffer index -/
  trcUsed : List Nat := []
  trcEnd : Nat := 0
  /-- POS as the last recording left it: its TRAILER stands before it (19 R346) -/
  trcRec : Nat := 0
  queue : List Packet := []
  aseq : Nat := 0
  prevLid : Nat := 0
  dseq : Nat := 0
  launches : Map Launch := []
  /-- handler launch: image address and markers -/
  handler : Option Launch := none
  nkind : Nat := 0
  garnet : Map Nat := []
  /-- CTLOADs waiting, in order of acceptance (10 R257) -/
  ctloads : List CtLoad := []
  sites : List OpenSite := []
  /-- DMA windows: base, length, R, W -/
  dma : Map (Nat × Nat × Bool × Bool) := []
  /-- removed or refused packets whose CFUT resolves at the next decision (19 R343) -/
  cfuts : List (Nat × Nat) := []
  /-- launches staged by JDECs that still wait for rounds of others though their own launch has ended: launch key, VF, effect (08 R220) -/
  late : List (Nat × Option Nat × Eff) := []
  deriving DecidableEq, Repr

/-! ### The hub -/

/-- A die under warm reset (23 R408). -/
structure Die where
  /-- 0 ONLINE, 1 QUIESCE, 2 OFFLINE, 3 RETRAIN -/
  st : Nat := 0
  onl : Bool := true
  /-- fc at which it entered the state -/
  since : Nat := 0
  /-- journal entry of the command -/
  jrn : Nat := 0
  deriving DecidableEq, Repr

/-- A Tilhorn port (23 R411 R412). -/
structure Port where
  rate : Nat := 224
  rxSeq : Nat := 0
  fails : Nat := 0
  down : Bool := false
  /-- flits accepted, oldest first, and acknowledgements owed: true acknowledges -/
  rx : List Flit := []
  acks : List (Nat × Bool) := []
  deriving DecidableEq, Repr

/-- A journal entry (23 R406). -/
structure JrnEntry where
  seq : Nat
  op : Nat
  part : Nat
  src : Nat
  status : Nat
  done : Bool
  arg0 : Word64
  arg1 : Word64
  deriving DecidableEq, Repr

/-- The hub (23). -/
structure Hub where
  bstate : Nat := 0
  reason : Nat := 0
  len : Nat := 0
  bootWin : Memory := []
  ready : Bool := false
  head : Nat := 0
  tail : Nat := 0
  ring : Map HostCommand := []
  journal : List JrnEntry := []
  jrnSeq : Nat := 0
  vfs : Map Nat := []
  msix : List (Nat × Nat) := []
  peers : Map (Nat × Nat × Nat) := []
  groups : Map (Nat × Nat × List (Nat × Nat)) := []
  /-- XCOLL commands accepted on each group, counted across the cores of the package (09 R242) -/
  collSeq : Map Nat := []
  ports : Map Port := []
  aliasKey : BitVec 512 := 0
  image : Memory := []
  imageLen : Nat := 0
  measured : List (BitVec 512) := []
  thermal : ThermalLevel := .normal
  deriving DecidableEq, Repr

/-! ### The machine -/

/-- What moves next: a firing of the instruction at a site, a step of a unit or of the host, the selection of the banks once the anti-tokens of an fc have
moved, and a write of the host to a register of PF0 (log 1). -/
inductive Action where
  | fire (e : Site)
  | ev (i : Instr)
  | choose
  | doorbell (tail : Nat)
  | bootWrite (addr : Nat) (b : Byte)
  | ringWrite (i : Nat) (c : HostCommand)
  | hostWrite (addr : Nat) (b : Byte)
  /-- an error that ECC cannot correct strikes a line (21 R388) -/
  | eccError (space : Space) (line : Nat)
  | ringRead
  deriving DecidableEq, Repr

/-- The state of the machine. -/
structure State where
  fc : Nat
  agenda : List Action
  cur : Site
  tick : Nat
  /-- next identity of a flight, request, command or site -/
  nid : Nat
  mem : Memory
  hostMem : Memory
  peerMem : Map Memory
  banks : Map Bank
  ctiles : Map CTile
  mtiles : Map MTile
  cores : Map Core
  parts : Map Partition
  dies : List Die
  reqs : List Req
  units : List Arrival
  /-- rounds applied at slices, by launch, core (for the handler launch) and slice -/
  applied : Map Nat
  /-- the log of operations performed on arrival at device memory, and the bytes before them (08 R212, log 72) -/
  overlay : List Arrival
  abase : Map Byte
  waiters : List Waiter
  regs : List Reg
  /-- views of ordered-shared slices: slice, launch key, last unit, the memory of the slice's ordered-shared lines after it -/
  views : List (Nat × Nat × Nat × Memory)
  /-- interleaves of slices: slice, launch key, round -/
  interleave : List (Nat × Nat × Nat)
  /-- lines the host holds in its cache, with its copy (13 R291) -/
  hostLines : Map Payload
  hostReqs : List (Nat × Arrival)
  /-- remote units on their way, oldest first (13 R288) -/
  remoteUnits : List RemoteUnit
  /-- lines with an error that ECC cannot correct (21 R388) -/
  ecc : List (Space × Nat)
  hub : Hub
  deriving DecidableEq, Repr

/-- Why the machine stops with a fault. The spec gives every fault of a program an effect, so nothing of a program ends here. -/
inductive Fault where
  /-- raised by Step when the word at the firing site is no instruction, which the block loader never lets stand (05 R115): safe -/
  | noInstruction
  deriving DecidableEq, Repr

/-- Why a step has no meaning. -/
inductive Refusal where
  /-- raised by Dispatch for an instruction whose meaning is not written: safe -/
  | notModelled (mnemonic : String)
  deriving DecidableEq, Repr

/-- The machine right after reset: a cold boot with nothing resident, no partition, the hub waiting for an image (23 R403 R415). -/
def State.reset : State where
  fc := 0
  agenda := []
  cur := ⟨0, 0, 0, 0⟩
  tick := 0
  nid := 1
  mem := []
  hostMem := []
  peerMem := []
  banks := []
  ctiles := []
  mtiles := []
  cores := []
  parts := []
  dies := [{}, {}, {}, {}]
  reqs := []
  units := []
  applied := []
  overlay := []
  abase := []
  waiters := []
  regs := []
  views := []
  interleave := []
  hostLines := []
  hostReqs := []
  remoteUnits := []
  ecc := []
  hub := {}

end Sys2Proof.Machine
end

