-- ==== Sys2Proof/Machine/Ops.lean ====
section
/-! DEFINITION. The named operations over the state: sparse tables, memory, the accessors of banks, elements, tiles, cores, launches and
partitions, the facts of a firing, and taking a fault (18 R321-R323, 21 R374-R376), with the return from one (18 R327) beside it. -/

namespace Sys2Proof.Machine

/-! ### Sparse tables -/

/-- Look a key up. -/
def mget {α : Type} : Map α → Nat → Option α
  | [], _ => none
  | (k, v) :: m, i => if k = i then some v else if i < k then none else mget m i

/-- Store under a key, keeping the keys ascending. -/
def mset {α : Type} : Map α → Nat → α → Map α
  | [], i, x => [(i, x)]
  | (k, v) :: m, i, x => if i < k then (i, x) :: (k, v) :: m else if i = k then (i, x) :: m else (k, v) :: mset m i x

/-- Remove a key. -/
def mdel {α : Type} : Map α → Nat → Map α
  | [], _ => []
  | (k, v) :: m, i => if k = i then m else (k, v) :: mdel m i

/-- Look a key up with a default. -/
def mgetD {α : Type} (m : Map α) (i : Nat) (d : α) : α := (mget m i).getD d

/-! ### Memory -/

/-- The byte at an address; an unlisted byte is 0 (log 2). -/
def memRead (m : Memory) (a : Nat) : Byte := mgetD m a 0

/-- Store a byte, keeping the canonical form: writing 0 removes the entry. -/
def memWrite (m : Memory) (a : Nat) (b : Byte) : Memory := if b = 0 then mdel m a else mset m a b

/-- n bytes from an address upward. -/
def readBytes (m : Memory) (a : Nat) : Nat → List Byte
  | 0 => []
  | n + 1 => memRead m a :: readBytes m (a + 1) n

/-- Store bytes from an address upward. -/
def writeBytes (m : Memory) (a : Nat) : List Byte → Memory
  | [] => m
  | b :: bs => writeBytes (memWrite m a b) (a + 1) bs

/-- The number bytes stand for, little-endian (00 R3). -/
def leNat : List Byte → Nat
  | [] => 0
  | b :: bs => b.toNat + 256 * leNat bs

/-- The n low bytes of a number, little-endian (00 R3). -/
def leBytes : Nat → Nat → List Byte
  | 0, _ => []
  | n + 1, v => BitVec.ofNat 8 v :: leBytes n (v / 256)

/-- The canonical form: addresses strictly ascending, no byte 0. -/
def Memory.wf : Memory → Bool
  | [] => true
  | [(_, b)] => b != 0
  | (a, b) :: (a', b') :: m => decide (a < a') && b != 0 && Memory.wf ((a', b') :: m)

/-- The 64-bit word at an address. -/
def word64 (m : Memory) (a : Nat) : Nat := leNat (readBytes m a 8)

/-- The 32-bit word at an address. -/
def word32 (m : Memory) (a : Nat) : Nat := leNat (readBytes m a 4)

/-- The line at an address. -/
def lineAt (m : Memory) (a : Nat) : Payload := BitVec.ofNat 512 (leNat (readBytes m a 64))

/-! ### Payloads -/

/-- The code of lane j at width w. -/
def laneOf (p : Payload) (w j : Nat) : Nat := bitsAt p.toNat (w * j) w

/-- The payload whose lanes from 0 are these codes at width w. -/
def packLanes (w : Nat) : List Nat → Nat
  | [] => 0
  | c :: cs => c % 2 ^ w + 2 ^ w * packLanes w cs

/-- The payload of a vector. -/
def vecPay (w : Nat) (cs : List Nat) : Payload := BitVec.ofNat 512 (packLanes w cs)

/-- The payload of a scalar (04 R76): signed values extended to 64 bits, the others with zeros. -/
def scalarPay (f : Fmt) (c : Nat) : Payload :=
  BitVec.ofNat 512 (if f.signed then ofInt 64 (toSigned f.width c) else c % 2 ^ f.width)

/-- A scalar token of a format. -/
def scalarTok (f : Fmt) (c : Nat) : Token := { pay := scalarPay f c, tag := BitVec.ofNat 6 f.tag }

/-- A pred token. -/
def predTok (b : Bool) : Token := scalarTok .pred (if b then 1 else 0)

/-- A z64 token. -/
def z64Tok (n : Nat) : Token := scalarTok .z64 n

/-- A z64 vector of 64-bit words. -/
def vecTok (ws : List Nat) : Token := { pay := vecPay 64 ws, v := true }

/-- An order token (12 R267). -/
def orderTok (c : Chain) : Token := { tag := 0, chain := some c }

/-- The lanes 0 upward of a payload as 64-bit words. -/
def words8 (p : Payload) : List Nat := (List.range 8).map (laneOf p 64)

/-- What storage keeps of a token (04 R73). -/
def Token.stored (t : Token) : Stored := { pay := t.pay, tag := t.tag, scale := t.scale, v := t.v, poison := t.poison }

/-- A token taken from storage (04 R73). -/
def Stored.token (r : Stored) : Token := { pay := r.pay, tag := r.tag, scale := r.scale, v := r.v, poison := r.poison, chain := r.chain }

/-- The 16-bit sideband layout (18 R321). -/
def sideband (t : Token) : Nat :=
  t.tag.toNat + 2 ^ 6 * t.scale.toNat + (if t.v then 2 ^ 14 else 0) + (if t.poison then 2 ^ 15 else 0)

/-- A register image from a payload and a sideband (18 R330). -/
def ofSideband (sb : Nat) (pay : Payload) : Stored :=
  { pay := pay, tag := BitVec.ofNat 6 sb, scale := BitVec.ofNat 8 (sb / 64), v := bitAt sb 14, poison := bitAt sb 15 }

/-! ### Places -/

/-- Key of a bank: core, tile and bank. -/
def bankKeyOf (core tile bank : Nat) : Nat := core * 64 + tile * 4 + bank
/-- Key of the bank of a site. -/
def siteKey (e : Site) : Nat := bankKeyOf e.core e.tile e.bank
/-- Core of a bank key. -/
def bankCore (k : Nat) : Nat := k / 64
/-- Tile of a bank key. -/
def bankTile (k : Nat) : Nat := k / 4 % 16
/-- Site of an instruction of a bank. -/
def siteOf (k idx : Nat) : Site := ⟨k / 64, k / 4 % 16, k % 4, idx⟩
/-- Key of a tile of a core. -/
def tileKey (core t : Nat) : Nat := core * 16 + t
/-- The system bank of a core (18 R311). -/
def isSysBank (k : Nat) : Bool := k % 64 == 63
/-- Partition of a launch key. -/
def lkPart (lk : Nat) : Nat := lk / 65536
/-- LID of a launch key. -/
def lkLid (lk : Nat) : Nat := lk % 65536

/-- A bank, empty where nothing is resident. -/
def State.bank (s : State) (k : Nat) : Bank := mgetD s.banks k {}
/-- Store a bank. -/
def State.setBank (s : State) (k : Nat) (b : Bank) : State := { s with banks := mset s.banks k b }
/-- An element of a bank. -/
def Bank.elem (b : Bank) (i : Nat) : Elem := mgetD b.elems i {}
/-- Store an element. -/
def Bank.setElem (b : Bank) (i : Nat) (x : Elem) : Bank := { b with elems := mset b.elems i x }
/-- The element at a site. -/
def State.elem (s : State) (e : Site) : Elem := (s.bank (siteKey e)).elem e.idx
/-- Store the element at a site. -/
def State.setElem (s : State) (e : Site) (x : Elem) : State := s.setBank (siteKey e) ((s.bank (siteKey e)).setElem e.idx x)
/-- A compute tile. -/
def State.ctile (s : State) (k : Nat) : CTile := mgetD s.ctiles k {}
/-- Store a compute tile. -/
def State.setCtile (s : State) (k : Nat) (t : CTile) : State := { s with ctiles := mset s.ctiles k t }
/-- A memory tile. -/
def State.mtile (s : State) (k : Nat) : MTile := mgetD s.mtiles k {}
/-- Store a memory tile. -/
def State.setMtile (s : State) (k : Nat) (t : MTile) : State := { s with mtiles := mset s.mtiles k t }
/-- A core. -/
def State.core (s : State) (k : Nat) : Core := mgetD s.cores k {}
/-- Store a core. -/
def State.setCore (s : State) (k : Nat) (c : Core) : State := { s with cores := mset s.cores k c }
/-- A partition. -/
def State.part (s : State) (k : Nat) : Partition := mgetD s.parts k {}
/-- Store a partition. -/
def State.setPart (s : State) (k : Nat) (p : Partition) : State := { s with parts := mset s.parts k p }

/-- A running launch by its key; LID 0 is the handler launch (18 R312). -/
def State.launch (s : State) (lk : Nat) : Option Launch :=
  if lkLid lk = 0 then (s.part (lkPart lk)).handler else mget (s.part (lkPart lk)).launches (lkLid lk)
/-- Store a launch. -/
def State.setLaunch (s : State) (lk : Nat) (l : Launch) : State :=
  let p := s.part (lkPart lk)
  if lkLid lk = 0 then s.setPart (lkPart lk) { p with handler := some l }
  else s.setPart (lkPart lk) { p with launches := mset p.launches (lkLid lk) l }
/-- Change a launch that runs. -/
def State.mapLaunch (s : State) (lk : Nat) (f : Launch → Launch) : State :=
  match s.launch lk with
  | none => s
  | some l => s.setLaunch lk (f l)

/-- Rounds of a launch whose cut is complete; the handler launch's rounds are those of each core (18 R312, 21 R380). -/
def State.cutOf (s : State) (lk core : Nat) : Nat :=
  if lkLid lk = 0 then mgetD (s.core core).pass lk 0 else ((s.launch lk).map Launch.cut).getD 0
/-- Rounds of a launch whose effects have been applied. -/
def State.effOf (s : State) (lk core : Nat) : Nat := if lkLid lk = 0 then (s.core core).sysEff else ((s.launch lk).map Launch.eff).getD 0
/-- Markers that Chafer has injected. -/
def State.injOf (s : State) (lk core : Nat) : Nat := if lkLid lk = 0 then mgetD (s.core core).inj lk 0 else ((s.launch lk).map Launch.round).getD 0

/-- A fresh identity. -/
def State.fresh (s : State) : Nat × State := (s.nid, { s with nid := s.nid + 1 })

/-- The free value counter advances. -/
def State.tickUp (s : State) : State := { s with tick := s.tick + 1 }

/-- A slot of an element. -/
def Elem.slot (x : Elem) : Slot → InSlot
  | .l => x.l
  | .r => x.r
  | .p => x.p
/-- Store a slot. -/
def Elem.setSlot (x : Elem) (k : Slot) (v : InSlot) : Elem :=
  match k with
  | .l => { x with l := v }
  | .r => { x with r := v }
  | .p => { x with p := v }

/-! ### Blocks -/

/-- IPMAP of a header (05 R97). -/
def ipmap (b : Bank) : Nat := bitsAt b.h1.toNat 0 16
/-- OPMAP. -/
def opmap (b : Bank) : Nat := bitsAt b.h1.toNat 16 16
/-- EQV. -/
def eqv (b : Bank) : Bool := bitAt b.h1.toNat 43
/-- EQIX. -/
def eqix (b : Bank) : Nat := bitsAt b.h1.toNat 32 11
/-- PRIV is 0b01. -/
def isPriv (b : Bank) : Bool := bitsAt b.h0.toNat 20 2 == 1
/-- RPOL.QEX. -/
def isQex (b : Bank) : Bool := bitAt b.h0.toNat 23
/-- The instruction of a resident block at an index. -/
def Bank.instr (b : Bank) (i : Nat) : Option Instr :=
  match mget b.words i with
  | none => none
  | some w =>
    match decodeWord w with
    | .ok i => some i
    | .error _ => none

/-- A slot has a source (05 R116): a target of the block names it, or an input port delivers to it. -/
def hasSource (b : Bank) (idx : Nat) (k : Slot) : Bool :=
  (k == .l && decide (32 ≤ idx ∧ idx < 48) && bitAt (ipmap b) (idx - 32)) ||
  b.words.any (fun (_, w) =>
    match decodeWord w with
    | .ok i => i.targets.any (fun t => match t with
      | .slot j k' => j.toNat == idx && k' == k
      | .none => false
      | .port _ => false
      | .creg _ => false)
    | .error _ => false)

/-- The graph source port of an instruction (12 R269). -/
def gsp (b : Bank) (idx : Nat) : Nat := b.blk * 256 + (idx / 64) * 128 + idx % 64

/-! ### The facts of a firing -/

/-- Operands of a firing. -/
structure Operands where
  l : Option Token := none
  r : Option Token := none
  p : Option Token := none
  deriving DecidableEq, Repr

/-- What a firing knows of its place: site, bank key, bank, element, launch key, round, the operands that stand in its slots, its thread. -/
structure Firing where
  e : Site
  bk : Nat
  b : Bank
  el : Elem
  lk : Nat
  round : Nat
  ops : Operands
  thr : Nat
  /-- firings of the instruction by the thread since launch, before this one (12 R269 field K) -/
  k : Nat

/-- The operand a firing takes from a slot: the reinjection register ahead of the latch (18 R327); none while the slot awaits REINJ's token (18 R322). -/
def InSlot.take (x : InSlot) : Option Token := if x.waits then none else x.rein.head?.or x.latch

/-- The thread of a firing (12 R268): that of the first operand in the order L, R, P that carries one. -/
def threadOf (o : Operands) : Nat :=
  match o.l.bind Token.thr, o.r.bind Token.thr, o.p.bind Token.thr with
  | some t, _, _ => t
  | none, some t, _ => t
  | none, none, some t => t
  | none, none, none => 0xFFFFFFFF

/-- Which slots an operation names. -/
structure Slots where
  l : Bool := false
  r : Bool := false
  p : Bool := false
  deriving DecidableEq, Repr

/-- The operands of the named slots. -/
def Operands.mask (o : Operands) (k : Slots) : Operands :=
  { l := if k.l then o.l else none, r := if k.r then o.r else none, p := if k.p then o.p else none }

/-- A slot holds a true predicate that is not poison. -/
def trueAt (p : Option Token) : Bool := p.any (fun t => t.tag == 0x20 && !t.v && !t.poison && bitAt t.pay.toNat 0)

/-- The L firing of a COUNT can take place on these operands, and its P firing (06 R138). -/
def countL (o : OpA) (x : Operands) : Bool := x.l.isSome && (o.i || x.r.isSome)
def countP (o : OpA) (x : Operands) : Bool := x.p.isSome && (!trueAt x.p || o.i || x.r.isSome)

/-- The row of a COUNT that fires next: L before P, and the P firing that was ready beside the last L firing before the next L (06 R138). -/
def countFirstP (o : OpA) (el : Elem) (x : Operands) : Bool := (el.pturn && countP o x) || !countL o x

/-- The slots whose tokens are operands of the next firing (12 R268): the router operators leave tokens in the slots that a firing does not use. -/
def firingSlots (i : Instr) (el : Elem) (x : Operands) : Slots :=
  let all : Slots := { l := true, r := true, p := true }
  let count (o : OpA) : Slots := if countFirstP o el x then { r := trueAt x.p && !o.i, p := true } else { l := true, r := !o.i }
  let gate : Slots := if x.r.isSome then { r := true } else { l := true, p := true }
  match i with
  | .carry _ => (match el.ost with
    | .carry true => { r := trueAt x.p, p := true }
    | _ => { l := true })
  | .invar _ => (match el.ost with
    | .invar (some _) => { p := true }
    | _ => { l := true })
  | .merge o => if o.fl.e then all else { l := x.p.any (fun t => bitAt t.pay.toNat 0), r := x.p.any (fun t => !bitAt t.pay.toNat 0), p := true }
  | .countLFiring o => count o
  | .countPFiring o => count o
  | .gatePassFiring _ => gate
  | .gateCreditFiring _ => gate
  | _ => all

/-- Firings of an instruction by a thread since launch: of every copy of the block that is resident, and of those that have left (12 R269 field K). -/
def State.firedBefore (s : State) (b : Bank) (idx thr : Nat) : Nat :=
  ((s.banks.filter (fun (_, c) => c.lk == b.lk && c.blk == b.blk && c.st == 1 && c.upper.isNone)).map (fun (_, c) => mgetD (c.elem idx).fires thr 0)).sum +
  mgetD (((s.launch b.lk).map (fun l => mgetD l.kdone (gsp b idx) [])).getD []) thr 0

/-- The firing at the current site. -/
def State.firing (s : State) : Firing :=
  let b := s.bank (siteKey s.cur)
  let el := b.elem s.cur.idx
  let ops : Operands := { l := el.l.take, r := el.r.take, p := el.p.take }
  let thr := threadOf (match b.instr s.cur.idx with
    | some i => ops.mask (firingSlots i el ops)
    | none => ops)
  { e := s.cur, bk := (siteKey s.cur), b := b, el := el, lk := b.lk, round := el.fwd, ops := ops, thr := thr, k := s.firedBefore b s.cur.idx thr }

/-- The partition of a firing. -/
def Firing.part (f : Firing) : Nat := lkPart f.lk

/-- Remove the operand a firing took from a slot. -/
def InSlot.drop (x : InSlot) : InSlot :=
  match x.rein with
  | [] => { x with latch := none }
  | _ :: ts => { x with rein := ts }

/-- Empty operand slots of an element. -/
def Elem.consume (x : Elem) (k : Slots) : Elem :=
  { x with l := if k.l then x.l.drop else x.l, r := if k.r then x.r.drop else x.r, p := if k.p then x.p.drop else x.p }

/-- The key of a stateful effect other than a memory access (12 R269). -/
def Firing.effKey (f : Firing) : Key := ⟨gsp f.b f.e.idx, f.thr, f.k, 0, gsp f.b f.e.idx⟩

/-- How a launch counts the rounds of a core: the handler launch's cores count their own (18 R312). -/
def roundKey (lk core r : Nat) : Nat := if lkLid lk = 0 then core * 2 ^ 48 + r else r

/-- A round counts as active (06 R160). -/
def State.active (s : State) (lk core r : Nat) : State :=
  s.mapLaunch lk (fun l => if l.active.contains (roundKey lk core r) then l else { l with active := roundKey lk core r :: l.active })

/-- Count a firing: field K of the keys, the fc, the activity of the round (06 R160, 12 R269). -/
def State.countFiring (s : State) (f : Firing) : State :=
  let el := s.elem f.e
  let s := s.setElem f.e { el with fires := mset el.fires f.thr (mgetD el.fires f.thr 0 + 1), last := some s.fc, bpass := false }
  let b := s.bank f.bk
  let s := s.setBank f.bk { b with lastFire := some f.round }
  if isQex f.b then s else s.active f.lk f.e.core f.round

/-- Empty operand slots of the firing. -/
def State.consume (s : State) (f : Firing) (k : Slots) : State := s.setElem f.e ((s.elem f.e).consume k)

/-- Stage numeric flags of a firing (04 R83). -/
def State.stageFlags (s : State) (f : Firing) (fl : Nat) : State :=
  if fl = 0 then s
  else
    let b := s.bank f.bk
    s.setBank f.bk { b with nstage := b.nstage ++ [(f.round, BitVec.ofNat 5 fl)] }

/-- Put a result into output 0 (false) or output 1 (true) of the firing's instruction (02 R22). -/
def State.pushFlight (s : State) (e : Site) (second : Bool) (x : Flight) : State :=
  let el := s.elem e
  s.setElem e (if second then { el with q1 := el.q1 ++ [x] } else { el with q0 := el.q0 ++ [x] })

/-- A result of a firing with a latency: it owes its round its emission. -/
def State.result (s : State) (f : Firing) (second : Bool) (lat : Nat) (outs : List (Nat × Token)) : State :=
  let outs := outs.map (fun (k, t) => (k, { t with thr := some f.thr }))
  s.pushFlight f.e second {
    due := s.fc + lat - 1, lat := lat, outs := some outs, round := some f.round, after := none, id := 0, thr := f.thr, k := f.k,
    issued := f.round }

/-- A result that is awaited; owed tells whether the round of the firing owes it. -/
def State.await (s : State) (f : Firing) (second : Bool) (owed : Bool) (id : Nat) : State :=
  s.pushFlight f.e second {
    due := s.fc, outs := none, round := if owed then some f.round else none, after := none, id := id, thr := f.thr, k := f.k,
    issued := f.round }

/-- The copies of one token on targets 0 and 1 that form one fork (03 R56). -/
def fork (t : Token) : List (Nat × Token) := [(0, t), (1, t)]

/-- Fill an awaited result: the tokens, the fc from which it may emit, the round after whose marker it may emit. -/
def fillFlight (id due : Nat) (after : Option Nat) (outs : List (Nat × Token)) (fl : Nat) (q : List Flight) : List Flight :=
  q.map (fun x => if x.id = id ∧ x.outs.isNone then
    { x with due := due, outs := some (outs.map (fun (n, t) => (n, { t with thr := some x.thr }))), after := after, fl := fl } else x)

/-- Fill an awaited result of a site, with the flags that its emission stages. -/
def State.fill (s : State) (e : Site) (id due : Nat) (after : Option Nat) (outs : List (Nat × Token)) (fl : Nat := 0) : State :=
  let el := s.elem e
  s.setElem e { el with q0 := fillFlight id due after outs fl el.q0, q1 := fillFlight id due after outs fl el.q1 }

/-- Change a result that waits for its emission; none is left to change where it has been emitted. -/
def State.refill (s : State) (e : Site) (id : Nat) (after : Option Nat) (outs : List (Nat × Token)) : State :=
  let new (x : Flight) : Flight := if x.id = id then { x with due := s.fc, outs := some (outs.map (fun (n, t) => (n, { t with thr := some x.thr }))), after := after } else x
  let el := s.elem e
  s.setElem e { el with q0 := el.q0.map new, q1 := el.q1.map new }

/-- A result has not been emitted yet. -/
def State.waiting (s : State) (e : Site) (id : Nat) : Bool := let el := s.elem e; (el.q0 ++ el.q1).any (fun x => x.id == id)

/-- Withdraw an awaited result. -/
def State.withdraw (s : State) (e : Site) (id : Nat) : State :=
  let el := s.elem e
  s.setElem e { el with q0 := el.q0.filter (fun x => x.id ≠ id ∨ x.outs.isSome), q1 := el.q1.filter (fun x => x.id ≠ id ∨ x.outs.isSome) }

/-- The pipeline's first stage is free (02 R21 R22): nothing started in this fc, and no firing has been kept in the first stage. -/
def stageFree (el : Elem) (fc : Nat) : Bool :=
  el.last != some fc && (el.q0 ++ el.q1).all (fun x => x.outs.isNone || decide (x.due + 1 < fc + x.lat))

/-! ### Faults -/

/-- The kinds of a record (18 R322). -/
def kindOperand : Nat := 0
def kindHeld : Nat := 1
def kindNotice : Nat := 2
def kindCall : Nat := 3

/-- Fault codes (21 R372). -/
def fFormat : Nat := 0x01
def fAlign : Nat := 0x02
def fTranslation : Nat := 0x03
def fPermission : Nat := 0x04
def fResidency : Nat := 0x05
def fDirectory : Nat := 0x06
def fTile : Nat := 0x07
def fAtomic : Nat := 0x08
def fStreamer : Nat := 0x09
def fDieOffline : Nat := 0x0A
def fEcc : Nat := 0x0B
def fRouting : Nat := 0x10
def fThread : Nat := 0x11
def fBalance : Nat := 0x12
def fSpawn : Nat := 0x13
def fLaunch : Nat := 0x14
def fPatch : Nat := 0x15
def fBlockLoad : Nat := 0x16
def fWeight : Nat := 0x18
def fMatrix : Nat := 0x19
def fResidue : Nat := 0x1A
def fEngine : Nat := 0x20
def fCollective : Nat := 0x21
def fRange : Nat := 0x22
def fContext : Nat := 0x23
def fFuture : Nat := 0x28
def fDouble : Nat := 0x29
def fJoin : Nat := 0x2A
def fPermit : Nat := 0x2B
def fBarrier : Nat := 0x2C
def fLoop : Nat := 0x30
def fBoost : Nat := 0x31
def fTraceDiv : Nat := 0x38
def fTraceOvf : Nat := 0x39
def fPrereq : Nat := 0x3A
def fSvc : Nat := 0x40
def fBrk : Nat := 0x41
def fBreak : Nat := 0x42
def fEmulate : Nat := 0x43

/-- The SITE word (18 R321). -/
def siteWord (code lid core tile bank idx kind need : Nat) (bp : Bool) : Word64 :=
  BitVec.ofNat 64 (code * 2 ^ 56 + lid * 2 ^ 40 + core * 2 ^ 33 + tile * 2 ^ 29 + bank * 2 ^ 27 + idx * 2 ^ 20 + kind * 2 ^ 18 + need * 2 ^ 15 +
    (if bp then 2 ^ 14 else 0))

/-- A partition halts (18 R334, 21 R376): by HALT, or by a machine check. -/
def State.halt (s : State) (part : Nat) : State :=
  let p := s.part part
  if p.halted then s else s.setPart part { p with halted := true, haltAt := p.launches.map (fun (lid, l) => (lid, l.round)) }

/-- A fault that cannot be diverted is a machine check (18 R313, 21 R376). -/
def State.mustCheck (s : State) (f : Firing) : Bool := !(s.part f.part).en || isSysBank f.bk

/-- The port of a core has room for a record (18 R323). -/
def State.portRoom (s : State) (core : Nat) : Bool := decide ((s.core core).frecs.length < 16)

/-- A unit of a core holds its last stage for a record that finds the port full (18 R323). -/
def State.portHolds (s : State) (core : Nat) : Bool := !(s.core core).fwait.isEmpty

/-- The bits of the operand slots that hold a token. -/
def presentMask (o : Operands) : Nat := (if o.l.isSome then 1 else 0) + (if o.r.isSome then 2 else 0) + (if o.p.isSome then 4 else 0)

/-- Words 2 to 7 of a record that is not a call (21 R374). -/
def recordWords (o : Operands) (info aux : Nat) : List Word64 :=
  let pay (t : Option Token) : Word64 := match t with
    | none => 0
    | some t => t.pay.setWidth 64
  let sb (t : Option Token) : Nat := match t with
    | none => 0
    | some t => sideband t
  [pay o.l, pay o.r, pay o.p, BitVec.ofNat 64 (sb o.l + 2 ^ 16 * sb o.r + 2 ^ 32 * sb o.p + 2 ^ 48 * presentMask o), BitVec.ofNat 64 info, BitVec.ofNat 64 aux]

/-- A record goes to the core's port; with 16 records there the unit that raises it holds with it (18 R323). -/
def State.sendRecord (s : State) (core : Nat) (r : FRec) : State :=
  let c := s.core core
  s.setCore core (if s.portRoom core then { c with frecs := c.frecs ++ [r] } else { c with fwait := c.fwait ++ [r] })

/-- The tile a SITE word names: the tile of the span the instruction stands in (18 R321). -/
def siteTile (f : Firing) : Nat :=
  match f.b.tile2 with
  | some t => if f.e.idx ≥ 64 then t else f.e.tile
  | none => f.e.tile

/-- Slots that await the token of REINJ (18 R322). -/
def Elem.awaitSlots (x : Elem) (l r p : Bool) : Elem :=
  { x with l := { x.l with waits := x.l.waits || l }, r := { x.r with waits := x.r.waits || r }, p := { x.p with waits := x.p.waits || p } }

/-- TAKING A FAULT, one operation for every fault of a firing (18 R321-R323, 21 R374-R376): the record goes to the core's port; a kind other than
notice opens a site, which keeps the operands it removed; the slots of need wait for REINJ. While the partition's faults are not diverted, or
in a system bank, the partition halts instead. With no room at the port the firing holds. -/
def State.raise (s : State) (f : Firing) (kind code need : Nat) (bp : Bool) (words : List Word64) (call : Option Nat) : State :=
  if s.mustCheck f then s.halt f.part
  else if !s.portRoom f.e.core then s
  else
    let w0 := siteWord code (lkLid f.lk) f.e.core (siteTile f) f.e.bank f.e.idx kind need bp
    let (id, s) := s.fresh
    if kind = kindNotice then s.sendRecord f.e.core ⟨w0, words, 0⟩
    else
      let s := s.sendRecord f.e.core ⟨w0, words, id⟩
      let keep (bit : Nat) (t : Option Token) : Option Token := if bitAt need bit then t else none
      let p := s.part f.part
      let site : OpenSite :=
        { id := id, fser := none, word0 := w0, lk := f.lk, round := f.round, site := f.e, call := call, need := BitVec.ofNat 3 need, refilled := 0,
          bp := bp, ops := [keep 0 f.ops.l, keep 1 f.ops.r, keep 2 f.ops.p] }
      let s := s.setPart f.part { p with sites := p.sites ++ [site] }
      let el := (s.elem f.e).consume { l := bitAt need 0, r := bitAt need 1, p := bitAt need 2 }
      let el := if kind = kindOperand then el.awaitSlots (bitAt need 0) (bitAt need 1) (bitAt need 2) else el
      s.setElem f.e { el with held := if kind = kindHeld then true else el.held }

/-- A held firing with all its present operands (08 R214, 21 R374). -/
def State.raiseHeld (s : State) (f : Firing) (code info aux : Nat) : State :=
  s.raise f kindHeld code (presentMask f.ops) false (recordWords f.ops info aux) none

/-- What a unit keeps of a firing for its notices (21 R374). -/
def Firing.origin (f : Firing) : Origin := { site := some f.e, tile := siteTile f, words := (recordWords f.ops 0 0).take 4 }

/-- A notice from a unit (21 R374): the place, launch and operands as the device knows them, INFO and AUX. Of a firing in a system bank it is a machine check
(18 R313). -/
def State.notice (s : State) (lk core code info aux : Nat) (o : Origin := {}) : State :=
  if !(s.part (lkPart lk)).en || (lkLid lk == 0 && o.site.isSome) then s.halt (lkPart lk)
  else
    let e := o.site.getD ⟨core, 0, 0, 0⟩
    let w0 := siteWord code (lkLid lk) e.core o.tile e.bank e.idx kindNotice 0 false
    s.sendRecord core ⟨w0, o.words ++ [BitVec.ofNat 64 info, BitVec.ofNat 64 aux], 0⟩

/-- The poison payload of a faulting firing (03 R65). -/
def poisonPay (f : Firing) (code : Nat) : Nat :=
  f.thr % 2 ^ 24 * 2 ^ 40 + f.b.blk * 2 ^ 16 + (f.e.idx / 64) * 2 ^ 15 + f.e.idx % 128 * 2 ^ 8 + code

/-- The poison token of a faulting firing (03 R65). -/
def poisonTok (f : Firing) (tag : Nat) (v : Bool) (code : Nat) : Token :=
  { pay := BitVec.ofNat 512 (poisonPay f code), tag := BitVec.ofNat 6 tag, v := v, poison := true }

/-- The first poisoned operand in the order L, R, P (03 R66). -/
def Operands.poison (o : Operands) : Option Token :=
  let p (t : Option Token) : Bool := t.any Token.poison
  if p o.l then o.l else if p o.r then o.r else if p o.p then o.p else none

/-! ### The return from a fault -/

/-- REINJ's search (18 R327): the open site of a serial number and SITE word. -/
def findSite (p : Partition) (fser : Nat) (word0 : Word64) : Option OpenSite :=
  p.sites.find? (fun x => x.fser == some fser && x.word0 == word0)

/-- The kind of a site (18 R322). -/
def OpenSite.kind (x : OpenSite) : Nat := bitsAt x.word0.toNat 18 2

/-- Close a site: it leaves the table; a held instruction may fire again; at a B-flag site the next firing executes as if B were clear. -/
def State.closeSite (s : State) (part : Nat) (x : OpenSite) : State :=
  let p := s.part part
  let s := s.setPart part { p with sites := p.sites.filter (fun y => y.id ≠ x.id) }
  let el := s.elem x.site
  s.setElem x.site { el with held := el.held && x.kind != kindHeld, bpass := x.bp || el.bpass }

/-- THE RETURN FROM A FAULT (18 R327): deliver a token to slot k of an open site, or the result of a call; the answer tells whether it was taken. -/
def State.reinject (s : State) (part fser : Nat) (word0 : Word64) (tok : Token) (k : Nat) : State × Bool :=
  match findSite (s.part part) fser word0 with
  | none => (s, false)
  | some x =>
    match x.call with
    | some fl => ((s.fill x.site fl s.fc none (fork { tok with rv := true })).closeSite part x, true)
    | none =>
      if !x.need.getLsbD k || x.refilled.getLsbD k then (s, false)
      else
        -- a token of tag 0x00 selects the slot's retained operand (21 R375)
        let own := (x.ops.getD k none)
        let tok := if tok.tag = 0 then own.getD tok else if k = 2 ∧ (own.any (fun t => t.tag = 0)) then own.getD tok else tok
        let el := s.elem x.site
        let sl : Slot := if k = 0 then .l else if k = 1 then .r else .p
        let s := s.setElem x.site (el.setSlot sl { el.slot sl with rein := tok :: (el.slot sl).rein, waits := false })
        let y := { x with refilled := x.refilled ||| BitVec.ofNat 3 (2 ^ k) }
        let p := s.part part
        let s := s.setPart part { p with sites := p.sites.map (fun z => if z.id = x.id then y else z) }
        (if y.refilled = y.need then s.closeSite part y else s, true)

end Sys2Proof.Machine
end

