-- ==== Sys2Proof/Machine/Image.lean ====
section
/-! DEFINITION. The graph image in device memory: the tables of 05 R123, the entry queue of a block (05 R122) and the images' checks. -/

namespace Sys2Proof.Machine

/-- A field of n bytes at an offset of an image. -/
def imgField (m : Memory) (img off n : Nat) : Nat := leNat (readBytes m (img + off) n)

/-- A variant record. -/
structure Variant where
  size : Nat
  nload : Nat
  ltab : Nat
  deriving DecidableEq, Repr

/-- A load record. -/
structure LoadRec where
  nblk : Nat
  nq : Nat
  nsw : Nat
  ninit : Nat
  btab : Nat
  qtab : Nat
  swtab : Nat
  inittab : Nat
  mtab : Nat
  nmt : Nat
  deriving DecidableEq, Repr

/-- A block-table entry. -/
structure BlockEnt where
  blk : Nat
  core : Nat
  tile : Nat
  tile2 : Nat
  bank : Nat
  pinned : Bool
  deriving DecidableEq, Repr

/-- A queue-table entry. -/
structure QueueEnt where
  core : Nat
  tile : Nat
  depth : Nat
  deriving DecidableEq, Repr

/-- A switch-table entry. -/
structure SwitchEnt where
  src : Nat
  out : Nat
  dst : Nat
  inp : Nat
  deriving DecidableEq, Repr

/-- ILEN of an image. -/
def imgLen (m : Memory) (img : Nat) : Nat := imgField m img 8 4

/-- The variants of an image. -/
def variants (m : Memory) (img : Nat) : List Variant :=
  let v := imgField m img 0x10 4
  (List.range (imgField m img 0x0C 2)).map (fun i => ⟨imgField m img (v + 16 * i) 2, imgField m img (v + 16 * i + 2) 2, imgField m img (v + 16 * i + 4) 4⟩)

/-- The load record at an offset. -/
def loadAt (m : Memory) (img o : Nat) : LoadRec :=
  ⟨imgField m img o 2, imgField m img (o + 2) 2, imgField m img (o + 4) 2, imgField m img (o + 6) 2, imgField m img (o + 8) 4, imgField m img (o + 12) 4,
   imgField m img (o + 16) 4, imgField m img (o + 20) 4, imgField m img (o + 24) 4, imgField m img (o + 28) 2⟩

/-- Load i of the variant of a size. -/
def loadRec (m : Memory) (img size i : Nat) : LoadRec :=
  match (variants m img).find? (fun v => v.size == size) with
  | some v => loadAt m img (v.ltab + 32 * i)
  | none => ⟨0, 0, 0, 0, 0, 0, 0, 0, 0, 0⟩

/-- Number of loads of a variant. -/
def loadCount (m : Memory) (img size : Nat) : Nat := (((variants m img).find? (fun v => v.size == size)).map Variant.nload).getD 0

/-- Block-table entry n. -/
def blockEnt (m : Memory) (img : Nat) (r : LoadRec) (n : Nat) : BlockEnt :=
  let w := imgField m img (r.btab + 8 * n) 8
  ⟨bitsAt w 0 24, bitsAt w 24 7, bitsAt w 31 4, bitsAt w 35 4, bitsAt w 39 2, bitAt w 41⟩

/-- The block table with its numbers. -/
def blockTable (m : Memory) (img : Nat) (r : LoadRec) : List (Nat × BlockEnt) := (List.range r.nblk).map (fun n => (n, blockEnt m img r n))

/-- Queue-table entry q. -/
def queueEnt (m : Memory) (img : Nat) (r : LoadRec) (q : Nat) : QueueEnt :=
  let w := imgField m img (r.qtab + 8 * q) 8
  ⟨bitsAt w 0 7, bitsAt w 7 4, bitsAt w 11 12 + 1⟩

/-- The switch table. -/
def switchTable (m : Memory) (img : Nat) (r : LoadRec) : List SwitchEnt :=
  (List.range r.nsw).map (fun i =>
    let w := imgField m img (r.swtab + 8 * i) 8
    ⟨bitsAt w 0 12, bitsAt w 12 4, bitsAt w 16 12, bitsAt w 28 4⟩)

/-- The init entries of a block number: register and value (05 R122 R396). -/
def initsOf (m : Memory) (img : Nat) (r : LoadRec) (n : Nat) : List (Nat × Nat) :=
  (List.range r.ninit).filterMap (fun i =>
    let w := imgField m img (r.inittab + 16 * i) 8
    if bitsAt w 0 12 = n then some (bitsAt w 12 4, imgField m img (r.inittab + 16 * i + 8) 8) else none)

/-- The memory-tile entries: region core, tile, configuration. -/
def tileTable (m : Memory) (img : Nat) (r : LoadRec) : List (Nat × Nat × TileCfg) :=
  (List.range r.nmt).map (fun i =>
    let w := imgField m img (r.mtab + 8 * i) 8
    (bitsAt w 0 7, bitsAt w 7 4, if bitsAt w 11 2 = 2 then .lbuf (bitsAt w 15 13 + 1) else .store (bitsAt w 13 2 + 1)))

/-- First header word of a block. -/
def header0 (m : Memory) (img blk : Nat) : Word64 := BitVec.ofNat 64 (imgField m img (64 * blk) 8)
/-- Second header word. -/
def header1 (m : Memory) (img blk : Nat) : Word64 := BitVec.ofNat 64 (imgField m img (64 * blk + 8) 8)
/-- Instruction word i of a block. -/
def blockWord (m : Memory) (img blk i : Nat) : Word64 := BitVec.ofNat 64 (imgField m img (64 * blk + 16 + 8 * i) 8)
/-- ICNT + 1. -/
def wordCount (h0 : Word64) : Nat := bitsAt h0.toNat 12 7 + 1
/-- The words of a block. -/
def blockWords (m : Memory) (img blk : Nat) : List Word64 := (List.range (wordCount (header0 m img blk))).map (blockWord m img blk)

/-- A BLK_ADDR names a block header of the image: a line of the image that begins with MAGIC (02 R30, 05 R97). -/
def namesHeader (m : Memory) (img blk : Nat) : Bool := decide (blk ≠ 0 ∧ 64 * blk + 24 ≤ imgLen m img) && bitsAt (header0 m img blk).toNat 0 8 == 0xB7

/-- A BLK_ADDR names a block of the image (19 R338, log 68): it names a header, or some load of some variant lists it, whose header then fails at block load,
step 1 (05 R115 R123). -/
def namesBlock (m : Memory) (img blk : Nat) : Bool :=
  namesHeader m img blk ||
  (variants m img).any (fun v => (List.range v.nload).any (fun i => (blockTable m img (loadAt m img (v.ltab + 32 * i))).any (fun e => e.2.blk == blk)))

/-- The place in the region of a core of the variant: each fold takes it modulo the size folded to (21 R387). -/
def Launch.place (l : Launch) (rc : Nat) : Nat := l.folds.foldl (fun x m => x % m) rc % l.cores.length

/-- The physical core of a region core. -/
def Launch.coreOf (l : Launch) (rc : Nat) : Nat := l.cores.getD (l.place rc) 0

/-- The load record a launch runs. -/
def State.loadOf (s : State) (l : Launch) : LoadRec := loadRec s.mem l.img l.size l.load

/-- The memory tile of entry q of the load's queue table, as a tile key; none at or beyond NQ. -/
def State.queueTile (s : State) (l : Launch) (q : Nat) : Option Nat :=
  let r := s.loadOf l
  if q < r.nq then (let e := queueEnt s.mem l.img r q; some (tileKey (l.coreOf e.core) e.tile)) else none

/-- The entry queue of a block (05 R122): every copy of a block reads the queue that its header's EQIX names. -/
def State.entryQueue (s : State) (l : Launch) (blk : Nat) : Option Nat := s.queueTile l (bitsAt (header1 s.mem l.img blk).toNat 32 11)

/-- The copy of a block that a record meant for region core c goes to (05 R122): that of core c, else that of the lowest-numbered core with one; none where
the load places no copy. -/
def State.copyFor (s : State) (l : Launch) (blk c : Nat) : Option Nat :=
  let cs := ((blockTable s.mem l.img (s.loadOf l)).filter (fun x => x.2.blk == blk)).map (fun x => x.2.core)
  if cs.contains c then some c
  else cs.foldl (fun (m : Option Nat) x => match m with
    | none => some x
    | some y => some (min x y)) none

/-- A record of the entry queue of a block goes to the copy of a region core (05 R122). -/
def State.recordFor (s : State) (l : Launch) (blk core : Nat) (r : QRec) : Bool := r.copy.all (fun c => (s.copyFor l blk c).all (fun k => k == core))

/-- The launch of a resident block, in the load that the block belongs to: while a reconfiguration token moves, cores stand in different loads. -/
def State.launchOfBank (s : State) (b : Bank) : Option Launch :=
  (s.launch b.lk).map (fun (l : Launch) => if 2 ^ 40 ≤ b.num then l else { l with load := b.num / 4096 })

/-- The launch of a firing. -/
def State.launchOf (s : State) (f : Firing) : Option Launch := s.launchOfBank f.b

/-- Records of a tile that can be popped (06 R151). -/
def poppable (recs : List QRec) : List QRec := recs.filter (fun r => r.key.isNone)

/-- The queue of a tile has room (06 R151 R152): committed and staged records below the depth. -/
def State.queueRoom (s : State) (k : Nat) : Bool :=
  match (s.mtile k).cfg with
  | .fifo d _ => decide ((s.mtile k).recs.length < d)
  | .store _ => true
  | .lbuf _ => true

/-- Append a record to a queue: staged under its key in ordered mode with several pushers (06 R151). -/
def State.queuePush (s : State) (k : Nat) (lk round : Nat) (key : Key) (v : Stored) (copy : Option Nat) : State :=
  let t := s.mtile k
  let many := match t.cfg with
    | .fifo _ n => decide (1 < n)
    | .store _ => false
    | .lbuf _ => false
  let ordered := (s.launch lk).any Launch.ord
  let r : QRec := { val := v, round := round, key := if many && ordered then some key else none, seq := s.nid, copy := copy, lk := lk }
  { s.setMtile k { t with recs := t.recs ++ [r] } with nid := s.nid + 1 }

/-- Remove record i of a queue in a round; it is kept until that round's cut is complete (21 R380). -/
def State.queueTake (s : State) (k i lk round : Nat) : State :=
  let t := s.mtile k
  let cut := s.cutOf lk (k / 16)
  s.setMtile k { t with recs := t.recs.eraseIdx i, popped := (t.recs[i]?.map (fun r => (round, r))).toList ++ t.popped.filter (fun x => decide (cut ≤ x.1)) }

/-- Remove the head record of a queue. -/
def State.queuePop (s : State) (k lk round : Nat) : State := s.queueTake k 0 lk round

/-- The head record of a queue that can be popped. -/
def State.queueHead (s : State) (k : Nat) : Option Stored := (((s.mtile k).recs.head?).filter (fun r => r.key.isNone)).map QRec.val

/-! ### The graph loader (05 R123) -/

/-- Sizes a variant may have (02 R41). -/
def variantSizes : List Nat := [1, 2, 4, 8, 16, 24, 48, 96]

/-- No value twice. -/
def distinct : List Nat → Bool
  | [] => true
  | x :: xs => !xs.contains x && distinct xs

/-- The table of n entries of k bytes at an offset lies in the image. -/
def within (len off n k : Nat) : Bool := decide (off + n * k ≤ len)

/-- One load's tables are acceptable. -/
def loadOk (m : Memory) (img len : Nat) (r : LoadRec) (resv : Nat) : Bool :=
  let q := (List.range r.nq).map (fun i => queueEnt m img r i)
  let tiles := q.map (fun e => e.core * 16 + e.tile) ++ (tileTable m img r).map (fun t => t.1 * 16 + t.2.1)
  decide (r.nblk ≤ 4096 ∧ r.nq ≤ 2048 ∧ r.nmt ≤ 1536 ∧ resv = 0) &&
  within len r.btab r.nblk 8 && within len r.qtab r.nq 8 && within len r.swtab r.nsw 8 && within len r.inittab r.ninit 16 && within len r.mtab r.nmt 8 &&
  (List.range r.nblk).all (fun i => imgField m img (r.btab + 8 * i) 8 / 2 ^ 42 == 0) &&
  (List.range r.nq).all (fun i => imgField m img (r.qtab + 8 * i) 8 / 2 ^ 23 == 0) &&
  (List.range r.nsw).all (fun i => imgField m img (r.swtab + 8 * i) 8 / 2 ^ 32 == 0) &&
  (List.range r.ninit).all (fun i => imgField m img (r.inittab + 16 * i) 8 / 2 ^ 16 == 0) &&
  (List.range r.nmt).all (fun i =>
    let w := imgField m img (r.mtab + 8 * i) 8
    w / 2 ^ 28 == 0 && ((bitsAt w 11 2 == 1 && bitsAt w 13 2 != 2 && bitsAt w 15 13 == 0) || (bitsAt w 11 2 == 2 && bitsAt w 13 2 == 0))) &&
  distinct tiles

/-- Two address ranges overlap. -/
def overlap (a n b k : Nat) : Bool := decide (a < b + k ∧ b < a + n)

/-- No two of the range records overlap. -/
def rangesApart : List (Nat × Nat) → Bool
  | [] => true
  | (a, n) :: rs => rs.all (fun (b, k) => !overlap a n b k) && rangesApart rs

/-- The graph loader accepts an image (05 R123). -/
def imageOk (m : Memory) (img : Nat) : Bool :=
  let len := imgLen m img
  let vs := variants m img
  let f (o n : Nat) := imgField m img o n
  let ranges := (List.range (f 0x20 4)).map (fun i => (f (f 0x1C 4 + 32 * i) 8, f (f 0x1C 4 + 32 * i + 8) 8))
  f 0 4 == 0x4B5A4749 && f 4 2 == 1 && decide (f 7 1 < 2) && decide (1 ≤ f 0x0C 2 ∧ f 0x0C 2 ≤ 8) && f 0x0E 2 == 0 &&
  (List.range 20).all (fun i => f (0x2C + i) 1 == 0) &&
  within len (f 0x10 4) (f 0x0C 2) 16 && within len (f 0x14 4) (f 0x18 4) 16 && within len (f 0x1C 4) (f 0x20 4) 32 && within len (f 0x24 4) (f 0x28 4) 144 &&
  (List.range (f 0x0C 2)).all (fun i => f (f 0x10 4 + 16 * i + 8) 8 == 0) &&
  vs.all (fun v => variantSizes.contains v.size) && distinct (vs.map Variant.size) && vs.any (fun v => v.size == 1) &&
  vs.all (fun v => within len v.ltab v.nload 32 && (List.range v.nload).all (fun i => loadOk m img len (loadAt m img (v.ltab + 32 * i)) (f (v.ltab + 32 * i + 30) 2))) &&
  (List.range (f 0x18 4)).all (fun i => within len (f (f 0x14 4 + 16 * i + 12) 4) (f (f 0x14 4 + 16 * i + 8) 4) 1) &&
  (List.range (f 0x20 4)).all (fun i =>
    let o := f 0x1C 4 + 32 * i
    let attr := f (o + 16) 8
    f (o + 24) 8 == 0 && decide (f (o + 8) 8 ≠ 0 ∧ f (o + 8) 8 % 64 = 0) && attr / 256 == 0) &&
  rangesApart ranges &&
  (List.range (f 0x28 4)).all (fun i =>
    let o := f 0x24 4 + 144 * i
    let fl := f o 8
    bitsAt fl 1 7 == 0 && fl / 2 ^ 14 == 0 && (bitAt fl 0 || (f (o + 8) 8 == 0 && bitsAt (f (o + 16 + 80) 8) 0 4 == 0)))

/-- IFLAGS.ORD: launches of the image run in ordered mode. -/
def imageOrd (m : Memory) (img : Nat) : Bool := bitAt (imgField m img 7 1) 0

end Sys2Proof.Machine
end

