-- ==== Sys2Proof/Machine/Operands.lean ====
section
/-! DEFINITION. The operand forms: tag, V bit and scale checks (04 R70-R76), PM predication and sticky R (05 R106), immediates (05 R109), early
firing and anti-tokens (03 R48-R57), and the two schemes every firing follows: that of a pure producer, whose faults become poison, and that
of an anchor, whose faults are raised at once (03 R58 R64-R67, 08 R214). -/

namespace Sys2Proof.Machine

/-! ### Checks -/

/-- The format of a token; none for order, thread and reserved tags. -/
def Token.fmt (t : Token) : Option Fmt := Fmt.ofTag t.tag.toNat

/-- A type field accepts a tag (04 R70); tag-following is resolved by the caller. -/
def tyAccepts (ty : Ty) (t : Token) : Bool := t.fmt.any (fun f => f.ty == ty)

/-- An integer token must carry scale 127, or the reserved 255 (04 R74). -/
def scaleOk (t : Token) : Bool := t.fmt.any (fun f => !f.isInt || t.scale == 127 || t.scale == 255)

/-- A typed data operand of the V bit v (04 R71 R74). -/
def dataOk (ty : Ty) (v : Bool) (t : Token) : Bool := tyAccepts ty t && t.v == v && scaleOk t

/-- An address operand, a packet address, a TICKET: i64 or z64, scalar (04 R71). -/
def isAddr (t : Token) : Bool := tyAccepts .i64 t && !t.v && scaleOk t

/-- A scalar z64 (20 R362). -/
def isZ64 (t : Token) : Bool := t.tag == 5 && !t.v && scaleOk t

/-- A 32-bit scalar, signed or unsigned. -/
def isW32 (t : Token) : Bool := tyAccepts .i32 t && !t.v && scaleOk t

/-- An i64 or z64 vector. -/
def isVec64 (t : Token) : Bool := tyAccepts .i64 t && t.v && scaleOk t

/-- An order token (04 R70). -/
def isOrder (t : Token) : Bool := t.tag == 0

/-- A pred token (04 R71). -/
def isPred (t : Token) : Bool := t.tag == 0x20

/-- A tag R70 names. -/
def tagNamed (t : Token) : Bool := t.fmt.isSome || t.tag == 0 || t.tag == 0x21

/-- An integer operand of the reserved scale, which reads as zero in every lane and sets NV (04 R74). -/
def Token.zeroed (t : Token) : Bool := !t.poison && t.fmt.any Fmt.isInt && t.scale == 255
/-- The payload an operand is read with: zero where the reserved scale says so (04 R74). -/
def Token.num (t : Token) : Payload := if t.zeroed then 0 else t.pay
/-- The lanes 0 upward of what a vector reads as, as 64-bit words. -/
def Token.words (t : Token) : List Nat := words8 t.num
/-- Low 64 bits of what an operand reads as. -/
def Token.word (t : Token) : Nat := bitsAt t.num.toNat 0 64
/-- Low 32 bits of what an operand reads as. -/
def Token.low32 (t : Token) : Nat := bitsAt t.num.toNat 0 32
/-- The flags of reading a token as a number (04 R74). -/
def Token.numFlags (t : Token) : Nat := if t.zeroed then flagNV else 0
/-- The truth value of a scalar pred. -/
def Token.truth (t : Token) : Bool := bitAt t.pay.toNat 0

/-- Check an optional operand. -/
def opIs (t : Option Token) (p : Token → Bool) : Bool := t.any p

/-! ### Immediates -/

/-- The token imm18 stands for under I (05 R109): sign-extended or zero-extended integers, a BF16 value encoded into the type, in every lane.
An integer that the format of L under .tf does not hold keeps its low bits (DESIGN CHOICE, log 82). -/
def immTok (f : Fmt) (u v : Bool) (imm : BitVec 18) : Token :=
  let c := if f.isFloat then (encodeValue (codeValue .bf16 (imm.toNat % 65536)).1 f 127 0).code
    else if u || f == .pred then imm.toNat % 2 ^ f.width else ofInt f.width imm.toInt
  let c := if f == .pred then imm.toNat % 2 else c
  { pay := if v then vecPay f.width (List.replicate f.lanes c) else scalarPay f c, tag := BitVec.ofNat 6 f.tag, v := v }

/-- The headroom a stream starts with (04 R89): H0 of the automatic mode; 0 for a conversion that gives none (DESIGN CHOICE, log 70). -/
def headroom0 (o : OpA) : Nat := if o.sub = 3 then o.imm.toNat % 16 else 0

/-! ### Anti-tokens at a consumer -/

/-- The producers of an operand slot inside the block: instruction index and target number of each target that names it. -/
def producers (b : Bank) (idx : Nat) (k : Slot) : List (Nat × Nat) :=
  b.words.flatMap (fun (j, w) =>
    match decodeWord w with
    | .error _ => []
    | .ok i => (i.targets.zipIdx).filterMap (fun (t, n) => match t with
      | .slot x k' => if x.toNat = idx ∧ k' = k then some (j, n) else none
      | .none => none
      | .port _ => none
      | .creg _ => none))

/-- The slot is fed by an input port of the block (05 R98). -/
def portFed (b : Bank) (idx : Nat) (k : Slot) : Bool := k == .l && decide (32 ≤ idx ∧ idx < 48) && bitAt (ipmap b) (idx - 32)

/-- The circuit or arc of the bank that ends at an operand slot of an instruction over a hop. -/
def arcTo (b : Bank) (idx : Nat) (k : Slot) : Option Nat :=
  b.arcs.findIdx? (fun a => a.dstNum.isNone && a.dstIdx == idx && a.dstSlot == k && decide (a.src.1 < 128))

/-- The anti-token of an empty slot can leave (03 R50): fewer than 7 pending cancels at a producer in the tile, the reverse register next to
the consumer empty on a routed arc, that next to an input port (03 R61). -/
def antiCanLeave (b : Bank) (idx : Nat) (k : Slot) : Bool :=
  if portFed b idx k then (mget b.rev (idx - 32)).isNone
  else
    match arcTo b idx k with
    | some j => (b.arcs[j]?.bind (fun a => a.hops.getLast?)).all (fun h => h.rev.isNone)
    | none => (producers b idx k).all (fun (j, n) => decide (((b.elem j).pend.getD n []).length < 7))

/-- Send an anti-token up a slot: it stands at the latch in this fc (03 R53). -/
def Elem.sendAnti (x : Elem) (k : Slot) : Elem := x.setSlot k { x.slot k with anti := (x.slot k).anti ++ [x.fwd] }

/-! ### The schemes -/

/-- The needed slots all hold a token. -/
def ready (o : Operands) (k : Slots) : Bool := (!k.l || o.l.isSome) && (!k.r || o.r.isSome) && (!k.p || o.p.isSome)

/-- NV where one of the operands that are read as numbers has the reserved scale (04 R74). -/
def readFlags (o : Operands) (k : Slots) : Nat :=
  if (o.mask k).l.any Token.zeroed || (o.mask k).r.any Token.zeroed || (o.mask k).p.any Token.zeroed then flagNV else 0

/-- What PM makes of P (05 R106): execute with the lanes of the mask, emit nothing, or a format trap. -/
inductive Predicate where
  | run (all : Bool) (bits : Nat)
  | skip
  | trap
  deriving DecidableEq, Repr

/-- The reading of PM: v tells a vector instruction that takes a vector P. -/
def predicate (pm : PM) (v : Bool) (p : Option Token) : Predicate :=
  match pm, p with
  | .none, _ => .run true 0
  | _, none => .run true 0
  | pm, some t =>
    if !isPred t then .trap
    else if t.v then
      (if v then .run false (if pm = .onTrue then t.pay.toNat % 2 ^ 128 else (t.pay.toNat % 2 ^ 128) ^^^ (2 ^ 128 - 1)) else .trap)
    else if t.truth = (pm == .onTrue) then .run true 0
    else .skip

/-- Lane j is on. -/
def Predicate.lane : Predicate → Nat → Bool
  | .run all bits, j => all || bitAt bits j
  | .skip, _ => false
  | .trap, _ => false

/-- An instruction with a context-register target is an anchor (03 R58). -/
def toRegister (b : Bank) (idx : Nat) : Bool :=
  (b.instr idx).any (fun i => i.targets.any (fun t => match t with
    | .creg _ => true
    | .none => false
    | .slot _ _ => false
    | .port _ => false))

/-- The description of a pure producer's firing. -/
structure PureFiring where
  fl : Flags
  /-- a vector P is accepted under PM -/
  vecP : Bool
  lat : Nat
  need : Slots
  /-- tag and V bit of a poison result -/
  tag : Nat
  v : Bool
  /-- the value: the tokens on the targets with flags, or a fault code -/
  eval : Operands → Predicate → Except Nat (List (Nat × Token) × Nat)
  /-- the early decision of R48 on the operands present, with its flags -/
  early : Operands → Option (List (Nat × Token) × Nat) := fun _ => none
  /-- the targets that carry the value -/
  outs : Token → List (Nat × Token) := fork
  /-- what an executed firing does to the instruction's own state -/
  post : State → Firing → Operands → Predicate → State := fun s _ _ _ => s

/-- The slots a firing needs, with P under PM. -/
def withPm (fl : Flags) (k : Slots) : Slots := { k with p := k.p || fl.pm != .none }

/-- B traps this firing (05 R106, 18 R327). -/
def breaks (fl : Flags) (el : Elem) : Bool := fl.b && !el.bpass

/-- A breakpoint site (21 R393): a held firing whose NEED names every present operand. -/
def State.breakpoint (s : State) (f : Firing) : State :=
  s.raise f kindHeld fBreak (presentMask f.ops) true (recordWords f.ops 0 0) none

/-- Anti-tokens up the empty needed slots; the present ones are emptied (03 R48 R57). -/
def Elem.early (x : Elem) (need : Slots) (o : Operands) : Elem :=
  let x := if need.l then (if o.l.isSome then { x with l := x.l.drop } else x.sendAnti .l) else x
  let x := if need.r then (if o.r.isSome then { x with r := x.r.drop } else x.sendAnti .r) else x
  if need.p then (if o.p.isSome then { x with p := x.p.drop } else x.sendAnti .p) else x

/-- Every empty needed slot's anti-token can leave. -/
def antisCanLeave (f : Firing) (need : Slots) (o : Operands) : Bool :=
  (!need.l || o.l.isSome || antiCanLeave f.b f.e.idx .l) && (!need.r || o.r.isSome || antiCanLeave f.b f.e.idx .r) &&
  (!need.p || o.p.isSome || antiCanLeave f.b f.e.idx .p)

/-- The tokens a pure producer emits and its flags: poison of the first poisoned operand (03 R66), nothing where PM does not match, poison for a
fault (03 R64), or the value. -/
def pureOutcome (p : PureFiring) (f : Firing) (o : Operands) : List (Nat × Token) × Nat :=
  match o.poison with
  | some t => (p.outs { t with tag := BitVec.ofNat 6 p.tag, v := p.v, scale := 127, rv := true, chain := none }, 0)
  | none =>
    match predicate p.fl.pm p.vecP o.p with
    | .skip => ([], 0)
    | .trap => (p.outs (poisonTok f p.tag p.v fFormat), 0)
    | .run all bits =>
      match p.eval o (.run all bits) with
      | .error c => (p.outs (poisonTok f p.tag p.v c), 0)
      | .ok r => r

/-- With E, an operand that decides stands against poison or a wrong format in the other (03 R51). -/
def decided (p : PureFiring) (f : Firing) (o : Operands) : List (Nat × Token) × Nat :=
  let r := pureOutcome p f o
  if p.fl.e && r.1.any (fun x => x.2.poison) then
    match p.early o with
    | some d => d
    | none => r
  else r

/-- The firing executes: no poison, and PM lets it run. -/
def executes (p : PureFiring) (o : Operands) : Bool :=
  o.poison.isNone && (match predicate p.fl.pm p.vecP o.p with
    | .run _ _ => true
    | .skip => false
    | .trap => false)

/-- The fault of a pure producer's firing as an anchor's (03 R58 R67): the code and AUX; none where the firing executes or PM skips it. -/
def anchorOutcome (p : PureFiring) (o : Operands) : Option (Nat × Nat) :=
  match o.poison with
  | some t => some (t.word % 256, t.word)
  | none =>
    match predicate p.fl.pm p.vecP o.p with
    | .skip => none
    | .trap => some (fFormat, 0)
    | .run all bits =>
      match p.eval o (.run all bits) with
      | .error c => some (c, 0)
      | .ok _ => none

/-- The firing of a pure producer (02 R21 R22, 03 R50 R64 R66): it holds while the instruction is held, the first stage is taken, or an operand
is missing and nothing decides early. With a context-register target it is an anchor, whose faults are raised at once and which never fires early
(03 R58 R67). -/
def State.pureFire (s : State) (p : PureFiring) : State :=
  let f := s.firing
  let need := withPm p.fl p.need
  let o := f.ops.mask need
  if f.el.held || !stageFree f.el s.fc then s
  else if ready o need then
    if breaks p.fl f.el then s.breakpoint { f with ops := o }
    else
    match (if toRegister f.b f.e.idx then anchorOutcome p o else none) with
    | some (code, aux) => s.raiseHeld { f with ops := o } code 0 aux
    | none =>
      let r := decided p f o
      let s := (s.countFiring f).consume f { need with r := need.r && !p.fl.k }
      let s := s.stageFlags f r.2
      let s := if r.1 = [] then s else s.result f false p.lat r.1
      if executes p o then p.post s f o (predicate p.fl.pm p.vecP o.p) else s
  else
    match (if p.fl.e && !p.fl.b && !toRegister f.b f.e.idx then p.early o else none) with
    | none => s
    | some d =>
      if antisCanLeave f need o then
        let s := s.countFiring f
        let s := (s.setElem f.e ((s.elem f.e).early need o)).stageFlags f d.2
        if d.1 = [] then s else s.result f false p.lat d.1
      else s

/-- The description of an anchor's firing: the slots it needs and which of them it takes, a condition to hold on, the faults at firing (code and
INFO), and the effect once the operands are taken. -/
structure AnchorFiring where
  fl : Flags
  lat : Nat := 1
  need : Slots
  /-- the operands that are read as numbers (04 R74) -/
  nums : Slots := { l := true, r := true }
  hold : State → Firing → Bool := fun _ _ => false
  check : State → Firing → Option (Nat × Nat) := fun _ _ => none
  /-- for an anchor whose faults remove one operand alone (06 R127, 09 R228), the slot that a failed check removes -/
  culprit : Option (State → Firing → Nat) := none
  act : State → Firing → State

/-- A fault of a routing operator (06 R127): the faulting operand alone leaves its latch with the record. -/
def State.raiseOperand (s : State) (f : Firing) (bit code aux : Nat) (info : Nat := 0) : State :=
  s.raise f kindOperand code (2 ^ bit) false (recordWords f.ops info aux) none

/-- The slot of the first poisoned operand in the order L, R, P. -/
def Operands.poisonBit (o : Operands) : Nat := if o.l.any Token.poison then 0 else if o.r.any Token.poison then 1 else 2

/-- A fault of an anchor: the poison that it consumes, or what its check has found. -/
def AnchorFiring.fault (a : AnchorFiring) (s : State) (f : Firing) (code info aux : Nat) : State :=
  match a.culprit with
  | none => s.raiseHeld f code info aux
  | some k => s.raiseOperand f (if f.ops.poison.isSome then f.ops.poisonBit else k s f) code aux info

/-- The firing of an anchor (03 R58 R67, 08 R214, 21 R373): B first, then poison and format, then its own faults; a fault takes every operand into
a held site, or the faulting one alone, and nothing else happens. -/
def State.anchorFire (s : State) (a : AnchorFiring) : State :=
  let f := s.firing
  let need := withPm a.fl a.need
  let f := { f with ops := f.ops.mask need }
  if f.el.held || !stageFree f.el s.fc || !ready f.ops need then s
  else if breaks a.fl f.el then s.breakpoint f
  else
    match f.ops.poison with
    | some t => a.fault s f (t.word % 256) 0 t.word
    | none =>
      match predicate a.fl.pm false f.ops.p with
      | .trap => s.raiseHeld f fFormat 0 0
      | .skip => (s.countFiring f).consume f need
      | .run _ _ =>
        match a.check s f with
        | some (code, info) => a.fault s f code info 0
        | none =>
          if a.hold s f then s
          else a.act (((s.countFiring f).consume f need).stageFlags f (readFlags f.ops a.nums)) f

/-- The need of L alone, of L and R, of L and P. -/
def needL : Slots := { l := true }
def needLR : Slots := { l := true, r := true }
def needLP : Slots := { l := true, p := true }

/-- P is needed where it has a source (08 R193). -/
def orderNeed (b : Bank) (idx : Nat) (k : Slots) : Slots := { k with p := hasSource b idx .p }

/-- An optional order token (04 R71). -/
def orderOk (t : Option Token) : Bool := t.all isOrder

end Sys2Proof.Machine
end

