-- ==== Sys2Proof/Machine/Range.lean ====
section
/-! DEFINITION. Range translation (20 R351-R359): entries, the table, the walk, the checks of an access and its parts; the hold of ranges that
move or flip. -/

namespace Sys2Proof.Machine

/-! ### Entries (20 R352 R353) -/

/-- Fields of an entry's words. -/
def entBase (w : List Nat) : Nat := w.getD 0 0
def entLimit (w : List Nat) : Nat := w.getD 1 0
def entOffset (w : List Nat) : Nat := w.getD 2 0
def entRlo (w : List Nat) : Nat := w.getD 3 0
def entRhi (w : List Nat) : Nat := w.getD 4 0
def entAttr (w : List Nat) : Nat := w.getD 5 0
def entNoff (w : List Nat) : Nat := w.getD 6 0
def entState (w : List Nat) : Nat := bitsAt (entAttr w) 16 2
def entRdev (w : List Nat) : Nat := bitsAt (entAttr w) 8 8
/-- Attribute bits. -/
def atRD : Nat := 0
def atWR : Nat := 1
def atUSR : Nat := 2
def atCACH : Nat := 3
def atBIAS : Nat := 4
def atHOST : Nat := 5
def atPIN : Nat := 6
def atOSH : Nat := 7
def entBit (w : List Nat) (k : Nat) : Bool := bitAt (entAttr w) k

/-- A well-formed entry (20 R353). -/
def entOk (w : List Nat) : Bool :=
  (w.take 5).all (fun x => x % 64 == 0) &&
  decide (entBase w < entLimit w ∧ entBase w ≤ entRlo w ∧ entRlo w ≤ entRhi w ∧ entRhi w ≤ entLimit w) &&
  entAttr w / 2 ^ 18 == 0 && w.getD 7 0 == 0 && entState w != 3 &&
  (!entBit w atHOST || (entBit w atBIAS && entRdev w == 0)) &&
  (entRdev w == 0 || (!entBit w atHOST && !entBit w atBIAS && !entBit w atCACH && !entBit w atOSH)) &&
  (!entBit w atPIN || (entRlo w == entBase w && entRhi w == entLimit w)) &&
  (entNoff w == 0 || entState w == 1)

/-- An entry contains an address. -/
def entHas (w : List Nat) (a : Nat) : Bool := decide (entBase w ≤ a ∧ a < entLimit w)

/-- Directory entry i of a partition, in device memory. -/
def dirEntry (s : State) (p : Partition) (i : Nat) : List Nat := (List.range 8).map (fun j => word64 s.mem (p.rdirBase + 64 * i + 8 * j))

/-- Store directory entry i. -/
def dirWrite (s : State) (p : Partition) (i : Nat) (w : List Nat) : State :=
  { s with mem := writeBytes s.mem (p.rdirBase + 64 * i) ((w.take 8).flatMap (leBytes 8)) }

/-- The binary search of a walk (20 R357). -/
def walkSearch (s : State) (p : Partition) (a : Nat) : Nat → Nat → Nat → Nat
  | 0, lo, _ => lo
  | n + 1, lo, hi =>
    if hi - lo > 1 then
      let mid := (lo + hi) / 2
      if entBase (dirEntry s p mid) ≤ a then walkSearch s p a n mid hi else walkSearch s p a n lo mid
    else lo

/-- The result of a walk: an entry, or a fault code (20 R357). -/
def walkResult (s : State) (p : Partition) (a : Nat) : Except Nat (List Nat) :=
  if p.rdirCnt = 0 then .error fTranslation
  else
    let e := dirEntry s p (walkSearch s p a 64 0 p.rdirCnt)
    if !entHas e a then .error fTranslation else if !entOk e then .error fDirectory else .ok e

/-! ### The table (20 R355) -/

/-- The table entry that contains an address. -/
def tableHit (c : Core) (a : Nat) : Option (Nat × Rtt) := c.rtt.find? (fun (_, r) => entHas r.words a)

/-- Where a walk installs: the lowest invalid entry, else the unlocked entry least recently used. -/
def installAt (c : Core) : Option Nat :=
  match (List.range 32).find? (fun i => (mget c.rtt i).isNone) with
  | some i => some i
  | none =>
    let us := c.rtt.filter (fun (_, r) => !r.lock)
    (us.foldl (fun (best : Option (Nat × Rtt)) x => match best with
      | none => some x
      | some b => if x.2.used < b.2.used then some x else some b) none).map Prod.fst

/-- Install an entry by a walk. -/
def Core.install (c : Core) (fc : Nat) (w : List Nat) : Core :=
  match installAt c with
  | some i => { c with rtt := mset c.rtt i { words := w, lock := false, used := fc } }
  | none => c

/-- The entry that translates an address at a core: the table's, or the directory's where every table entry is locked, so that a walk can install none (20 R355). -/
def State.entryAt (s : State) (core part a : Nat) : Option (List Nat) :=
  match tableHit (s.core core) a with
  | some (_, r) => some r.words
  | none =>
    if (installAt (s.core core)).isSome || (s.part part).dlock || (s.part part).busy then none else (walkResult s (s.part part) a).toOption

/-- A range at this core is held (20 R368 R369): a command moves or flips it and the core's invalidation marker has passed. -/
def State.heldAt (s : State) (core part a : Nat) : Bool :=
  (s.part part).rcmds.any (fun r => r.phase == 1 && (r.cmd.op == 0xBE || r.cmd.op == 0xBF) && entHas (dirEntry s (s.part part) ((walkSearch s (s.part part) r.base 64 0 (s.part part).rdirCnt))) a &&
    !((s.core core).invals.any (fun i => i.id == r.cmd.id && i.marker.isNone)))

/-! ### Checks of an access (20 R354, 08 R195) -/

/-- Translation of an access or part. -/
inductive Trans where
  | ok (parts : List Part)
  /-- held: a walk is wanted for the address, or the range is held -/
  | wait (walk : Option Nat)
  | fault (code addr : Nat)
  deriving DecidableEq, Repr

/-- The partition whose space device addresses lie in. -/
def inShare (p : Partition) (a n : Nat) : Bool :=
  (List.range 4).any (fun d => decide (p.shareB.getD d 0 ≤ a ∧ a + n ≤ p.shareB.getD d 0 + p.shareS.getD d 0 ∧ a / 2 ^ 38 = d))

/-- A host address lies in a DMA window that allows the access (23 R410). -/
def inWindow (p : Partition) (a n : Nat) (rd wr : Bool) : Bool :=
  p.dma.any (fun (_, b, len, r, w) => decide (b ≤ a ∧ a + n ≤ b + len) && (!rd || r) && (!wr || w))

/-- The backing of a part (20 R351 R354 step 6). -/
def backing (s : State) (part : Nat) (w : List Nat) (a n off : Nat) (rd wr : Bool) : Trans :=
  let b := (a + entOffset w) % 2 ^ 64
  let mk (sp : Space) : Trans := .ok [{
    space := sp, addr := b, size := n, off := off, cach := entBit w atCACH && !entBit w atBIAS && entRdev w == 0, osh := entBit w atOSH,
    hostBias := entBit w atBIAS, prog := a }]
  if entRdev w ≠ 0 then (if (mget s.hub.peers (entRdev w)).isSome then mk (.peer (entRdev w)) else .fault fTranslation a)
  else if entBit w atHOST then (if inWindow (s.part part) b n rd wr then mk .host else .fault fTranslation a)
  else if inShare (s.part part) b n then mk .dev
  else .fault fTranslation a

/-- Join the parts of two translations: both are checked before either is performed (08 R195). -/
def Trans.join : Trans → Trans → Trans
  | .ok p, .ok q => .ok (p ++ q)
  | .fault c a, _ => .fault c a
  | .wait w, _ => .wait w
  | .ok _, .fault c a => .fault c a
  | .ok _, .wait w => .wait w

/-- One part that lies in one line; n bounds the splits at range boundaries. -/
def transPart (s : State) (core part : Nat) (user rd wr : Bool) : Nat → Nat → Nat → Nat → Trans
  | 0, a, _, _ => .fault fTranslation a
  | fuel + 1, a, n, off =>
    if s.heldAt core part a then .wait none
    else
      match s.entryAt core part a with
      | none =>
        match (s.core core).walks.find? (fun w => w.addr == a && w.fault.isSome) with
        | some w => .fault (w.fault.getD fTranslation) a
        | none => .wait (some a)
      | some w =>
        if entLimit w < a + n then
          let k := entLimit w - a
          Trans.join (transPart s core part user rd wr fuel a k off) (transPart s core part user rd wr fuel (a + k) (n - k) (off + k))
        else if user && !entBit w atUSR then .fault fPermission a
        else if (rd && !entBit w atRD) || (wr && !entBit w atWR) then .fault fPermission a
        else if a < entRlo w ∨ entRhi w < a + n then .fault fResidency a
        else backing s part w a n off rd wr

/-- Translate an access of n bytes, split at the line boundary (08 R195). -/
def State.translate (s : State) (core part : Nat) (user rd wr : Bool) (a n : Nat) : Trans :=
  let first := min n (64 - a % 64)
  if first < n then Trans.join (transPart s core part user rd wr 3 a first 0) (transPart s core part user rd wr 3 ((a + first) % 2 ^ 64) (n - first) first)
  else transPart s core part user rd wr 3 a n 0

/-- The table of a core as a walk for an address leaves it. -/
def State.walked (s : State) (core part a : Nat) : State :=
  match tableHit (s.core core) a with
  | some _ => s
  | none => match walkResult s (s.part part) a with
    | .ok e => s.setCore core ((s.core core).install s.fc e)
    | .error _ => s

/-- A translation at a home unit, which waits for nothing, a range that moves or flips included (08 R220). -/
def State.translateHome (s : State) (core part : Nat) (user rd wr : Bool) (a n : Nat) : Option (List Part) :=
  let s := s.setPart part { s.part part with rcmds := [] }
  match ((s.walked core part a).walked core part (a + n - 1)).translate core part user rd wr a n with
  | .ok ps => some ps
  | .wait _ => none
  | .fault _ _ => none

/-- A miss asks for a walk, behind those of earlier misses; the first 8 are in flight (20 R358, log 84). -/
def State.askWalk (s : State) (core : Nat) (a : Option Nat) : State :=
  match a with
  | none => s
  | some a =>
    let c := s.core core
    if c.walks.any (fun w => w.addr == a) then s else s.setCore core { c with walks := c.walks ++ [⟨a, none⟩] }

/-- A failed walk has been reported. -/
def State.dropWalk (s : State) (core a : Nat) : State :=
  let c := s.core core
  s.setCore core { c with walks := c.walks.filter (fun w => w.addr ≠ a ∨ w.fault.isNone) }

/-- The entries an access hit become the most recently used (20 R355). -/
def State.touch (s : State) (core : Nat) (parts : List Part) : State :=
  let c := s.core core
  s.setCore core { c with rtt := c.rtt.map (fun (i, r) => (i, if parts.any (fun p => entHas r.words p.prog) then { r with used := s.fc } else r)) }

/-- RANGE_WALK (20 R357 R358): the oldest walk in flight ends, and with it those of every miss that its range contains, unless DLOCK or BUSY makes walks wait;
a failed one keeps its fault for the access. -/
def execRangeWalk (core : Nat) (s : State) : Host.Outcome State Fault Refusal :=
  let c := s.core core
  let part := match c.lk with
    | some lk => lkPart lk
    | none => ((s.parts.find? (fun (_, p) => p.cores.contains core)).map Prod.fst).getD 0
  let p := s.part part
  if p.dlock || p.busy then .next s
  else
    match c.walks.find? (fun w => w.fault.isNone) with
    | none => .next s
    | some w =>
      match walkResult s p w.addr with
      | .ok e =>
        let c := c.install s.fc e
        .next (s.setCore core { c with walks := c.walks.filter (fun x => x.fault.isSome || !entHas e x.addr) })
      | .error code => .next (s.setCore core { c with walks := c.walks.map (fun x => if x = w then { x with fault := some code } else x) })

end Sys2Proof.Machine
end

