-- ==== Sys2Proof/Machine/Fabric.lean ====
section
/-! DEFINITION. The fabric: which targets accept, the emission of results, the hops of tokens, markers and anti-tokens, and cancelled firings
(02 R20-R25, 03 R50-R63). -/

namespace Sys2Proof.Machine

/-! ### Acceptance -/

/-- A back-edge input of a router operator (06 R140). -/
def backEdge (i : Option Instr) (k : Slot) : Bool :=
  match i, k with
  | some (.carry _), .r => true
  | some (.carry _), .p => true
  | some (.invar _), .p => true
  | some (.gatePassFiring _), .r => true
  | some (.gateCreditFiring _), .r => true
  | _, _ => false

/-- A token on its way to a latch can enter it: the latch is empty, the markers ahead of the token have been forwarded (02 R25), or an anti-token
meets it there (03 R54). -/
def latchAccepts (b : Bank) (idx : Nat) (k : Slot) : Bool :=
  let el := b.elem idx
  let x := el.slot k
  x.latch.isNone && (backEdge (b.instr idx) k || decide (x.marks ≤ el.fwd)) || !x.anti.isEmpty

/-- A free constant (06 R133): a CONST with no source on L. -/
def freeConst (b : Bank) (idx : Nat) : Bool :=
  match b.instr idx with
  | some (.const _) => !hasSource b idx .l
  | _ => false

/-- A token that enters a slot ahead of a marker that its instruction has forwarded belongs to the cut of that marker (log 62). -/
def Elem.noteCut (x : Elem) (k : Slot) (t : Token) : Elem :=
  let m := (x.slot k).marks
  let note (c : ElemCut) : ElemCut := match k with
    | .l => { c with l := c.l ++ [t] }
    | .r => { c with r := c.r ++ [t] }
    | .p => { c with p := c.p ++ [t] }
  { x with snaps := x.snaps.map (fun (n, c) => (n, if m < n then note c else c)) }

/-- Put a token into a latch, or let it vanish with the anti-token that stands there (03 R54). -/
def Bank.deliver (b : Bank) (idx : Nat) (k : Slot) (t : Token) : Bank :=
  let el := b.elem idx
  let x := el.slot k
  match x.anti with
  | _ :: rest => b.setElem idx (el.setSlot k { x with anti := rest })
  | [] =>
    let el := if x.marks < el.fwd ∧ !(producers b idx k).any (fun y => freeConst b y.1) then el.noteCut k t else el
    b.setElem idx (el.setSlot k { x with latch := some t })

/-- An input port accepts: a pending drop takes the token (03 R61), or the latch of instruction 32 + j accepts (05 R98). -/
def portAccepts (b : Bank) (j : Nat) : Bool := !(mgetD b.drops j []).isEmpty || latchAccepts b (32 + j) .l

/-- Deliver a token to an input port. -/
def Bank.deliverPort (b : Bank) (j : Nat) (t : Token) : Bank :=
  match mgetD b.drops j [] with
  | _ :: rest => { b with drops := mset b.drops j rest }
  | [] => b.deliver (32 + j) .l t

/-- The bank of the block with a number in the load of a launch. -/
def State.bankOfNum (s : State) (lk num : Nat) : Option Nat :=
  (s.banks.find? (fun (_, b) => b.st == 1 && b.lk == lk && b.num == num && b.upper.isNone)).map Prod.fst

/-- The bank at the end of an arc of a bank; none where the destination block is not resident. -/
def State.arcBank (s : State) (bk : Nat) (a : Arc) : Option Nat :=
  match a.dstNum with
  | none => some bk
  | some n => s.bankOfNum (s.bank bk).lk n

/-- The end of an arc accepts a token. -/
def State.arcEndAccepts (s : State) (bk : Nat) (a : Arc) : Bool :=
  match s.arcBank bk a with
  | none => false
  | some d => if a.dstNum.isSome then portAccepts (s.bank d) a.dstIdx else latchAccepts (s.bank d) a.dstIdx a.dstSlot

/-- Put a token at the end of an arc. -/
def State.arcDeliver (s : State) (bk : Nat) (a : Arc) (t : Token) : State :=
  match s.arcBank bk a with
  | none => s
  | some d => s.setBank d (if a.dstNum.isSome then (s.bank d).deliverPort a.dstIdx t else (s.bank d).deliver a.dstIdx a.dstSlot t)

/-- The first hop of an arc, or its end where it has none, accepts a token; a pending cancel at a fork counts as accepting (03 R55 R56). -/
def State.arcAccepts (s : State) (bk : Nat) (a : Arc) : Bool :=
  !a.pend.isEmpty ||
  (match a.hops with
   | h :: _ => h.fwd.isNone && h.marks == 0
   | [] => s.arcEndAccepts bk a)

/-- Send a token into an arc. -/
def State.arcSend (s : State) (bk j : Nat) (t : Token) : State :=
  let b := s.bank bk
  match b.arcs[j]? with
  | none => s
  | some a =>
    match a.pend with
    | _ :: rest => s.setBank bk { b with arcs := b.arcs.set j { a with pend := rest } }
    | [] =>
      match a.hops with
      | h :: hs =>
        -- an anti-token at the hop meets the token (03 R54)
        let h := if h.rev.isSome then { h with rev := none } else { h with fwd := some t }
        s.setBank bk { b with arcs := b.arcs.set j { a with hops := h :: hs } }
      | [] => s.arcDeliver bk a t

/-- The arcs that leave a target of an instruction: those of the target itself, or the circuits of the port it names. -/
def arcsOf (b : Bank) (idx n : Nat) (t : Target) : List Nat :=
  (List.range b.arcs.length).filter (fun j => b.arcs[j]?.any (fun a => match t with
    | .port p => a.src == (128 + p.toNat, 0)
    | .slot _ _ => a.src == (idx, n)
    | .none => false
    | .creg _ => false))

/-- The instructions of a bank that emit on an output port. -/
def portWriters (b : Bank) (p : Nat) : List Nat :=
  (b.words.map Prod.fst).filter (fun i => (b.instr i).any (fun ins => ins.targets.any (fun t => t == .port (BitVec.ofNat 4 p))))

/-- An instruction whose block has another writer of the port that is still in an earlier round waits for it: the port's circuits carry one marker a round
(02 R25). -/
def portAhead (b : Bank) (idx p : Nat) : Bool :=
  (portWriters b p).any (fun j => j != idx && !freeConst b j && decide ((b.elem j).fwd < (b.elem idx).fwd))

/-- A target accepts a result (02 R22 R23, 03 R55). -/
def State.targetAccepts (s : State) (bk idx n : Nat) (t : Target) : Bool :=
  let b := s.bank bk
  !((b.elem idx).pend.getD n []).isEmpty ||
  (match t with
   | .none => true
   | .creg _ => true
   | .port p => !portAhead b idx p.toNat && (arcsOf b idx n t).all (fun j => b.arcs[j]?.all (s.arcAccepts bk))
   | .slot i k =>
     match arcsOf b idx n t with
     | [] => latchAccepts b i.toNat k
     | js => js.all (fun j => b.arcs[j]?.all (s.arcAccepts bk)))

/-- Remove the oldest pending cancel of a target. -/
def Elem.popCancel (x : Elem) (n : Nat) : Elem := { x with pend := x.pend.modify n List.tail }

/-- Emit one token on one target: a pending cancel takes it, a register target stages it (02 R23), a slot or circuit receives it. -/
def State.emitTarget (s : State) (bk idx n : Nat) (t : Target) (tok : Token) (x : Flight) : State :=
  let b := s.bank bk
  let el := b.elem idx
  if !(el.pend.getD n []).isEmpty then s.setBank bk (b.setElem idx (el.popCancel n))
  else
    match t with
    | .none => s
    | .creg i =>
      let g := gsp b idx
      let w : RegWrite := { key := ⟨g, x.thr, x.k, 0, g⟩, seq := s.nid, reg := i.toNat, val := { tok.stored with chain := none } }
      let r := x.round.getD el.fwd
      { s.setBank bk { b with rstage := b.rstage ++ [(r, w)] } with nid := s.nid + 1 }
    | .port _ => (arcsOf b idx n t).foldl (fun s j => s.arcSend bk j tok) s
    | .slot i k =>
      match arcsOf b idx n t with
      | [] => s.setBank bk (b.deliver i.toNat k tok)
      | js => js.foldl (fun s j => s.arcSend bk j tok) s

/-- The target numbers and targets a flight emits on, with its tokens. -/
def flightOuts (ts : List Target) (x : Flight) : List (Nat × Target × Token) :=
  (x.outs.getD []).map (fun (n, tok) => (n, ts.getD n .none, tok))

/-- Postpone the results of a pipeline that holds (02 R22). -/
def holdFlights (fc : Nat) (q : List Flight) : List Flight :=
  q.map (fun x => if x.outs.isSome ∧ fc ≤ x.due then { x with due := x.due + 1 } else x)

/-- Numeric flags that belong to the round of emission (04 R83). -/
def State.flagsOut (s : State) (bk r fl : Nat) : State :=
  if fl = 0 then s else s.setBank bk { s.bank bk with nstage := (s.bank bk).nstage ++ [(r, BitVec.ofNat 5 fl)] }

/-- Emit the oldest result of one output when it is due and every target accepts; otherwise the pipeline holds (02 R22 R23). A drain's second
output follows its last row token (09 R231). -/
def State.emitQueue (s : State) (e : Site) (second : Bool) : State :=
  let bk := siteKey e
  let b := s.bank bk
  let el := b.elem e.idx
  let q := if second then el.q1 else el.q0
  match q, b.instr e.idx with
  | x :: rest, some i =>
    let late : Bool := match i with
      | .mxdrain _ => second && !el.q0.isEmpty
      | _ => false
    if x.outs.isNone || decide (s.fc < x.due) || x.after.any (fun r => decide (el.fwd ≤ r)) || late then s
    else
      let outs := flightOuts i.targets x
      if outs.all (fun (n, t, _) => s.targetAccepts bk e.idx n t) && x.push.all (fun p => s.queueRoom p.1) then
        -- a result that no round of firing owes is kept while a rollback may take its emission back (21 R382)
        let sent := if x.round.isNone && decide (x.issued < el.fwd) then (el.fwd, second, x) :: el.sent else el.sent
        let s := s.setElem e (if second then { el with q1 := rest, sent := sent } else { el with q0 := rest, sent := sent })
        let g := gsp b e.idx
        let s := match x.push with
          | some (k, v) => s.queuePush k b.lk (x.round.getD el.fwd) ⟨g, x.thr, x.k, 0, g⟩ v x.copy
          | none => s
        let s := s.flagsOut bk (x.round.getD el.fwd) x.fl
        outs.foldl (fun s (n, t, tok) => s.emitTarget bk e.idx n t tok x) s
      else s.setElem e (if second then { el with q1 := holdFlights s.fc q } else { el with q0 := holdFlights s.fc q })
  | _, _ => s

/-! ### Hops -/

/-- Move what stands at a hop one place on: the token, or else one of the markers behind it (02 R20 R25, 03 R54). -/
def State.hopMove (s : State) (bk j h : Nat) : State :=
  let b := s.bank bk
  match b.arcs[j]? with
  | none => s
  | some a =>
    match a.hops[h]?, a.hops[h + 1]? with
    | none, _ => s
    | some x, some y =>
      match x.fwd with
      | some t =>
        -- an anti-token that leaves the next hop as the token would enter it, and one that stands there, meet the token
        if y.rev.isSome then
          s.setBank bk { b with arcs := b.arcs.set j { a with hops := (a.hops.set h { x with fwd := none }).set (h + 1) { y with rev := none } } }
        else if y.fwd.isNone && y.marks == 0 then
          s.setBank bk { b with arcs := b.arcs.set j { a with hops := (a.hops.set h { x with fwd := none }).set (h + 1) { y with fwd := some t } } }
        else s
      | none =>
        if x.marks = 0 then s
        else s.setBank bk { b with arcs := b.arcs.set j { a with hops := (a.hops.set h { x with marks := x.marks - 1 }).set (h + 1) { y with marks := y.marks + 1 } } }
    | some x, none =>
      match x.fwd with
      | some t =>
        if s.arcEndAccepts bk a then
          (s.setBank bk { b with arcs := b.arcs.set j { a with hops := a.hops.set h { x with fwd := none } } }).arcDeliver bk a t
        else s
      | none =>
        if x.marks = 0 then s
        else
          match s.arcBank bk a with
          -- markers pass a block that is not resident (log 18)
          | none => s.setBank bk { b with arcs := b.arcs.set j { a with hops := a.hops.set h { x with marks := x.marks - 1 } } }
          | some d =>
            let s := s.setBank bk { b with arcs := b.arcs.set j { a with hops := a.hops.set h { x with marks := x.marks - 1 } } }
            let db := s.bank d
            let idx := if a.dstNum.isSome then 32 + a.dstIdx else a.dstIdx
            let k := if a.dstNum.isSome then .l else a.dstSlot
            let el := db.elem idx
            s.setBank d (db.setElem idx (el.setSlot k { el.slot k with marks := (el.slot k).marks + 1 }))

/-- TOKEN_HOP (02 R20): what stands at a hop of an arc moves on where the next place is free. -/
def execTokenHop (bank arc hop : Nat) (s : State) : Host.Outcome State Fault Refusal := .next (s.hopMove bank arc hop)

/-! ### Anti-tokens -/

/-- A round-balance fault (03 R63): the anti-token of a round has met that round's marker; the notice names the consumer. -/
def State.balanceFault (s : State) (bk idx : Nat) : State :=
  let b := s.bank bk
  if !(s.part (lkPart b.lk)).en || isSysBank bk then s.halt (lkPart b.lk)
  else
    let tile := if idx ≥ 64 then b.tile2.getD (bankTile bk) else bankTile bk
    let w0 := siteWord fBalance (lkLid b.lk) (bankCore bk) tile (bk % 4) idx kindNotice 0 false
    -- the round is discarded as by TKILL: the launch stops, and GRAPH_RETIRE ends it as killed
    (s.sendRecord (bankCore bk) ⟨w0, [0, 0, 0, 0, 0, 0], 0⟩).mapLaunch b.lk (fun l => { l with doomed := true })

/-- A target of an instruction carries order tokens (03 R59, 06 R132, 08 R193, 09 R236, 10 R244, 18 R324, 20 R362). -/
def orderOut (i : Instr) (n : Nat) : Bool :=
  match i.form with
  | .event _ => false
  | .b _ => false
  | .c _ _ => false
  | .a op o =>
    if [0x90, 0x92, 0x94, 0x96, 0xB5, 0xC0, 0xC2, 0xC5, 0xC8, 0xC9, 0xCA, 0xD7, 0xD8].contains op ∨ (0xA0 ≤ op ∧ op ≤ 0xAB) ∨ (0xB8 ≤ op ∧ op ≤ 0xBF) then n == 1
    else if op = 0x99 ∨ op = 0xB1 then o.bit 0 || n == (if op = 0x99 then 1 else 0)
    else if op = 0xB0 then n == 0
    else [0x07, 0x08, 0x91, 0x93, 0x95, 0x97, 0x98, 0x9A, 0xB2, 0xB3, 0xB4, 0xC1, 0xC3, 0xC4, 0xCB, 0xCC, 0xCE, 0xDE, 0xDF].contains op

/-- An anti-token of round r reaches a target of an instruction (03 R55 R57 R58 R60): it becomes a pending cancel, unless the producer has forwarded
marker r (03 R63). An output that carries order tokens absorbs it, and its chain goes on (03 R59, 08 R193). -/
def State.antiAtTarget (s : State) (bk idx n r consumer : Nat) : State :=
  let b := s.bank bk
  let el := b.elem idx
  if r < el.fwd then s.balanceFault bk consumer
  else if (b.instr idx).any (fun i => orderOut i n) then s
  else s.setBank bk (b.setElem idx { el with pend := el.pend.modify n (fun q => q ++ [r]) })

/-- Every branch of the circuits of an output port holds a pending cancel: one anti-token continues to the instruction (03 R56). -/
def State.forkCancel (s : State) (bk p : Nat) : State :=
  let b := s.bank bk
  let js := (List.range b.arcs.length).filter (fun j => b.arcs[j]?.any (fun a => a.src == (128 + p, 0)))
  if js.all (fun j => b.arcs[j]?.any (fun a => !a.pend.isEmpty)) then
    let r := (js.head?.bind (fun j => b.arcs[j]?)).bind (fun a => a.pend.head?)
    let b' := js.foldl (fun b j => { b with arcs := b.arcs.modify j (fun a => { a with pend := a.pend.tail }) }) b
    -- the instruction whose target is the port
    let src := b.words.findSome? (fun (i, _) => (b.instr i).bind (fun ins => (ins.targets.findIdx? (fun t => t == .port (BitVec.ofNat 4 p))).map (fun n => (i, n))))
    match src, r with
    | some (i, n), some r => (s.setBank bk b').antiAtTarget bk i n r i
    | _, _ => s
  else s

/-- The anti-token at the far end of an arc: at the source target, at the fork, or at the port of a block (03 R55 R56 R61). -/
def State.antiAtSource (s : State) (bk j r : Nat) : State :=
  let b := s.bank bk
  match b.arcs[j]? with
  | none => s
  | some a =>
    if a.src.1 ≥ 128 then (s.setBank bk { b with arcs := b.arcs.set j { a with pend := a.pend ++ [r] } }).forkCancel bk (a.src.1 - 128)
    else s.antiAtTarget bk a.src.1 a.src.2 r a.dstIdx

/-- One anti-token moves one reverse register toward the producer of an arc, nearest the producer first (03 R53 R54). -/
def State.antiHop (s : State) (bk j h : Nat) : State :=
  let b := s.bank bk
  match b.arcs[j]? with
  | none => s
  | some a =>
    match a.hops[h]? with
    | none => s
    | some x =>
      match x.rev with
      | none => s
      | some r =>
        if x.fwd.isSome then s.setBank bk { b with arcs := b.arcs.set j { a with hops := a.hops.set h { x with rev := none, fwd := none } } }
        else if x.marks > 0 then (s.setBank bk { b with arcs := b.arcs.set j { a with hops := a.hops.set h { x with rev := none } } }).balanceFault bk a.dstIdx
        else if h = 0 then
          let room := if a.src.1 ≥ 128 then decide (a.pend.length < 7) else decide ((((b.elem a.src.1).pend.getD a.src.2 []).length) < 7)
          if room then (s.setBank bk { b with arcs := b.arcs.set j { a with hops := a.hops.set h { x with rev := none } } }).antiAtSource bk j r
          else s
        else
          match a.hops[h - 1]? with
          | none => s
          | some y =>
            if y.rev.isSome then s
            else if y.fwd.isSome then
              -- the token ahead and the anti-token meet
              s.setBank bk { b with arcs := b.arcs.set j { a with hops := (a.hops.set h { x with rev := none }).set (h - 1) { y with fwd := none } } }
            else s.setBank bk { b with arcs := b.arcs.set j { a with hops := (a.hops.set h { x with rev := none }).set (h - 1) { y with rev := some r } } }

/-- The anti-token that stands at a latch leaves it: it meets the token there, or goes to the hop nearest the consumer, to the producer in the
tile, or to the input port as a pending drop (03 R53 R54 R61). -/
def State.antiLeave (s : State) (bk idx : Nat) (k : Slot) : State :=
  let b := s.bank bk
  let el := b.elem idx
  let x := el.slot k
  match x.anti with
  | [] => s
  | r :: rest =>
    let gone := s.setBank bk (b.setElem idx (el.setSlot k { x with anti := rest }))
    if x.latch.isSome then s.setBank bk (b.setElem idx (el.setSlot k { x with anti := rest, latch := none }))
    else if !backEdge (b.instr idx) k ∧ r < x.marks then gone.balanceFault bk idx
    else if portFed b idx k then
      let port := idx - 32
      let gb := gone.bank bk
      if (mget b.rev port).isSome then s
      else if (mgetD b.drops port []).length < 7 then gone.setBank bk { gb with drops := mset b.drops port (mgetD b.drops port [] ++ [r]) }
      else gone.setBank bk { gb with rev := mset b.rev port r }
    else
      match arcTo b idx k with
      | some j =>
        match b.arcs[j]?.bind (fun a => a.hops.getLast?.map (fun h => (a, h))) with
        | some (a, h) =>
          if h.rev.isSome then s
          else
            let gb := gone.bank bk
            let h' := if h.fwd.isSome then { h with fwd := none } else { h with rev := some r }
            gone.setBank bk { gb with arcs := gb.arcs.set j { a with hops := a.hops.set (a.hops.length - 1) h' } }
        | none => s
      | none =>
        match producers b idx k with
        | (p, n) :: _ => if ((b.elem p).pend.getD n []).length < 7 then gone.antiAtTarget bk p n r idx else s
        | [] => gone

/-- The anti-token in the reverse register next to an input port becomes a pending drop once there is room (03 R61). -/
def Bank.portDrop (b : Bank) (port : Nat) : Bank :=
  match mget b.rev port with
  | none => b
  | some r => if (mgetD b.drops port []).length < 7 then { b with drops := mset b.drops port (mgetD b.drops port [] ++ [r]), rev := mdel b.rev port } else b

/-- The slot that a number past the arcs names. -/
def slotOfNumber (n : Nat) : Nat × Slot := (n / 3, if n % 3 = 0 then .l else if n % 3 = 1 then .r else .p)

/-- ANTI_TOKEN_HOP (03 R53-R56): of an arc, its reverse registers from the producer's end; of a number past the arcs, the anti-token next to a port and the one at a latch. -/
def execAntiTokenHop (bank arc : Nat) (s : State) : Host.Outcome State Fault Refusal :=
  let b := s.bank bank
  if arc < b.arcs.length then
    .next ((List.range ((b.arcs[arc]?.map (fun a => a.hops.length)).getD 0)).foldl (fun s h => s.antiHop bank arc h) s)
  else
    let x := slotOfNumber (arc - b.arcs.length)
    .next ((s.setBank bank (if x.2 = .l ∧ 32 ≤ x.1 then (s.bank bank).portDrop (x.1 - 32) else s.bank bank)).antiLeave bank x.1 x.2)

/-! ### Cancelled firings -/

/-- What an instruction is to cancellation (03 R57-R60): a pure producer with the targets of its outputs, a load, or neither. -/
inductive CancelKind where
  | pure (outs : List Nat)
  | load
  | no
  deriving DecidableEq, Repr

/-- The cancellation kind of an instruction (03 R56-R60); an instruction with B is an anchor, and so is one with a context-register target, which canCancel
leaves out. -/
def cancelKind (i : Instr) : CancelKind :=
  match i.form with
  | .event _ => .no
  | .b o => if o.fl.b then .no else .pure [0, 1, 2, 3]
  | .c op o => if op = 0x0C ∧ !o.fl.b then .pure [0] else .no
  | .a op o =>
    if o.fl.b then .no
    else if op = 0x01 ∨ op = 0x02 ∨ op = 0x1A ∨ (0x20 ≤ op ∧ op ≤ 0x80) then .pure [0, 1]
    else if 0xE0 ≤ op ∧ !o.bit 5 then .pure [0, 1]
    else if op = 0x90 ∨ op = 0x92 then (if o.bit 1 then .no else .load)
    else if op = 0x94 ∨ op = 0x96 then .load
    else .no

/-- The targets of a kind in use hold pending cancels, one each. -/
def allCancelled (el : Elem) (ts : List Target) (outs : List Nat) : Bool :=
  let used := outs.filter (fun n => ts.getD n .none != .none)
  !used.isEmpty && used.all (fun n => !(el.pend.getD n []).isEmpty)

/-- Empty a slot, or send an anti-token up it (03 R57). -/
def Elem.emptyOrAnti (x : Elem) (k : Slot) (have' : Bool) : Elem := if have' then x.setSlot k ((x.slot k).drop) else x.sendAnti k

/-- Every slot with a source. -/
def sourcedSlots (b : Bank) (idx : Nat) : List Slot := [Slot.l, .r, .p].filter (hasSource b idx)

/-- The slots of a cancelled firing and the outputs that lose a cancel: STEER and MERGE without E choose by P (03 R57); K keeps R (05 R106). -/
def cancelPlan (b : Bank) (idx : Nat) (i : Instr) (o : Operands) : Option (List Slot × List Nat) :=
  let good (p : Option Token) : Option Bool := p.bind (fun t => if isPred t && !t.v && !t.poison then some t.truth else none)
  match i with
  | .steer _ => (good o.p).map (fun t => ([.p, .l], [if t then 0 else 1]))
  | .merge x => if x.fl.e then some (sourcedSlots b idx, [0, 1]) else (good o.p).map (fun t => ([.p, if t then .l else .r], [0, 1]))
  | _ =>
    match cancelKind i, i.form with
    | .pure outs, .a _ x => some ((sourcedSlots b idx).filter (fun k => !(x.fl.k && k == .r)), outs)
    | .pure outs, _ => some (sourcedSlots b idx, outs)
    | .load, _ => if o.p.isSome || !hasSource b idx .p then some (sourcedSlots b idx, [0]) else none
    | .no, _ => none

/-- The chain a load's order token carries: that of its P, or a chain of its own (12 R267). -/
def Firing.chain (f : Firing) : Chain :=
  match f.ops.p.bind Token.chain with
  | some c => c
  | none => ⟨gsp f.b f.e.idx, f.thr, f.k, 0⟩

/-- A cancelled firing can start at an instruction (03 R57 R59). -/
def State.canCancel (s : State) (e : Site) : Option (Instr × List Slot × List Nat) :=
  let f := { s with cur := e }.firing
  match (if f.el.pend.all List.isEmpty || toRegister f.b e.idx then none else f.b.instr e.idx) with
  | none => none
  | some i =>
    match cancelPlan f.b e.idx i f.ops with
    | none => none
    | some (slots, outs) =>
      let takes (k : Slot) : Bool := match k with
        | .l => f.ops.l.isSome
        | .r => f.ops.r.isSome
        | .p => f.ops.p.isSome
      if !f.el.held && f.el.q0.isEmpty && (cancelKind i == .load || f.el.q1.isEmpty) && f.el.last != some s.fc && allCancelled f.el i.targets outs &&
         slots.all (fun k => takes k || antiCanLeave f.b e.idx k) then some (i, slots, outs)
      else none

/-- CANCELLED_FIRING (03 R57 R59): the firing starts without its operands, takes a pending cancel from every output, empties or cancels its
operand slots; a load emits its order token. -/
def execCancelledFiring (e : Site) (s : State) : Host.Outcome State Fault Refusal :=
  match s.canCancel e with
  | none => .next s
  | some (i, slots, outs) =>
    let f := { s with cur := e }.firing
    let has (k : Slot) : Bool := match k with
      | .l => f.ops.l.isSome
      | .r => f.ops.r.isSome
      | .p => f.ops.p.isSome
    let s := s.countFiring f
    let el := slots.foldl (fun x k => x.emptyOrAnti k (has k)) (s.elem e)
    let el := (outs.filter (fun n => i.targets.getD n .none != Target.none)).foldl Elem.popCancel el
    let s := s.setElem e el
    .next (if cancelKind i = .load then s.result f true 1 [(1, orderTok f.chain)] else s)

end Sys2Proof.Machine
end

