-- ==== Sys2Proof/Machine/Flags.lean ====
section
/-! DEFINITION. Flags: the flags of the lanes of one firing together, and the commit of a round's staged flags into NUMF (04 R83, 18 R316). -/

namespace Sys2Proof.Machine

/-- The flags of several lanes together. -/
def foldFlags (ls : List Lane) : Nat := ls.foldl (fun a x => a ||| x.flags) 0

/-- OR the flags staged in rounds up to r into NUMF and forget them (04 R83). -/
def Bank.commitFlags (b : Bank) (r : Nat) : Bank :=
  { b with numf := (b.nstage.filter (fun x => decide (x.1 ≤ r))).foldl (fun a x => a ||| x.2) b.numf,
           nstage := b.nstage.filter (fun x => decide (r < x.1)) }

/-- The NUMF value a CSRW leaves (18 R316): modes 0 replace, 1 set, 2 clear; only bits 4:0 exist. -/
def numfWrite (old : BitVec 5) (mode : Nat) (v : Word64) : BitVec 5 :=
  let w : BitVec 5 := v.setWidth 5
  if mode = 0 then w else if mode = 1 then old ||| w else old &&& ~~~w

/-- The flags of one bit each as NUMF names them. -/
def hasNV (n : BitVec 5) : Bool := n.getLsbD 0
def hasOF (n : BitVec 5) : Bool := n.getLsbD 1
def hasUF (n : BitVec 5) : Bool := n.getLsbD 2
def hasNX (n : BitVec 5) : Bool := n.getLsbD 3
def hasDZ (n : BitVec 5) : Bool := n.getLsbD 4

end Sys2Proof.Machine
end

