-- ==== Sys2Proof/Machine/Lanes.lean ====
section
/-! DEFINITION. The shared operations of the computing instructions: reading lanes, building results, the value of every integer,
floating-point, lane and conversion instruction on its operands (07). Each value is a function of the operands alone; the firing scheme of
Operands.lean does the rest. -/

namespace Sys2Proof.Machine

/-- A value: tokens on targets with flags, or a fault code (always a format trap, 07 R169). -/
abbrev Value := Except Nat (List (Nat × Token) × Nat)

/-- One token on the fork of targets 0 and 1. -/
def one (t : Token) (fl : Nat) : Value := .ok (fork t, fl)

/-- A format trap. -/
def trapFmt : Value := .error fFormat

/-- Lanes of an operand: its vector's, or one. -/
def lanesOf (f : Fmt) (v : Bool) : Nat := if v then f.lanes else 1

/-- The code of lane j; an integer token of scale 255 reads as zero with NV (04 R74). -/
def codeAt (f : Fmt) (t : Token) (j : Nat) : Nat × Nat :=
  if f.isInt && t.scale == 255 then (0, flagNV) else (laneOf t.pay f.width j, 0)

/-- The effective value of lane j (04 R74 R82). -/
def valueAt (f : Fmt) (t : Token) (j : Nat) : Exact × Nat := laneValue f t.scale.toNat (laneOf t.pay f.width j)

/-- A token of format f from lane codes. -/
def mkTok (f : Fmt) (v : Bool) (scale : BitVec 8) (cs : List Nat) : Token :=
  { pay := if v then vecPay f.width cs else scalarPay f (cs.headD 0), tag := BitVec.ofNat 6 f.tag, scale := scale, v := v }

/-- A lane-wise result of n lanes: lanes that PM switches off take the code off names and set no flag (07 R166). -/
def laneWise (f : Fmt) (v : Bool) (n : Nat) (pr : Predicate) (val : Nat → Lane) (off : Nat → Nat) : Value :=
  let ls := (List.range n).map (fun j => if pr.lane j then val j else ⟨off j, 0⟩)
  one (mkTok f v 127 (ls.map Lane.code)) (foldFlags ls)

/-- The format of an instruction: that of its type and U, or L's under tag-following, within a class of types (07 R162). -/
def formatOf (o : OpA) (u : Bool) (cls : List Ty) (l : Token) : Option Fmt :=
  if o.ty = .tf then (l.fmt.bind (fun f => if cls.contains f.ty then some f else none)) else fmtOf o.ty u

/-- A typed data operand: the type field accepts its tag, or it carries L's tag under tag-following (04 R71). -/
def typed (o : OpA) (l : Token) (v : Bool) (t : Token) : Bool :=
  (if o.ty = .tf then t.tag == l.tag else tyAccepts o.ty t) && t.v == v && scaleOk t

/-- The second operand: R, or the immediate. -/
def secondOf (o : OpA) (u : Bool) (f : Fmt) (r : Option Token) : Option Token :=
  if o.i then some (immTok f u o.v o.imm) else r

/-- Lane-wise instruction of two operands. -/
def bin (o : OpA) (u : Bool) (cls : List Ty) (x : Operands) (pr : Predicate) (fOut : Fmt → Fmt) (val : Fmt → Token → Token → Nat → Lane) : Value :=
  match x.l with
  | none => trapFmt
  | some l =>
    match formatOf o u cls l with
    | none => trapFmt
    | some f =>
      match secondOf o (u || (o.ty == .tf && !f.signed)) f x.r with
      | none => trapFmt
      | some r =>
        if typed o l o.v l && (o.i || typed o l o.v r) then
          laneWise (fOut f) o.v (lanesOf f o.v) pr (val f l r) (fun j => if (fOut f).width = f.width then laneOf l.pay f.width j else 0)
        else trapFmt

/-- Lane-wise instruction of one operand. -/
def un (o : OpA) (u : Bool) (cls : List Ty) (x : Operands) (pr : Predicate) (fOut : Fmt → Fmt) (keep : Bool) (val : Fmt → Token → Nat → Lane) : Value :=
  match x.l with
  | none => trapFmt
  | some l =>
    match formatOf o u cls l with
    | none => trapFmt
    | some f =>
      if typed o l o.v l then
        laneWise (fOut f) o.v (lanesOf f o.v) pr (val f l) (fun j => if keep then laneOf l.pay f.width j else 0)
      else trapFmt

/-! ### Integer (07 R170-R176) -/

/-- Classes INT and BITS without tag-following, which formatOf resolves. -/
def intCls : List Ty := [.i64, .i32, .i16, .i8, .int4]
def bitsCls : List Ty := [.i64, .i32, .i16, .i8, .int4, .pred]
def fltCls : List Ty := [.f32, .bf16, .f16]

/-- The integer instructions of two operands, by opcode. -/
def intBinValue (op : Nat) (u : Bool) (cls : List Ty) (o : OpA) (x : Operands) (pr : Predicate) : Value :=
  bin o u cls x pr id (fun f l r j =>
    let a := codeAt f l j
    let b := codeAt f r j
    let v := intBin op f a.1 b.1
    ⟨v.code, v.flags ||| a.2 ||| b.2⟩)

/-- The integer instructions of one operand, by opcode. -/
def intUnValue (op : Nat) (u : Bool) (cls : List Ty) (o : OpA) (x : Operands) (pr : Predicate) : Value :=
  un o u cls x pr id true (fun f l j =>
    let a := codeAt f l j
    let v := intUn op f a.1
    ⟨v.code, v.flags ||| a.2⟩)

/-- CMP (07 R173): a pred of n lanes. -/
def cmpValue (o : OpA) (x : Operands) (pr : Predicate) : Value :=
  match x.l with
  | none => trapFmt
  | some l =>
    match formatOf o o.u intCls l with
    | none => trapFmt
    | some f =>
      match secondOf o (o.u || (o.ty == .tf && !f.signed)) f x.r with
      | none => trapFmt
      | some r =>
        if typed o l o.v l && (o.i || typed o l o.v r) then
          laneWise .pred o.v (lanesOf f o.v) pr (fun j =>
            let a := codeAt f l j
            let b := codeAt f r j
            ⟨if cmpCond (o.fn.toNat / 2 % 8) (intOf f a.1) (intOf f b.1) then 1 else 0, a.2 ||| b.2⟩) (fun _ => 0)
        else trapFmt

/-- SEL's second operand. -/
def selSecond (o : OpA) (l : Option Token) (r : Option Token) : Option Token :=
  if o.i then
    (match (if o.ty = .tf then l.bind Token.fmt else fmtOf o.ty false) with
     | some f => some (immTok f (o.ty == .tf && !f.signed) o.v o.imm)
     | none => none)
  else r

/-- A data operand of SEL: an accepted tag; ANY class, so every format under tag-following, R's tag equal to L's. -/
def selOk (o : OpA) (l t : Token) : Bool := (if o.ty = .tf then t.fmt.isSome && t.tag == l.tag else tyAccepts o.ty t) && t.v == o.v && scaleOk t

/-- SEL (07 R174). -/
def selValue (o : OpA) (x : Operands) : Value :=
  match x.l, selSecond o x.l x.r, x.p with
  | some l, some r, some p =>
    if !isPred p then trapFmt
    else if !(selOk o l l && (o.i || selOk o l r)) then trapFmt
    else if !p.v then one { (if p.truth then l else r) with chain := none, rv := true } 0
    else if !o.v then trapFmt
    else if l.tag ≠ r.tag ∨ l.scale ≠ r.scale then trapFmt
    else
      match l.fmt with
      | none => trapFmt
      | some f =>
        one (mkTok f true l.scale ((List.range f.lanes).map (fun j => laneOf (if bitAt p.pay.toNat j then l.pay else r.pay) f.width j))) 0
  | _, _, _ => trapFmt

/-- All n lanes of a pred equal b. -/
def predAll (n : Nat) (t : Token) (b : Bool) : Bool :=
  if t.v then (List.range n).all (fun j => bitAt t.pay.toNat j == b) else t.truth == b

/-- The poison of a poisoned P, or none. -/
def poisonOf (p : Option Token) (tag : Nat) (v : Bool) : Option Token :=
  p.bind (fun t => if t.poison then some { t with tag := BitVec.ofNat 6 tag, v := v, scale := 127, rv := true } else none)

/-- The early firing of a join with E whose P is poison (03 R66 R67): with a data input missing it emits the first poison of the operands present; with
every operand present the firing is ordinary. -/
def poisonEarly (full : Bool) (tag : Nat) (v : Bool) (x : Operands) : Option (List (Nat × Token) × Nat) :=
  if full then none else (poisonOf x.poison tag v).map (fun t => (fork t, 0))

/-- SEL's early decision (03 R48 R51): P present and the input it chooses present; a poison P decides on poison (03 R67). -/
def selEarly (o : OpA) (x : Operands) : Option (List (Nat × Token) × Nat) :=
  match x.p with
  | none => none
  | some p =>
    if p.poison then poisonEarly (x.l.isSome && (o.i || x.r.isSome)) (match fmtOf o.ty false with
      | some f => f.tag
      | none => 1) o.v x
    else if !isPred p then none
    else
      let pick (b : Bool) : Option Token := if b then x.l else if o.i then selSecond o x.l x.r else x.r
      let n := o.ty.lanes
      let b? : Option Bool := if predAll n p true then some true else if predAll n p false then some false else none
      match b? with
      | none => none
      | some b =>
        match pick b with
        | none => none
        | some t => if t.poison || (p.v && !o.v) || !(tyAccepts o.ty t && t.v == o.v && scaleOk t) then none else some (fork { t with chain := none, rv := true }, 0)

/-- Every lane of an operand reads as the code. -/
def allLanes (f : Fmt) (t : Token) (c : Nat) : Bool := (List.range (lanesOf f t.v)).all (fun j => (codeAt f t j).1 == c)

/-- The early decision of AND, OR, MUL, MIN and MAX (03 R48 R51): L or R present and reading as the deciding value in every lane, the zeros of the reserved
scale included (04 R74). -/
def zeroEarly (o : OpA) (decide' : Fmt → Nat) (x : Operands) : Option (List (Nat × Token) × Nat) :=
  match fmtOf o.ty o.u with
  | none => none
  | some f =>
    let good (t : Option Token) : Bool := t.any (fun t => !t.poison && dataOk o.ty o.v t && allLanes f t (decide' f))
    let fl (t : Option Token) : Nat := if good t then (t.map Token.numFlags).getD 0 else 0
    if !o.i && (good x.l || good x.r) then
      some (fork (mkTok f o.v 127 (List.replicate (lanesOf f o.v) (decide' f))), fl x.l ||| fl x.r)
    else none

/-- TRUNC (07 R175 R167): the low bits of each lane at the narrower width. -/
def truncValue (o : OpA) (x : Operands) (pr : Predicate) : Value :=
  match x.l with
  | none => trapFmt
  | some l =>
    match formatOf o o.u [.i64, .i32, .i16, .i8, .int4] l with
    | none => trapFmt
    | some f =>
      let uns := if o.ty = .tf then !f.signed else o.u
      let g : Fmt := match o.rm with
        | 0 => if uns then .z32 else .i32
        | 1 => if uns then .z16 else .i16
        | 2 => if uns then .z8 else .i8
        | _ => .int4
      if !typed o l o.v l || f.width ≤ g.width then trapFmt
      else
        laneWise g o.v (lanesOf g o.v) pr (fun j =>
          if j < lanesOf f o.v then ⟨(codeAt f l j).1 % 2 ^ g.width, 0⟩ else ⟨0, 0⟩) (fun _ => 0)

/-- BFX (07 R175). -/
def bfxValue (o : OpA) (x : Operands) (pr : Predicate) : Value :=
  let pos := o.imm.toNat % 64
  let len := o.imm.toNat / 64 % 64 + 1
  match x.l.bind (formatOf o o.u intCls) with
  | none => trapFmt
  | some f =>
    if pos + len > f.width then trapFmt
    else
      un o o.u intCls x pr id true (fun f l j =>
        let a := codeAt f l j
        let c := bitsAt a.1 pos len
        ⟨if (if o.ty = .tf then f.signed else !o.u) then ofInt f.width (toSigned len c) else c, a.2⟩)

/-- BFI (07 R175). -/
def bfiValue (o : OpA) (x : Operands) (pr : Predicate) : Value :=
  let pos := o.imm.toNat % 64
  let len := o.imm.toNat / 64 % 64 + 1
  match x.l.bind (formatOf o false intCls) with
  | none => trapFmt
  | some f =>
    if pos + len > f.width then trapFmt
    else
      bin o false intCls x pr id (fun f l r j =>
        let a := codeAt f l j
        let b := codeAt f r j
        ⟨a.1 - bitsAt a.1 pos len * 2 ^ pos + b.1 % 2 ^ len * 2 ^ pos, a.2 ||| b.2⟩)

/-- ADDR (07 R176): the result carries L's tag. -/
def addrValue (o : OpA) (x : Operands) (pr : Predicate) : Value :=
  match x.l, secondOf o o.u (if o.u then .z64 else .i64) x.r with
  | some l, some r =>
    if !(dataOk .i64 o.v l && (o.i || dataOk .i64 o.v r)) then trapFmt
    else
      match l.fmt with
      | none => trapFmt
      | some f =>
        let sc := match o.rm with
          | 0 => 1
          | 1 => 4
          | 2 => 8
          | _ => 64
        laneWise f o.v (lanesOf f o.v) pr (fun j =>
          let a := (codeAt f l j).1
          let b := (codeAt f r j).1
          ⟨ofInt 64 ((a : Int) + (if o.u then (b : Int) else toSigned 64 b) * sc), 0⟩) (fun j => laneOf l.pay 64 j)
  | _, _ => trapFmt

/-- IMAD (07 R170 R178): the addend on P carries L's tag. -/
def imadValue (o : OpA) (x : Operands) (pr : Predicate) : Value :=
  match x.l, x.p with
  | some l, some p =>
    if p.tag ≠ l.tag ∨ p.v ≠ o.v ∨ !scaleOk p then trapFmt
    else
      bin o o.u intCls x pr id (fun f l r j =>
        let a := codeAt f l j
        let b := codeAt f r j
        let c := codeAt f p j
        ⟨ofInt f.width (intOf f a.1 * intOf f b.1 + intOf f c.1), a.2 ||| b.2 ||| c.2⟩)
  | _, _ => trapFmt

/-! ### Floating point (07 R177-R182) -/

/-- The floating-point instructions of two operands, by opcode. -/
def floatBinValue (op : Nat) (o : OpA) (x : Operands) (pr : Predicate) : Value :=
  bin o false fltCls x pr id (fun f l r j => floatBin op f o.rm (valueAt f l j) (valueAt f r j))

/-- The floating-point instructions of one operand, by opcode. -/
def floatUnValue (op : Nat) (o : OpA) (x : Operands) (pr : Predicate) : Value :=
  un o false fltCls x pr id true (fun f l j => floatUn op f o.rm (valueAt f l j))

/-- FMA (07 R178). -/
def fmaValue (o : OpA) (x : Operands) (pr : Predicate) : Value :=
  match x.l, x.p with
  | some l, some p =>
    if p.tag ≠ l.tag ∨ p.v ≠ o.v then trapFmt
    else bin o false fltCls x pr id (fun f l r j => fmaLane f o.rm (valueAt f l j) (valueAt f r j) (valueAt f p j))
  | _, _ => trapFmt

/-- A result keeps L's scale, 127 where L's is 255 (07 R179), also where a vector P leaves lanes with L's codes (DESIGN CHOICE, log 81). -/
def rescale (l : Option Token) : Value → Value
  | .ok (outs, fl) => .ok (outs.map (fun (k, t) => (k, { t with scale := match l with
      | some l => if l.scale = 255 then 127 else l.scale
      | none => 127 })), fl)
  | .error c => .error c

/-- FABS, FNEG (07 R179). -/
def signValue (neg : Bool) (o : OpA) (x : Operands) (pr : Predicate) : Value :=
  rescale x.l (un o false fltCls x pr id true (fun f l j =>
    let c := laneOf l.pay f.width j
    signLane f l.scale.toNat c (neg && !bitAt c (f.width - 1))))

/-- FCPYS (07 R179): the sign of R's code, a NaN included. -/
def cpysValue (o : OpA) (x : Operands) (pr : Predicate) : Value :=
  rescale x.l (bin o false fltCls x pr id (fun f l r j => signLane f l.scale.toNat (laneOf l.pay f.width j) (bitAt (laneOf r.pay f.width j) (f.width - 1))))

/-- FCMP (07 R180). -/
def fcmpValue (o : OpA) (x : Operands) (pr : Predicate) : Value :=
  match x.l with
  | none => trapFmt
  | some l =>
    match formatOf o false fltCls l with
    | none => trapFmt
    | some f =>
      match secondOf o false f x.r with
      | none => trapFmt
      | some r =>
        if typed o l o.v l && (o.i || typed o l o.v r) then
          laneWise .pred o.v (lanesOf f o.v) pr (fun j =>
            let c := fcmpLane o.sub (valueAt f l j) (valueAt f r j)
            ⟨if c.1 then 1 else 0, c.2⟩) (fun _ => 0)
        else trapFmt

/-- The unsigned integer format of a float's width (07 R180). -/
def classFmt (f : Fmt) : Fmt := if f = .f32 then .z32 else .z16

/-- FCLASS (07 R180). -/
def fclassValue (o : OpA) (x : Operands) (pr : Predicate) : Value :=
  un o false fltCls x pr classFmt false (fun f l j => fclassLane f l.scale.toNat (laneOf l.pay f.width j))

/-- FSCALB (07 R181): R is an integer of the lane width. -/
def scalbValue (o : OpA) (x : Operands) (pr : Predicate) : Value :=
  match x.l with
  | none => trapFmt
  | some l =>
    match formatOf o false fltCls l with
    | none => trapFmt
    | some f =>
      let g : Fmt := if f = .f32 then .i32 else .i16
      match (if o.i then some (immTok g false o.v o.imm) else x.r) with
      | none => trapFmt
      | some r =>
        if typed o l o.v l && (o.i || dataOk g.ty o.v r) then
          laneWise f o.v (lanesOf f o.v) pr (fun j =>
            let a := valueAt f l j
            let k := codeAt g r j
            encLane (a.1.scale (if o.i then o.imm.toInt else toSigned g.width k.1)) f o.rm (a.2 ||| k.2)) (fun j => laneOf l.pay f.width j)
        else trapFmt

/-! ### Lanes (07 R183-R185) -/

/-- A lane-moving result with L's tag and scale; lanes PM switches off keep L's lane. The flags are those of reading an index operand. -/
def moved (f : Fmt) (l : Token) (pr : Predicate) (off : Nat → Nat) (val : Nat → Nat) (fl : Nat := 0) : Value :=
  one (mkTok f true l.scale ((List.range f.lanes).map (fun j => if pr.lane j then val j else off j))) fl

/-- A vector operand L of the class, or a format trap. -/
def vecL (o : OpA) (cls : List Ty) (x : Operands) (k : Fmt → Token → Value) : Value :=
  match x.l with
  | none => trapFmt
  | some l =>
    match formatOf o false cls l with
    | none => trapFmt
    | some _ =>
      -- the lanes keep L's tag
      match l.fmt with
      | none => trapFmt
      | some f => if typed o l true l then k f l else trapFmt

/-- A predicate with a vector P where only a scalar P is accepted (07 R166). -/
def scalarP (pr : Predicate) (x : Operands) (k : Value) : Value :=
  match pr with
  | .run false _ => if x.p.any Token.v then trapFmt else k
  | .run true _ => k
  | .skip => k
  | .trap => k

def anyCls : List Ty := [.i64, .i32, .i16, .i8, .f32, .bf16, .f16, .kf8e, .kf8m, .kf6, .kf4, .int4, .pred]
def permCls : List Ty := [.i64, .i32, .i16, .i8, .f32, .bf16, .f16, .kf8e, .kf8m, .kf6]

/-- VBCAST (07 R183). -/
def vbcastValue (o : OpA) (x : Operands) (pr : Predicate) : Value :=
  match x.l with
  | none => trapFmt
  | some l =>
    match l.fmt with
    | none => trapFmt
    | some f => if typed o l false l then moved f l pr (fun _ => 0) (fun _ => laneOf l.pay f.width 0) else trapFmt

/-- VEXTR (07 R183 R184). -/
def vextrValue (o : OpA) (x : Operands) (pr : Predicate) : Value :=
  scalarP pr x (vecL o anyCls x (fun f l =>
    if o.i then
      (if o.imm.toNat < f.lanes then one (mkTok f false l.scale [laneOf l.pay f.width o.imm.toNat]) 0 else trapFmt)
    else
      match x.r with
      | some r => if isW32 r then one (mkTok f false l.scale [laneOf l.pay f.width (r.low32 % f.lanes)]) r.numFlags else trapFmt
      | none => trapFmt))

/-- VINS (07 R183). -/
def vinsValue (o : OpA) (x : Operands) (pr : Predicate) : Value :=
  scalarP pr x (vecL o anyCls x (fun f l =>
    match x.r with
    | some r =>
      if r.tag ≠ l.tag ∨ r.scale ≠ l.scale ∨ r.v ∨ o.imm.toNat ≥ f.lanes then trapFmt
      else moved f l (.run true 0) (fun _ => 0) (fun j => if j = o.imm.toNat then laneOf r.pay f.width 0 else laneOf l.pay f.width j)
    | none => trapFmt))

/-- An index vector of i8 or z8 (07 R183). -/
def isBytes (t : Token) : Bool := dataOk .i8 true t

/-- VPERM (07 R183). -/
def vpermValue (o : OpA) (x : Operands) (pr : Predicate) : Value :=
  vecL o permCls x (fun f l =>
    match x.r with
    | some r =>
      if isBytes r then moved f l pr (fun j => laneOf l.pay f.width j) (fun j => laneOf l.pay f.width (laneOf r.num 8 j % f.lanes)) r.numFlags
      else trapFmt
    | none => trapFmt)

/-- Lane j of (L ∥ R). -/
def pairLane (f : Fmt) (l r : Token) (j : Nat) : Nat := if j < f.lanes then laneOf l.pay f.width j else laneOf r.pay f.width (j - f.lanes)

/-- Two vector operands of one format with equal scales (07 R165). -/
def vecLR (o : OpA) (cls : List Ty) (x : Operands) (k : Fmt → Token → Token → Value) : Value :=
  vecL o cls x (fun f l =>
    match x.r with
    | some r => if typed o l true r && l.scale == r.scale && r.fmt.any (fun g => g.width == f.width) then k f l r else trapFmt
    | none => trapFmt)

/-- VSHUF (07 R183). -/
def vshufValue (o : OpA) (x : Operands) : Value :=
  vecLR o permCls x (fun f l r =>
    match x.p with
    | some p =>
      if isBytes p then moved f l (.run true 0) (fun _ => 0) (fun j => pairLane f l r (laneOf p.num 8 j % (2 * f.lanes))) p.numFlags else trapFmt
    | none => trapFmt)

/-- VROT (07 R183). -/
def vrotValue (o : OpA) (x : Operands) (pr : Predicate) : Value :=
  vecL o anyCls x (fun f l =>
    let go (k fl : Nat) : Value := moved f l pr (fun j => laneOf l.pay f.width j) (fun j => laneOf l.pay f.width ((j + k) % f.lanes)) fl
    if o.i then (if o.imm.toNat < f.lanes then go o.imm.toNat 0 else trapFmt)
    else
      match x.r with
      | some r => if isW32 r then go (r.low32 % f.lanes) r.numFlags else trapFmt
      | none => trapFmt)

/-- VSLIDE (07 R183). -/
def vslideValue (o : OpA) (x : Operands) (pr : Predicate) : Value :=
  vecLR o anyCls x (fun f l r =>
    if o.imm.toNat > f.lanes then trapFmt
    else moved f l pr (fun j => laneOf l.pay f.width j) (fun j => pairLane f l r (j + o.imm.toNat)))

/-- VZIP (07 R183). -/
def vzipValue (o : OpA) (x : Operands) (pr : Predicate) : Value :=
  vecLR o anyCls x (fun f l r =>
    let h := if o.bit 0 then f.lanes / 2 else 0
    moved f l pr (fun j => laneOf l.pay f.width j) (fun j => laneOf (if j % 2 = 0 then l.pay else r.pay) f.width (h + j / 2)))

/-- VUNZIP (07 R183). -/
def vunzipValue (o : OpA) (x : Operands) (pr : Predicate) : Value :=
  vecLR o anyCls x (fun f l r =>
    moved f l pr (fun j => laneOf l.pay f.width j) (fun j => pairLane f l r (2 * j + (if o.bit 0 then 1 else 0))))

/-- One level of the pairwise tree (04 R94). -/
def treeLevel (node : Nat → Nat → Lane) : List Nat → List Lane
  | a :: b :: rest => node a b :: treeLevel node rest
  | [a] => [⟨a, 0⟩]
  | [] => []

/-- The pairwise tree (04 R94), by fuel of its levels. -/
def tree (node : Nat → Nat → Lane) : Nat → List Nat → Nat → Nat × Nat
  | 0, cs, fl => (cs.headD 0, fl)
  | k + 1, cs, fl =>
    match cs with
    | [] => (0, fl)
    | [c] => (c, fl)
    | c :: d :: rest =>
      let ls := treeLevel node (c :: d :: rest)
      tree node k (ls.map Lane.code) (fl ||| foldFlags ls)

/-- A reduction: the leaves are the lanes as codes at scale 127, those switched off the identity (04 R94, 07 R185). -/
def reduce (o : OpA) (cls : List Ty) (x : Operands) (pr : Predicate) (identity : Fmt → Nat) (leaf : Fmt → Token → Nat → Lane)
    (node : Fmt → Nat → Nat → Lane) : Value :=
  match x.l with
  | none => trapFmt
  | some l =>
    match formatOf o false cls l with
    | none => trapFmt
    | some f =>
      if typed o l true l then
        let ls := (List.range f.lanes).map (fun j => if pr.lane j then leaf f l j else ⟨identity f, 0⟩)
        let r := tree (node f) 8 (ls.map Lane.code) (foldFlags ls)
        one (mkTok f false 127 [r.1]) r.2
      else trapFmt

/-- The effective value of a leaf stays exact into its first node: a leaf is paired as a value, so nodes of level 1 read effective values. The
codes of later levels stand at scale 127. This reads a code of level k. -/
def nodeValue (f : Fmt) (c : Nat) : Exact × Nat := laneValue f 127 c

/-- Level 1 of a floating-point reduction, on effective values (07 R185). -/
def floatLevel1 (f : Fmt) (l : Token) (pr : Predicate) (identity : Exact) (node : Exact × Nat → Exact × Nat → Lane) : List Lane :=
  let at' (j : Nat) : Exact × Nat := if pr.lane j then valueAt f l j else (identity, 0)
  (List.range (f.lanes / 2)).map (fun i => node (at' (2 * i)) (at' (2 * i + 1)))

/-- A floating-point reduction. -/
def floatReduce (f : Fmt) (l : Token) (pr : Predicate) (identity : Exact) (node : Exact × Nat → Exact × Nat → Lane) : Value :=
  let ls := floatLevel1 f l pr identity node
  let r := tree (fun a b => node (nodeValue f a) (nodeValue f b)) 8 (ls.map Lane.code) (foldFlags ls)
  one (mkTok f false 127 [r.1]) r.2

/-- The node operation and identity of the reductions by opcode. -/
def reduceValue (op : Nat) (o : OpA) (x : Operands) (pr : Predicate) : Value :=
  match x.l with
  | none => trapFmt
  | some l =>
    match formatOf o false (if op < 0x6C then intCls ++ fltCls else bitsCls) l with
    | none => trapFmt
    | some f =>
      if !typed o l true l then trapFmt
      else if f.isFloat then
        (match op with
         | 0x69 => floatReduce f l pr (.fin true 0 0 false) (floatBin 0x40 f o.rm)
         | 0x6A => floatReduce f l pr (.inf false) (floatBin 0x4B f 0)
         | _ => floatReduce f l pr (.inf true) (floatBin 0x4C f 0))
      else
        let (iop, ident) : Nat × Nat := match op with
          | 0x69 => (0x20, 0)
          | 0x6A => (0x2A, ofInt f.width f.hi)
          | 0x6B => (0x2B, ofInt f.width f.lo)
          | 0x6C => (0x2C, 2 ^ f.width - 1)
          | _ => (0x2D, 0)
        reduce o (intCls ++ bitsCls) x pr (fun _ => ident) (fun f l j => let a := codeAt f l j; ⟨a.1, a.2⟩) (fun f a b => intBin iop f a b)

/-- The indices of set bits below n, ascending. -/
def setBits (m n : Nat) : List Nat := (List.range n).filter (fun j => bitAt m j)

/-- VCOMPR (07 R183 R184). -/
def vcomprValue (o : OpA) (x : Operands) (pr : Predicate) : Value :=
  scalarP pr x (vecL o anyCls x (fun f l =>
    match x.r with
    | some r =>
      if isPred r && r.v then
        one (mkTok f true l.scale ((setBits r.pay.toNat f.lanes).map (fun j => laneOf l.pay f.width j))) 0
      else trapFmt
    | none => trapFmt))

/-- VEXPND (07 R183 R184). -/
def vexpndValue (o : OpA) (x : Operands) (pr : Predicate) : Value :=
  scalarP pr x (vecL o anyCls x (fun f l =>
    match x.r with
    | some r =>
      if isPred r && r.v then
        moved f l (.run true 0) (fun _ => 0) (fun j => if bitAt r.pay.toNat j then laneOf l.pay f.width ((setBits r.pay.toNat j).length) else 0)
      else trapFmt
    | none => trapFmt))

/-- VPCNT (07 R183). -/
def vpcntValue (x : Operands) (pr : Predicate) : Value :=
  scalarP pr x (match x.l with
    | some l => if isPred l && l.v then one (mkTok .z32 false 127 [popW 128 (l.pay.toNat % 2 ^ 128)]) 0 else trapFmt
    | none => trapFmt)

/-- VMASK (07 R183). -/
def vmaskValue (o : OpA) (x : Operands) (pr : Predicate) : Value :=
  scalarP pr x (match x.l with
    | some l => if isW32 l then one (mkTok .pred true 127 (List.replicate (min l.low32 o.ty.lanes) 1)) l.numFlags else trapFmt
    | none => trapFmt)

/-! ### Conversion (07 R186-R191) -/

/-- The source lane of result lane j by R167; none for the zero-filled lanes. -/
def partLane (ns nd part j : Nat) : Option Nat := if nd ≥ ns then (if j < ns then some j else none) else some (part * nd + j)

/-- PART is admitted by the source's lanes (07 R167). -/
def partOk (ns nd part : Nat) : Bool := if nd ≥ ns then part == 0 else decide (part < ns / nd)

/-- The result lanes of a vector conversion from n_s lanes, or of a scalar. -/
def sourceLane (v : Bool) (ns nd part j : Nat) : Option Nat := if v then partLane ns nd part j else some 0

/-- A conversion operand: any integer or floating-point tag (07 R186). -/
def convOk (v : Bool) (t : Token) : Option Fmt := t.fmt.bind (fun f => if (f.isInt || f.isFloat) && t.v == v && scaleOk t then some f else none)

/-- The automatic scale (04 R89) for the lanes converted, with headroom hc. -/
def autoScale (g : Fmt) (hc : Nat) (xs : List Exact) : Nat :=
  let tops := xs.filterMap (fun x => match x with
    | .fin _ m e _ => if m = 0 then none else some (e + lg m)
    | .nan => none
    | .inf _ => none)
  match tops with
  | [] => 127
  | t :: ts => (max 0 (min 254 (ts.foldl max t - g.params.emax + hc + 127))).toNat

/-- What CVT gives: the token, the flags, the underflow count, and for the automatic mode nothing more. -/
structure Conv where
  tok : Token
  flags : Nat
  uf : Nat

/-- CVT (07 R186) with the stream's headroom. -/
def cvtValue (o : OpA) (hc : Nat) (x : Operands) (pr : Predicate) : Except Nat Conv :=
  match x.l, fmtOf o.ty false with
  | some l, some g =>
    match convOk o.v l with
    | none => .error fFormat
    | some f =>
      let n := lanesOf g o.v
      if o.v && !partOk f.lanes g.lanes o.part then .error fFormat
      else
        let src (j : Nat) : Option Nat := if pr.lane j then sourceLane o.v f.lanes g.lanes o.part j else none
        let xs := (List.range n).filterMap (fun j => (src j).map (fun i => (valueAt f l i).1))
        let t? : Option Nat := match o.sub with
          | 0 => some (if f.isInt || l.scale == 255 then 127 else l.scale.toNat)
          | 1 => some (o.imm.toNat % 256)
          | 2 => x.r.bind (fun r => if isW32 r && decide (r.low32 ≤ 254) then some r.low32 else none)
          | _ => some (autoScale g hc xs)
        match t? with
        | none => .error fFormat
        | some t =>
          let es := (List.range n).map (fun j => match src j with
            | none => (⟨0, 0, false⟩ : Enc)
            | some i =>
              let v := valueAt f l i
              let e := encodeValue v.1 g t o.rm
              ⟨e.code, e.flags ||| v.2, e.uf⟩)
          let off (j : Nat) : Nat := if f = g ∧ !pr.lane j then laneOf l.pay f.width j else 0
          let cs := (List.range n).map (fun j => if pr.lane j then (es.getD j ⟨0, 0, false⟩).code else off j)
          .ok { tok := mkTok g o.v (BitVec.ofNat 8 t) cs,
                flags := es.foldl (fun a e => a ||| e.flags) (if o.sub = 2 then (x.r.map Token.numFlags).getD 0 else 0),
                uf := (es.filter Enc.uf).length }
  | _, _ => .error fFormat

/-- CVTI (07 R187, 04 R86). -/
def cvtiValue (o : OpA) (x : Operands) (pr : Predicate) : Value :=
  match x.l, fmtOf o.ty o.u with
  | some l, some g =>
    match convOk o.v l with
    | none => trapFmt
    | some f =>
      if o.v && !partOk f.lanes g.lanes o.part then trapFmt
      else
        laneWise g o.v (lanesOf g o.v) pr (fun j => match sourceLane o.v f.lanes g.lanes o.part j with
          | none => ⟨0, 0⟩
          | some i => toIntLane g o.rm f.isFloat (valueAt f l i)) (fun j => if f = g then laneOf l.pay f.width j else 0)
  | _, _ => trapFmt

/-- SCALEG (07 R188); a vector P has no lane of the result to govern and is taken without effect (DESIGN CHOICE, log 80). -/
def scalegValue (o : OpA) (x : Operands) : Value :=
  match x.l with
  | some l => if l.fmt.any (fun f => f.isInt || f.isFloat) && l.v == o.v && scaleOk l then one (mkTok .z32 false 127 [l.scale.toNat]) 0 else trapFmt
  | none => trapFmt

/-- SCALES (07 R188). -/
def scalesValue (o : OpA) (x : Operands) : Value :=
  match x.l with
  | none => trapFmt
  | some l =>
    if !(l.fmt.any Fmt.isFloat) || l.v != o.v then trapFmt
    else
      let r? : Option Int := if o.i then some o.imm.toInt else x.r.bind (fun r => if isW32 r then some (toSigned 32 r.low32) else none)
      match r? with
      | none => trapFmt
      | some k =>
        let k := if o.i || o.bit 0 then k else (k % 4294967296)
        if o.bit 0 && l.scale == 255 then trapFmt
        else
          let t : Int := if o.bit 0 then (l.scale.toNat : Int) + k else k
          if t < 0 ∨ t > 254 then trapFmt
          else one { l with scale := BitVec.ofNat 8 t.toNat, rv := true } (if o.i then 0 else (x.r.map Token.numFlags).getD 0)

/-- FMTCHK (07 R189). -/
def fmtchkValue (o : OpA) (x : Operands) : Value :=
  match x.l with
  | none => trapFmt
  | some l =>
    let hit := l.tag.toNat == o.imm.toNat % 64 && (bitAt o.imm.toNat 7 || l.v == bitAt o.imm.toNat 6)
    if o.bit 0 then (if hit then one { l with rv := true } 0 else trapFmt) else one (predTok hit) 0

/-- The group size of PACK and UNPACK for n lanes (07 R191). -/
def groupSize (o : OpA) (n : Nat) : Nat := n / (2 <<< o.sub)

/-- A data operand of PACK and UNPACK in either form; a scalar has one lane. -/
def packL (o : OpA) (x : Operands) (k : Fmt → Token → Value) : Value :=
  match x.l with
  | none => trapFmt
  | some l =>
    match l.fmt with
    | none => trapFmt
    | some f => if typed o l o.v l then k f l else trapFmt

/-- PACK (07 R191). -/
def packValue (o : OpA) (x : Operands) (pr : Predicate) : Value :=
  packL o x (fun f l =>
    match x.r with
    | some r =>
      if r.tag ≠ l.tag ∨ r.scale ≠ l.scale ∨ r.v ≠ o.v then trapFmt
      else
        let k := groupSize o (lanesOf f o.v)
        let lo := o.part * k
        one (mkTok f o.v l.scale ((List.range (lanesOf f o.v)).map (fun j =>
          if pr.lane j ∧ lo ≤ j ∧ j < lo + k then laneOf r.pay f.width (j - lo) else laneOf l.pay f.width j))) 0
    | none => trapFmt)

/-- UNPACK (07 R191). -/
def unpackValue (o : OpA) (x : Operands) (pr : Predicate) : Value :=
  packL o x (fun f l =>
    let k := groupSize o (lanesOf f o.v)
    one (mkTok f o.v l.scale ((List.range (lanesOf f o.v)).map (fun j =>
      if !pr.lane j then laneOf l.pay f.width j else if j < k then laneOf l.pay f.width (o.part * k + j) else 0))) 0)

/-- RNG (07 R192). -/
def rngValue (o : OpA) (x : Operands) (pr : Predicate) : Value :=
  match x.l, (if o.i then some (z64Tok o.imm.toNat) else x.r) with
  | some k, some p =>
    if !(isAddr k && isAddr p) then trapFmt
    else
      let a := (codeAt .z64 k 0).1
      let b := (codeAt .z64 p 0).1
      if o.v then laneWise .z64 true 8 pr (fun j => ⟨cyzer a ((b + j) % 2 ^ 64), 0⟩) (fun _ => 0)
      else one (z64Tok (cyzer a b)) 0
  | _, _ => trapFmt

end Sys2Proof.Machine
end

