-- ==== Sys2Proof/Machine/Route.lean ====
section
/-! DEFINITION. The router operators (06 R126-R141). -/

namespace Sys2Proof.Machine

/-- A data input of a router operator: a tag the type accepts, or under tag-following any tag R70 names (06 R126). -/
def routeOk (ty : Ty) (t : Token) : Bool := if ty = .tf then tagNamed t && (t.fmt.isNone || scaleOk t) else tyAccepts ty t && scaleOk t

/-- A token passed on: every producer but the streamers and the matrix rows sets RV (04 R73). -/
def Token.pass (t : Token) : Token := { t with rv := true }

/-- The tag of a router operator's poison (03 R65). -/
def routeTag (ty : Ty) (l : Option Token) : Nat :=
  match fmtOf ty false with
  | some f => f.tag
  | none => (l.map (fun t => t.tag.toNat)).getD 5

/-- A scalar pred token (06 R129). -/
def isScalarPred (t : Token) : Bool := isPred t && !t.v

/-- A fault of a router operator: the slot's bit, the code, AUX (06 R127); poison carries its own code (03 R67). -/
abbrev OperandFault := Option (Nat × Nat × Nat)

/-- An operand that must satisfy a test and not be poison. -/
def wantOperand (bit : Nat) (t : Option Token) (p : Token → Bool) : OperandFault :=
  match t with
  | none => none
  | some t => if t.poison then some (bit, t.word % 256, t.word) else if p t then none else some (bit, fFormat, 0)

/-- A data operand on which poison passes (06 R134-R138). -/
def wantData (bit : Nat) (ty : Ty) (t : Option Token) : OperandFault :=
  match t with
  | none => none
  | some t => if t.poison || routeOk ty t then none else some (bit, fFormat, 0)

/-- The first fault of a list. -/
def firstFault : List OperandFault → OperandFault
  | [] => none
  | some x :: _ => some x
  | none :: fs => firstFault fs

/-- The firing of a router operator that raises its faults at once (06 R127): a fault removes one operand, and nothing else happens. -/
def State.routeFire (s : State) (fl : Flags) (need take : Slots) (check : Firing → OperandFault) (act : State → Firing → State) : State :=
  let f := s.firing
  let f := { f with ops := f.ops.mask need }
  if f.el.held || !stageFree f.el s.fc || !ready f.ops need then s
  else if breaks fl f.el then s.breakpoint f
  else
    match check f with
    | some (bit, code, aux) => s.raiseOperand f bit code aux
    | none => act ((s.countFiring f).consume f take) f

/-- Change the operator's state. -/
def State.setOst (s : State) (e : Site) (o : OpState) : State := s.setElem e { s.elem e with ost := o }

/-- STEER's early decision (03 R48). -/
def steerEarly (o : OpA) (x : Operands) : Option (List (Nat × Token) × Nat) :=
  match x.p with
  | some p => if isScalarPred p && !p.poison && (if p.truth then o.t0 else o.t1) == .none then some ([], 0) else none
  | none => none

/-- The input that MERGE chooses. -/
def mergePick (x : Operands) : Option Token := x.p.bind (fun p => if p.truth then x.l else x.r)

/-- MERGE's early decision under E (03 R48 R67). -/
def mergeEarly (o : OpA) (x : Operands) : Option (List (Nat × Token) × Nat) :=
  match x.p with
  | some p =>
    if p.poison then poisonEarly (x.l.isSome && x.r.isSome) (routeTag o.ty none) (x.poison.any Token.v) x
    else if !isScalarPred p then none
    else (mergePick x).bind (fun t => if t.poison || !routeOk o.ty t then none else some (fork t.pass, 0))
  | none => none

/-- STEER (06 R129, 03 R48): L on the target P chooses; a poisoned P traps (03 R67). Where P is no scalar pred the poison of the format trap goes by bit 0 of
its payload (DESIGN CHOICE, log 78). -/
def execSteer (o : OpA) (s : State) : Host.Outcome State Fault Refusal :=
  let f := s.firing
  let side (t : Token) : List (Nat × Token) := [(if f.ops.p.any Token.truth then 0 else 1, t)]
  if ready f.ops needLP && !f.el.held && !breaks o.fl f.el && f.ops.p.any Token.poison then
    .next (s.routeFire o.fl needLP needLP (fun f => wantOperand 2 f.ops.p isScalarPred) (fun s _ => s))
  else
    .next (s.pureFire {
      fl := o.fl, vecP := false, lat := 1, need := needLP, tag := routeTag o.ty f.ops.l, v := f.ops.l.any Token.v, outs := side,
      eval := fun x _ => match x.l, x.p with
        | some l, some p => if isScalarPred p && routeOk o.ty l then .ok (side l.pass, 0) else .error fFormat
        | _, _ => .error fFormat
      early := steerEarly o })

/-- MERGE (06 R130, 03 R48): the input P chooses; under E both inputs are consumed or cancelled. Without E, where P is no scalar pred, bit 0 of its payload
names the input (DESIGN CHOICE, log 78). -/
def execMerge (o : OpA) (s : State) : Host.Outcome State Fault Refusal :=
  let f := s.firing
  let pick := mergePick
  let eval : Operands → Predicate → Value := fun x _ => match x.p, pick x with
    | some p, some t => if isScalarPred p && routeOk o.ty t then .ok (fork t.pass, 0) else .error fFormat
    | _, _ => .error fFormat
  if o.fl.e then
    .next (s.pureFire {
      fl := o.fl, vecP := false, lat := 1, need := { l := true, r := true, p := true }, tag := routeTag o.ty none, v := (pick f.ops).any Token.v, eval := eval,
      early := mergeEarly o })
  else
    match f.ops.p with
    | none => .next s
    | some p =>
      if p.poison && !breaks o.fl f.el then
        .next (s.routeFire o.fl { p := true } { p := true } (fun f => wantOperand 2 f.ops.p isScalarPred) (fun s _ => s))
      else
        .next (s.pureFire {
          fl := o.fl, vecP := false, lat := 1, need := { l := p.truth, r := !p.truth, p := true }, tag := routeTag o.ty (pick f.ops),
          v := (pick f.ops).any Token.v, eval := eval })

/-- CARRY (06 R134). -/
def execCarry (o : OpA) (s : State) : Host.Outcome State Fault Refusal :=
  let f := s.firing
  match f.el.ost with
  | .carry true =>
    let more := f.ops.p.any (fun p => p.truth && isScalarPred p && !p.poison)
    let need : Slots := { r := more, p := true }
    .next (s.routeFire o.fl need need
      (fun f => firstFault [wantOperand 2 f.ops.p isScalarPred, wantData 1 o.ty f.ops.r])
      (fun s f => match f.ops.r with
        | some r => s.result f false 1 (fork r.pass)
        | none => s.setOst f.e (.carry false)))
  | _ =>
    .next (s.routeFire o.fl needL needL (fun f => wantData 0 o.ty f.ops.l)
      (fun s f => match f.ops.l with
        | some l => (s.setOst f.e (.carry true)).result f false 1 (fork l.pass)
        | none => s))

/-- INVAR (06 R135). -/
def execInvar (o : OpA) (s : State) : Host.Outcome State Fault Refusal :=
  match s.firing.el.ost with
  | .invar (some v) =>
    .next (s.routeFire o.fl { p := true } { p := true } (fun f => wantOperand 2 f.ops.p isScalarPred)
      (fun s f => if f.ops.p.any Token.truth then s.result f false 1 (fork v) else s.setOst f.e (.invar none)))
  | _ =>
    .next (s.routeFire o.fl needL needL (fun f => wantData 0 o.ty f.ops.l)
      (fun s f => match f.ops.l with
        | some l => (s.setOst f.e (.invar (some l.pass))).result f false 1 (fork l.pass)
        | none => s))

/-- FANOUT (06 R131): four copies; its poison carries tag i64. -/
def execFanout (o : OpB) (s : State) : Host.Outcome State Fault Refusal :=
  let four (t : Token) : List (Nat × Token) := [(0, t), (1, t), (2, t), (3, t)]
  .next (s.pureFire {
    fl := o.fl, vecP := false, lat := 1, need := needL, tag := 1, v := s.firing.ops.l.any Token.v, outs := four,
    eval := fun x _ => match x.l with
      | some l => if tagNamed l && l.tag != 0 && (l.fmt.isNone || scaleOk l) then .ok (four l.pass, 0) else .error fFormat
      | none => .error fFormat })

/-- DROP (06 R131): any token is consumed; poison vanishes (03 R67). -/
def execDrop (o : OpA) (s : State) : Host.Outcome State Fault Refusal :=
  .next (s.pureFire {
    fl := o.fl, vecP := false, lat := 1, need := needL, tag := 5, v := false, outs := fun _ => [], eval := fun _ _ => .ok ([], 0) })

/-- ORDF (06 R132, 12 R267). -/
def execOrdf (o : OpA) (s : State) : Host.Outcome State Fault Refusal :=
  .next (s.routeFire o.fl needL needL (fun f => wantOperand 0 f.ops.l isOrder)
    (fun s f => match f.ops.l with
      | some l => s.result f false 1 (fork l.pass)
      | none => s))

/-- ORDJ (06 R132, 12 R267): the chain and POS of L. -/
def execOrdj (o : OpA) (s : State) : Host.Outcome State Fault Refusal :=
  let need : Slots := { l := true, r := true, p := o.bit 0 }
  .next (s.routeFire o.fl need need
    (fun f => firstFault [wantOperand 0 f.ops.l isOrder, wantOperand 1 f.ops.r isOrder, wantOperand 2 f.ops.p isOrder])
    (fun s f => match f.ops.l with
      | some l => s.result f false 1 [(0, l.pass)]
      | none => s))

/-- The credits of a GATE: imm18 when first loaded (06 R136). -/
def gateCredits (o : OpA) : OpState → Nat
  | .gate c => c
  | _ => o.imm.toNat

/-- GATE, credit firing (06 R136); it takes no pipeline stage, so a pass firing may follow in the same fc. -/
def execGateCreditFiring (o : OpA) (s : State) : Host.Outcome State Fault Refusal :=
  let f := s.firing
  let f := { f with ops := f.ops.mask { r := true } }
  if f.el.held || f.ops.r.isNone then .next s
  else if breaks o.fl f.el then .next (s.breakpoint f)
  else
    match wantOperand 1 f.ops.r isW32 with
    | some (bit, code, aux) => .next (s.raiseOperand f bit code aux)
    | none =>
      let s := ((s.countFiring f).consume f { r := true }).stageFlags f (readFlags f.ops { r := true })
      let c := min (gateCredits o f.el.ost + (f.ops.r.map Token.low32).getD 0) 0xFFFFFFFF
      .next (s.setElem f.e { s.elem f.e with ost := .gate c, last := f.el.last })

/-- GATE, pass firing (06 R136): without a credit a true P waits, B or not (15 R300). -/
def execGatePassFiring (o : OpA) (s : State) : Host.Outcome State Fault Refusal :=
  let f := s.firing
  let c := gateCredits o f.el.ost
  if f.ops.p.any (fun p => isScalarPred p && !p.poison && p.truth) && c == 0 then .next s
  else
    .next (s.routeFire o.fl needLP needLP
      (fun f => firstFault [wantOperand 2 f.ops.p isScalarPred, wantData 0 o.ty f.ops.l])
      (fun s f => match f.ops.l, f.ops.p with
        | some l, some p => if p.truth then (s.setOst f.e (.gate (c - 1))).result f false 1 [(0, l.pass)] else s.result f false 1 [(1, l.pass)]
        | _, _ => s))

/-- The count operand of REPEAT and COUNT: imm18 under I, or R's low 32 bits (06 R137). -/
def countOperand (o : OpA) (x : Operands) : Nat := if o.i then o.imm.toNat else (x.r.map Token.low32).getD 0

/-- The group count of COUNT (06 R138). -/
def groupCount : OpState → Nat
  | .count c => c
  | _ => 0

/-- COUNT, L firing (06 R138): a count of 0 is a routing fault, which removes the count, or under I the operand of the firing (DESIGN CHOICE, log 79). A P
firing that is ready beside it comes next. -/
def execCountLFiring (o : OpA) (s : State) : Host.Outcome State Fault Refusal :=
  let f := s.firing
  let n := countOperand o f.ops
  let all := f.ops
  let c := groupCount f.el.ost + 1
  let need : Slots := { l := true, r := !o.i }
  .next (s.routeFire o.fl need { l := true, r := !o.i && c == n }
    (fun f => firstFault [wantOperand 1 f.ops.r isW32, wantData 0 o.ty f.ops.l, if n = 0 then some (if o.i then 0 else 1, fRouting, 0) else none])
    (fun s f =>
      let s := s.setElem f.e { s.elem f.e with pturn := countP o all }
      let s := s.stageFlags f (readFlags f.ops { r := true })
      match f.ops.l with
      | some l =>
        if c = n then (s.setOst f.e (.count 0)).result f false 1 [(0, l.pass), (1, scalarTok .z32 n)]
        else (s.setOst f.e (.count c)).result f false 1 [(0, l.pass)]
      | none => s))

/-- COUNT, P firing (06 R138): a flush closes the group and consumes the count. -/
def execCountPFiring (o : OpA) (s : State) : Host.Outcome State Fault Refusal :=
  let f := s.firing
  let flush := f.ops.p.any (fun p => isScalarPred p && !p.poison && p.truth)
  let need : Slots := { r := flush && !o.i, p := true }
  .next (s.routeFire o.fl need need
    (fun f => firstFault [wantOperand 2 f.ops.p isScalarPred, wantOperand 1 f.ops.r isW32,
      if flush && countOperand o f.ops == 0 then some (if o.i then 2 else 1, fRouting, 0) else none])
    (fun s f =>
      let s := (s.setElem f.e { s.elem f.e with pturn := false }).stageFlags f (readFlags f.ops { r := true })
      if flush then (s.setOst f.e (.count 0)).result f false 1 [(1, scalarTok .z32 (groupCount f.el.ost))] else s))

/-- Copy k of n of a REPEAT (06 R137): with the last one the operands leave. -/
def State.repeatCopy (s : State) (f : Firing) (need : Slots) (n k : Nat) : State :=
  match f.ops.l with
  | some l =>
    let s := if n ≤ k then (s.consume f need).setOst f.e .none else s.setOst f.e (.copies k)
    let s := s.setElem f.e { s.elem f.e with last := some s.fc }
    s.result { f with k := f.k - (if k = 1 then 0 else 1) } false 1 [(0, l.pass), (1, predTok (decide (k < n)))]
  | none => s

/-- REPEAT (06 R137): a firing starts with the first copy and goes on with one copy an fc, whichever bank is selected (02 R26); L and the count leave with the
last copy. -/
def execRepeat (o : OpA) (s : State) : Host.Outcome State Fault Refusal :=
  let f := s.firing
  let n := countOperand o f.ops
  let need : Slots := { l := true, r := !o.i }
  match f.el.ost with
  | .copies k =>
    let f := { f with ops := f.ops.mask need }
    if f.el.held || !stageFree f.el s.fc then .next s else .next (s.repeatCopy f need n (k + 1))
  | _ =>
    .next (s.routeFire o.fl need (if n = 0 then need else {})
      (fun f => firstFault [wantOperand 1 f.ops.r isW32, wantData 0 o.ty f.ops.l])
      (fun s f =>
        let s := s.stageFlags f (readFlags f.ops { r := true })
        if n = 0 then s else s.repeatCopy f need n 1))

/-- The token of CONST (06 R133, 05 R112): imm35 in the type, or under tag-following in the format of the trigger. -/
def constToken (o : OpC) (l : Option Token) : Token :=
  match fmtOf o.ty false with
  | some f => scalarTok f (if f.signed then ofInt 64 o.imm.toInt else o.imm.toNat)
  | none =>
    match l.bind Token.fmt with
    | some f =>
      let c := if f.signed then ofInt 64 o.imm.toInt else o.imm.toNat
      scalarTok f (if f = .pred then c % 2 else c)
    | none => z64Tok o.imm.toNat

/-- CONST (06 R133): once per trigger, or, with no source on L, whenever its target is empty and holds no pending cancel. -/
def execConst (o : OpC) (s : State) : Host.Outcome State Fault Refusal :=
  let f := s.firing
  if hasSource f.b f.e.idx .l then
    .next (s.pureFire {
      fl := o.fl, vecP := false, lat := 1, need := needL, tag := routeTag o.ty f.ops.l, v := false, outs := fun t => [(0, t)],
      eval := fun x _ => .ok ([(0, constToken o x.l)], 0) })
  else if f.el.held || !stageFree f.el s.fc || !f.el.q0.isEmpty || !(f.el.pend.getD 0 []).isEmpty || !s.targetAccepts f.bk f.e.idx 0 o.t0 then .next s
  else if breaks o.fl f.el then .next (s.breakpoint f)
  else
    let t := constToken o none
    .next ((s.countFiring f).pushFlight f.e false { due := s.fc, outs := some [(0, t)], round := none, after := none, id := 0 })

end Sys2Proof.Machine
end

