-- ==== Sys2Proof/Machine/Thread.lean ====
section
/-! DEFINITION. The thread, queue, register, launch and round instructions (06 R142-R160), and the gate of an access that needs translation. -/

namespace Sys2Proof.Machine

/-! ### The gate of an access -/

/-- A firing that translates an address: while its operands stand, no fault or trap of its own comes first, and translation is wanted, it asks for
the walk and waits; otherwise the rest of the firing is told the translation (20 R355-R358). -/
def State.accessGate (s : State) (fl : Flags) (need : Slots) (addr : Operands → Option (Nat × Nat)) (rd wr : Bool) (go : Trans → State → State) : State :=
  let f := s.firing
  let need := withPm fl need
  let o := f.ops.mask need
  if f.el.held || !ready o need || breaks fl f.el || o.poison.isSome then go (.ok []) s
  else
    match addr o with
    | none => go (.ok []) s
    | some (a, n) =>
      match s.translate f.e.core f.part (!isPriv f.b) rd wr a n with
      | .wait w => s.askWalk f.e.core w
      | .fault c x => (go (.fault c x) s).dropWalk f.e.core x
      | .ok ps => (go (.ok ps) s).touch f.e.core ps

/-- The fault of a translation. -/
def Trans.err : Trans → Option (Nat × Nat)
  | .ok _ => none
  | .wait _ => none
  | .fault c a => some (c, a)

/-- The parts of a translation. -/
def Trans.parts : Trans → List Part
  | .ok ps => ps
  | .wait _ => []
  | .fault _ _ => []

/-! ### Leaving a block -/

/-- NLIVE of imm35 (06 R143). -/
def liveOut (o : OpC) : Nat := bitsAt o.imm.toNat 24 3
/-- The successor of imm35. -/
def successor (o : OpC) : Nat := bitsAt o.imm.toNat 0 24
/-- A thread token (06 R142). -/
def isThread (t : Token) : Bool := t.tag == 0x21 && !t.v

/-- BUILD (06 R143). -/
def buildRecord (o : OpC) (l : Token) (r : Option Token) : Stored :=
  let w0 := bitsAt l.word 59 5 * 2 ^ 59 + liveOut o * 2 ^ 56 + bitsAt l.word 24 32 * 2 ^ 24 + successor o
  match r with
  | some r =>
    let ws := (List.range (liveOut o)).map (laneOf r.pay 64)
    { pay := vecPay 64 (w0 :: ws), tag := r.tag, scale := r.scale, v := true, poison := false, chain := r.chain }
  | none => { pay := vecPay 64 [w0], v := true }

/-- The last stage of a firing pushes a record (02 R33), meant for a copy of a successor or for a data queue. -/
def State.pushResult (s : State) (f : Firing) (k : Nat) (v : Stored) (copy : Option Nat) : State :=
  s.pushFlight f.e false {
    due := s.fc, outs := some [], round := some f.round, after := none, id := 0, thr := f.thr, k := f.k, push := some (k, v), copy := copy, issued := f.round }

/-- The operands of an EXIT-class firing: a thread token on L, a vector on R when NLIVE > 0. -/
def exitFault (o : OpC) (f : Firing) : Option (Nat × Nat) :=
  if f.ops.l.all isThread && (liveOut o == 0 || f.ops.r.all (fun r => r.v && routeOk .tf r)) then none else some (fFormat, 0)

/-- The operands an EXIT-class firing needs. -/
def exitNeed (o : OpC) : Slots := { l := true, r := decide (0 < liveOut o) }

/-- The entry queue of the successor (05 R122). -/
def exitQueue (o : OpC) (s : State) (f : Firing) : Option Nat := (s.launchOf f).bind (fun l => s.entryQueue l (successor o))

/-- The faults of EXIT and EXITP: no queue for the successor comes before the format (05 R122, 21 R373). -/
def exitCheck (o : OpC) (s : State) (f : Firing) : Option (Nat × Nat) := if (exitQueue o s f).isNone then some (fThread, 0) else exitFault o f

/-- Push the record of an EXIT-class firing. -/
def exitPush (o : OpC) (s : State) (f : Firing) (k copy : Option Nat) : State :=
  match k, f.ops.l with
  | some k, some l => s.pushResult f k (buildRecord o l (if liveOut o = 0 then none else f.ops.r)) copy
  | _, _ => s

/-- EXIT (06 R144). -/
def execExit (o : OpC) (s : State) : Host.Outcome State Fault Refusal :=
  .next (s.anchorFire { fl := o.fl, need := exitNeed o, nums := {}, check := exitCheck o, act := fun s f => exitPush o s f (exitQueue o s f) (some f.b.origin) })

/-- EXITP (06 R144): exits when P is true, emits L when P is false. -/
def execExitp (o : OpC) (s : State) : Host.Outcome State Fault Refusal :=
  .next (s.anchorFire {
    fl := o.fl, need := { exitNeed o with p := true }, nums := {},
    check := fun s f =>
      if !f.ops.p.all isScalarPred then some (fFormat, 0)
      else if f.ops.p.any Token.truth then exitCheck o s f else exitFault o f
    act := fun s f =>
      if f.ops.p.any Token.truth then exitPush o s f (exitQueue o s f) (some f.b.origin)
      else match f.ops.l with
        | some l => s.result f false 1 [(0, l.pass)]
        | none => s })

/-- EXITQ (06 R144): the record goes to the data queue that bits 34:27 name. -/
def execExitq (o : OpC) (s : State) : Host.Outcome State Fault Refusal :=
  .next (s.anchorFire {
    fl := o.fl, need := exitNeed o, nums := {}, check := fun _ f => exitFault o f,
    act := fun s f => exitPush o s f ((s.launchOf f).bind (fun l => s.queueTile l (bitsAt o.imm.toNat 27 8))) none })

/-- Stage an effect of the dispatcher or the graph (06 R146 R155-R158). -/
def State.stageEff (s : State) (f : Firing) (k : EffKind) : State :=
  let s' := s.mapLaunch f.lk (fun l => { l with staged := l.staged ++ [{ round := f.round, key := f.effKey, seq := s.nid, kind := k, core := f.e.core, qex := isQex f.b, org := f.origin }] })
  { s' with nid := s.nid + 1 }

/-- Emit L on both targets. -/
def emitL (s : State) (f : Firing) : State :=
  match f.ops.l with
  | some l => s.result f false 1 (fork l.pass)
  | none => s

/-- SPAWN (06 R146): L at once; the child is staged. -/
def execSpawn (o : OpC) (s : State) : Host.Outcome State Fault Refusal :=
  .next (s.anchorFire {
    fl := o.fl, need := exitNeed o, nums := {}, check := fun _ f => exitFault o f,
    act := fun s f => match f.ops.l with
      | some l =>
        let s := s.stageEff f (.spawn (successor o) (liveOut o) (buildRecord o l (if liveOut o = 0 then none else f.ops.r)) f.b.origin)
        s.result f false 1 [(0, l.pass)]
      | none => s })

/-- RETIRE (06 R147). -/
def execRetire (o : OpA) (s : State) : Host.Outcome State Fault Refusal :=
  .next (s.anchorFire {
    fl := o.fl, need := needL, nums := {}, check := fun _ f => if f.ops.l.all isThread then none else some (fFormat, 0), act := fun s _ => s })

/-! ### Queues -/

/-- The queue that imm18 names. -/
def namedQueue (o : OpA) (s : State) (f : Firing) : Option Nat := (s.launchOf f).bind (fun l => s.queueTile l (o.imm.toNat % 2048))

/-- QPUSH (06 R149): the pushed record keeps the sideband, and the chain of an order token. -/
def execQpush (o : OpA) (s : State) : Host.Outcome State Fault Refusal :=
  .next (s.anchorFire {
    fl := o.fl, need := needL, nums := {},
    check := fun _ f => if f.ops.l.all (fun l => l.v == o.v && routeOk o.ty l) then none else some (fFormat, 0),
    act := fun s f => match namedQueue o s f, f.ops.l with
      | some k, some l =>
        let pay : Payload := if l.v then l.pay else BitVec.ofNat 512 (bitsAt l.pay.toNat 0 64)
        s.pushResult f k { l.stored with pay := pay, chain := l.chain } none
      | _, _ => s })

/-- QPOP (06 R150): waits on an empty queue; a record of another form or type is left in place and traps. -/
def execQpop (o : OpA) (s : State) : Host.Outcome State Fault Refusal :=
  let head (s : State) (f : Firing) : Option Stored := (namedQueue o s f).bind s.queueHead
  .next (s.anchorFire {
    fl := o.fl, need := needL, nums := {},
    hold := fun s f => (head s f).isNone,
    check := fun s f => match head s f with
      | some r => if r.v == o.v && (r.poison || routeOk o.ty r.token) then none else some (fFormat, 0)
      | none => none
    act := fun s f => match namedQueue o s f, head s f with
      | some k, some r => (s.queuePop k f.lk f.round).result f false 1 (fork r.token)
      | _, _ => s })

/-! ### Context registers -/

/-- The committed value of a context register; an unset one is a zero tagged z64 (06 R153). -/
def Bank.creg (b : Bank) (i : Nat) : Stored := mgetD b.regs i { v := decide (16 ≤ i) }

/-- CRD (06 R153): a firing of round r reads what marker r - 1 committed, so it waits until that marker has passed the block. -/
def execCrd (o : OpA) (s : State) : Host.Outcome State Fault Refusal :=
  let f := s.firing
  let r := f.b.creg o.imm.toNat
  if f.b.mpass < f.round then .next s
  else
    .next (s.pureFire {
      fl := o.fl, vecP := false, lat := 1, need := needL, tag := routeTag o.ty (some r.token), v := r.v,
      eval := fun _ _ => if r.poison || routeOk o.ty r.token then .ok (fork r.token, 0) else .error fFormat })

/-- CWR (06 R154): the write is staged; L goes on. -/
def execCwr (o : OpA) (s : State) : Host.Outcome State Fault Refusal :=
  .next (s.anchorFire {
    fl := o.fl, need := needL, nums := {},
    check := fun _ f => if f.ops.l.all (fun l => l.v == decide (16 ≤ o.imm.toNat) && routeOk o.ty l) then none else some (fFormat, 0),
    act := fun s f => match f.ops.l with
      | some l =>
        let w : RegWrite := { key := f.effKey, seq := s.nid, reg := o.imm.toNat, val := l.stored }
        let b := s.bank f.bk
        emitL { s.setBank f.bk { b with rstage := b.rstage ++ [(f.round, w)] } with nid := s.nid + 1 } f
      | none => s })

/-! ### Launch, patch, trigger -/

/-- LAUNCH (06 R155): translates the 128-byte packet address and stages the launch. -/
def execLaunch (o : OpA) (s : State) : Host.Outcome State Fault Refusal :=
  let ok (t : Token) : Bool := isAddr t && t.word % 128 == 0
  .next (s.accessGate o.fl needL (fun x => x.l.bind (fun l => if ok l then some (l.word, 128) else none)) true false (fun t s =>
    s.anchorFire {
      fl := o.fl, need := needL,
      check := fun _ f => match f.ops.l with
        | some l => if !isAddr l then some (fFormat, 0) else if l.word % 128 ≠ 0 then some (fLaunch, l.word) else t.err
        | none => none
      act := fun s f => match f.ops.l with
        | some l => emitL (s.stageEff f (.launch (o.imm.toNat % 64) l.word t.parts)) f
        | none => s }))

/-- PATCH (06 R156): stages a patch of R. -/
def execPatch (o : OpA) (s : State) : Host.Outcome State Fault Refusal :=
  .next (s.anchorFire {
    fl := o.fl, need := needLR, check := fun _ f => if f.ops.l.all isAddr && f.ops.r.all isAddr then none else some (fFormat, 0),
    act := fun s f => match f.ops.l, f.ops.r with
      | some l, some r => emitL (s.stageEff f (.patch l.word (o.imm.toNat % 4) (BitVec.ofNat 64 r.word))) f
      | _, _ => s })

/-- TRIG (06 R158). -/
def execTrig (o : OpA) (s : State) : Host.Outcome State Fault Refusal :=
  .next (s.anchorFire { fl := o.fl, need := needL, nums := {}, act := fun s f => emitL (s.stageEff f .trig) f })

/-! ### Rounds -/

/-- Request a marker (06 R159): within 16 fc; requests made before that injection are met by it. A system bank's markers come with those of the
region bound to its core, and of themselves where none is bound (18 R312). -/
def State.requestMarker (s : State) (lk core : Nat) : State :=
  let due := s.fc + min 16 (Config.rmarkDelay s.tick)
  let region := if lkLid lk = 0 then (s.core core).lk else some lk
  match region with
  | some lk => (s.mapLaunch lk (fun l => if l.rmark.isSome then l else { l with rmark := some due })).tickUp
  | none => let c := s.core core; (if c.sysRmark.isSome then s else s.setCore core { c with sysRmark := some due }).tickUp

/-- RMARK (06 R159). -/
def execRmark (o : OpA) (s : State) : Host.Outcome State Fault Refusal :=
  .next (s.anchorFire { fl := o.fl, need := needL, nums := {}, act := fun s f => emitL (s.requestMarker f.lk f.e.core) f })

/-- QUIET (06 R160): the countdown starts with the round after the firing's. -/
def execQuiet (o : OpA) (s : State) : Host.Outcome State Fault Refusal :=
  .next (s.anchorFire {
    fl := o.fl, need := needL, nums := {},
    act := fun s f =>
      let (id, s) := s.fresh
      let s := s.mapLaunch f.lk (fun l => { l with quiets := l.quiets ++ [{ site := f.e, flight := id, n := o.imm.toNat, count := 0, start := f.round }] })
      s.await f false false id })

/-- A countdown of QUIET at a site that marker r still has to count, or that has come to its end (06 R160): its emission belongs to the round after the marker
that closes the last quiet round. -/
def State.quietOwed (s : State) (lk : Nat) (e : Site) (r : Nat) : Bool :=
  (s.launch lk).any (fun l => l.quiets.any (fun q => q.site == e && decide (q.start < r) && (decide (s.cutOf lk e.core < r) || decide (q.n ≤ q.count))))

/-- QUIET_EMIT (06 R160): a countdown at the site has seen its n quiet rounds; pred true belongs to the round after that marker. -/
def execQuietEmit (e : Site) (s : State) : Host.Outcome State Fault Refusal :=
  let lk := (s.bank (siteKey e)).lk
  match s.launch lk with
  | none => .next s
  | some l =>
    match l.quiets.find? (fun q => q.site == e && decide (q.n ≤ q.count)) with
    | none => .next s
    | some q =>
      let s := s.setLaunch lk { l with quiets := l.quiets.filter (fun x => x.flight ≠ q.flight) }
      .next (s.fill e q.flight s.fc (some (s.cutOf lk e.core - 1)) (fork (predTok true)))

end Sys2Proof.Machine
end

