-- ==== Sys2Proof/Machine/Unit.lean ====
section
/-! DEFINITION. Home units: places and latencies (01 R8-R18), staged arrivals and forwarding (08 R196 R197, 12 R270), and what an operation does at
its home: writes, atomics, barriers, permits, futures (08 R209-R220). -/

namespace Sys2Proof.Machine

/-! ### Geometry -/

/-- Row and column of compute tile c (01 R10). -/
def computeXY (c : Nat) : Nat × Nat := (c / 4, 2 * (c % 4) + c / 4 % 2)
/-- Row and column of memory tile m (01 R10). -/
def memoryXY (m : Nat) : Nat × Nat := (m / 4, 2 * (m % 4) + (1 - m / 4 % 2))
/-- Distance of two numbers. -/
def apart (a b : Nat) : Nat := (a - b) + (b - a)
/-- Hops over orthogonal links. -/
def gridHops (a b : Nat × Nat) : Nat := apart a.1 b.1 + apart a.2 b.2
/-- Adjacent compute tiles (01 R10). -/
def adjacentTiles (a b : Nat) : Bool := apart (computeXY a).1 (computeXY b).1 == 1 && apart (computeXY a).2 (computeXY b).2 == 1
/-- Hops of a circuit between compute tiles of a core (05 R122). -/
def tileHops (a b : Nat) : Nat := if a = b then 0 else if adjacentTiles a b then 1 else gridHops (computeXY a) (computeXY b)

/-- Die of a core. -/
def dieOfCore (c : Nat) : Nat := c / 24
/-- Home die of a device address (23 R401). -/
def dieOfAddr (a : Nat) : Nat := a / 2 ^ 38 % 4
/-- The dies that traffic enters on its way (01 R8): first along the row, then along the column. -/
def dieRoute (a b : Nat) : List Nat :=
  if a = b then [] else if a % 2 = b % 2 ∨ a / 2 = b / 2 then [b] else [a / 2 * 2 + b % 2, b]
/-- Links between dies on a route. -/
def dieHops (a b : Nat) : Nat := (dieRoute a b).length

/-- The slices of a die that a partition owns. -/
def slicesOf (p : Partition) (d : Nat) : List Nat := (List.range 64).filter (fun i => bitAt (p.slices.getD d 0) i)
/-- The home slice of a device address for a partition: 64 × die + slice (01 R15). -/
def State.sliceOf (s : State) (part a : Nat) : Nat :=
  let d := dieOfAddr a
  let ss := slicesOf (s.part part) d
  64 * d + ss.getD (Config.sliceHash (a / 64) % ss.length) 0

/-- The latency of a typical path: its unloaded figure and a free value above it (01 R18). -/
def State.typical (s : State) (n : Nat) : Nat := n + Config.extraLatency s.tick

/-- The latency of one part from a compute tile (01 R18); the hops to a memory tile are counted along rows and columns (DESIGN CHOICE, log 77). -/
def State.partLatency (s : State) (core tile : Nat) (p : Part) : Nat :=
  match p.space with
  | .tile _ m => 4 + 2 * (gridHops (computeXY tile) (memoryXY m) - 1)
  | .dev => s.typical (match dieHops (dieOfCore core) (dieOfAddr p.addr) with
    | 0 => 60
    | 1 => 95
    | _ => 130)
  | .host => s.typical 1100
  | .peer _ => s.typical 2600

/-- The latency of an access. -/
def State.latencyOf (s : State) (core tile : Nat) (ps : List Part) : Nat := ps.foldl (fun m p => max m (s.partLatency core tile p)) 4

/-! ### Chains and keys (12 R267 R269) -/

/-- The chain of a write: the one that would take POS to 2^32 heads a new chain. -/
def Firing.writeChain (f : Firing) : Chain :=
  let own : Chain := ⟨gsp f.b f.e.idx, f.thr, f.k, 0⟩
  match f.ops.p.bind Token.chain with
  | some c => if c.pos + 1 ≥ 2 ^ 32 then own else c
  | none => own

/-- The commit key of a write. -/
def Firing.writeKey (f : Firing) : Key := let c := f.writeChain; ⟨c.hgsp, c.thr, c.k, c.pos, gsp f.b f.e.idx⟩

/-- The order token after a write. -/
def Chain.next (c : Chain) : Chain := { c with pos := c.pos + 1 }

/-- Two keys of one chain. -/
def sameChain (k : Key) (c : Chain) : Bool := k.hgsp == c.hgsp && k.thr == c.thr && k.k == c.k

/-- Keys compare field by field from the left (12 R269). -/
def Key.lt (a b : Key) : Bool :=
  decide (a.hgsp < b.hgsp ∨ (a.hgsp = b.hgsp ∧ (a.thr < b.thr ∨ (a.thr = b.thr ∧ (a.k < b.k ∨ (a.k = b.k ∧ (a.pos < b.pos ∨ (a.pos = b.pos ∧ a.agsp < b.agsp))))))))

/-- A plain write. -/
def HomeOp.isWrite (op : HomeOp) : Bool :=
  match op with
  | .write _ => true
  | _ => false

/-- Order of two keyed items: by key, then by arrival. -/
def keyBefore (ka : Key) (sa : Nat) (kb : Key) (sb : Nat) : Bool := ka.lt kb || (ka == kb && decide (sa < sb))

/-- Insert into a sorted list. -/
def insertBy {α : Type} (before : α → α → Bool) (x : α) : List α → List α
  | [] => [x]
  | y :: ys => if before y x then y :: insertBy before x ys else x :: y :: ys

/-- Sort. -/
def sortBy {α : Type} (before : α → α → Bool) (xs : List α) : List α := xs.foldr (insertBy before) []

/-- The order in which an element applies arrivals (12 R272): by key in ordered mode, in arrival order otherwise. -/
def commitOrder {α : Type} (ord : Bool) (key : α → Key) (seq : α → Nat) (xs : List α) : List α :=
  sortBy (fun a b => if ord then keyBefore (key a) (seq a) (key b) (seq b) else decide (seq a < seq b)) xs

/-- Free mode: writes of one chain are applied in POS order (12 R272). An arrival stands behind those of its chain with a lower POS; the operations on
ordered-shared lines come last, in sorted order (13 R285, log 73). -/
def writeOrder (ord : Bool) (xs : List Arrival) : List Arrival :=
  if ord then commitOrder true Arrival.key Arrival.seq xs
  else
    let late (x : Arrival) : Bool := x.osh && !x.op.isWrite
    let ys := commitOrder false Arrival.key Arrival.seq (xs.filter (fun x => !late x))
    -- the k-th place of each chain takes that chain's k-th arrival in POS order
    (ys.foldl (fun (acc : List Arrival × List Arrival) x =>
      let same (y : Arrival) : Bool := y.key.hgsp == x.key.hgsp && y.key.thr == x.key.thr && y.key.k == x.key.k
      let next := (sortBy (fun a b => decide (a.key.pos < b.key.pos ∨ (a.key.pos = b.key.pos ∧ a.seq < b.seq))) (acc.2.filter same)).head?
      match next with
      | some n => (acc.1 ++ [n], acc.2.filter (fun y => y.seq ≠ n.seq))
      | none => acc) ([], ys)).1 ++ commitOrder true Arrival.key Arrival.seq (xs.filter late)

/-! ### What an operation does to its bytes (08 R209-R220) -/

/-- Rank of an FP32 score (08 R211): -0 below +0. -/
def scoreRank (c : Nat) : Nat := if bitAt c 31 then 2 ^ 32 - 1 - c % 2 ^ 32 else 2 ^ 31 + c % 2 ^ 31

/-- ATOPK (08 R211): the new record and the position. -/
def atopk (rec : List Nat) (post k : Nat) : List Nat × Nat × Nat :=
  let score := bitsAt post 0 32
  let expert := bitsAt post 32 16
  if bitsAt score 23 8 = 255 ∧ bitsAt score 0 23 ≠ 0 then (rec, 0xFF, flagNV)
  else
    let valid := rec.filter (fun e => bitAt e 63)
    let up (e : Nat) : Nat := if bitsAt e 32 16 = expert ∧ scoreRank (bitsAt e 0 32) < scoreRank score then 2 ^ 63 + expert * 2 ^ 32 + score else e
    let es := if valid.any (fun e => bitsAt e 32 16 == expert) then valid.map up else valid ++ [2 ^ 63 + expert * 2 ^ 32 + score]
    let es := es.map (fun e => 2 ^ 63 + bitsAt e 32 16 * 2 ^ 32 + bitsAt e 0 32)
    let before (a b : Nat) : Bool := decide (scoreRank (bitsAt b 0 32) < scoreRank (bitsAt a 0 32)) ||
      (scoreRank (bitsAt a 0 32) == scoreRank (bitsAt b 0 32) && decide (bitsAt a 32 16 ≤ bitsAt b 32 16))
    let kept := (sortBy before es).take k
    (kept ++ List.replicate (8 - kept.length) 0, (kept.findIdx? (fun e => bitsAt e 32 16 == expert)).getD 0xFF, 0)

/-- An atomic on one location (08 R209-R211): new code, the token of the old value, flags. -/
def atomicValue (op : Nat) (f : Fmt) (u : Bool) (m : Nat) (r : Token) : Nat × Token × Nat :=
  let w := f.width
  let c0 := laneOf r.pay w 0
  let old := scalarTok f m
  let f' : Fmt := match f.ty, u with
    | .i64, true => .z64
    | .i64, false => .i64
    | .i32, true => .z32
    | .i32, false => .i32
    | _, _ => f
  match op with
  | 0xA0 => ((intBin 0x20 f' m c0).code, old, 0)
  | 0xA1 =>
    let x := floatBin 0x40 f 0 (laneValue f 127 m) (laneValue f r.scale.toNat c0)
    (x.code, old, x.flags)
  | 0xA2 => ((intBin 0x2A f' m c0).code, old, 0)
  | 0xA3 => ((intBin 0x2B f' m c0).code, old, 0)
  | 0xA4 => ((intBin 0x2C f' m c0).code, old, 0)
  | 0xA5 => ((intBin 0x2D f' m c0).code, old, 0)
  | 0xA6 => ((intBin 0x2E f' m c0).code, old, 0)
  | 0xA7 => (c0, old, 0)
  | 0xA8 => (if m = c0 then laneOf r.pay w 1 else m, old, 0)
  | 0xA9 => (m ||| 2 ^ (r.low32 % 64), predTok (bitAt m (r.low32 % 64)), 0)
  | _ => (if m < c0 then m + 1 else m, old, 0)

/-- Bytes of a format's lane. -/
def fmtBytes (f : Fmt) : Nat := (f.width + 7) / 8

/-- A barrier word after an arrival, and whether the phase is complete; none where the arrival is a barrier fault (08 R217). -/
def barStep (w : Nat) (copy : Bool) : Option (Nat × Bool) :=
  let np := bitsAt w 0 16
  let nc := bitsAt w 16 16
  let ap := bitsAt w 32 16 + (if copy then 0 else 1)
  let ac := bitsAt w 48 15 + (if copy then 1 else 0)
  let ph := bitAt w 63
  if np = 0 ∨ nc > 32767 ∨ ap > np ∨ ac > nc then none
  else if ap = np ∧ ac = nc then some (np + nc * 2 ^ 16 + (if ph then 0 else 2 ^ 63), true)
  else some (np + nc * 2 ^ 16 + ap * 2 ^ 32 + ac * 2 ^ 48 + (if ph then 2 ^ 63 else 0), false)

/-- A future's word when resolved (08 R219). -/
def resolvedWord (v : Nat) : Nat := 2 * 2 ^ 62 + v % 2 ^ 32

/-- A join word after a decrement, none where j is not the join count of the packet's first JDEC (08 R220). -/
def joinStep (w j : Nat) : Option Nat :=
  let jset := bitAt w 63
  let jj := if jset then bitsAt w 16 8 else j
  if jset ∧ j ≠ jj then none else some (2 ^ 63 + jj * 2 ^ 16 + ((if jset then bitsAt w 0 16 else j) + 0xFFFF) % 2 ^ 16)

/-- Bytes of an operation at its home. -/
def HomeOp.size : HomeOp → Nat
  | .write bs => bs.length
  | .atomic op tag _ _ _ => if op = 0xAA then 64 else fmtBytes ((Fmt.ofTag tag).getD .z64)
  | .bar _ => 8
  | .permit _ => 8
  | .futreg _ _ _ => 8
  | .futres _ => 8
  | .futwait => 8
  | .rsv _ => 4
  | .fence _ _ => 0
  | .rfence => 0
  | .jdec _ => 8
  | .touch => 8
  | .fault _ _ _ => 0

/-- The record of ATOPK in the bytes of its line (08 R211). -/
def topkRecord (bs : List Byte) : List Nat := (List.range 8).map (fun i => leNat ((bs.drop (8 * i)).take 8))

/-- The bytes that an operation leaves, from those it finds; where it would fault they stay (08 R209-R220, 10 R248). -/
def HomeOp.apply (op : HomeOp) (old : List Byte) : List Byte :=
  let w := leNat old
  match op with
  | .write bs => bs
  | .atomic op tag u val k =>
    if op = 0xAA then (atopk (topkRecord old) val.word k).1.flatMap (leBytes 8)
    else let f := (Fmt.ofTag tag).getD .z64; leBytes (fmtBytes f) (atomicValue op f u w val).1
  | .bar copy => leBytes 8 (((barStep w copy).map Prod.fst).getD w)
  | .permit give => leBytes 8 (if w / 2 ≠ 0 then w else if give then 0 else 1)
  | .futreg pkt q j => leBytes 8 (if bitsAt w 62 2 = 0 then 2 ^ 62 + q * 2 ^ 56 + j * 2 ^ 48 + bitsAt pkt 7 41 else w)
  | .futres v => leBytes 8 (if bitsAt w 62 2 < 2 then resolvedWord v else w)
  | .futwait => old
  | .rsv off => leBytes 4 (min w off)
  | .fence _ _ => old
  | .rfence => old
  | .jdec j => leBytes 8 ((joinStep w j).getD w)
  | .touch => old
  | .fault _ _ _ => old

/-! ### The log of a unit (08 R212, log 72) -/

/-- A byte that an operation touches. -/
def Arrival.covers (a : Arrival) (x : Nat) : Bool := decide (a.addr ≤ x ∧ x < a.addr + a.op.size)

/-- An operation touches some of n bytes from an address. -/
def Arrival.meets (a : Arrival) (x n : Nat) : Bool := decide (x < a.addr + a.op.size ∧ a.addr < x + n)

/-- A plain write. -/
def Arrival.plain (a : Arrival) : Bool := a.op.isWrite

/-- Bytes a staged write writes, or an operation performed on arrival has left. -/
def Arrival.bytes (a : Arrival) : List Byte :=
  match a.op with
  | .write bs => bs
  | _ => a.res

/-- The round an arrival belongs to. -/
def Arrival.roundOf (a : Arrival) : RoundOf := ⟨a.lk, a.core, a.round⟩

/-- An arrival belongs to a launch; the handler launch's belong to a core (18 R312). -/
def Arrival.of (a : Arrival) (lk core : Nat) : Bool := a.lk == lk && (lkLid lk != 0 || a.core == core)

/-- The bytes of a table after an operation on them. -/
def Arrival.over (m : Map Byte) (a : Arrival) : Map Byte :=
  let xs := (List.range a.op.size).map (fun i => a.addr + i)
  (xs.zip (a.op.apply (xs.map (fun x => mgetD m x 0)))).foldl (fun m (y : Nat × Byte) => mset m y.1 y.2) m

/-- The bytes of a table after operations in order. -/
def replayLog (es : List Arrival) (m : Map Byte) : Map Byte := es.foldl Arrival.over m

/-- Where bytes live: the operations performed there on arrival, the bytes before them, and the bytes that plain accesses see. -/
structure HomeLog where
  log : List Arrival
  base : Map Byte
  mem : Memory
  deriving DecidableEq, Repr

/-- What plain accesses see follows from the base and the operations that have committed; the oldest of these leave the log. -/
def HomeLog.settle (h : HomeLog) : HomeLog :=
  let mem := (replayLog (h.log.filter Arrival.done) h.base).foldl (fun m (y : Nat × Byte) => memWrite m y.1 y.2) h.mem
  let log := h.log.dropWhile Arrival.done
  { log := log, mem := mem, base := (replayLog (h.log.takeWhile Arrival.done) h.base).filter (fun y => log.any (fun e => e.covers y.1)) }

/-- An operation enters the log behind those that stand there. -/
def HomeLog.append (h : HomeLog) (e : Arrival) : HomeLog :=
  let xs := (List.range e.op.size).map (fun i => e.addr + i)
  { h with log := h.log ++ [e], base := xs.foldl (fun m x => if (mget m x).isSome then m else mset m x (memRead h.mem x)) h.base }

/-- A committed write enters the log behind what has committed, and by its arrival among the others. -/
def HomeLog.insert (h : HomeLog) (e : Arrival) : HomeLog :=
  let back := (h.log.reverse.takeWhile (fun x => !x.done)).reverse
  let front := h.log.take (h.log.length - back.length)
  { h with log := front ++ back.takeWhile (fun x => decide (x.seq ≤ e.seq)) ++ [e] ++ back.dropWhile (fun x => decide (x.seq ≤ e.seq)) }

/-- A write commits: on bytes that logged operations touch it takes its place among them, which it has already where an atomic of its chain has seen it. -/
def HomeLog.put (h : HomeLog) (e : Arrival) (bs : List Byte) : HomeLog :=
  if h.log.isEmpty then { h with mem := writeBytes h.mem e.addr bs }
  else
    let own (x : Arrival) : Bool := x.seq == e.seq && x.plain && !x.done
    let h : HomeLog := { h with log := h.log.map (fun x => if own x then { x with done := true } else x) }
    let held (x : Nat) : Bool := h.log.any (fun y => y.seq == e.seq && y.covers x)
    ((((List.range bs.length).map (fun i => e.addr + i)).zip bs).foldl (fun (h : HomeLog) (y : Nat × Byte) =>
      if held y.1 then h
      else if (mget h.base y.1).isSome then h.insert { e with addr := y.1, op := .write [y.2], done := true }
      else { h with mem := memWrite h.mem y.1 y.2 }) h).settle

/-- The home of a space. -/
def State.homeLog (s : State) (sp : Space) : HomeLog :=
  match sp with
  | .dev => ⟨s.overlay, s.abase, s.mem⟩
  | .host => ⟨[], [], s.hostMem⟩
  | .peer p => ⟨[], [], mgetD s.peerMem p []⟩
  | .tile c t => let m := s.mtile (tileKey c t); ⟨m.overlay, m.abase, m.bytes⟩

/-- Store the home of a space. -/
def State.setHomeLog (s : State) (sp : Space) (h : HomeLog) : State :=
  match sp with
  | .dev => { s with overlay := h.log, abase := h.base, mem := h.mem }
  | .host => { s with hostMem := h.mem }
  | .peer p => { s with peerMem := mset s.peerMem p h.mem }
  | .tile c t => s.setMtile (tileKey c t) { s.mtile (tileKey c t) with overlay := h.log, abase := h.base, bytes := h.mem }

/-- The committed byte at its home. -/
def State.homeByte (s : State) (sp : Space) (a : Nat) : Byte := memRead (s.homeLog sp).mem a

/-- A write commits at its home. -/
def State.commitWrite (s : State) (a : Arrival) (bs : List Byte) : State := s.setHomeLog a.space ((s.homeLog a.space).put a bs)

/-- Store committed bytes at a home. -/
def State.homeWrite (s : State) (sp : Space) (a : Nat) (bs : List Byte) : State :=
  s.commitWrite { lk := 0, core := 0, round := 0, key := ⟨0, 0, 0, 0, 0⟩, seq := s.nid, space := sp, addr := a, op := .write bs, req := 0 } bs

/-- Logged operations whose rounds have not committed. -/
def State.undone (s : State) : List Arrival := s.overlay.filter (fun a => !a.done)
def MTile.undone (m : MTile) : List Arrival := m.overlay.filter (fun a => !a.done)

/-! ### Staging -/

/-- Arrivals not yet committed that belong to a launch, at a memory tile or on the way to their homes. -/
def State.stagedAt (s : State) (lk : Nat) (sp : Space) : List Arrival :=
  (match sp with
   | .tile c t => (s.mtile (tileKey c t)).stage
   | _ => s.cores.flatMap (fun (x : Nat × Core) => x.2.gstage) ++ s.units).filter (fun a => a.lk == lk)

/-- What a chain's loads may see of a launch ahead of its commit: what it stages, and the operations performed on arrival (08 R196). -/
def State.aheadAt (s : State) (lk : Nat) (sp : Space) : List Arrival :=
  s.stagedAt lk sp ++ (s.homeLog sp).log.filter (fun a => a.lk == lk && !a.done)

/-- The byte that the latest earlier write of a chain stages at an address (08 R196). -/
def forwardByte (xs : List Arrival) (sp : Space) (c : Chain) (a : Nat) : Option Byte :=
  let hit (x : Arrival) : Bool := x.space == sp && sameChain x.key c && decide (x.key.pos < c.pos) && decide (x.addr ≤ a ∧ a < x.addr + x.bytes.length)
  let best := (xs.filter hit).foldl (fun (b : Option Arrival) x => match b with
    | none => some x
    | some y => if x.key.pos < y.key.pos ∨ (x.key.pos = y.key.pos ∧ x.seq < y.seq) then some y else some x) none
  best.bind (fun x => x.bytes[a - x.addr]?)

/-- The bytes of parts, in order of their offsets, each from a reader. -/
def gatherBytes (ps : List Part) (rd : Part → Nat → Byte) : List Byte := ps.flatMap (fun p => (List.range p.size).map (fun i => rd p (p.addr + i)))

/-- Cut bytes into the parts' arrivals. -/
def splitBytes (bs : List Byte) (p : Part) : List Byte := (bs.drop p.off).take p.size

/-- Bytes staged in a core's global store path. -/
def gstageBytes (c : Core) : Nat := c.gstage.foldl (fun n a => n + a.bytes.length) 0
/-- Bytes staged in a memory tile. -/
def tileStageBytes (t : MTile) : Nat := t.stage.foldl (fun n a => n + a.bytes.length) 0

/-- Room to stage n bytes for the parts (08 R197). -/
def State.stageRoom (s : State) (core : Nat) (ps : List Part) : Bool :=
  match ps.head?.map Part.space with
  | some (.tile c t) => decide (tileStageBytes (s.mtile (tileKey c t)) + (ps.map Part.size).sum ≤ 32768)
  | _ => decide (gstageBytes (s.core core) + (ps.map Part.size).sum ≤ 65536)

/-- A memory tile has been written (21 R385). -/
def State.useTile (s : State) (c t : Nat) : State := let k := s.core c; s.setCore c { k with mtuse := k.mtuse ||| BitVec.ofNat 16 (2 ^ t) }

/-- Stage an arrival where it is first accepted (12 R270); a write of a memory tile marks it used (21 R385). -/
def State.stage (s : State) (a : Arrival) : State :=
  let a := { a with seq := s.nid }
  let s := { s with nid := s.nid + 1 }
  match a.space with
  | .tile c t =>
    let m := s.mtile (tileKey c t)
    (s.setMtile (tileKey c t) { m with stage := m.stage ++ [a] }).useTile c t
  | _ => let c := s.core a.core; s.setCore a.core { c with gstage := c.gstage ++ [a] }

/-- The arrival of a part of a firing's write. -/
def Firing.arrival (f : Firing) (p : Part) (op : HomeOp) (req : Nat) : Arrival :=
  { lk := f.lk, core := f.e.core, round := f.round, key := f.writeKey, seq := 0, space := p.space, addr := p.addr, op := op, req := req, osh := p.osh,
    org := f.origin, user := !isPriv f.b }

/-- The atomics and loop reservations of a chain in a space that have not answered: address and bytes (08 R212). -/
def State.chainOps (s : State) (lk : Nat) (c : Chain) (sp : Space) : List (Nat × Nat) :=
  let waits (op : HomeOp) : Bool := match op with
    | .atomic _ _ _ _ _ => true
    | .rsv _ => true
    | _ => false
  ((s.stagedAt lk sp).filter (fun a => waits a.op && sameChain a.key c && a.space == sp)).map (fun a => (a.addr, a.op.size)) ++
  (s.reqs.filter (fun r => r.lk == lk && r.op.any waits && sameChain r.key c)).flatMap (fun r =>
    (r.parts.filter (fun p => p.space == sp)).map (fun p => (p.addr, p.size)))

/-- An atomic or a loop reservation of the chain that has not answered overlaps the parts (08 R212). -/
def State.chainBusy (s : State) (lk : Nat) (c : Chain) (ps : List Part) : Bool :=
  ps.any (fun p => (s.chainOps lk c p.space).any (fun x => decide (p.addr < x.1 + x.2 ∧ x.1 < p.addr + p.size)))

/-! ### Views of ordered-shared lines (13 R285) -/

/-- Key of a slice's count of applied rounds: launch, core for the handler launch, slice. -/
def appliedKey (lk core slice : Nat) : Nat := (lk * 128 + (if lkLid lk = 0 then core + 1 else 0)) * 256 + slice
/-- Rounds of a launch that a slice has applied. -/
def State.appliedRounds (s : State) (lk core slice : Nat) : Nat := mgetD s.applied (appliedKey lk core slice) 0

/-- The slice of an ordered-shared part. -/
def State.oshSlice (s : State) (lk : Nat) (p : Part) : Option Nat := if p.osh && p.space == .dev then some (s.sliceOf (lkPart lk) p.addr) else none

/-- Eight other launches hold views of a slice that the parts touch: the access holds. -/
def State.viewFull (s : State) (lk : Nat) (ps : List Part) : Bool :=
  (ps.filterMap (s.oshSlice lk)).any (fun sl => !s.views.any (fun v => v.1 == sl && v.2.1 == lk) && decide (8 ≤ (s.views.filter (fun v => v.1 == sl)).length))

/-- A launch's first access to a slice's ordered-shared lines opens its view there: the lines as they stand, the next unit being the first the slice has
not applied. -/
def State.viewTouch (s : State) (core lk : Nat) (ps : List Part) : State :=
  (ps.filterMap (s.oshSlice lk)).foldl (fun s sl =>
    if s.views.any (fun v => v.1 == sl && v.2.1 == lk) then s
    else
      let rs := (s.units.filter (fun a => a.lk == lk && a.space == .dev && s.sliceOf (lkPart lk) a.addr == sl)).map Arrival.round
      let n := max (s.appliedRounds lk core sl) (rs.foldl min (s.cutOf lk core))
      { s with views := s.views ++ [(sl, lk, n, s.mem)], applied := mset s.applied (appliedKey lk core sl) n }) s

/-! ### Operations at their home -/

/-- The bytes that an operation finds: those that plain accesses see with every operation performed on arrival over them (08 R212). -/
def State.atomicBytes (s : State) (a : Arrival) (n : Nat) : List Byte :=
  let h := s.homeLog a.space
  let m := replayLog h.log h.base
  (List.range n).map (fun i => (mget m (a.addr + i)).getD (memRead h.mem (a.addr + i)))

/-- The part of a staged write that lies in n bytes from an address. -/
def Arrival.clip (w : Arrival) (x n : Nat) : Arrival :=
  let lo := max w.addr x
  { w with addr := lo, op := .write ((w.bytes.drop (lo - w.addr)).take (x + n - lo)) }

/-- The earlier writes of its own chain, staged on the bytes of an operation that is performed on arrival, stand ahead of it (08 R196). -/
def State.logOwn (s : State) (a : Arrival) : State :=
  let h := s.homeLog a.space
  let c : Chain := ⟨a.key.hgsp, a.key.thr, a.key.k, 0⟩
  let own (w : Arrival) : Bool := w.plain && w.space == a.space && sameChain w.key c && decide (w.key.pos < a.key.pos) &&
    w.meets a.addr a.op.size && !h.log.any (fun e => e.seq == w.seq && e.meets a.addr a.op.size)
  let ws := (s.stagedAt a.lk a.space).filter own
  if ws.isEmpty then s
  else
    let ws := sortBy (fun x y => decide (x.key.pos < y.key.pos ∨ (x.key.pos = y.key.pos ∧ x.seq < y.seq))) ws
    s.setHomeLog a.space (ws.foldl (fun (h : HomeLog) w => h.append (w.clip a.addr a.op.size)) h)

/-- An operation takes effect on its bytes: at a commit at its home, or else as an entry of the log, which the commit of its round completes (08 R212). -/
def State.atomicStore (s : State) (commit : Bool) (a : Arrival) (bs : List Byte) : State :=
  let h := s.homeLog a.space
  if commit && !h.log.any (fun e => e.meets a.addr bs.length) then s.homeWrite a.space a.addr bs
  else
    let h := h.append { a with seq := s.nid, res := bs, done := commit }
    let s := { s with nid := s.nid + 1 }.setHomeLog a.space (if commit then h.settle else h)
    match a.space with
    | .tile c t => s.useTile c t
    | _ => s

/-- Answer a request: fill the flight that waits on it, with the flags of the result. -/
def State.answer (s : State) (id : Nat) (after : Option Nat) (outs : List (Nat × Token)) (fl : Nat := 0) : State :=
  match s.reqs.find? (fun r => r.id == id) with
  | none => s
  | some r => ({ s with reqs := s.reqs.filter (fun x => x.id ≠ id) }).fill r.site id s.fc after outs fl

/-- Perform an atomic at its unit: its flags go with the old value (04 R83). -/
def State.performAtomic (s : State) (commit : Bool) (a : Arrival) (op tag : Nat) (u : Bool) (val : Token) (k : Nat) : State :=
  let after := if commit then some a.round else none
  if op = 0xAA then
    let bs := s.atomicBytes a 64
    let r := atopk (topkRecord bs) val.word k
    (s.atomicStore commit a (r.1.flatMap (leBytes 8))).answer a.req after [(0, scalarTok .z32 r.2.1)] r.2.2
  else
    let f := (Fmt.ofTag tag).getD .z64
    let m := leNat (s.atomicBytes a (fmtBytes f))
    let r := atomicValue op f u m val
    (s.atomicStore commit a (leBytes (fmtBytes f) r.1)).answer a.req after [(0, r.2.1)] r.2.2

/-- Forget a request that is never answered. -/
def State.abandon (s : State) (id : Nat) : State :=
  match s.reqs.find? (fun r => r.id == id) with
  | none => s
  | some r => ({ s with reqs := s.reqs.filter (fun x => x.id ≠ id) }).withdraw r.site id

/-- The notice of a fault found at a home, which goes out when the round commits (08 R214, 21 R374). -/
def State.faultNow (s : State) (a : Arrival) (code info : Nat) : State := (s.abandon a.req).notice a.lk a.core code info 0 a.org

/-- Operations of a round that a slice still has to apply, though the round is complete. -/
def State.lagging (s : State) : List Arrival := s.units.filter (fun u => u.space == .dev && decide (u.round < s.cutOf u.lk u.core))

/-- The rounds that the outcome of an operation on n bytes rests on: those of the operations performed there that have not committed, and, beside device
memory, those that other slices still have to apply (08 R215-R220). -/
def State.restsOn (s : State) (sp : Space) (x n : Nat) : List RoundOf :=
  let open' := ((s.homeLog sp).log.filter (fun e => !e.done && e.meets x n)).flatMap (fun e => e.roundOf :: e.deps)
  let slow := match sp with
    | .tile _ _ => []
    | _ => s.lagging.map Arrival.roundOf
  (open' ++ slow).eraseDups

/-- A fault found at a home (08 R214): the operation has no effect, and the commit of its round reports it. -/
def State.homeFault (s : State) (commit : Bool) (a : Arrival) (code info : Nat) : State :=
  if commit then s.faultNow a code info
  else
    let e : Arrival := { a with seq := s.nid, op := .fault code info a.op, deps := a.deps ++ s.restsOn a.space a.addr a.op.size }
    { s with nid := s.nid + 1 }.setHomeLog a.space ((s.homeLog a.space).append e)

/-- A round has committed: at the memory tile, or at every slice. -/
def State.roundSettled (s : State) (sp : Space) (x : RoundOf) : Bool :=
  (s.launch x.lk).isNone ||
  (match sp with
   | .tile c t => decide (x.round < mgetD (s.mtile (tileKey c t)).pass x.lk 0)
   | _ => decide (x.round < s.cutOf x.lk x.core) && !(s.lagging ++ s.undone).any (fun a => a.of x.lk x.core && decide (a.round ≤ x.round)))

/-! ### Barriers, permits and futures (08 R215-R220) -/

/-- The request of a waiter. -/
def State.waiterReq (s : State) (x : Waiter) : Option Req := s.reqs.find? (fun r => r.id == x.req)
/-- The chain of the order token that a waiter emits. -/
def State.waiterChain (s : State) (x : Waiter) : Chain := ((s.waiterReq x).map Req.chain).getD ⟨0, 0, 0, 0⟩
/-- Where the word of a waiter lies. -/
def State.waiterSpace (s : State) (x : Waiter) : Space := ((s.waiterReq x).bind (fun r => r.parts.head?.map Part.space)).getD .dev
/-- A request of this kind waits on a word. -/
def State.waitsFor (s : State) (op : HomeOp) (x : Waiter) : Bool := (s.waiterReq x).any (fun r => r.op == some op)

/-- A waiter joins the list of its word. -/
def State.park (s : State) (a : Arrival) : State :=
  { s with waiters := s.waiters ++ [{ addr := a.addr, lk := a.lk, req := a.req, round := a.round, seq := s.nid }], nid := s.nid + 1 }

/-- Release a waiter: it emits once the rounds that its release rests on have committed, its own among them, and after the marker of the last of them that its
launch counts (08 R215). -/
def State.grant (s : State) (rests : List RoundOf) (outs : List (Nat × Token)) (x : Waiter) : Waiter :=
  let core := ((s.waiterReq x).map (fun r => r.site.core)).getD 0
  let rests := (⟨x.lk, core, x.round⟩ :: rests).eraseDups
  let near := (rests.filter (fun r => r.lk == x.lk && (lkLid r.lk != 0 || r.core == core))).map RoundOf.round
  { x with granted := some (rests, near.foldl max x.round, outs) }

/-- Let the waiters emit whose release has committed (08 R215 R217 R218). -/
def State.letGo (s : State) : State :=
  let go (x : Waiter) : Bool := x.granted.any (fun g => g.1.all (s.roundSettled (s.waiterSpace x)))
  let mine := s.waiters.filter go
  mine.foldl (fun s x => match x.granted with
    | some (_, after, outs) => s.answer x.req (some after) outs
    | none => s) { s with waiters := s.waiters.filter (fun x => !go x) }

/-- A barrier arrival (08 R217): the one that completes the phase releases its participants. -/
def State.performBar (s : State) (commit : Bool) (a : Arrival) (copy : Bool) : State :=
  match barStep (leNat (s.atomicBytes a 8)) copy with
  | none => s.homeFault commit a fBarrier a.addr
  | some (w, full) =>
    let s := if copy then s else s.park a
    let s := s.atomicStore commit a (leBytes 8 w)
    if full then
      let rests := a.roundOf :: s.restsOn a.space a.addr 8
      let mine (x : Waiter) : Bool := x.addr == a.addr && x.granted.isNone && s.waitsFor (.bar false) x && s.waiterSpace x == a.space
      { s with waiters := s.waiters.map (fun x => if mine x then s.grant rests [(0, orderTok (s.waiterChain x)), (1, predTok (bitAt w 63))] x else x) }
    else s

/-- A permit passes to a waiting take, from a give of a round. -/
def State.passTo (s : State) (rests : List RoundOf) (g : RoundOf) (x : Waiter) : State :=
  { s with waiters := s.waiters.map (fun y => if y = x then { s.grant rests (fork (orderTok (s.waiterChain x))) x with passed := some g } else y) }

/-- The oldest take that waits on a permit (08 R218). -/
def State.nextTake (s : State) (addr : Nat) : Option Waiter :=
  s.waiters.find? (fun x => x.addr == addr && x.granted.isNone && s.waitsFor (.permit false) x)

/-- A take that has found its permit free is granted it. -/
def State.grantTake (s : State) (a : Arrival) (rests : List RoundOf) : State :=
  { s with waiters := s.waiters.map (fun x => if x.req = a.req then s.grant rests (fork (orderTok (s.waiterChain x))) x else x) }

/-- PERMIT at its home (08 R218). -/
def State.performPermit (s : State) (commit : Bool) (a : Arrival) (give : Bool) : State :=
  let w := leNat (s.atomicBytes a 8)
  let held := bitAt w 0
  if w / 2 ≠ 0 ∨ (give = true ∧ held = false) then s.homeFault commit a fPermit a.addr
  else if give then
    match s.nextTake a.addr with
    | some x =>
      let s := if commit then s else s.atomicStore false { a with op := .touch } (leBytes 8 w)
      s.passTo (a.roundOf :: s.restsOn a.space a.addr 8) a.roundOf x
    | none => s.atomicStore commit a (leBytes 8 0)
  else if held then s.park a
  else
    let rests := a.roundOf :: s.restsOn a.space a.addr 8
    ((s.atomicStore commit a (leBytes 8 1)).park a).grantTake a rests

/-- Stage a launch on behalf of a launch key, as LAUNCH does (08 R220); it waits for the rounds that it rests on. -/
def State.stageLaunch (s : State) (a : Arrival) (queue addr : Nat) (ps : List Part) (wait : List RoundOf) : State :=
  let s' := s.mapLaunch a.lk (fun l => { l with staged := l.staged ++ [{
    round := a.round, key := a.key, seq := s.nid, kind := .launch queue addr ps, core := a.core, org := a.org, wait := wait }] })
  { s' with nid := s.nid + 1 }

/-- JDEC (08 R220): the join word is bytes 120 to 127 of the packet; rests are the rounds that the future's transition rests on. -/
def State.jdec (s : State) (commit : Bool) (a : Arrival) (pkt q j : Nat) (rests : List RoundOf) : State :=
  match s.translateHome a.core (lkPart a.lk) a.user true true (pkt + 120) 8, s.translateHome a.core (lkPart a.lk) a.user true false pkt 128 with
  | some (p :: _), some ps =>
    let b : Arrival := { a with space := p.space, addr := p.addr, op := .jdec j, deps := rests }
    let s := if commit then s else s.logOwn b
    match joinStep (leNat (s.atomicBytes b 8)) j with
    | none => s.homeFault commit { a with op := .jdec j, deps := rests, req := 0 } fJoin pkt
    | some w =>
      let s := s.atomicStore commit b (leBytes 8 w)
      if bitsAt w 0 16 = 0 then s.stageLaunch a q pkt ps (rests ++ s.restsOn p.space p.addr 8).eraseDups else s
  | _, _ => s.homeFault commit { a with op := .jdec j, deps := rests, req := 0 } fLaunch pkt

/-- The future at a waiter's word is resolved, and everything that has committed stands at its home (08 R220). -/
def State.resolvedAt (s : State) (addr : Nat) : Option Nat :=
  let w := leNat ((List.range 8).map (fun i => s.homeByte .dev (addr + i)))
  if bitsAt w 62 2 = 2 ∧ s.lagging.isEmpty = true then some (bitsAt w 0 32) else none

/-- What FUTWAIT emits. -/
def futureOuts (v : Nat) (c : Chain) : List (Nat × Token) := [(0, scalarTok .z32 v), (1, orderTok c)]

/-- Wake the FUTWAITs whose future is resolved at its home (08 R220). -/
def State.wakeResolved (s : State) : State :=
  let value (x : Waiter) : Option Nat := if s.waitsFor .futwait x then s.resolvedAt x.addr else none
  let mine := s.waiters.filter (fun x => (value x).isSome)
  mine.foldl (fun s' x => match value x with
    | some v => s'.answer x.req none (futureOuts v (s.waiterChain x))
    | none => s') { s with waiters := s.waiters.filter (fun x => (value x).isNone) }

/-- The rounds that a future's transition rests on, its own among them until it commits. -/
def State.restsOf (s : State) (commit : Bool) (a : Arrival) : List RoundOf := (if commit then [] else [a.roundOf]) ++ s.restsOn a.space a.addr 8

/-- FUTREG at its home (08 R220). -/
def State.performFutreg (s : State) (commit : Bool) (a : Arrival) (pkt q j : Nat) : State :=
  let w := leNat (s.atomicBytes a 8)
  match bitsAt w 62 2 with
  | 0 => s.atomicStore commit a (leBytes 8 (2 ^ 62 + q * 2 ^ 56 + j * 2 ^ 48 + bitsAt pkt 7 41))
  | 2 =>
    let rests := s.restsOf commit a
    let s := if commit then s else s.atomicStore false a (leBytes 8 w)
    s.jdec commit a pkt q j rests
  | _ => s.homeFault commit a fFuture a.addr

/-- FUTRES at its home (08 R220). -/
def State.performFutres (s : State) (commit : Bool) (a : Arrival) (v : Nat) : State :=
  let w := leNat (s.atomicBytes a 8)
  match bitsAt w 62 2 with
  | 0 => s.atomicStore commit a (leBytes 8 (resolvedWord v))
  | 1 =>
    let rests := s.restsOf commit a
    (s.atomicStore commit a (leBytes 8 (resolvedWord v))).jdec commit a (bitsAt w 0 41 * 128) (bitsAt w 56 6) (bitsAt w 48 8) rests
  | 2 => s.homeFault commit a fDouble a.addr
  | _ => s.homeFault commit a fFuture a.addr

/-- FUTWAIT at its home (08 R220): a resolution that has committed answers at once. -/
def State.performFutwait (s : State) (commit : Bool) (a : Arrival) : State :=
  match s.resolvedAt a.addr with
  | some v => s.answer a.req none (futureOuts v (((s.reqs.find? (fun r => r.id == a.req)).map Req.chain).getD ⟨0, 0, 0, 0⟩))
  | none =>
    if bitsAt (leNat ((List.range 8).map (fun i => s.homeByte .dev (a.addr + i)))) 62 2 = 3 then s.homeFault commit a fFuture a.addr else s.park a

/-! ### Accesses that fail on their way (21 R388, 23 R409) -/

/-- The arrival of an operation at its home. -/
def Req.arrival (r : Req) (op : HomeOp) : Arrival :=
  let p := r.parts.headD { space := .dev, addr := 0, size := 0, off := 0 }
  { lk := r.lk, core := r.site.core, round := r.round, key := r.key, seq := 0, space := p.space, addr := p.addr, op := op, req := r.id, osh := p.osh,
    org := r.org, user := r.user }

/-- A request that nobody waits on leaves the table once its operation has been performed. -/
def State.forget (s : State) (id : Nat) : State := { s with reqs := s.reqs.filter (fun r => r.id ≠ id) }

/-- Bytes of a memory meet a line with an error that ECC cannot correct (21 R388). -/
def State.spoilt (s : State) (sp : Space) (a n : Nat) : Bool := s.ecc.any (fun x => x.1 == sp && overlap (64 * x.2) 64 a n)

/-- A part of an access meets such a line. -/
def State.spoiltPart (s : State) (p : Part) : Bool := s.spoilt p.space p.addr p.size

/-- A commit that meets such a line is a machine check (21 R388). -/
def State.commitCheck (s : State) (part : Nat) (xs : List Arrival) : State :=
  if xs.any (fun a => s.spoilt a.space a.addr a.op.size) then s.halt part else s

/-- A held site for an access in flight (08 R214): its operands come back by REINJ, and it issues again. -/
def State.raiseLate (s : State) (r : Req) (code addr : Nat) : State :=
  let f := { s with cur := r.site }.firing
  let x : Operands := { l := r.ops.getD 0 none, r := r.ops.getD 1 none, p := r.ops.getD 2 none }
  if s.mustCheck f then s.halt f.part
  else
    let need := presentMask x
    let w0 := siteWord code (lkLid f.lk) f.e.core (siteTile f) f.e.bank f.e.idx kindHeld need false
    let (id, s) := s.fresh
    let s := s.sendRecord f.e.core ⟨w0, recordWords x addr 0, id⟩
    let p := s.part f.part
    let site : OpenSite := {
      id := id, fser := none, word0 := w0, lk := r.lk, round := f.round, site := r.site, call := none, need := BitVec.ofNat 3 need, refilled := 0, bp := false, ops := r.ops }
    let s := s.setPart f.part { p with sites := p.sites ++ [site] }
    s.setElem r.site { s.elem r.site with held := true }

/-- An access in flight that fails, by an error reply (23 R409) or an ECC error (21 R388): poison in a cancellable load, a held site in an anchor and an atomic, a
notice for an operation on a synchronisation word. -/
def State.replyAccess (s : State) (r : Req) (code addr prog : Nat) : State :=
  match r.op with
  | some (.atomic _ _ _ _ _) => (((s.withdraw r.site r.id).withdraw r.site (r.id + 1)).forget r.id).raiseLate r code prog
  | some op => s.faultNow { r.arrival op with addr := addr } code addr
  | none =>
    let f := { s with cur := r.site }.firing
    if r.cancel then
      match r.kind with
      | .load tag v _ => s.answer r.id none [(0, poisonTok { f with thr := r.thr } tag v code)]
      | .gather tag _ => s.answer r.id none [(0, poisonTok { f with thr := r.thr } tag true code)]
      | .answer tag => s.answer r.id none [(0, poisonTok { f with thr := r.thr } tag false code)]
    else ((s.withdraw r.site r.id).forget r.id).raiseLate r code prog

end Sys2Proof.Machine
end

