-- ==== Sys2Proof/Machine/Memory.lean ====
section
/-! DEFINITION. Loads, stores, gathers, scatters, memory tiles, streamers, prefetch, and the service of an access (08 R193-R208, 12 R273 R274). -/

namespace Sys2Proof.Machine

/-! ### The scheme of an access -/

/-- Where an access goes: nowhere, with a fault; a memory tile; global addresses with their sizes and offsets in the value. -/
inductive Place where
  | err (code addr : Nat)
  | tile (ps : List Part)
  | global (as : List (Nat × Nat × Nat))
  deriving DecidableEq, Repr

/-- Translate a list of global accesses, each whole before any is performed (08 R195 R204). -/
def State.translateAll (s : State) (core part : Nat) (user rd wr : Bool) : List (Nat × Nat × Nat) → Trans
  | [] => .ok []
  | (a, n, off) :: as =>
    let t : Trans := match s.translate core part user rd wr a n with
      | .ok ps => .ok (ps.map (fun p => { p with off := p.off + off }))
      | .wait w => .wait w
      | .fault c x => .fault c x
    t.join (s.translateAll core part user rd wr as)

/-- The description of an access: a cancellable one (with the tag and V bit of its poison) defers its faults (08 R214). -/
structure AccessFiring where
  fl : Flags
  need : Slots
  rd : Bool
  wr : Bool
  cancel : Option (Nat × Bool) := none
  /-- what a deferred fault does in place of one poison token and the order token, with the poison's payload (08 R207) -/
  defer : Option (State → Firing → Payload → State) := none
  /-- the operands that are read as numbers (04 R74) -/
  nums : Slots := { l := true, r := true }
  /-- the firing waits, whatever its operands -/
  hold : State → Firing → Bool := fun _ _ => false
  check : State → Firing → Option (Nat × Nat)
  place : State → Firing → Place
  /-- faults that the parts' attributes bring -/
  attrs : List Part → Option (Nat × Nat) := fun _ => none
  /-- the access goes out at once and meets a die that is not online (23 R409) -/
  offline : State → Firing → List Part → Bool := fun _ _ _ => false
  /-- a reason to wait, with what the wait asks for -/
  stall : State → Firing → List Part → Option State := fun _ _ _ => none
  act : State → Firing → List Part → State

/-- A line of an access stands on a die that is not online (13 R287, 23 R409). -/
def State.dieOff (s : State) (ps : List Part) : Bool :=
  ps.any (fun p => p.space == .dev && (s.dies[dieOfAddr p.addr]?).any (fun d => d.st != 0))

/-- The tag and V bit of the poison that a fault becomes; none where faults are raised at once, as with a context-register target (03 R58, 08 R214). -/
def AccessFiring.defers (a : AccessFiring) (f : Firing) : Option (Nat × Bool) := if toRegister f.b f.e.idx then none else a.cancel

/-- A deferred fault: a poison token and the order token (03 R64). -/
def State.deferFault (s : State) (a : AccessFiring) (f : Firing) (need : Slots) (t : Token) : State :=
  let s := (s.countFiring f).consume f need
  match a.defer with
  | some go => go s f t.pay
  | none => (s.result f false 1 [(0, t)]).result f true 1 [(1, orderTok f.chain)]

/-- A fault of an access: poison and the order token, or a held firing (08 R214). -/
def State.accessFault (s : State) (a : AccessFiring) (f : Firing) (need : Slots) (code addr : Nat) : State :=
  match a.defers f with
  | none => s.raiseHeld f code addr 0
  | some (tag, v) => s.deferFault a f need (poisonTok f tag v code)

/-- The firing of an access. -/
def State.accessFire (s : State) (a : AccessFiring) : State :=
  let f := s.firing
  let need := orderNeed f.b f.e.idx a.need
  let f := { f with ops := f.ops.mask need }
  if f.el.held || !stageFree f.el s.fc || !ready f.ops need then s
  else if breaks a.fl f.el then s.breakpoint f
  else if a.hold s f then s
  else
    match f.ops.poison with
    | some t =>
      match a.defers f with
      | none => s.raiseHeld f (t.word % 256) 0 t.word
      | some (tag, v) => s.deferFault a f need { pay := t.pay, tag := BitVec.ofNat 6 tag, v := v, poison := true }
    | none =>
      if !orderOk f.ops.p then s.accessFault a f need fFormat 0
      else
        match a.check s f with
        | some (c, x) => s.accessFault a f need c x
        | none =>
          let go (s : State) (ps : List Part) : State :=
            match a.attrs ps with
            | some (c, x) => s.accessFault a f need c x
            | none =>
              if a.offline s f ps then s.accessFault a f need fDieOffline ((ps.headD { space := .dev, addr := 0, size := 0, off := 0 }).prog)
              else
                match a.stall s f ps with
                | some s => s
                | none => a.act (((s.countFiring f).consume f need).stageFlags f (readFlags f.ops a.nums)) f ps
          match a.place s f with
          | .err c x => s.accessFault a f need c x
          | .tile ps => go s ps
          | .global as =>
            match s.translateAll f.e.core f.part (!isPriv f.b) a.rd a.wr as with
            | .wait w => s.askWalk f.e.core w
            | .fault c x => (s.accessFault a f need c x).dropWalk f.e.core x
            | .ok ps => if s.viewFull f.lk ps then s else go ((s.touch f.e.core ps).viewTouch f.e.core f.lk ps) ps

/-! ### Sizes and addresses -/

/-- Bytes of a scalar access (08 R198). -/
def scalarSize (ty : Ty) : Nat := if ty = .pred then 1 else (ty.width + 7) / 8

/-- The format a load gives (08 R198 R199). -/
def loadFmt (o : OpA) : Fmt := (fmtOf o.ty (o.bit 3)).getD .z64

/-- A global address (08 R194). -/
def globalAddr (o : OpA) (f : Firing) : Nat := ofInt 64 ((((f.ops.l.map Token.word).getD 0 : Nat) : Int) + o.imm.toInt)

/-- The parts of a memory-tile access of n bytes with a displacement, or its fault (08 R194 R195 R203). -/
def tilePlace (s : State) (f : Firing) (disp : Int) (n : Nat) : Place :=
  let a := (f.ops.l.map Token.word).getD 0
  let t := bitsAt a 19 4
  let off := ofInt 19 ((bitsAt a 0 19 : Nat) + disp)
  let ok := match (s.mtile (tileKey f.e.core t)).cfg with
    | .store _ => true
    | .lbuf _ => false
    | .fifo _ _ => false
  if a / 2 ^ 23 ≠ 0 ∨ off + n > 2 ^ 19 ∨ !ok then .err fTile a
  else
    let first := min n (64 - off % 64)
    let p : Part := { space := .tile f.e.core t, addr := off, size := first, off := 0, prog := a }
    .tile (if first < n then [p, { p with addr := off + first, size := n - first, off := first }] else [p])

/-- The scale operand of a load under SC (08 R199). -/
def scaleOperand (sc : Bool) (f : Firing) : Nat := if sc then (f.ops.r.map Token.low32).getD 127 else 127

/-- The checks of a load: address, scale operand. -/
def loadCheck (sc : Bool) (f : Firing) : Option (Nat × Nat) :=
  if f.ops.l.all isAddr && (!sc || f.ops.r.all (fun r => isW32 r && decide (r.low32 ≤ 254))) then none else some (fFormat, 0)

/-- Wait for an earlier ordered atomic of the chain that overlaps (08 R212). -/
def chainStall (s : State) (f : Firing) (ps : List Part) : Option State := if s.chainBusy f.lk f.chain ps then some s else none

/-- The fetch cache may answer a part of a load (08 R202). -/
def Part.cached (p : Part) (fresh : Bool) : Bool := p.cach && !fresh && !p.osh

/-- The parts of a load that the core's fetch cache answers. -/
def State.fetchHits (s : State) (core : Nat) (fresh : Bool) (ps : List Part) : List Nat :=
  (List.range ps.length).filter (fun i => (ps[i]?).any (fun p =>
    p.cached fresh && Config.fetchCacheHit s.tick && (mget (s.core core).fcache (p.prog / 64 * 64)).isSome))

/-- The latency of a load: 14 fc for the parts that the fetch cache answers (01 R18). -/
def State.loadLatency (s : State) (core tile : Nat) (hits : List Nat) (ps : List Part) : Nat :=
  max (if hits.isEmpty then 4 else s.typical 14) (s.latencyOf core tile ((List.range ps.length).filterMap (fun i => if hits.contains i then none else ps[i]?)))

/-- Issue a load: the value is awaited, the order token follows at once (08 R196). -/
def State.issueLoad (s : State) (f : Firing) (ps : List Part) (kind : ReqKind) (fresh cancel : Bool) : State :=
  let (id, s) := s.fresh
  let hits := s.fetchHits f.e.core fresh ps
  let r : Req := { id := id, site := f.e, lk := f.lk, round := f.round, due := s.fc + s.loadLatency f.e.core (siteTile f) hits ps - 1, kind := kind, fresh := fresh,
                   chain := f.chain, parts := ps, thr := f.thr, hits := hits, cancel := cancel && !toRegister f.b f.e.idx, ops := [f.ops.l, f.ops.r, f.ops.p] }
  (({ s with reqs := s.reqs ++ [r] }.tickUp).await f false true id).result f true 1 [(1, orderTok f.chain)]

/-- A load. -/
def State.loadFire (s : State) (o : OpA) (vec fresh vol : Bool) (place : State → Firing → Place) : State :=
  let g := loadFmt o
  let sc := o.bit 2
  s.accessFire {
    fl := o.fl, need := { l := true, r := sc }, rd := true, wr := false, cancel := if vol then none else some (g.tag, vec),
    check := fun _ f => loadCheck sc f, place := place, stall := chainStall,
    offline := fun s _ ps => s.dieOff ps, act := fun s f ps => s.issueLoad f ps (.load g.tag vec (scaleOperand sc f)) (fresh || vol) (!vol) }

/-- LD (08 R198-R201). -/
def execLd (o : OpA) (s : State) : Host.Outcome State Fault Refusal :=
  .next (s.loadFire o false (o.bit 0) (o.bit 1) (fun _ f => .global [(globalAddr o f, scalarSize o.ty, 0)]))

/-- LDV (08 R198-R201). -/
def execLdv (o : OpA) (s : State) : Host.Outcome State Fault Refusal :=
  .next (s.loadFire o true (o.bit 0) (o.bit 1) (fun _ f => .global [(globalAddr o f, 64, 0)]))

/-- MTLD (08 R198 R203): always fresh (12 R273). -/
def execMtld (o : OpA) (s : State) : Host.Outcome State Fault Refusal :=
  .next (s.loadFire o o.v true false (fun s f => tilePlace s f o.imm.toInt (if o.v then 64 else scalarSize o.ty)))

/-! ### Stores -/

/-- The bytes a store writes (08 R200): KF6 lines with bits 511:384 zero, a pred as 0x00 or 0x01. -/
def storeBytes (ty : Ty) (vec : Bool) (r : Token) : List Byte :=
  if vec then leBytes 64 (if ty = .kf6 then r.pay.toNat % 2 ^ 384 else r.pay.toNat)
  else if ty = .pred then leBytes 1 (if r.truth then 1 else 0)
  else leBytes (scalarSize ty) r.pay.toNat

/-- Wait for room in the staging area, which asks for a marker (08 R197), or for an ordered atomic of the chain. -/
def writeStall (s : State) (f : Firing) (ps : List Part) : Option State :=
  if s.chainBusy f.lk f.writeChain ps then some s else if s.stageRoom f.e.core ps then none else some (s.requestMarker f.lk f.e.core)

/-- Stage bytes for parts. -/
def State.stageParts (s : State) (f : Firing) (ps : List Part) (bs : List Byte) : State := ps.foldl (fun s p => s.stage (f.arrival p (.write (splitBytes bs p)) 0)) s

/-- The order token of a write, on both targets. -/
def State.orderAfter (s : State) (f : Firing) : State := s.result f false 1 (fork (orderTok f.writeChain.next))

/-- A store. -/
def State.storeFire (s : State) (o : OpA) (vec : Bool) (place : State → Firing → Place) : State :=
  s.accessFire {
    fl := o.fl, need := needLR, nums := { l := true }, rd := false, wr := true,
    check := fun _ f => if f.ops.l.all isAddr && f.ops.r.all (fun r => tyAccepts o.ty r && r.v == vec && scaleOkStore r) then none else some (fFormat, 0),
    place := place, stall := writeStall,
    act := fun s f ps => (s.stageParts f ps (storeBytes o.ty vec (f.ops.r.getD {}))).orderAfter f }
where
  /-- An integer operand keeps the scale rule of 04 R74. -/
  scaleOkStore (r : Token) : Bool := isPred r || scaleOk r

/-- ST (08 R198 R200). -/
def execSt (o : OpA) (s : State) : Host.Outcome State Fault Refusal :=
  .next (s.storeFire o false (fun _ f => .global [(globalAddr o f, scalarSize o.ty, 0)]))

/-- STV (08 R198 R200). -/
def execStv (o : OpA) (s : State) : Host.Outcome State Fault Refusal :=
  .next (s.storeFire o true (fun _ f => .global [(globalAddr o f, 64, 0)]))

/-- MTST (08 R198 R203). -/
def execMtst (o : OpA) (s : State) : Host.Outcome State Fault Refusal :=
  .next (s.storeFire o o.v (fun s f => tilePlace s f o.imm.toInt (if o.v then 64 else scalarSize o.ty)))

/-! ### Gather and scatter (08 R204) -/

/-- The lanes of an address vector that are not null: address, size, offset; or the first misaligned one. -/
def lanePlace (n : Nat) (f : Firing) : Place :=
  let as := (List.range 8).filterMap (fun j =>
    let a := laneOf ((f.ops.l.map Token.num).getD 0) 64 j
    if a = 2 ^ 64 - 1 then none else some (a, n, n * j))
  match as.find? (fun (a, _, _) => a % n != 0) with
  | some (a, _, _) => .err fAlign a
  | none => .global as

/-- GATH (08 R204). -/
def execGath (o : OpA) (s : State) : Host.Outcome State Fault Refusal :=
  let g := loadFmt o
  let sc := o.bit 2
  .next (s.accessFire {
    fl := o.fl, need := { l := true, r := sc }, rd := true, wr := false, cancel := some (g.tag, true),
    check := fun _ f => if f.ops.l.all isVec64 && (!sc || f.ops.r.all (fun r => isW32 r && decide (r.low32 ≤ 254))) then none else some (fFormat, 0),
    place := fun _ f => lanePlace (scalarSize o.ty) f, stall := chainStall,
    offline := fun s _ ps => s.dieOff ps, act := fun s f ps => s.issueLoad f ps (.gather g.tag (scaleOperand sc f)) (o.bit 0) true })

/-- SCAT (08 R204): lane PART × 8 + j of R goes to address lane j. -/
def execScat (o : OpA) (s : State) : Host.Outcome State Fault Refusal :=
  let n := scalarSize o.ty
  .next (s.accessFire {
    fl := o.fl, need := needLR, nums := { l := true }, rd := false, wr := true,
    check := fun _ f => if f.ops.l.all isVec64 && f.ops.r.all (dataOk o.ty true) then none else some (fFormat, 0),
    place := fun _ f => lanePlace n f, stall := writeStall,
    act := fun s f ps =>
      let r := f.ops.r.getD {}
      let bs := (List.range 8).flatMap (fun j => leBytes n (laneOf r.pay o.ty.width (o.part * 8 + j)))
      (s.stageParts f ps bs).orderAfter f })

/-! ### Streamers (08 R205-R207) -/

/-- Word k of a descriptor, committed. -/
def Streamer.word (x : Streamer) (k : Nat) : Nat :=
  match k with
  | 0 => x.w0
  | 1 => x.w1
  | 2 => x.w2
  | _ => x.w3
/-- Store word k. -/
def Streamer.setWord (x : Streamer) (k v : Nat) : Streamer :=
  match k with
  | 0 => { x with w0 := v }
  | 1 => { x with w1 := v }
  | 2 => { x with w2 := v }
  | _ => { x with w3 := v }

/-- The descriptor words a STRGO sees: the committed ones with the staged ones over them. -/
def Streamer.words (x : Streamer) : List Nat :=
  (x.stage.filter (fun y => y.old.isNone)).foldl (fun ws y => ws.set y.word y.val) [x.w0, x.w1, x.w2, x.w3]

/-- Fields of a descriptor. -/
def strCounts (ws : List Nat) : Nat × Nat × Nat := (bitsAt (ws.getD 0 0) 48 16, bitsAt (ws.getD 1 0) 16 16, bitsAt (ws.getD 1 0) 48 16)
/-- Elements of a stream. -/
def strTotal (ws : List Nat) : Nat := let c := strCounts ws; c.1 * c.2.1 * c.2.2
def strTag (ws : List Nat) : Nat := bitsAt (ws.getD 3 0) 0 6
def strScale (ws : List Nat) : Nat := bitsAt (ws.getD 3 0) 6 8

/-- Element n of a stream on a tile of W lines: its line, none when it is out of bounds. -/
def strLine (ws : List Nat) (w n : Nat) : Option Nat :=
  let c := strCounts ws
  let i0 := n % c.1
  let i1 := n / c.1 % c.2.1
  let i2 := n / (c.1 * c.2.1)
  let st (k : Nat) : Int := toSigned 16 k
  let lim0 := bitsAt (ws.getD 2 0) 0 16
  let lim1 := bitsAt (ws.getD 2 0) 16 16
  if (lim0 ≠ 0 ∧ lim0 ≤ i0) ∨ (lim1 ≠ 0 ∧ lim1 ≤ i1) then none
  else
    let x : Int := (bitsAt (ws.getD 0 0) 0 13 : Nat) + i0 * st (bitsAt (ws.getD 0 0) 32 16) + i1 * st (bitsAt (ws.getD 1 0) 0 16) + i2 * st (bitsAt (ws.getD 1 0) 32 16)
    some (x % (w : Int)).toNat

/-- W of a tile for its streamers; none on a FIFO. -/
def strWindow : TileCfg → Option Nat
  | .store _ => some 8192
  | .lbuf w => some w
  | .fifo _ _ => none

/-- The streamer's faults (08 R207). -/
def strFault (t : MTile) (ws : List Nat) : Bool :=
  let c := strCounts ws
  (strWindow t.cfg).isNone || c.1 == 0 || c.2.1 == 0 || c.2.2 == 0 || strScale ws == 255 || ((Fmt.ofTag (strTag ws)).isNone)

/-- Tile key, streamer of an instruction word. -/
def strOf (o : OpA) (f : Firing) : Nat × Nat := (tileKey f.e.core (o.imm.toNat / 16), o.imm.toNat / 4 % 4)

/-- A streamer of a tile. -/
def MTile.streamer (t : MTile) (i : Nat) : Streamer := t.strm.getD i {}
/-- Change a streamer. -/
def State.setStreamer (s : State) (k i : Nat) (x : Streamer) : State := let t := s.mtile k; s.setMtile k { t with strm := t.strm.set i x }

/-- The streamer that an instruction names is in the middle of a stream (08 R206). -/
def strHold (o : OpA) (s : State) (f : Firing) : Bool := ((s.mtile (strOf o f).1).streamer (strOf o f).2).busy.isSome

/-- STRCFG (08 R206): stages a descriptor word; waits while the streamer is busy. -/
def execStrcfg (o : OpA) (s : State) : Host.Outcome State Fault Refusal :=
  .next (s.accessFire {
    fl := o.fl, need := needL, rd := false, wr := false, hold := strHold o,
    check := fun s f =>
      if !f.ops.l.all isAddr then some (fFormat, 0) else if (strWindow (s.mtile (strOf o f).1).cfg).isNone then some (fStreamer, 0) else none,
    place := fun _ _ => .tile [],
    act := fun s f _ =>
      let (k, i) := strOf o f
      let x := (s.mtile k).streamer i
      let w : StrWrite := { lk := f.lk, bank := f.bk, round := f.round, word := o.imm.toNat % 4, val := (f.ops.l.map Token.word).getD 0 }
      let s := s.setStreamer k i { x with stage := x.stage ++ [w] }
      s.result f false 1 (fork (orderTok f.chain)) })

/-- The words of the descriptor that an instruction names. -/
def strWords (o : OpA) (s : State) (f : Firing) : List Nat := ((s.mtile (strOf o f).1).streamer (strOf o f).2).words

/-- A line of the stream is one that an atomic of the chain, which has not answered, touches (08 R212). -/
def strBusy (o : OpA) (s : State) (f : Firing) (c : Chain) : Bool :=
  let k := (strOf o f).1
  let ws := strWords o s f
  let w := (strWindow (s.mtile k).cfg).getD 1
  (s.chainOps f.lk c (.tile f.e.core (k % 16))).any (fun x => (List.range (strTotal ws)).any (fun n => strLine ws w n == some (x.1 / 64)))

/-- A stream in read mode starts; with a payload all its tokens are poison (08 R206 R207). -/
def State.startStream (s : State) (o : OpA) (f : Firing) (poison : Option Payload) : State :=
  let (k, i) := strOf o f
  let t := s.mtile k
  let ws := (t.streamer i).words
  let (id, s) := s.fresh
  let s := s.setStreamer k i { t.streamer i with busy := some (f.e, 0) }
  let s := s.setOst f.e (.stream 0 (strTotal ws) poison id f.chain f.thr)
  let lat := 4 + 2 * (gridHops (computeXY (siteTile f)) (memoryXY (k % 16)) - 1)
  let r : Req := { id := id, site := f.e, lk := f.lk, round := f.round, due := s.fc + lat - 1, kind := .answer (strTag ws), fresh := true, chain := f.chain,
                   parts := [{ space := .tile f.e.core (k % 16), addr := i, size := 0, off := 0 }], thr := f.thr }
  { s with reqs := s.reqs ++ [r] }.await f true true id

/-- STRGO, read mode (08 R206 R207): the stream starts; its elements follow one an fc, its order token after the last. A fault becomes poison on every token
owed. -/
def execStrgo (o : OpA) (s : State) : Host.Outcome State Fault Refusal :=
  .next (s.accessFire {
    fl := o.fl, need := needL, nums := {}, rd := true, wr := false, hold := strHold o, cancel := some (strTag (strWords o s s.firing), true),
    defer := some (fun s f p => s.startStream o f (some p)),
    check := fun s f => if strFault (s.mtile (strOf o f).1) (strWords o s f) then some (fStreamer, 0) else none,
    place := fun _ _ => .tile [], stall := fun s f _ => if strBusy o s f f.chain then some s else none,
    act := fun s f _ => s.startStream o f none })

/-- STRGO with .w (08 R206): L and P once, then one token of R per element. -/
def execStrgoWrite (o : OpA) (s : State) : Host.Outcome State Fault Refusal :=
  let f := s.firing
  let (k, i) := strOf o f
  let t := s.mtile k
  let ws := (t.streamer i).words
  match f.el.ost with
  | .stream n total _ id chain thr =>
    let f := { f with ops := f.ops.mask { r := true }, thr := thr }
    if f.el.held || !ready f.ops { r := true } || f.el.last == some s.fc then .next s
    else
      match f.ops.r with
      | none => .next s
      | some r =>
        if r.poison then .next (s.raiseOperand f 1 (r.word % 256) r.word)
        else if !(r.tag.toNat == strTag ws && r.scale.toNat == strScale ws && r.v) then .next (s.raiseOperand f 1 fFormat 0)
        else
          let w := (strWindow t.cfg).getD 1
          let p : Part := { space := .tile f.e.core (k % 16), addr := 64 * (strLine ws w n).getD 0, size := 64, off := 0 }
          if !s.stageRoom f.e.core [p] then .next (s.requestMarker f.lk f.e.core)
          else
            let s := s.consume f { r := true }
            let s := match strLine ws w n with
              | none => s
              | some _ =>
                s.stage { lk := f.lk, core := f.e.core, round := f.round, key := ⟨chain.hgsp, chain.thr, chain.k, chain.pos, gsp f.b f.e.idx⟩, seq := 0, space := p.space,
                          addr := p.addr, op := .write (leBytes 64 r.pay.toNat), req := 0 }
            let s := s.setElem f.e { s.elem f.e with last := some s.fc, ost := .stream (n + 1) total none id chain thr }
            if n + 1 < total then .next s
            else
              let s := (s.setOst f.e .none).setStreamer k i { (s.mtile k).streamer i with busy := none }
              .next (s.fill f.e id s.fc none (fork (orderTok chain.next)))
  | _ =>
    .next (s.accessFire {
      fl := o.fl, need := needL, nums := {}, rd := false, wr := true, hold := strHold o,
      check := fun s f => if strFault (s.mtile (strOf o f).1) (strWords o s f) then some (fStreamer, 0) else none,
      place := fun _ _ => .tile [], stall := fun s f _ => if strBusy o s f f.writeChain then some s else none,
      act := fun s f _ =>
        let (id, s) := s.fresh
        let s := s.setStreamer k i { (s.mtile k).streamer i with busy := some (f.e, 0) }
        let s := s.setOst f.e (.stream 0 (strTotal ws) none id f.writeChain f.thr)
        s.await f false false id })

/-! ### Prefetch (08 R208) -/

/-- Ask for a line in the core's fetch cache; the fill commits at the next marker that passes the port (12 R271). -/
def State.fillLine (s : State) (core lk prog phys : Nat) : State :=
  let c := s.core core
  s.setCore core { c with fcFill := c.fcFill ++ [(prog / 64 * 64, lk, leNat (readBytes s.mem (phys / 64 * 64) 64))] }

/-- PREF (08 R208): never faults. -/
def execPref (o : OpA) (s : State) : Host.Outcome State Fault Refusal :=
  let f := s.firing
  let need := orderNeed f.b f.e.idx needL
  let f := { f with ops := f.ops.mask need }
  let fl := if f.ops.poison.isNone then readFlags f.ops needL else 0
  let out (s : State) : State := (((s.countFiring f).consume f need).stageFlags f fl).result f false 1 (fork (orderTok f.chain))
  if f.el.held || !stageFree f.el s.fc || !ready f.ops need then .next s
  else if breaks o.fl f.el then .next (s.breakpoint f)
  else if f.ops.poison.isSome || !f.ops.l.all isAddr || !orderOk f.ops.p then .next (out s)
  else
    match s.translate f.e.core f.part (!isPriv f.b) true false (globalAddr o f) 1 with
    | .wait w => .next (s.askWalk f.e.core w)
    | .fault _ x => .next ((out s).dropWalk f.e.core x)
    | .ok ps =>
      match ps with
      | p :: _ => .next (if p.space == .dev && p.cach && !o.bit 0 then (out s).fillLine f.e.core f.lk p.prog p.addr else out s)
      | [] => .next (out s)

/-! ### Service -/

/-- The device's latest copy of a line in host bias: the host's copy is written back first (13 R291). -/
def State.snoop (s : State) (a : Nat) : State :=
  match mget s.hostLines (a / 64 * 64) with
  | some v => s.homeWrite .dev (a / 64 * 64) (leBytes 64 v.toNat)
  | none => s

/-- The view of an ordered-shared line that a launch holds (13 R285); the home's state before its first unit there. -/
def State.viewByte (s : State) (part lk a : Nat) : Byte :=
  match s.views.find? (fun v => v.1 == s.sliceOf part a && v.2.1 == lk) with
  | some (_, _, _, m) => memRead m a
  | none => memRead s.mem a

/-- An access of round r may be served at the unit of a part: a fresh load waits until round r - 1 has committed there (12 R273), a load of an ordered-shared
line until its launch's view stands at that round (13 R285). -/
def State.servable (s : State) (r : Req) (p : Part) : Bool :=
  match p.space with
  | .tile c t => decide (r.round ≤ mgetD (s.mtile (tileKey c t)).pass r.lk 0)
  | .dev =>
    let sl := s.sliceOf (lkPart r.lk) p.addr
    let core := r.site.core
    let pending (u : Arrival) : Bool := u.of r.lk core && decide (u.round < r.round) && u.space == .dev && s.sliceOf (lkPart r.lk) u.addr == sl
    p.cached r.fresh || decide (r.round ≤ s.appliedRounds r.lk core sl) || (!p.osh && !(s.units ++ s.undone).any pending && decide (r.round ≤ s.cutOf r.lk core))
  | .host => true
  | .peer _ => true

/-- The byte of an access at its unit, with its own chain's staged writes over it (08 R196, 12 R273 R274). -/
def State.loadByte (s : State) (r : Req) (p : Part) (line : Option Payload) (a : Nat) : Byte :=
  match forwardByte (s.aheadAt r.lk p.space) p.space r.chain a with
  | some b => b
  | none =>
    match line with
    | some v => BitVec.ofNat 8 (bitsAt v.toNat (8 * (a % 64)) 8)
    | none => if p.osh then s.viewByte (lkPart r.lk) r.lk a else s.homeByte p.space a

/-- Serve a part: the fetch cache answers where the load found the line in it and it is still there (08 R202); otherwise the home does, and fills. -/
def State.servePart (s : State) (r : Req) (hit : Bool) (p : Part) : List Byte × State :=
  let core := r.site.core
  let s := if p.hostBias && p.space == .dev then s.snoop p.addr else s
  let bytes (line : Option Payload) : List Byte := (List.range p.size).map (fun i => s.loadByte r p line (p.addr + i))
  if p.cached r.fresh then
    match (if hit then (mget (s.core core).fcache (p.prog / 64 * 64)).map Prod.snd else none) with
    | some v => (bytes (some v), s)
    | none => (bytes none, if p.space == .dev then s.fillLine core r.lk p.prog p.addr else s)
  else (bytes none, s)

/-- Serve all parts, from place i on: the bytes with their offsets. -/
def State.serveParts (s : State) (r : Req) (i : Nat) : List Part → List (Nat × List Byte) × State
  | [] => ([], s)
  | p :: ps =>
    let (bs, s) := s.servePart r (r.hits.contains i) p
    let (rest, s) := s.serveParts r (i + 1) ps
    ((p.off, bs) :: rest, s)

/-- Bytes 0 upward of an access from its parts; a byte no part holds is 0. -/
def assemble (n : Nat) (xs : List (Nat × List Byte)) : List Byte :=
  (List.range n).map (fun i => match xs.find? (fun (o, bs) => decide (o ≤ i ∧ i < o + bs.length)) with
    | some (o, bs) => (bs[i - o]?).getD 0
    | none => 0)

/-- The token of a load's bytes (08 R199 R204). -/
def loadToken (kind : ReqKind) (xs : List (Nat × List Byte)) : Token :=
  match kind with
  | .load tag v scale =>
    let f := (Fmt.ofTag tag).getD .z64
    if v then { pay := BitVec.ofNat 512 (leNat (assemble 64 xs)), tag := BitVec.ofNat 6 tag, v := true, scale := BitVec.ofNat 8 scale }
    else
      let c := leNat (assemble (fmtBytes f) xs)
      { scalarTok f (if f = .pred then c % 2 else c) with scale := BitVec.ofNat 8 scale }
  | .gather tag scale =>
    let f := (Fmt.ofTag tag).getD .z64
    { pay := BitVec.ofNat 512 (leNat (assemble (8 * fmtBytes f) xs)), tag := BitVec.ofNat 6 tag, v := true, scale := BitVec.ofNat 8 scale }
  | .answer tag => { tag := BitVec.ofNat 6 tag }

/-- The next element of a stream in read mode (08 R206): in bounds it carries its line, else RV = 0 and a zero payload. -/
def State.serveStream (s : State) (r : Req) (p : Part) : State :=
  let el := s.elem r.site
  match p.space, el.ost with
  | .tile c t, .stream n total poison id chain thr =>
    let k := tileKey c t
    let mt := s.mtile k
    let ws := (mt.streamer p.addr).words
    if !el.q0.isEmpty then s
    else if n < total then
      let b := s.bank (siteKey r.site)
      let tok : Token :=
        match poison with
        | some v => { pay := v, tag := BitVec.ofNat 6 (strTag ws), v := true, poison := true }
        | none => match strLine ws ((strWindow mt.cfg).getD 1) n with
          | none => { tag := BitVec.ofNat 6 (strTag ws), scale := BitVec.ofNat 8 (strScale ws), v := true, rv := false }
          | some l =>
            if s.spoilt (.tile c t) (64 * l) 64 then
              { pay := BitVec.ofNat 512 (poisonPay { { s with cur := r.site }.firing with thr := thr } fEcc), tag := BitVec.ofNat 6 (strTag ws), v := true, poison := true }
            else
            let bs := (List.range 64).map (fun i => s.loadByte r { p with addr := 64 * l, size := 64 } none (64 * l + i))
            { pay := BitVec.ofNat 512 (leNat bs), tag := BitVec.ofNat 6 (strTag ws), scale := BitVec.ofNat 8 (strScale ws), v := true }
      let x : Flight := { due := s.fc, outs := some [(0, { tok with thr := some thr })], round := some r.round, after := none, id := 0, thr := thr, k := b.blk }
      s.setElem r.site { el with q0 := [x], ost := .stream (n + 1) total poison id chain thr }
    else
      let s := (s.setOst r.site .none).setStreamer k p.addr { mt.streamer p.addr with busy := none }
      ({ s with reqs := s.reqs.filter (fun x => x.id ≠ r.id) }).fill r.site id s.fc none [(1, orderTok chain)]
  | _, _ => s

/-- The host has a say in an access: its memory, or device memory in host bias (13 R291). -/
def Req.ofHost (r : Req) : Bool := r.parts.any (fun p => p.space == .host || (p.space == .dev && p.hostBias))

/-- A fresh load of the chain that was issued before has not been served (12 R274). -/
def State.freshAhead (s : State) (r : Req) : Bool :=
  r.fresh && s.reqs.any (fun x => x.fresh && x.op.isNone && x.lk == r.lk && x.id < r.id && x.chain.hgsp == r.chain.hgsp && x.chain.thr == r.chain.thr &&
    x.chain.k == r.chain.k && (match x.kind with
      | .load _ _ _ => true
      | .gather _ _ => true
      | .answer _ => false))

/-- The part of a load that meets a line with an error that ECC cannot correct (21 R388); what the fetch cache answers meets none. -/
def State.spoiltRead (s : State) (r : Req) : Option Part :=
  (r.parts.zipIdx.find? (fun x => !(x.1.cached r.fresh && r.hits.contains x.2) && s.spoiltPart x.1)).map Prod.fst

/-- Serve a load or the next element of a stream, where it is due and its unit may answer; the fresh loads of a chain are served in order. -/
def State.serveReq (s : State) (r : Req) : State :=
  if s.fc < r.due ∨ !r.parts.all (s.servable r) ∨ s.freshAhead r then s
  else
    match r.kind, r.parts with
    | .answer _, p :: _ => s.serveStream r p
    | _, _ =>
      if let some p := s.spoiltRead r then s.replyAccess r fEcc p.addr p.prog else
      let (xs, s) := s.serveParts r 0 r.parts
      s.answer r.id none [(0, loadToken r.kind xs)]

/-- MEMORY_ACCESS_SERVE (12 R273 R274, 13 R284-R291): a due load or stream is served at its unit; one that the host has a say in waits for the host. -/
def execMemoryAccessServe (id : Nat) (s : State) : Host.Outcome State Fault Refusal :=
  match s.reqs.find? (fun r => r.id == id && r.op.isNone) with
  | none => .next s
  | some r => .next (if r.ofHost then s else s.serveReq r)

end Sys2Proof.Machine
end

