-- ==== Sys2Proof/Machine/Atomic.lean ====
section
/-! DEFINITION. Operations at a home: the atomics (08 R209-R213) and the issue and arrival that they share with barriers, permits and futures. -/

namespace Sys2Proof.Machine

/-! ### Issue and arrival -/

/-- Operations on ordered-shared lines and those of launches in ordered mode are staged and applied at the marker (08 R212, 13 R285). -/
def State.stagedOp (s : State) (lk : Nat) (ps : List Part) : Bool := (s.launch lk).any Launch.ord || ps.any Part.osh

/-- Send an operation to its home: staged with its round, or on its way to be performed on arrival (08 R212). Its identity names the flight that
waits for the answer; chain is the one its order token carries. -/
def State.sendOp (s : State) (f : Firing) (ps : List Part) (op : HomeOp) (id : Nat) (chain : Chain) : State :=
  let r : Req := {
    id := id, site := f.e, lk := f.lk, round := f.round, due := s.fc + s.latencyOf f.e.core (siteTile f) ps - 1, kind := .answer 0, fresh := true,
    chain := chain, parts := ps, thr := f.thr, op := some op, key := f.writeKey, arrived := s.stagedOp f.lk ps, ops := [f.ops.l, f.ops.r, f.ops.p], org := f.origin, user := !isPriv f.b }
  let s' := { s with reqs := s.reqs ++ [r] }.tickUp
  if s.stagedOp f.lk ps then s'.stage (r.arrival op) else s'

/-- The bits of a home operation that answers nothing after it has been performed. -/
def HomeOp.silent : HomeOp → Bool
  | .write _ => true
  | .atomic _ _ _ _ _ => false
  | .bar copy => copy
  | .permit give => give
  | .futreg _ _ _ => true
  | .futres _ => true
  | .futwait => false
  | .rsv _ => true
  | .fence _ _ => false
  | .rfence => false
  | .jdec _ => true
  | .touch => true
  | .fault _ _ _ => true

/-- RSV at its unit (10 R248): the cell becomes the smaller of itself and OFFSET. -/
def State.performRsv (s : State) (commit : Bool) (a : Arrival) (off : Nat) : State :=
  s.atomicStore commit a ((HomeOp.rsv off).apply (s.atomicBytes a 4))

/-- Perform an operation at its home: on arrival, or at the commit of its round (08 R212). -/
def State.performOp (s : State) (commit : Bool) (a : Arrival) : State :=
  let s := match a.op with
    | .write bs => s.commitWrite a bs
    | .atomic op tag u val k => s.performAtomic commit a op tag u val k
    | .bar copy => s.performBar commit a copy
    | .permit give => s.performPermit commit a give
    | .futreg pkt q j => s.performFutreg commit a pkt q j
    | .futres v => s.performFutres commit a v
    | .futwait => s.performFutwait commit a
    | .rsv off => s.performRsv commit a off
    | .fence _ _ => s
    | .rfence => s
    | .jdec _ => s
    | .touch => s
    | .fault _ _ _ => s
  if a.op.silent then s.forget a.req else s

/-- An operation that was performed on arrival commits with its round: plain accesses see it from then on, and a fault it met is reported (08 R212 R214). -/
def State.commitLogged (s : State) (a : Arrival) : State :=
  let h := s.homeLog a.space
  let s := s.setHomeLog a.space ({ h with log := h.log.map (fun (e : Arrival) => if e.seq = a.seq then { e with done := true } else e) }).settle
  match a.op with
  | .fault code info _ => s.faultNow a code info
  | _ => s

/-- An arrival commits at its home. -/
def State.commitOp (s : State) (a : Arrival) : State :=
  if !a.plain && (s.homeLog a.space).log.any (fun e => e.seq == a.seq) then s.commitLogged a else s.performOp true a

/-- ATOMIC_PERFORM (08 R212 R217-R220): an operation of free mode reaches its unit and is performed there in arrival order. An atomic's order
token, which awaits under the next identity, is emitted once the unit has accepted it (08 R196). -/
def execAtomicPerform (id : Nat) (s : State) : Host.Outcome State Fault Refusal :=
  match s.reqs.find? (fun r => r.id == id && !r.arrived) with
  | none => .next s
  | some r =>
    match r.op with
    | none => .next s
    | some op =>
      if s.fc < r.due ∨ (!r.admitted && s.dieOff r.parts) ∨ s.portHolds r.site.core then .next s
      else if let some p := r.parts.find? s.spoiltPart then .next (s.replyAccess r fEcc p.addr p.prog)
      else
        let s := { s with reqs := s.reqs.map (fun (x : Req) => if x.id = id then { x with arrived := true } else x) }
        let s := match op with
          | .atomic _ _ _ _ _ => s.fill r.site (id + 1) s.fc none [(1, orderTok r.chain)]
          | _ => s
        .next ((s.logOwn (r.arrival op)).performOp false (r.arrival op))

/-! ### Atomics -/

/-- Bytes an atomic touches: those of its type; 64 for ATOPK (08 R209 R211). -/
def atomicSize (op : Nat) (ty : Ty) : Nat := if op = 0xAA then 64 else scalarSize ty

/-- The format of the location (08 R209). -/
def atomicFmt (op : Nat) (o : OpA) : Fmt := if op = 0xA9 then .z64 else (fmtOf o.ty (o.bit 3)).getD .z64

/-- The operand of an atomic: R, or imm18 under I (08 R209 R210). -/
def atomicOperand (op : Nat) (o : OpA) (f : Firing) : Token :=
  if o.i then (if op = 0xA9 then immTok .z32 true false o.imm else immTok (atomicFmt op o) (o.bit 3) (op == 0xA8) o.imm) else (let r := f.ops.r.getD {}; { r with pay := r.num })

/-- R is what the atomic takes (08 R209 R210 R211). -/
def atomicOperandOk (op : Nat) (o : OpA) (r : Token) : Bool :=
  match op with
  | 0xA8 => dataOk o.ty true r
  | 0xA9 => isW32 r && decide (r.low32 < 64)
  | 0xAA => isAddr r
  | 0xA1 => tyAccepts o.ty r && !r.v
  | _ => dataOk o.ty false r

/-- Parts of one atomic fault (08 R213, 13 R291); ATOPK has none on a memory tile (08 R211). -/
def atomicAttrs (op : Nat) (ps : List Part) : Option (Nat × Nat) :=
  let bad (p : Part) : Bool := p.hostBias || (match p.space with
    | .host => true
    | .peer _ => true
    | .dev => false
    | .tile _ _ => op == 0xAA)
  (ps.find? bad).map (fun p => (fAtomic, p.prog))

/-- The place of an operation of n aligned bytes: misalignment comes before the faults of the place (08 R195, 21 R373). -/
def wordPlace (tile : Bool) (n : Nat) (s : State) (f : Firing) : Place :=
  let a := (f.ops.l.map Token.word).getD 0
  if a % n ≠ 0 then .err fAlign a else if tile then tilePlace s f 0 n else .global [(a, n, 0)]

/-- Wait for an atomic of the chain that overlaps (08 R212). -/
def opStall (s : State) (f : Firing) (ps : List Part) : Option State := if s.chainBusy f.lk f.writeChain ps then some s else none

/-- The order token that belongs to a write, on target 1. -/
def State.orderSecond (s : State) (f : Firing) : State := s.result f true 1 [(1, orderTok f.writeChain.next)]

/-- Issue an atomic: in ordered mode the order token goes out on acceptance and the old value is not owed to the round; in free mode both wait for
the unit (08 R196 R212 R215). -/
def State.issueAtomic (s : State) (f : Firing) (ps : List Part) (op : HomeOp) : State :=
  let (id, s) := s.fresh
  let (id', s) := s.fresh
  let s' := s.sendOp f ps op id f.writeChain.next
  if s.stagedOp f.lk ps then (s'.await f false false id).orderSecond f else (s'.await f false true id).await f true true id'

/-- The firing of an atomic. -/
def State.atomicFire (s : State) (op : Nat) (o : OpA) : State :=
  s.accessFire {
    fl := o.fl, need := { l := true, r := !o.i }, rd := true, wr := true,
    check := fun _ f => if f.ops.l.all isAddr && (o.i || f.ops.r.all (atomicOperandOk op o)) then none else some (fFormat, 0),
    place := wordPlace (o.bit 0) (atomicSize op o.ty), attrs := atomicAttrs op, stall := opStall,
    offline := fun s f ps => s.dieOff ps && !s.stagedOp f.lk ps, act := fun s f ps => s.issueAtomic f ps (.atomic op (atomicFmt op o).tag (o.bit 3) (atomicOperand op o f) (o.imm.toNat % 16)) }

/-- AADD (08 R209): the sum modulo 2^w. -/
def execAadd (o : OpA) (s : State) : Host.Outcome State Fault Refusal := .next (s.atomicFire 0xA0 o)

/-- AFADD (08 R209): the rounded sum. -/
def execAfadd (o : OpA) (s : State) : Host.Outcome State Fault Refusal := .next (s.atomicFire 0xA1 o)

/-- AMIN (08 R209). -/
def execAmin (o : OpA) (s : State) : Host.Outcome State Fault Refusal := .next (s.atomicFire 0xA2 o)

/-- AMAX (08 R209). -/
def execAmax (o : OpA) (s : State) : Host.Outcome State Fault Refusal := .next (s.atomicFire 0xA3 o)

/-- AAND (08 R209). -/
def execAand (o : OpA) (s : State) : Host.Outcome State Fault Refusal := .next (s.atomicFire 0xA4 o)

/-- AOR (08 R209). -/
def execAor (o : OpA) (s : State) : Host.Outcome State Fault Refusal := .next (s.atomicFire 0xA5 o)

/-- AXOR (08 R209). -/
def execAxor (o : OpA) (s : State) : Host.Outcome State Fault Refusal := .next (s.atomicFire 0xA6 o)

/-- AXCHG (08 R209). -/
def execAxchg (o : OpA) (s : State) : Host.Outcome State Fault Refusal := .next (s.atomicFire 0xA7 o)

/-- ACAS (08 R209): lane 1 of R where the location equals lane 0. -/
def execAcas (o : OpA) (s : State) : Host.Outcome State Fault Refusal := .next (s.atomicFire 0xA8 o)

/-- ATAS (08 R210): sets a bit of a word of a memory tile. -/
def execAtas (o : OpA) (s : State) : Host.Outcome State Fault Refusal := .next (s.atomicFire 0xA9 o)

/-- ATOPK (08 R211): posts to a top-k record. -/
def execAtopk (o : OpA) (s : State) : Host.Outcome State Fault Refusal := .next (s.atomicFire 0xAA o)

/-- AINCB (08 R209): increment below R. -/
def execAincb (o : OpA) (s : State) : Host.Outcome State Fault Refusal := .next (s.atomicFire 0xAB o)

end Sys2Proof.Machine
end

