-- ==== Sys2Proof/Machine/Sync.lean ====
section
/-! DEFINITION. Synchronisation: fences, barriers, permits and futures (08 R215-R220, 13 R289). -/

namespace Sys2Proof.Machine

/-! ### Fences -/

/-- Every access earlier on a chain has reached the point of a scope (08 R216). -/
def State.fenceDone (s : State) (lk scope : Nat) (c : Chain) : Bool :=
  let earlier (k : Key) : Bool := sameChain k c && decide (k.pos < c.pos)
  let mine (a : Arrival) : Bool := a.lk == lk && earlier a.key
  let waited (a : Arrival) : Bool := match a.space with
    | .host => scope == 5
    | .peer _ => scope == 5
    | .dev => true
    | .tile _ _ => true
  scope == 0 ||
  (s.mtiles.all (fun (_, t) => !(t.stage ++ t.undone).any mine) &&
   s.cores.all (fun (_, c) => !c.gstage.any mine && !c.cmds.any (fun x => x.lk == lk && x.emitted.isNone && earlier x.key)) &&
   !s.units.any (fun a => mine a && waited a) && !s.undone.any mine &&
   !s.reqs.any (fun r => r.lk == lk && r.op.isSome && !r.arrived && earlier r.key) &&
   (scope != 5 || !s.hostReqs.any (fun (_, a) => mine a)))

/-- What a fence emits. -/
def fenceOuts (c : Chain) (data : Option Token) : List (Nat × Token) := (0, orderTok c) :: (data.map (fun t => (1, t.pass))).toList

/-- Let the fences emit whose condition has come true (08 R215). -/
def State.wakeFences (s : State) : State :=
  s.reqs.foldl (fun s r => match r.op with
    | some (.fence scope data) => if s.fenceDone r.lk scope r.chain then s.answer r.id none (fenceOuts r.chain data) else s
    | _ => s) s

/-- What waits for a commit looks again (08 R215). -/
def State.wake (s : State) : State := s.wakeResolved.wakeFences.letGo

/-- FENCE (08 R216). -/
def execFence (o : OpA) (s : State) : Host.Outcome State Fault Refusal :=
  let scope := o.imm.toNat % 8
  .next (s.anchorFire {
    fl := o.fl, need := { l := true, r := hasSource s.firing.b s.firing.e.idx .r }, nums := {},
    check := fun _ f => if f.ops.l.all isOrder && f.ops.r.all tagNamed then none else some (fFormat, 0),
    act := fun s f =>
      let c := (f.ops.l.bind Token.chain).getD f.chain
      if s.fenceDone f.lk scope c then s.result f false 1 (fenceOuts c f.ops.r)
      else
        let (id, s) := s.fresh
        let r : Req := {
          id := id, site := f.e, lk := f.lk, round := f.round, due := s.fc, kind := .answer 0, fresh := true, chain := c, parts := [], thr := f.thr,
          op := some (.fence scope f.ops.r), arrived := true }
        { s with reqs := s.reqs ++ [r] }.await f false false id })

/-! ### The words of barriers, permits and futures -/

/-- A synchronisation word lies in device memory of the package (13 R289). -/
def syncAttrs (code : Nat) (ps : List Part) : Option (Nat × Nat) :=
  let bad (p : Part) : Bool := match p.space with
    | .host => true
    | .peer _ => true
    | .dev => false
    | .tile _ _ => false
  (ps.find? bad).map (fun p => (code, p.prog))

/-- Issue an operation that answers in a later round (08 R215). -/
def State.issueWait (s : State) (f : Firing) (ps : List Part) (op : HomeOp) (chain : Chain) : State :=
  let (id, s) := s.fresh
  (s.sendOp f ps op id chain).await f false false id

/-- Issue an operation that emits its order token at once. -/
def State.issueSilent (s : State) (f : Firing) (ps : List Part) (op : HomeOp) : State :=
  let (id, s) := s.fresh
  (s.sendOp f ps op id f.writeChain.next).orderAfter f

/-- BAR for a participant (08 R217): released in a later round. -/
def execBar (o : OpA) (s : State) : Host.Outcome State Fault Refusal :=
  .next (s.accessFire {
    fl := o.fl, need := needL, rd := true, wr := true, check := fun _ f => if f.ops.l.all isAddr then none else some (fFormat, 0),
    place := wordPlace (decide (o.imm.toNat ≤ 2)) 8, attrs := syncAttrs fBarrier, stall := opStall,
    act := fun s f ps => s.issueWait f ps (.bar false) f.writeChain.next })

/-- BAR.copy (08 R217): an engine completion token of any tag in R. -/
def execBarCopy (o : OpA) (s : State) : Host.Outcome State Fault Refusal :=
  .next (s.accessFire {
    fl := o.fl, need := needLR, nums := { l := true }, rd := true, wr := true,
    check := fun _ f => if f.ops.l.all isAddr && f.ops.r.all tagNamed then none else some (fFormat, 0),
    place := wordPlace (decide (o.imm.toNat ≤ 2)) 8, attrs := syncAttrs fBarrier, stall := opStall,
    act := fun s f ps => s.issueSilent f ps (.bar true) })

/-- PERMIT.take (08 R218): its order tokens follow the commit of the grant. -/
def execPermitTake (o : OpA) (s : State) : Host.Outcome State Fault Refusal :=
  .next (s.accessFire {
    fl := o.fl, need := needL, rd := true, wr := true, check := fun _ f => if f.ops.l.all isAddr then none else some (fFormat, 0),
    place := wordPlace false 8, attrs := syncAttrs fPermit, stall := opStall,
    act := fun s f ps => s.issueWait f ps (.permit false) f.writeChain.next })

/-- PERMIT.give (08 R218). -/
def execPermitGive (o : OpA) (s : State) : Host.Outcome State Fault Refusal :=
  .next (s.accessFire {
    fl := o.fl, need := needL, rd := true, wr := true, check := fun _ f => if f.ops.l.all isAddr then none else some (fFormat, 0),
    place := wordPlace false 8, attrs := syncAttrs fPermit, stall := opStall,
    act := fun s f ps => s.issueSilent f ps (.permit true) })

/-- FUTREG (08 R220): a packet address off 128 bytes is a future fault, held. -/
def execFutreg (o : OpA) (s : State) : Host.Outcome State Fault Refusal :=
  let pkt (f : Firing) : Nat := (f.ops.r.map Token.word).getD 0
  .next (s.accessFire {
    fl := o.fl, need := needLR, rd := true, wr := true,
    check := fun _ f => if f.ops.l.all isAddr && f.ops.r.all isAddr then none else some (fFormat, 0),
    place := wordPlace false 8,
    attrs := fun ps => match syncAttrs fFuture ps with
      | some e => some e
      | none => if pkt s.firing % 128 = 0 then none else some (fFuture, pkt s.firing)
    stall := opStall,
    act := fun s f ps => s.issueSilent f ps (.futreg (pkt f) (o.imm.toNat % 64) (o.imm.toNat / 64 % 256)) })

/-- FUTRES (08 R220). -/
def execFutres (o : OpA) (s : State) : Host.Outcome State Fault Refusal :=
  .next (s.accessFire {
    fl := o.fl, need := needLR, rd := true, wr := true,
    check := fun _ f => if f.ops.l.all isAddr && f.ops.r.all isW32 then none else some (fFormat, 0),
    place := wordPlace false 8, attrs := syncAttrs fFuture, stall := opStall,
    act := fun s f ps => s.issueSilent f ps (.futres ((f.ops.r.map Token.low32).getD 0)) })

/-- FUTWAIT (08 R220): emits when the future is resolved and committed; a read of its chain (12 R267). -/
def execFutwait (o : OpA) (s : State) : Host.Outcome State Fault Refusal :=
  .next (s.accessFire {
    fl := o.fl, need := needL, rd := true, wr := false, check := fun _ f => if f.ops.l.all isAddr then none else some (fFormat, 0),
    place := wordPlace false 8, attrs := syncAttrs fFuture, stall := opStall,
    act := fun s f ps => s.issueWait f ps .futwait f.chain })

end Sys2Proof.Machine
end

