-- ==== Sys2Proof/Machine/Engine.lean ====
section
/-! DEFINITION. The engines: descriptors and their checks, the copy, fill, gather and collective commands, and completions (09 R236-R242, 13 R293). -/

namespace Sys2Proof.Machine

/-! ### Extents -/

/-- The check of an extent. -/
inductive Extent where
  /-- acceptable; some part lies in host memory or on a peer -/
  | ok (far : Bool)
  | wait
  | bad (addr : Nat)
  deriving DecidableEq, Repr

/-- The range that contains an address: from the core's table, or else from a walk. -/
def State.rangeOf (s : State) (core part a : Nat) : Option (Option (List Nat)) :=
  if s.heldAt core part a then none
  else
    match tableHit (s.core core) a with
    | some (_, r) => some (some r.words)
    | none =>
      if (s.part part).dlock || (s.part part).busy then none
      else match walkResult s (s.part part) a with
        | .ok w => some (some w)
        | .error _ => some none

/-- Ranges an extent can cross. -/
def State.rangeBound (s : State) (part : Nat) : Nat := (s.part part).rdirCnt + 33

/-- Every byte of an extent, range by range (09 R239, 20 R354). -/
def State.extent (s : State) (core part : Nat) (user rd wr : Bool) : Nat → Nat → Nat → Bool → Extent
  | 0, a, n, far => if n = 0 then .ok far else .bad a
  | fuel + 1, a, n, far =>
    if n = 0 then .ok far
    else
      match s.rangeOf core part a with
      | none => .wait
      | some none => .bad a
      | some (some w) =>
        let k := min n (entLimit w - a)
        if (user && !entBit w atUSR) || (rd && !entBit w atRD) || (wr && !entBit w atWR) || decide (a < entRlo w ∨ entRhi w < a + k) then .bad a
        else
          match backing s part w a k 0 rd wr with
          | .ok ps => s.extent core part user rd wr fuel ((a + k) % 2 ^ 64) (n - k) (far || ps.any (fun p => p.space != .dev))
          | .wait _ => .wait
          | .fault _ _ => .bad a

/-- The latest copy of a byte: the host's where it holds the line in host bias (13 R291). -/
def State.latestByte (s : State) (p : Part) (a : Nat) : Byte :=
  match (if p.hostBias && p.space == .dev then mget s.hostLines (a / 64 * 64) else none) with
  | some v => BitVec.ofNat 8 (bitsAt v.toNat (8 * (a % 64)) 8)
  | none => s.homeByte p.space a

/-- The committed bytes of an extent that has been checked, by offset from o. -/
def State.readExtent (s : State) (core part : Nat) : Nat → Nat → Nat → Nat → Memory → Memory
  | 0, _, _, _, m => m
  | fuel + 1, a, n, o, m =>
    if n = 0 then m
    else
      match s.rangeOf core part a with
      | some (some w) =>
        let k := min n (entLimit w - a)
        match backing s part w a k 0 false false with
        | .ok (p :: _) =>
          let m := (List.range k).foldl (fun m i => memWrite m (o + i) (s.latestByte p (p.addr + i))) m
          s.readExtent core part fuel ((a + k) % 2 ^ 64) (n - k) (o + k) m
        | _ => m
      | _ => m

/-! ### Descriptors (09 R237-R239) -/

/-- Fields of descriptor word 0. -/
def dEcode (d : List Nat) : Nat := bitsAt (d.getD 0 0) 0 8
def dScope (d : List Nat) : Nat := bitsAt (d.getD 0 0) 8 3
def dFut (d : List Nat) : Bool := bitAt (d.getD 0 0) 11
def dCop (d : List Nat) : Nat := bitsAt (d.getD 0 0) 16 2
def dRop (d : List Nat) : Nat := bitsAt (d.getD 0 0) 18 2
def dDt (d : List Nat) : Nat := bitsAt (d.getD 0 0) 20 4
def dGrp (d : List Nat) : Nat := bitsAt (d.getD 0 0) 24 8
/-- Word i of a descriptor. -/
def dW (d : List Nat) (i : Nat) : Nat := d.getD i 0

/-- The element format of a collective. -/
def collFmt (dt : Nat) : Option Fmt :=
  match dt with
  | 0 => some .i64
  | 1 => some .i32
  | 4 => some .f32
  | 5 => some .bf16
  | _ => none

/-- Size and this package's rank of a collective group. -/
def State.group (s : State) (g : Nat) : Option (Nat × Nat) := (mget s.hub.groups g).map (fun x => (x.1, x.2.1))

/-- Blocks of COUNT elements in SEND and in RECV (09 R242). -/
def collBlocks (cop g : Nat) : Nat × Nat :=
  match cop with
  | 1 => (1, g)
  | 2 => (g, 1)
  | _ => (1, 1)

/-- Word 0, the reserved fields, ECODE, SCOPE and the fields of the command. -/
def State.descOk (s : State) (op : Nat) (d : List Nat) : Bool :=
  let e := op - 0xB7
  let small (i n : Nat) : Bool := decide (dW d i < 2 ^ n)
  bitsAt (dW d 0) 32 32 == 0 && bitsAt (dW d 0) 12 4 == 0 && dEcode d == e && decide (1 ≤ dScope d ∧ dScope d ≤ 5) && small 7 32 &&
  (dFut d || (dW d 6 == 0 && dW d 7 == 0)) && (e == 4 || bitsAt (dW d 0) 16 16 == 0) && (!dFut d || dW d 6 % 8 == 0) &&
  (match e with
   | 1 => small 3 32 && dW d 4 == 0 && dW d 5 == 0
   | 2 => small 3 32 && dW d 4 == 0 && dW d 5 == 0
   | 3 => dW d 1 % 4 == 0 && small 3 24 && decide (1 ≤ dW d 3) && decide (1 ≤ dW d 5 ∧ dW d 5 ≤ 65536)
   | _ => decide (4 ≤ dScope d) && dRop d != 3 && (collFmt (dDt d)).isSome && (s.group (dGrp d)).isSome && small 3 32 && small 4 8 && dW d 5 == 0)

/-- The extents that are checked at acceptance: address, length, read, write. -/
def State.descExtents (s : State) (op : Nat) (d : List Nat) : List (Nat × Nat × Bool × Bool) :=
  let fut := if dFut d then [(dW d 6, 8, true, true)] else []
  let es := match op - 0xB7 with
    | 1 => [(dW d 1, dW d 3, true, false), (dW d 2, dW d 3, false, true)]
    | 2 => [(dW d 2, dW d 3, false, true)]
    | 3 => [(dW d 1, 4 * dW d 3, true, false), (dW d 2, dW d 3 * dW d 5, false, true)]
    | _ =>
      let n := dW d 3 * fmtBytes ((collFmt (dDt d)).getD .i64)
      let b := collBlocks (dCop d) ((s.group (dGrp d)).getD (1, 0)).1
      [(dW d 1, b.1 * n, true, false), (dW d 2, b.2 * n, false, true)]
  es ++ fut

/-- The check of a whole descriptor: a destination in host memory or on a peer wants scope 5, a future stays in device memory (09 R239, 13 R289). -/
def State.descCheck (s : State) (core part : Nat) (user : Bool) (op : Nat) (d : List Nat) : Extent :=
  if !s.descOk op d then .bad 0
  else
    (s.descExtents op d).foldl (fun (r : Extent) x =>
      match r, s.extent core part user x.2.2.1 x.2.2.2 (s.rangeBound part) x.1 x.2.1 false with
      | .bad a, _ => .bad a
      | _, .bad a => .bad a
      | .wait, _ => .wait
      | _, .wait => .wait
      | .ok f, .ok far =>
        if far && x.2.2.2 && (x.2.2.1 || dScope d != 5) then .bad x.1 else .ok (f || far)) (.ok false)

/-! ### Acceptance -/

/-- Commands of the engines and range commands that a core's port holds (09 R236, 20 R366). -/
def State.portCommands (s : State) (core part : Nat) : Nat :=
  ((s.core core).cmds.filter (fun x => decide (0xB8 ≤ x.op ∧ x.op ≤ 0xBB) && x.emitted.isNone)).length + ((s.part part).rcmds.filter (fun r => r.cmd.core == core)).length

/-- Accept a command: the order token now, the completion token later on target 0. -/
def State.acceptCmd (s : State) (f : Firing) (op : Nat) (words : List Nat) : State :=
  let (id, s) := s.fresh
  let c := s.core f.e.core
  let x : Cmd := {
    id := id, site := f.e, lk := f.lk, core := f.e.core, round := f.round, thr := f.thr, op := op, words := words, key := f.writeKey,
    user := !isPriv f.b, org := f.origin }
  ((s.setCore f.e.core { c with cmds := c.cmds ++ [x] }).await f false false id).orderSecond f

/-- The firing of an engine command (09 R236 R239). -/
def State.engineFire (s : State) (op : Nat) (o : OpA) : State :=
  let d (f : Firing) : List Nat := (f.ops.l.getD {}).words
  let check (s : State) (f : Firing) : Extent := s.descCheck f.e.core f.part (!isPriv f.b) op (d f)
  s.accessFire {
    fl := o.fl, need := needL, rd := false, wr := false,
    check := fun s f =>
      if !f.ops.l.all isVec64 then some (fFormat, 0)
      else match check s f with
        | .bad a => some (fEngine, a)
        | .wait => none
        | .ok _ => none
    place := fun _ _ => .tile [],
    stall := fun s f _ => if check s f == .wait || decide (16 ≤ s.portCommands f.e.core f.part) then some s else none,
    act := fun s f _ => s.acceptCmd f op (d f) }

/-- XCOPY (09 R240). -/
def execXcopy (o : OpA) (s : State) : Host.Outcome State Fault Refusal := .next (s.engineFire 0xB8 o)
/-- XFILL (09 R240). -/
def execXfill (o : OpA) (s : State) : Host.Outcome State Fault Refusal := .next (s.engineFire 0xB9 o)
/-- XGATHER (09 R240). -/
def execXgather (o : OpA) (s : State) : Host.Outcome State Fault Refusal := .next (s.engineFire 0xBA o)
/-- XCOLL (09 R242). -/
def execXcoll (o : OpA) (s : State) : Host.Outcome State Fault Refusal := .next (s.engineFire 0xBB o)

/-! ### Performance -/

/-- A command with an identity. -/
def State.cmdOf (s : State) (id : Nat) : Option (Nat × Cmd) :=
  s.cores.findSome? (fun (k, c) => (c.cmds.find? (fun x => x.id == id)).map (fun x => (k, x)))

/-- Change a command. -/
def State.setCmd (s : State) (core : Nat) (x : Cmd) : State :=
  let c := s.core core
  s.setCore core { c with cmds := c.cmds.map (fun y => if y.id = x.id then x else y) }

/-- Remove a command. -/
def State.dropCmd (s : State) (core id : Nat) : State :=
  let c := s.core core
  s.setCore core { c with cmds := c.cmds.filter (fun y => y.id ≠ id) }

/-- The marker that closes a command's round of acceptance has committed everywhere (09 R240). -/
def State.roundHome (s : State) (lk core r : Nat) : Bool :=
  (s.launch lk).isSome && decide (r < s.cutOf lk core) &&
  !(s.units ++ s.undone).any (fun u => u.of lk core && u.space == .dev && decide (u.round ≤ r))

/-- Every write earlier than a command has committed, those to host memory and to peers among them (09 R240). -/
def State.roundFar (s : State) (lk core r : Nat) : Bool :=
  s.roundHome lk core r && !s.units.any (fun u => u.of lk core && decide (u.round ≤ r)) && !s.hostReqs.any (fun x => x.2.of lk core && decide (x.2.round ≤ r))

/-- A range that moves or flips is still under its old entry for a command that was accepted before the core's invalidation marker (20 R363). -/
def State.asOld (s : State) (core : Nat) (x : Cmd) : State :=
  let p := s.part (lkPart x.lk)
  let old (r : RCmd) : Bool := (s.core core).invals.any (fun v => v.id == r.cmd.id && v.marker.any (fun m => m.1 != x.lk || decide (x.round ≤ m.2)))
  s.setPart (lkPart x.lk) { p with rcmds := p.rcmds.map (fun (r : RCmd) => if old r then { r with phase := 0 } else r) }

/-- Some range is under its old entry for a command alone. -/
def State.underOld (s : State) (core : Nat) (x : Cmd) : Bool := s.asOld core x != s

/-- A reduction step of a collective (09 R242). -/
def collStep (rop : Nat) (f : Fmt) (a b : Nat) : Nat :=
  if f.isInt then (intBin (if rop = 0 then 0x20 else if rop = 1 then 0x2A else 0x2B) f a b).code
  else if rop = 0 then (floatBin 0x40 f 0 (codeValue f a) (codeValue f b)).code
  else (minMaxLane (rop == 2) f (codeValue f a) (codeValue f b)).code

/-- The bytes of RECV: own is this member's SEND, the others' come from the peers (09 R242). -/
def collResult (g r k grp count root cop rop : Nat) (f : Fmt) (own : Memory) : Memory :=
  let w := fmtBytes f
  let byte (rank i : Nat) : Byte := if rank = r then memRead own i else Config.peerSend grp rank k i
  let elem (rank i : Nat) : Nat := leNat ((List.range w).map (fun j => byte rank (w * i + j)))
  let fold (i : Nat) : Nat := (List.range (g - 1)).foldl (fun v m => collStep rop f v (elem (m + 1) i)) (elem 0 i)
  match cop with
  | 0 => (List.range (count * w)).foldl (fun m i => memWrite m i (byte root i)) []
  | 1 => (List.range (g * count * w)).foldl (fun m i => memWrite m i (byte (i / (count * w)) (i % (count * w)))) []
  | 2 => (List.range count).foldl (fun m i => writeBytes m (w * i) (leBytes w (fold (r * count + i)))) []
  | _ => (List.range count).foldl (fun m i => writeBytes m (w * i) (leBytes w (fold i))) []

/-- A command stops with a fault: a notice, and the STATUS of its completion (09 R240 R242). -/
def State.stopCmd (s : State) (core : Nat) (x : Cmd) (code addr : Nat) : State :=
  (s.notice x.lk core code addr x.done x.org).setCmd core { x with status := code, finished := true, loaded := true, total := x.prog }

/-- The fault that reading a stretch of an extent meets: its die is not online (23 R409), or a line has an error that ECC cannot correct (21 R388). -/
def State.readFault (s : State) (ps : List Part) : Option Nat := if s.dieOff ps then some fDieOffline else if ps.any s.spoiltPart then some fEcc else none

/-- The first fault that reading an extent meets, with the address of its stretch. -/
def State.extentOff (s : State) (core part : Nat) : Nat → Nat → Nat → Option (Nat × Nat)
  | 0, _, _ => none
  | fuel + 1, a, n =>
    if n = 0 then none
    else
      match s.rangeOf core part a with
      | some (some w) =>
        let k := min n (entLimit w - a)
        match backing s part w a k 0 false false with
        | .ok ps => match s.readFault ps with
          | some code => some (code, a)
          | none => s.extentOff core part fuel ((a + k) % 2 ^ 64) (n - k)
        | _ => none
      | _ => none

/-- The first fault that a command's reads of its source or index extents meet, with its address. -/
def State.readsOff (s : State) (core : Nat) (x : Cmd) : Option (Nat × Nat) :=
  let part := lkPart x.lk
  let es := (s.descExtents x.op x.words).filter (fun e => e.2.2.1 && !e.2.2.2)
  es.findSome? (fun e => s.extentOff core part (s.rangeBound part) e.1 e.2.1)

/-- How the rows of an XGATHER end: all are read, the check of one waits, or one fails with a code and its address. -/
inductive RowEnd where
  | all
  | wait
  | bad (code addr : Nat)
  deriving DecidableEq, Repr

/-- The rows of an XGATHER in ascending order, up to the first that fails its check or stands on a die that is not online: those to write, the rows performed. -/
def State.gatherRows (s : State) (x : Cmd) (idx : Memory) : Nat → Nat → List Nat → List Nat × Nat × RowEnd
  | 0, i, rs => (rs, i, .all)
  | n + 1, i, rs =>
    let v := leNat (readBytes idx (4 * i) 4)
    if v = 2 ^ 32 - 1 then s.gatherRows x idx n (i + 1) rs
    else
      let part := lkPart x.lk
      let a := (dW x.words 4 + v * dW x.words 5) % 2 ^ 64
      match s.extent x.core part x.user true false (s.rangeBound part) a (dW x.words 5) false with
      | .ok _ =>
        match s.extentOff x.core part (s.rangeBound part) a (dW x.words 5) with
        | some (code, a) => (rs, i, .bad code a)
        | none => s.gatherRows x idx n (i + 1) (rs ++ [i])
      | .wait => (rs, i, .wait)
      | .bad a => (rs, i, .bad fEngine a)

/-- Read the sources of a command, translated as in state v: every source byte before any write (09 R240). -/
def State.loadCmd (s v : State) (core : Nat) (x : Cmd) : State :=
  let part := lkPart x.lk
  let d := x.words
  let fuel := s.rangeBound part
  let rd (a n : Nat) : Extent := v.extent core part x.user true false fuel a n false
  match x.op with
  | 0xB8 =>
    match rd (dW d 1) (dW d 3) with
    | .ok _ => s.setCmd core { x with loaded := true, total := dW d 3, buf := v.readExtent core part fuel (dW d 1) (dW d 3) 0 [] }
    | .wait => s
    | .bad a => s.stopCmd core x fEngine a
  | 0xB9 => s.setCmd core { x with loaded := true, total := dW d 3 }
  | 0xBA =>
    match rd (dW d 1) (4 * dW d 3) with
    | .wait => s
    | .bad a => s.stopCmd core x fEngine a
    | .ok _ =>
      let idx := v.readExtent core part fuel (dW d 1) (4 * dW d 3) 0 []
      let (rs, n, e) := v.gatherRows x idx (dW d 3) 0 []
      let esz := dW d 5
      let buf := rs.zipIdx.foldl (fun m (i, j) =>
        v.readExtent core part fuel ((dW d 4 + leNat (readBytes idx (4 * i) 4) * esz) % 2 ^ 64) esz (j * esz) m) []
      let x := { x with loaded := true, rows := rs, total := rs.length * esz, buf := buf, done := n }
      match e with
      | .wait => s
      | .bad code a => (s.notice x.lk core code a n x.org).setCmd core { x with status := code }
      | .all => s.setCmd core x
  | _ =>
    let g := (s.group (dGrp d)).getD (1, 0)
    let f := (collFmt (dDt d)).getD .i64
    let k := x.last.getD 0
    let b := collBlocks (dCop d) g.1
    let n := dW d 3 * fmtBytes f
    if (List.range g.1).any (fun m => m != g.2 && !Config.peerMatches (dGrp d) m k) then s.stopCmd core x fCollective 0
    else
      match rd (dW d 1) (b.1 * n) with
      | .wait => s
      | .bad a => s.stopCmd core x fEngine a
      | .ok _ =>
        let own := v.readExtent core part fuel (dW d 1) (b.1 * n) 0 []
        s.setCmd core { x with loaded := true, total := b.2 * n, buf := collResult g.1 g.2 k (dGrp d) (dW d 3) (dW d 4) (dCop d) (dRop d) f own }

/-- The next part of a command: destination, size and the bytes (09 R240). -/
def Cmd.nextPart (x : Cmd) : Nat × Nat × List Byte :=
  let d := x.words
  let (dst, left) := if x.op = 0xBA then
      (let esz := dW d 5
       ((dW d 2 + (x.rows.getD (x.prog / esz) 0) * esz + x.prog % esz) % 2 ^ 64, esz - x.prog % esz))
    else ((dW d 2 + x.prog) % 2 ^ 64, x.total - x.prog)
  let n := min left (64 - dst % 64)
  (dst, n, if x.op = 0xB9 then (List.range n).map (fun i => BitVec.ofNat 8 (bitsAt (dW d 1) (8 * ((dst + i) % 8)) 8)) else readBytes x.buf x.prog n)

/-- Rows, bytes or elements performed when a command has staged everything (09 R241). -/
def Cmd.count (x : Cmd) : Nat :=
  match x.op with
  | 0xBA => x.done
  | 0xBB => if x.status = 0 then dW x.words 3 else 0
  | _ => x.prog

/-- Number a collective among those of its group (09 R242). -/
def State.numberColl (s : State) (core : Nat) (x : Cmd) : State × Cmd :=
  if x.op = 0xBB ∧ x.last.isNone then
    let k := mgetD s.hub.collSeq (dGrp x.words) 0
    let x := { x with last := some k }
    ({ s with hub := { s.hub with collSeq := mset s.hub.collSeq (dGrp x.words) (k + 1) } }.setCmd core x, x)
  else (s, x)

/-- Stage the bytes of one part of a command; the write belongs to the round in which it is staged. -/
def State.stageCmd (s : State) (core : Nat) (x : Cmd) (ps : List Part) (bs : List Byte) (n : Nat) : State :=
  let round := mgetD (s.core core).pass x.lk 0
  let s := ps.foldl (fun s p => s.stage {
    lk := x.lk, core := core, round := round, key := x.key, seq := 0, space := p.space, addr := p.addr, op := .write (splitBytes bs p), req := 0,
    osh := p.osh }) (s.touch core ps)
  s.setCmd core { x with prog := x.prog + n, hist := (round, x.prog) :: x.hist }

/-- The translation of one part of a command's writes; under an old entry no walk is left in the table (20 R363 R368). -/
def State.cmdPart (s : State) (core : Nat) (x : Cmd) (a n : Nat) : Trans :=
  let part := lkPart x.lk
  if s.underOld core x then (((s.asOld core x).walked core part a).walked core part (a + n - 1)).translate core part x.user false true a n
  else s.translate core part x.user false true a n

/-- A copy, fill, gather or collective command moves on: the engine reads its sources, then stages one line-aligned part (09 R240). -/
def State.engineStage (s : State) (core : Nat) (x : Cmd) : State :=
  if x.finished || !s.roundFar x.lk core x.round || s.portHolds core then s
  else
    let (s, x) := s.numberColl core x
    let v := s.asOld core x
    if !x.loaded then
      (match v.readsOff core x with
       | some (code, a) => s.stopCmd core x code a
       | none => s.loadCmd v core x)
    else if x.total ≤ x.prog then s.setCmd core { x with finished := true, done := x.count }
    else
      let (dst, n, bs) := x.nextPart
      match s.cmdPart core x dst n with
      | .wait w => if s.underOld core x then s else s.askWalk core w
      | .fault _ a => (s.stopCmd core { x with done := x.count } fEngine a).dropWalk core a
      | .ok ps =>
        if s.viewFull x.lk ps then s
        else if !s.stageRoom core ps then s.requestMarker x.lk core
        else (s.viewTouch core x.lk ps).stageCmd core x ps bs n

/-- Every byte of a command has committed at its scope (09 R241, 08 R216). -/
def State.cmdCommitted (s : State) (x : Cmd) : Bool :=
  let host := decide (0xB8 ≤ x.op ∧ x.op ≤ 0xBB) && dScope x.words == 5
  let mine (a : Arrival) : Bool := a.lk == x.lk && a.key == x.key
  let waited (a : Arrival) : Bool := a.space == .dev || host
  s.cores.all (fun (_, c) => !c.gstage.any mine) && !s.units.any (fun a => mine a && waited a) &&
  (!host || !s.hostReqs.any (fun (_, a) => mine a)) &&
  (x.op != 0xBB || !host || Config.peersCommitted (dGrp x.words) (x.last.getD 0) s.tick)

/-- The completion token (09 R241). -/
def completionTok (status done : Nat) : Token := z64Tok (status * 2 ^ 32 + done % 2 ^ 32)

/-- The command resolves a future when it completes (09 R241). -/
def Cmd.resolves (x : Cmd) : Bool := decide (0xB8 ≤ x.op ∧ x.op ≤ 0xBB) && dFut x.words && x.status == 0

/-- Resolve the future of a completed command: FUTRES in the round of the emission (09 R241). -/
def State.resolveFuture (s : State) (core : Nat) (x : Cmd) : State :=
  let round := mgetD (s.core core).pass x.lk 0
  let addr := dW x.words 6
  match (s.asOld core x).translateHome core (lkPart x.lk) x.user true true addr 8 with
  | some (p :: _) =>
    let a : Arrival := {
      lk := x.lk, core := core, round := round, key := x.key, seq := s.nid, space := p.space, addr := p.addr, op := .futres (bitsAt (dW x.words 7) 0 32), req := 0,
      osh := p.osh, org := x.org, user := x.user }
    if s.stagedOp x.lk [p] then s.stage a else (State.logOwn { s with nid := s.nid + 1 } a).performOp false a
  | _ => s.notice x.lk core fFuture addr 0 x.org

/-- ENGINE_COMPLETION (09 R241): the completion token, which belongs to the round in which it is emitted. -/
def execEngineCompletion (id : Nat) (s : State) : Host.Outcome State Fault Refusal :=
  match s.cmdOf id with
  | none => .next s
  | some (core, x) =>
    if !x.finished || x.emitted.isSome || s.portHolds core || (x.resolves && (s.asOld core x).heldAt core (lkPart x.lk) (dW x.words 6)) then .next s
    else if !s.cmdCommitted x then .next (if x.op = 0xBB then s.tickUp else s)
    else
      -- it stays listed until the cut of the round of its emission is complete, so that a rollback can complete it again
      let s := (s.setCmd core { x with emitted := some (mgetD (s.core core).pass x.lk 0) }).fill x.site id s.fc none [(0, completionTok x.status x.done)]
      .next (if x.resolves then s.resolveFuture core x else s).wake

end Sys2Proof.Machine
end

