-- ==== Sys2Proof/Machine/RangeCmd.lean ====
section
/-! DEFINITION. The range instructions (20 R362-R369): the directory commands and their completion, invalidations, table reads and writes. -/

namespace Sys2Proof.Machine

/-! ### Invalidation (20 R363 R364) -/

/-- Send an invalidation to every core of a partition. -/
def State.sendInval (s : State) (part id : Nat) (all : Bool) (lo hi : Nat) : State :=
  (s.part part).cores.foldl (fun s k => let c := s.core k; s.setCore k { c with invals := c.invals ++ [⟨id, all, lo, hi, none⟩] }) s

/-- An entry overlaps an invalidation. -/
def Inval.hits (v : Inval) (w : List Nat) : Bool := v.all || (decide (v.lo < v.hi) && overlap (entBase w) (entLimit w - entBase w) v.lo (v.hi - v.lo))

/-- A change keeps the lines of the fetch cache: a range command, which moves a range, keeps them; RINV drops them (20 R364 R368). -/
def State.keepsLines (s : State) (part : Nat) (v : Inval) : Bool := (s.part part).rcmds.any (fun r => r.cmd.id == v.id)

/-- Drop the lines of a range from a fetch cache. -/
def Core.dropLines (c : Core) (all : Bool) (lo hi : Nat) : Core :=
  let out (a : Nat) : Bool := all || (decide (lo < hi) && overlap a 64 lo (hi - lo))
  { c with fcache := c.fcache.filter (fun x => !out x.1), fcFill := c.fcFill.filter (fun x => !out x.1) }

/-- The invalidation marker of a core (20 R363 R364): entries dropped, lines dropped, from now on awaiting the commit of that round. -/
def State.invalMarker (s : State) (core part lk round : Nat) : State :=
  let c := s.core core
  let fresh := c.invals.filter (fun v => v.marker.isNone)
  let c := { c with rtt := c.rtt.filter (fun (_, r) => !fresh.any (fun v => v.hits r.words)),
                    invals := c.invals.map (fun v => if v.marker.isNone then { v with marker := some (lk, round) } else v) }
  let c := fresh.foldl (fun (c : Core) v => if s.keepsLines part v then c else c.dropLines v.all v.lo v.hi) c
  s.setCore core c

/-- The round of an invalidation marker has committed at every home and no engine command accepted under the old entry is left (20 R363). -/
def State.settledAt (s : State) (core : Nat) (v : Inval) : Bool :=
  match v.marker with
  | none => false
  | some (lk, r) =>
    ((s.launch lk).isNone || s.roundHome lk core r) &&
    !(s.core core).cmds.any (fun x => decide (0xB8 ≤ x.op ∧ x.op ≤ 0xBB) && x.emitted.isNone && (x.lk != lk || decide (x.round ≤ r)))

/-- Let the RFENCEs emit whose invalidations are complete (20 R364). -/
def State.wakeRfences (s : State) : State :=
  s.reqs.foldl (fun s r =>
    if r.op == some .rfence && !(s.part (lkPart r.lk)).rinvs.any (fun v => v.chain.hgsp == r.chain.hgsp && v.chain.thr == r.chain.thr && v.chain.k == r.chain.k) then
      s.answer r.id none (fork (orderTok r.chain))
    else s) s

/-- Settle what has settled: invalidations leave the cores, complete RINVs leave the table (20 R363 R364). -/
def State.settle (s : State) (part : Nat) : State :=
  let s := (s.part part).cores.foldl (fun s k =>
    let c := s.core k
    let gone := c.invals.filter (s.settledAt k)
    let s := s.setCore k { c with invals := c.invals.filter (fun v => !s.settledAt k v) }
    let p := s.part part
    s.setPart part { p with rinvs := p.rinvs.map (fun v => if gone.any (fun g => g.id == v.id) then { v with left := v.left.filter (fun x => x ≠ k) } else v) }) s
  let p := s.part part
  (s.setPart part { p with rinvs := p.rinvs.filter (fun v => !(v.sent && v.left.isEmpty)) }).wakeRfences

/-- Send the RINVs whose chain has committed; each emits its order token (20 R364). -/
def State.sendRinvs (s : State) (part : Nat) : State :=
  (s.part part).rinvs.foldl (fun s v =>
    if v.sent || !s.fenceDone (s.bank (siteKey v.site)).lk 4 v.chain then s
    else
      let s := s.sendInval part v.id v.all v.lo v.hi
      let p := s.part part
      let s := s.setPart part { p with rinvs := p.rinvs.map (fun x => if x.id = v.id then { x with sent := true, left := p.cores } else x) }
      s.fill v.site v.flight s.fc none (fork (orderTok v.chain))) s

/-- RINV (20 R364): words that are no multiples of 64, or that name nothing, are a format trap (log 84). -/
def execRinv (o : OpA) (s : State) : Host.Outcome State Fault Refusal :=
  let all := o.bit 0
  let w (t : Option Token) : Nat := (t.map Token.word).getD 0
  .next (s.accessFire {
    fl := o.fl, need := if all then {} else needLR, rd := false, wr := false,
    check := fun _ f =>
      if all || (f.ops.l.all isZ64 && f.ops.r.all isZ64 && w f.ops.l % 64 == 0 && w f.ops.r % 64 == 0 && w f.ops.r != 0) then none else some (fFormat, 0),
    place := fun _ _ => .tile [],
    act := fun s f _ =>
      let (id, s) := s.fresh
      let p := s.part f.part
      let v : RInv := { id := id, site := f.e, flight := id, chain := f.chain, all := all, lo := w f.ops.l, hi := w f.ops.l + w f.ops.r, sent := false, left := p.cores }
      ((s.setPart f.part { p with rinvs := p.rinvs ++ [v] }).await f false false id).sendRinvs f.part })

/-- RFENCE (20 R364): emits once every RINV that its L descends from is complete. -/
def execRfence (o : OpA) (s : State) : Host.Outcome State Fault Refusal :=
  .next (s.anchorFire {
    fl := o.fl, need := needL, nums := {}, check := fun _ f => if f.ops.l.all isOrder then none else some (fFormat, 0),
    act := fun s f =>
      let c := (f.ops.l.bind Token.chain).getD f.chain
      if (s.part f.part).rinvs.any (fun v => v.chain.hgsp == c.hgsp && v.chain.thr == c.thr && v.chain.k == c.k) then
        let (id, s) := s.fresh
        let r : Req := {
          id := id, site := f.e, lk := f.lk, round := f.round, due := s.fc, kind := .answer 0, fresh := true, chain := c, parts := [], thr := f.thr,
          op := some .rfence, arrived := true }
        { s with reqs := s.reqs ++ [r] }.await f false false id
      else s.result f false 1 (fork (orderTok c)) })

/-! ### The table (20 R365) -/

/-- The image of a table entry: V in word 7 bit 0, LOCK in bit 1; zero when invalid. -/
def Core.rttImage (c : Core) (i : Nat) : List Nat :=
  match mget c.rtt i with
  | none => List.replicate 8 0
  | some r => r.words.take 7 ++ [1 + (if r.lock then 2 else 0)]

/-- RTTR (20 R365). -/
def execRttr (o : OpA) (s : State) : Host.Outcome State Fault Refusal :=
  .next (s.anchorFire {
    fl := o.fl, need := needLR, nums := { r := true }, check := fun _ f => if f.ops.r.all isZ64 then none else some (fFormat, 0),
    act := fun s f =>
      let sel := (f.ops.r.map Token.word).getD 0
      let img := if sel / 2 ^ 12 = 0 ∧ (s.part f.part).cores.contains (sel % 128) then (s.core (sel % 128)).rttImage (sel / 128 % 32) else List.replicate 8 0
      s.result f false 1 (fork (vecTok img)) })

/-- The cases in which RTTW writes nothing (20 R365). -/
def rttwRefused (s : State) (part sel : Nat) (ws : List Nat) : Bool :=
  let core := sel % 128
  let i := sel / 128 % 32
  let w := ws.take 7 ++ [0]
  !(s.part part).cores.contains core || sel / 2 ^ 13 != 0 ||
  (bitAt (ws.getD 7 0) 0 &&
    (!entOk w || entState w != 0 ||
     (s.core core).rtt.any (fun (j, r) => j != i && overlap (entBase w) (entLimit w - entBase w) (entBase r.words) (entLimit r.words - entBase r.words))))

/-- RTTW (20 R365): takes effect at the selected core's next marker, and emits true in the round after; a refused write emits false at once. -/
def execRttw (o : OpA) (s : State) : Host.Outcome State Fault Refusal :=
  .next (s.anchorFire {
    fl := o.fl, need := needLR, check := fun _ f => if f.ops.l.all (fun l => l.tag == 5 && l.v && scaleOk l) && f.ops.r.all isZ64 then none else some (fFormat, 0),
    act := fun s f =>
      let sel := (f.ops.r.map Token.word).getD 0
      let ws := (f.ops.l.getD {}).words
      if rttwRefused s f.part sel ws then s.result f false 1 (fork (predTok false))
      else
        let (id, s) := s.fresh
        let c := s.core (sel % 128)
        let x : RttWrite := { site := f.e, flight := id, entry := sel / 128 % 32, words := ws.take 7 ++ [0], v := bitAt (ws.getD 7 0) 0, lock := bitAt sel 12, lk := f.lk, round := f.round }
        (s.setCore (sel % 128) { c with rttStage := c.rttStage ++ [x] }).await f false false id })

/-- Apply the staged table writes of a core at its marker (20 R365). -/
def State.rttCommit (s : State) (core lk round : Nat) : State :=
  let c := s.core core
  c.rttStage.foldl (fun s x =>
    let c := s.core core
    let c := { c with rtt := if x.v then mset c.rtt x.entry { words := x.words, lock := x.lock, used := s.fc } else mdel c.rtt x.entry }
    (s.setCore core c).fill x.site x.flight s.fc (if x.lk = lk then some round else none) (fork (predTok true)))
    (s.setCore core { c with rttStage := [] })

/-! ### Directory commands (20 R366-R369) -/

/-- The firing of a directory command: accepted at the port. -/
def State.rangeFire (s : State) (op : Nat) (o : OpA) (r : Option (Token → Bool)) : State :=
  let w (t : Option Token) : Nat := (t.map Token.word).getD 0
  s.accessFire {
    fl := o.fl, need := { l := true, r := r.isSome }, rd := false, wr := false,
    check := fun _ f => if f.ops.l.all isZ64 && r.all (fun p => f.ops.r.all p) then none else some (fFormat, 0),
    place := fun _ _ => .tile [],
    stall := fun s f _ => if 16 ≤ s.portCommands f.e.core f.part then some s else none,
    act := fun s f _ =>
      let (id, s) := s.fresh
      let p := s.part f.part
      let x : Cmd := { id := id, site := f.e, lk := f.lk, org := f.origin, core := f.e.core, round := f.round, thr := f.thr, op := op, words := [w f.ops.l, w f.ops.r], key := f.writeKey, user := false }
      ((s.setPart f.part { p with rcmds := p.rcmds ++ [⟨x, 0, w f.ops.l⟩] }).await f false false id).orderSecond f }

/-- RSPLIT (20 R367). -/
def execRsplit (o : OpA) (s : State) : Host.Outcome State Fault Refusal := .next (s.rangeFire 0xBC o none)
/-- RMERGE (20 R367). -/
def execRmerge (o : OpA) (s : State) : Host.Outcome State Fault Refusal := .next (s.rangeFire 0xBD o none)
/-- RCOMPACT (20 R368): the new offset is an i64. -/
def execRcompact (o : OpA) (s : State) : Host.Outcome State Fault Refusal :=
  .next (s.rangeFire 0xBE o (some (fun t => t.tag == 1 && !t.v && scaleOk t)))
/-- BIASFLIP (20 R369). -/
def execBiasflip (o : OpA) (s : State) : Host.Outcome State Fault Refusal := .next (s.rangeFire 0xBF o (some isZ64))

/-- The entries of a partition's directory. -/
def dirEntries (s : State) (p : Partition) : List (List Nat) := (List.range p.rdirCnt).map (dirEntry s p)

/-- Store a directory from entry i on, and its count. -/
def State.dirStore (s : State) (part i : Nat) (es : List (List Nat)) (cnt : Nat) : State :=
  let s := es.zipIdx.foldl (fun s (w, j) => dirWrite s (s.part part) (i + j) w) s
  s.setPart part { s.part part with rdirCnt := cnt }

/-- Attribute word with STATE replaced. -/
def withState (w : List Nat) (st : Nat) : List Nat := w.set 5 (entAttr w - entState w * 2 ^ 16 + st * 2 ^ 16)

/-- A range command ends: the completion token; the table of commands moves on. -/
def State.rangeDone (s : State) (part : Nat) (r : RCmd) (status done : Nat) : State :=
  let p := s.part part
  (s.setPart part { p with rcmds := p.rcmds.filter (fun x => x.cmd.id ≠ r.cmd.id), busy := false }).fill r.cmd.site r.cmd.id s.fc none
    [(0, completionTok status done)]

/-- A range command enters a phase. -/
def State.rangePhase (s : State) (part : Nat) (r : RCmd) (phase : Nat) (busy : Bool) : State :=
  let p := s.part part
  s.setPart part { p with rcmds := p.rcmds.map (fun x => if x.cmd.id = r.cmd.id then { x with phase := phase } else x), busy := busy }

/-- The two windows of a split (20 R367). -/
def splitEntries (w : List Nat) (l : Nat) : List (List Nat) :=
  [((w.set 1 l).set 3 (min (entRlo w) l)).set 4 (min (entRhi w) l), ((w.set 0 l).set 3 (max (entRlo w) l)).set 4 (max (entRhi w) l)]

/-- RSPLIT at its turn. -/
def State.doSplit (s : State) (part : Nat) (r : RCmd) : State :=
  let p := s.part part
  let es := dirEntries s p
  let l := r.base
  if l % 64 ≠ 0 then s.rangeDone part r fRange 2
  else
    match es.findIdx? (fun w => decide (entBase w < l ∧ l < entLimit w)) with
    | none => s.rangeDone part r fRange 1
    | some i =>
      if p.rdirCnt = p.rdirCap then s.rangeDone part r fRange 3
      else (s.dirStore part i (splitEntries (es.getD i []) l ++ es.drop (i + 1)) (p.rdirCnt + 1)).rangeDone part r 0 1

/-- RMERGE at its turn. -/
def State.doMerge (s : State) (part : Nat) (r : RCmd) : State :=
  let p := s.part part
  let es := dirEntries s p
  let l := r.base
  if l % 64 ≠ 0 then s.rangeDone part r fRange 2
  else
    match es.findIdx? (fun w => entLimit w == l), es.findIdx? (fun w => entBase w == l) with
    | some i, some j =>
      let a := es.getD i []
      let b := es.getD j []
      let ea := entRlo a == entRhi a
      let eb := entRlo b == entRhi b
      if j ≠ i + 1 then s.rangeDone part r fRange 1
      else if entOffset a ≠ entOffset b ∨ entAttr a ≠ entAttr b ∨ (!ea && !eb && !(entRhi a == l && entRlo b == l)) then s.rangeDone part r fRange 4
      else
        let win := if !ea && !eb then (entRlo a, entRhi b) else if !ea then (entRlo a, entRhi a) else if !eb then (entRlo b, entRhi b) else (l, l)
        let m := ((a.set 1 (entLimit b)).set 3 win.1).set 4 win.2
        (s.dirStore part i (m :: es.drop (j + 1)) (p.rdirCnt - 1)).rangeDone part r 0 1
    | _, _ => s.rangeDone part r fRange 1

/-- RCOMPACT or BIASFLIP at its turn: the checks in the order of log 84, then the range moves or flips and every core is told (20 R368 R369). -/
def State.beginMove (s : State) (part : Nat) (r : RCmd) : State :=
  let p := s.part part
  let es := dirEntries s p
  let l := r.base
  let x := r.cmd.words.getD 1 0
  let flip := r.cmd.op == 0xBF
  if l % 64 ≠ 0 ∨ (if flip then 1 < x else x % 64 ≠ 0) then s.rangeDone part r fRange 2
  else
    match es.findIdx? (fun w => entBase w == l) with
    | none => s.rangeDone part r fRange 1
    | some i =>
      let w := es.getD i []
      if entBit w atHOST ∨ entRdev w ≠ 0 ∨ (!flip && (entBit w atPIN || entBit w atBIAS)) then s.rangeDone part r fRange 4
      else if flip && (entBit w atBIAS == (x == 1)) then s.rangeDone part r 0 0
      else if !flip && entRlo w != entRhi w && !inShare p ((entRlo w + x) % 2 ^ 64) (entRhi w - entRlo w) then s.rangeDone part r fRange 5
      else
        let w' := if flip then withState w 2 else (withState w 1).set 6 x
        ((dirWrite s p i w').sendInval part r.cmd.id false (entBase w) (entLimit w)).rangePhase part r 1 false

/-- Operations, waiters, registrations and views of the bytes that a range command moves go with them: it changes no value that an access returns (20 R371). -/
def State.relocate (s : State) (part lo n new : Nat) : State :=
  let go (a : Nat) : Nat := if lo ≤ a ∧ a < lo + n then new + (a - lo) else a
  let arr (a : Arrival) : Arrival := if a.space = .dev then { a with addr := go a.addr } else a
  let prt (p : Part) : Part := if p.space = .dev then { p with addr := go p.addr } else p
  let eff (e : Eff) : Eff := { e with kind := match e.kind with
    | .launch q a ps => .launch q a (ps.map prt)
    | .bop obj t k key undo site fl => .bop (go obj) t k key undo site fl
    | k => k }
  let run (l : Launch) : Launch := { l with staged := l.staged.map eff }
  let p := s.part part
  let seen (lk : Nat) : Memory → Memory := fun m => writeBytes m new ((List.range n).map (fun i => s.viewByte part lk (lo + i)))
  let s := s.setPart part {
    p with launches := p.launches.map (fun (k, (l : Launch)) => (k, run l)), handler := p.handler.map run, late := p.late.map (fun x => (x.1, x.2.1, eff x.2.2)) }
  { s with
    units := s.units.map arr, overlay := s.overlay.map arr, abase := s.abase.foldl (fun (m : Map Byte) y => mset m (go y.1) y.2) []
    cores := s.cores.map (fun (k, (c : Core)) => (k, { c with gstage := c.gstage.map arr }))
    waiters := s.waiters.map (fun (x : Waiter) => { x with addr := go x.addr })
    reqs := s.reqs.map (fun (r : Req) => { r with parts := r.parts.map prt })
    regs := s.regs.map (fun (g : Reg) => { g with obj := go g.obj })
    views := s.views.map (fun (sl, lk, r, m) => (sl, lk, r, if lkPart lk = part then seen lk m else m)) }

/-- The move or flip itself, once every core has settled it (20 R368 R369, 13 R292). -/
def State.finishMove (s : State) (part : Nat) (r : RCmd) : State :=
  let p := s.part part
  let es := dirEntries s p
  match es.findIdx? (fun w => entBase w == r.base) with
  | none => s.rangeDone part r fRange 1
  | some i =>
    let w := es.getD i []
    let lo := (entRlo w + entOffset w) % 2 ^ 64
    let n := entRhi w - entRlo w
    if r.cmd.op = 0xBE then
      let bs := readBytes s.mem lo n
      let new := (entRlo w + entNoff w) % 2 ^ 64
      let s := { s with mem := writeBytes s.mem new bs }.relocate part lo n new
      (dirWrite s p i (((withState w 0).set 2 (entNoff w)).set 6 0)).rangeDone part r 0 n
    else
      let dev := entBit w atBIAS
      -- to device bias the host writes its lines back and forgets them; to host bias every core drops its lines
      let here (a : Nat) : Bool := decide (lo ≤ a ∧ a < lo + n)
      let s := if dev then
          { s with mem := (s.hostLines.filter (fun x => here x.1)).foldl (fun m x => writeBytes m x.1 (leBytes 64 x.2.toNat)) s.mem,
                   hostLines := s.hostLines.filter (fun x => !here x.1) }
        else p.cores.foldl (fun s k => s.setCore k ((s.core k).dropLines false (entBase w) (entLimit w))) s
      (dirWrite s p i (withState (w.set 5 (if dev then entAttr w - 16 else entAttr w + 16)) 0)).rangeDone part r 0 1

/-- Every core has settled a command. -/
def State.allSettled (s : State) (part id : Nat) : Bool := (s.part part).cores.all (fun k => !(s.core k).invals.any (fun v => v.id == id))

/-- RANGE_COMMAND_COMPLETE (20 R366): the oldest range command of a partition takes its next step; a halted partition pauses it (20 R371). -/
def execRangeCommandComplete (part : Nat) (s : State) : Host.Outcome State Fault Refusal :=
  let p := s.part part
  match p.rcmds with
  | [] => .next s
  | r :: _ =>
    if p.halted then .next s
    else
      match r.phase with
      | 0 => .next (if r.cmd.op = 0xBC ∨ r.cmd.op = 0xBD then s.rangePhase part r 2 true else s.beginMove part r)
      | 1 => .next (if s.allSettled part r.cmd.id then s.finishMove part r else s)
      | _ => .next (if r.cmd.op = 0xBC then s.doSplit part r else s.doMerge part r)

end Sys2Proof.Machine
end

