-- ==== Sys2Proof/Machine/Loop.lean ====
section
/-! DEFINITION. The reserving loop engine (10 R244-R253): loops, reservations, checks and reports, and the closes of its phases. -/

namespace Sys2Proof.Machine

/-! ### Shared with the boost unit -/

/-- The effects of every earlier round have been applied, so that a firing of this round sees the engine's state of the marker before (10 R249 R262). -/
def State.effReady (s : State) (f : Firing) : Bool := (s.launch f.lk).isNone || decide (f.round ≤ s.effOf f.lk f.e.core)

/-- The marker whose effects come next has committed everywhere. -/
def State.markDue (s : State) (lk core : Nat) : Bool := s.roundHome lk core (s.effOf lk core)

/-- The device part at a program address, by table or walk. -/
def State.physAt (s : State) (core part a n : Nat) : Option Part :=
  let w := match tableHit (s.core core) a with
    | some (_, r) => some r.words
    | none => (walkResult s (s.part part) a).toOption
  w.bind (fun w => match backing s part w a n 0 false false with
    | .ok (p :: _) => some p
    | _ => none)

/-- A named block has EQV and the input ports 0 to n (10 R245 R254 R260). -/
def State.blockTakes (s : State) (l : Launch) (blk n : Nat) : Bool :=
  namesHeader s.mem l.img blk && bitAt (header1 s.mem l.img blk).toNat 43 && (List.range (n + 1)).all (fun j => bitAt (header1 s.mem l.img blk).toNat j)

/-- FUTRES at a marker itself, in both modes (10 R250 R259). -/
def State.futresNow (s : State) (core lk round : Nat) (key : Key) (user : Bool) (addr v : Nat) (o : Origin := {}) : State :=
  match s.physAt core (lkPart lk) addr 8 with
  | some p => s.performOp true { lk := lk, core := core, round := round, key := key, seq := s.nid, space := p.space, addr := p.addr, op := .futres v, req := 0, org := o, user := user }
  | none => s.notice lk core fFuture addr 0 o

/-- A thread record that the device pushes: NLIVE words with the sideband z64 (10 R247 R254 R260). -/
def threadRecord (blk thr : Nat) (words : List Nat) : Stored := { pay := vecPay 64 ((words.length * 2 ^ 56 + thr * 2 ^ 24 + blk) :: words), v := true }

/-- A firing that touches no memory: its check of the words comes before its effect. -/
def wordFire (o : OpA) (need : Slots) (fmt : Firing → Bool) (bad : State → Firing → Option (Nat × Nat)) (stall : State → Firing → Bool)
    (act : State → Firing → State) : AccessFiring :=
  { fl := o.fl, need := need, rd := false, wr := false, check := fun _ f => if fmt f then none else some (fFormat, 0),
    place := fun s f => match bad s f with
      | some (c, a) => .err c a
      | none => .tile []
    stall := fun s f _ => if stall s f then some s else none, act := fun s f _ => act s f }

/-- The word of an operand. -/
def Firing.lw (f : Firing) : Nat := (f.ops.l.map Token.word).getD 0
def Firing.rw' (f : Firing) : Nat := (f.ops.r.map Token.word).getD 0

/-! ### Words and checks (10 R245 R246) -/

/-- Key of a loop in its core. -/
def loopKey (origin slot : Nat) : Nat := origin * 4 + slot

/-- A HANDLE or TICKET. -/
def ticketWord (origin slot off : Nat) : Nat := origin * 2 ^ 34 + slot * 2 ^ 32 + off

/-- The loop that a HANDLE or TICKET names, checked from the word alone (10 R246). -/
def State.loopOf (s : State) (f : Firing) (w : Nat) : Option (Nat × Loop) :=
  if w / 2 ^ 41 ≠ 0 ∨ bitsAt w 34 7 ≠ f.b.origin then none
  else
    let k := loopKey (bitsAt w 34 7) (bitsAt w 32 2)
    ((mget (s.core f.e.core).loops k).filter (fun l => l.lk == f.lk)).map (fun l => (k, l))

/-- Store a loop of a core. -/
def State.setLoop (s : State) (core k : Nat) (l : Loop) : State := let c := s.core core; s.setCore core { c with loops := mset c.loops k l }

/-- Fields and reserved bits of an RLOOP descriptor. -/
def loopFieldsOk (d : List Nat) : Bool :=
  let w (i : Nat) : Nat := d.getD i 0
  decide (w 0 < w 1 ∧ w 1 - w 0 ≤ 2 ^ 32 - 1) && decide (1 ≤ bitsAt (w 2) 0 14 ∧ bitsAt (w 2) 0 14 ≤ 8192) && bitsAt (w 2) 14 2 == 0 && w 2 / 2 ^ 18 == 0 &&
  bitsAt (w 3) 24 8 == 0 && w 3 / 2 ^ 56 == 0 && w 4 % 4 == 0 && decide (1 ≤ w 5 ∧ w 5 < 2 ^ 32) && decide (w 7 < 2 ^ 32) &&
  (if bitAt (w 2) 17 then w 6 % 8 == 0 else w 6 == 0 && w 7 == 0)

/-- The loop a descriptor describes. -/
def loopOfDesc (d : List Nat) (f : Firing) : Loop :=
  let w (i : Nat) : Nat := d.getD i 0
  { lo := w 0, hi := w 1, w := bitsAt (w 2) 0 14, mt := bitAt (w 2) 16, fut := bitAt (w 2) 17, rblk := bitsAt (w 3) 0 24, cblk := bitsAt (w 3) 32 24,
    cellbase := w 4, cellcnt := w 5, faddr := w 6, fval := w 7, lk := f.lk, origin := f.b.origin, key := f.writeKey, user := !isPriv f.b, openAt := f.round + 1,
    org := f.origin }

/-- The cell range: in one tile, or writable device memory in one range (10 R245). -/
def State.cellsOk (s : State) (core part : Nat) (l : Loop) : Extent :=
  let n := 4 * l.cellcnt
  if l.mt then
    let store : Bool := match (s.mtile (tileKey core (bitsAt l.cellbase 19 4))).cfg with
      | .store _ => true
      | .lbuf _ => false
      | .fifo _ _ => false
    if l.cellbase / 2 ^ 23 = 0 ∧ bitsAt l.cellbase 0 19 + n ≤ 2 ^ 19 ∧ store = true then .ok false else .bad l.cellbase
  else
    match s.rangeOf core part l.cellbase with
    | none => .wait
    | some none => .bad l.cellbase
    | some (some w) =>
      if entLimit w < l.cellbase + n then .bad l.cellbase
      else match s.extent core part l.user false true 2 l.cellbase n false with
        | .ok far => if far then .bad l.cellbase else .ok false
        | e => e

/-- The future of a descriptor: aligned, writable, in device memory (13 R289). -/
def State.futureOk (s : State) (core part : Nat) (user fut : Bool) (addr : Nat) : Extent :=
  if !fut then .ok false
  else if addr % 8 ≠ 0 then .bad addr
  else match s.extent core part user false true (s.rangeBound part) addr 8 false with
    | .ok far => if far then .bad addr else .ok false
    | e => e

/-- The faults of RLOOP at acceptance. -/
def rloopBad (s : State) (f : Firing) : Option (Nat × Nat) :=
  let d := (f.ops.l.getD {}).words
  let l := loopOfDesc d f
  let blocks := (s.launch f.lk).any (fun x => s.blockTakes x l.rblk 3 && s.blockTakes x l.cblk 3)
  let clash := (s.core f.e.core).loops.any (fun (_, y) => y.mt == l.mt && overlap y.cellbase (4 * y.cellcnt) l.cellbase (4 * l.cellcnt))
  if !loopFieldsOk d || !blocks then some (fLoop, 0)
  else
    match s.cellsOk f.e.core f.part l with
    | .bad a => some (fLoop, a)
    | _ =>
      if clash then some (fLoop, l.cellbase)
      else match s.futureOk f.e.core f.part l.user l.fut l.faddr with
        | .bad a => some (fLoop, a)
        | _ => none

/-- A free slot of the engine for an origin core. -/
def State.freeLoop (s : State) (core origin : Nat) : Option Nat := (List.range 4).find? (fun i => (mget (s.core core).loops (loopKey origin i)).isNone)

/-- The lines of an area: address and size of each part. -/
def linesOf : Nat → Nat → Nat → List (Nat × Nat)
  | 0, _, _ => []
  | fuel + 1, a, n => if n = 0 then [] else let k := min n (64 - a % 64); (a, k) :: linesOf fuel (a + k) (n - k)

/-- The home of a cell. -/
def State.cellHome (s : State) (core : Nat) (l : Loop) (a : Nat) : Option Part :=
  if l.mt then some { space := .tile core (bitsAt a 19 4), addr := bitsAt a 0 19, size := 4, off := 0, prog := a } else s.physAt core (lkPart l.lk) a 4

/-- RLOOP (10 R245): the cells are filled with 0xFFFF_FFFF; HANDLE and order token at acceptance. -/
def execRloop (o : OpA) (s : State) : Host.Outcome State Fault Refusal :=
  let l (f : Firing) : Loop := loopOfDesc (f.ops.l.getD {}).words f
  if !s.effReady s.firing then .next s
  else
    .next (s.accessFire (wordFire o needL (fun f => f.ops.l.all isVec64) rloopBad
      (fun s f => s.cellsOk f.e.core f.part (l f) == .wait || s.futureOk f.e.core f.part (l f).user (l f).fut (l f).faddr == .wait ||
        (s.freeLoop f.e.core f.b.origin).isNone)
      (fun s f =>
        let x := l f
        match s.freeLoop f.e.core f.b.origin, s.cellHome f.e.core x x.cellbase with
        | some i, some p =>
          let s := (linesOf (x.cellcnt + 1) p.addr (4 * x.cellcnt)).foldl (fun s (a, n) =>
            s.stage (f.arrival { p with addr := a, size := n } (.write (List.replicate n 0xFF)) 0)) s
          ((s.setLoop f.e.core (loopKey f.b.origin i) x).result f false 1 [(0, z64Tok (ticketWord f.b.origin i (2 ^ 32 - 1)))]).orderSecond f
        | _, _ => s)))

/-- The faults of a TICKET: no loop, outside the window, another phase (10 R246 R248 R249). -/
def ticketBad (s : State) (f : Firing) (w phase : Nat) : Bool :=
  match s.loopOf f w with
  | none => true
  | some (_, l) => l.phase != phase || !l.win.contains (bitsAt w 0 32)

/-- The faults of a cell address: misaligned, or outside the loop's range (10 R248). -/
def cellBad (s : State) (f : Firing) (mt : Bool) (a w : Nat) : Bool :=
  match s.loopOf f w with
  | none => true
  | some (_, l) => l.mt != mt || a % 4 != 0 || !decide (l.cellbase ≤ a ∧ a < l.cellbase + 4 * l.cellcnt)

/-- RSV (10 R248). -/
def execRsv (o : OpA) (s : State) : Host.Outcome State Fault Refusal :=
  if !s.effReady s.firing then .next s
  else
    .next (s.accessFire {
      fl := o.fl, need := needLR, rd := true, wr := true, check := fun _ f => if f.ops.l.all isAddr && f.ops.r.all isAddr then none else some (fFormat, 0),
      place := fun s f =>
        let full := match s.loopOf f f.rw' with
          | some (_, l) => decide (65536 ≤ l.log.length)
          | none => false
        if ticketBad s f f.rw' 1 || full then .err fLoop 0 else if cellBad s f (o.bit 0) f.lw f.rw' then .err fLoop f.lw else wordPlace (o.bit 0) 4 s f
      stall := opStall,
      act := fun s f ps => match s.loopOf f f.rw' with
        | some (k, l) => (s.setLoop f.e.core k { l with log := l.log ++ [(f.lw, bitsAt f.rw' 0 32)] }).issueSilent f ps (.rsv (bitsAt f.rw' 0 32))
        | none => s })

/-- The order token of an access that writes nothing, on both targets. -/
def State.orderSame (s : State) (f : Firing) : State := s.result f false 1 (fork (orderTok f.chain))

/-- RSV.done (10 R248 R249): the last report of a reserve phase requests the closing marker. -/
def execRsvDone (o : OpA) (s : State) : Host.Outcome State Fault Refusal :=
  let twice (s : State) (f : Firing) : Bool := match s.loopOf f f.lw with
    | some (_, l) => (mget l.reports (bitsAt f.lw 0 32)).isSome
    | none => false
  if !s.effReady s.firing then .next s
  else
    .next (s.accessFire (wordFire o needLR (fun f => f.ops.l.all isAddr && f.ops.r.all isAddr)
      (fun s f => if ticketBad s f f.lw 1 || twice s f then some (fLoop, 0) else none) (fun _ _ => false)
      (fun s f => match s.loopOf f f.lw with
        | some (k, l) =>
          let off := bitsAt f.lw 0 32
          let l := { l with notes := mset l.notes off f.rw', reports := mset l.reports off true }
          let s := (s.setLoop f.e.core k l).orderSame f
          if l.win.all (fun i => (mget l.reports i).isSome) then s.requestMarker f.lk f.e.core else s
        | none => s)))

/-- The committed cells of a loop that are not free, by number (10 R249). -/
def State.cellsNow (s : State) (core : Nat) (l : Loop) : Map Nat :=
  match s.cellHome core l l.cellbase with
  | none => []
  | some p =>
    ((List.range l.cellcnt).map (fun j => (j, leNat ((List.range 4).map (fun i => s.homeByte p.space (p.addr + 4 * j + i)))))).filter (fun x => x.2 ≠ 2 ^ 32 - 1)

/-- The cell at an address as committed when the reserve phase closed. -/
def Loop.cell (l : Loop) (a : Nat) : Nat := mgetD l.cells ((a - l.cellbase) / 4) (2 ^ 32 - 1)

/-- RCHK (10 R249): the cell, as committed when the reserve phase closed, equals OFFSET. -/
def execRchk (o : OpA) (s : State) : Host.Outcome State Fault Refusal :=
  if !s.effReady s.firing then .next s
  else
    .next (s.accessFire {
      fl := o.fl, need := needLR, rd := true, wr := false, check := fun _ f => if f.ops.l.all isAddr && f.ops.r.all isAddr then none else some (fFormat, 0),
      place := fun s f => if ticketBad s f f.rw' 2 then .err fLoop 0 else if cellBad s f (o.bit 0) f.lw f.rw' then .err fLoop f.lw else wordPlace (o.bit 0) 4 s f
      act := fun s f ps =>
        let c := ((s.loopOf f f.rw').map (fun x => x.2.cell f.lw)).getD 0
        ((s.result f false (s.latencyOf f.e.core (siteTile f) ps) [(0, predTok (c == bitsAt f.rw' 0 32))]).result f true 1 [(1, orderTok f.chain)]).tickUp })

/-- A report of the commit phase (10 R249). -/
def State.reportFire (s : State) (o : OpA) (commit : Bool) : State :=
  let bad (s : State) (f : Firing) : Bool := match s.loopOf f f.lw with
    | some (_, l) => (mget l.reports (bitsAt f.lw 0 32)).isSome || (commit && !l.holds.contains (bitsAt f.lw 0 32))
    | none => true
  if !s.effReady s.firing then s
  else
    s.accessFire (wordFire o needL (fun f => f.ops.l.all isAddr) (fun s f => if ticketBad s f f.lw 2 || bad s f then some (fLoop, 0) else none) (fun _ _ => false)
      (fun s f => match s.loopOf f f.lw with
        | some (k, l) => (s.setLoop f.e.core k { l with reports := mset l.reports (bitsAt f.lw 0 32) commit }).orderSame f
        | none => s))

/-- RCOMMIT (10 R249). -/
def execRcommit (o : OpA) (s : State) : Host.Outcome State Fault Refusal := .next (s.reportFire o true)
/-- RRETRY (10 R249). -/
def execRretry (o : OpA) (s : State) : Host.Outcome State Fault Refusal := .next (s.reportFire o false)

/-- RLDONE of a complete loop emits and frees the slot (10 R250). -/
def State.finishLoop (s : State) (core k : Nat) (after : Option Nat) : State :=
  match mget (s.core core).loops k with
  | none => s
  | some l =>
    match l.rldone with
    | none => s
    | some (site, fl) =>
      let c := s.core core
      (s.setCore core { c with loops := mdel c.loops k }).fill site fl s.fc after [(0, completionTok 0 l.windows)]

/-- RLDONE (10 R250); a word whose OFFSET is not that of a HANDLE is none (10 R246, log 63). -/
def execRldone (o : OpA) (s : State) : Host.Outcome State Fault Refusal :=
  if !s.effReady s.firing then .next s
  else
    .next (s.accessFire (wordFire o needL (fun f => f.ops.l.all isAddr)
      (fun s f => match s.loopOf f f.lw with
        | some (_, l) => if l.rldone.isSome || bitsAt f.lw 0 32 != 2 ^ 32 - 1 then some (fLoop, 0) else none
        | none => some (fLoop, 0))
      (fun _ _ => false)
      (fun s f => match s.loopOf f f.lw with
        | some (k, l) =>
          let (id, s) := s.fresh
          let s := ((s.setLoop f.e.core k { l with rldone := some (f.e, id) }).await f false false id).result f true 1 [(1, orderTok f.chain)]
          if l.phase = 3 then s.finishLoop f.e.core k none else s
        | none => s)))

/-! ### The closes (10 R247 R249 R250) -/

/-- Every iteration of the window has reported. -/
def Loop.allIn (l : Loop) : Bool := l.win.all (fun i => (mget l.reports i).isSome)

/-- The first window, or the next: retried iterations in ascending order, then the next indices (10 R247). -/
def Loop.refill (l : Loop) (retried : List Nat) : Loop :=
  let r := sortBy (fun a b => decide (a < b)) retried
  let n := min (l.w - r.length) (l.hi - l.lo - l.next)
  { l with win := r ++ (List.range n).map (fun i => l.next + i), next := l.next + n, reports := [], notes := [], holds := [], cells := [], log := [] }

/-- A loop has a phase to close at the marker whose effects come next. -/
def State.closeDue (s : State) (core k phase : Nat) : Bool :=
  match mget (s.core core).loops k with
  | none => false
  | some l => l.phase == phase && l.allIn && s.markDue l.lk core && decide (l.openAt ≤ s.effOf l.lk core)

/-- RESERVE_PHASE_CLOSE (10 R249): HOLDS from the committed cells; the commit phase opens in the round after. -/
def execReservePhaseClose (core loop : Nat) (s : State) : Host.Outcome State Fault Refusal :=
  match mget (s.core core).loops loop with
  | none => .next s
  | some l =>
    if !s.closeDue core loop 1 then .next s
    else
        let l : Loop := { l with cells := s.cellsNow core l }
        let holds := l.win.filter (fun i => (l.log.filter (fun y => y.2 == i)).all (fun y => l.cell y.1 == i))
        .next (s.setLoop core loop { l with phase := 2, openAt := s.effOf l.lk core + 1, holds := holds, reports := [] })

/-- A cell becomes free at a marker: at its home, and in the cuts of its memory tile that lie behind that marker (10 R249 R253). -/
def State.freeCell (s : State) (lk eff : Nat) (p : Part) : State :=
  let bs : List Byte := List.replicate 4 0xFF
  let s := s.homeWrite p.space p.addr bs
  match p.space with
  | .tile c t =>
    let m := s.mtile (tileKey c t)
    s.setMtile (tileKey c t) { m with snaps := m.snaps.map (fun (x : TileCut) => if x.lk = lk ∧ eff < x.round then { x with bytes := writeBytes x.bytes p.addr bs } else x) }
  | _ => s

/-- COMMIT_PHASE_CLOSE (10 R249 R250): the logged cells become free; the next window opens in the round after, or the loop completes. -/
def execCommitPhaseClose (core loop : Nat) (s : State) : Host.Outcome State Fault Refusal :=
  match mget (s.core core).loops loop with
  | none => .next s
  | some l =>
    if !s.closeDue core loop 2 then .next s
    else
        let eff := s.effOf l.lk core
        let s := l.log.foldl (fun s y => match s.cellHome core l y.1 with
          | some p => s.freeCell l.lk eff p
          | none => s) s
        let retried : List Nat := (l.reports.filter (fun r => !r.2)).map Prod.fst
        let l : Loop := { l with windows := l.windows + 1 }
        if retried = [] ∧ l.hi - l.lo ≤ l.next then
          let s := s.setLoop core loop { l with phase := 3, win := [], log := [] }
          let s := if l.fut then s.futresNow core l.lk eff l.key l.user l.faddr l.fval l.org else s
          .next (s.finishLoop core loop (some eff))
        else .next (s.setLoop core loop { l.refill retried with phase := 1, openAt := eff + 1 })

/-- Open the first windows of loops whose fill has committed at marker r. -/
def State.openLoops (s : State) (lk r : Nat) (cores : List Nat) : State :=
  cores.foldl (fun s k => (s.core k).loops.foldl (fun s (i, l) =>
    if l.lk = lk ∧ l.phase = 0 ∧ l.openAt ≤ r + 1 then s.setLoop k i { l.refill [] with phase := 1, openAt := r + 1 } else s) s) s

/-- The records of the phases that open in the round after marker r: by origin core, slot, position (10 R247 R261). -/
def State.loopRecords (s : State) (lk r : Nat) (cores : List Nat) : List (Nat × Nat × List Nat) :=
  let ls := cores.flatMap (fun k => (s.core k).loops.filter (fun x => x.2.lk == lk && x.2.openAt == r + 1 && (x.2.phase == 1 || x.2.phase == 2)))
  let ls := sortBy (fun a b => decide (a.1 < b.1)) ls
  ls.flatMap (fun (k, l) => l.win.map (fun i =>
    (if l.phase = 1 then l.rblk else l.cblk, l.origin, [ticketWord l.origin (k % 4) i, l.lo + i, if l.phase = 1 then 0 else mgetD l.notes i 0])))

end Sys2Proof.Machine
end

