-- ==== Sys2Proof/Machine/Boost.lean ====
section
/-! DEFINITION. Boosted tasks (10 R254-R263 R423, 17 R305-R307): tasks, registrations, commit and undo, the Garnet table, and what the boost unit does
at a marker. -/

namespace Sys2Proof.Machine

/-! ### Tasks -/

/-- Key of a task in its core. -/
def taskKey (origin slot : Nat) : Nat := origin * 1024 + slot

/-- The word of a task. -/
def taskWord (slot tseq : Nat) : Nat := slot * 2 ^ 48 + tseq

/-- The task that a TASK word names at the using core (10 R254). -/
def State.taskOf (s : State) (f : Firing) (w : Nat) : Option (Nat × Task) :=
  if w / 2 ^ 58 ≠ 0 then none
  else
    let k := taskKey f.b.origin (bitsAt w 48 10)
    ((mget (s.core f.e.core).tasks k).filter (fun t => t.lk == f.lk && t.tseq == some (bitsAt w 0 48))).map (fun t => (k, t))

/-- Store a task of a core. -/
def State.setTask (s : State) (core k : Nat) (t : Task) : State := let c := s.core core; s.setCore core { c with tasks := mset c.tasks k t }

/-- The tasks of a launch: core, key, task. -/
def State.tasksOf (s : State) (lk : Nat) : List (Nat × Nat × Task) :=
  s.cores.flatMap (fun (k, c) => (c.tasks.filter (fun x => x.2.lk == lk)).map (fun (i, t) => (k, i, t)))

/-- A task of a launch by its TSEQ. -/
def State.taskBySeq (s : State) (lk tseq : Nat) : Option (Nat × Nat × Task) := (s.tasksOf lk).find? (fun x => x.2.2.tseq == some tseq)

/-- Some boosted task of a partition is in flight (10 R257). -/
def State.tasksLive (s : State) (part : Nat) : Bool := (s.part part).cores.any (fun k => !(s.core k).tasks.isEmpty)

/-- Fields and reserved bits of a BTASK descriptor (10 R254). -/
def taskFieldsOk (d : List Nat) : Bool :=
  let w (i : Nat) : Nat := d.getD i 0
  bitsAt (w 0) 24 8 == 0 && w 0 / 2 ^ 33 == 0 && w 1 % 32 == 0 && w 2 % 32 == 0 && decide (32 ≤ w 2 ∧ w 2 ≤ 2 ^ 20) && decide (w 5 < 2 ^ 32) && w 6 == 0 && w 7 == 0 &&
  (bitAt (w 0) 32 || (w 4 == 0 && w 5 == 0))

/-- The undo stack is writable device memory. -/
def State.undoOk (s : State) (core part : Nat) (user : Bool) (base len : Nat) : Extent :=
  match s.extent core part user false true (s.rangeBound part) base len false with
  | .ok far => if far then .bad base else .ok false
  | e => e

/-- The faults of BTASK at acceptance. -/
def btaskBad (s : State) (f : Firing) : Option (Nat × Nat) :=
  let d := (f.ops.l.getD {}).words
  let user := !isPriv f.b
  if !taskFieldsOk d || !(s.launch f.lk).any (fun l => s.blockTakes l (bitsAt (d.getD 0 0) 0 24) 2) then some (fBoost, 0)
  else
    match s.undoOk f.e.core f.part user (d.getD 1 0) (d.getD 2 0), s.futureOk f.e.core f.part user (bitAt (d.getD 0 0) 32) (d.getD 4 0) with
    | .bad a, _ => some (fBoost, a)
    | _, .bad a => some (fBoost, a)
    | _, _ => none

/-- A free task slot for an origin core. -/
def State.freeTask (s : State) (core origin : Nat) : Option Nat := (List.range 1024).find? (fun i => (mget (s.core core).tasks (taskKey origin i)).isNone)

/-- BTASK (10 R254): waits for a slot, and for a CTLOAD accepted before (10 R257). -/
def execBtask (o : OpA) (s : State) : Host.Outcome State Fault Refusal :=
  if !s.effReady s.firing then .next s
  else
    .next (s.accessFire (wordFire o needL (fun f => f.ops.l.all isVec64) btaskBad
      (fun s f =>
        let d := (f.ops.l.getD {}).words
        let user := !isPriv f.b
        s.undoOk f.e.core f.part user (d.getD 1 0) (d.getD 2 0) == .wait || s.futureOk f.e.core f.part user (bitAt (d.getD 0 0) 32) (d.getD 4 0) == .wait ||
        (s.freeTask f.e.core f.b.origin).isNone || !(s.part f.part).ctloads.isEmpty)
      (fun s f => match s.freeTask f.e.core f.b.origin with
        | none => s
        | some i =>
          let d := (f.ops.l.getD {}).words
          let (id, s) := s.fresh
          let t : Task := {
            lk := f.lk, origin := f.b.origin, slot := i, key := f.effKey, seq := id, user := !isPriv f.b, eblk := bitsAt (d.getD 0 0) 0 24,
            fut := bitAt (d.getD 0 0) 32, ubase := d.getD 1 0, ulen := d.getD 2 0, arg := d.getD 3 0, faddr := d.getD 4 0, fval := d.getD 5 0, site := f.e, flight := id,
            org := f.origin }
          ((s.setTask f.e.core (taskKey f.b.origin i) t).await f false false id).result f true 1 [(1, orderTok f.chain)])))

/-! ### The Garnet table (10 R256 R257) -/

/-- G(a, b); entries that are not listed are 0b11. -/
def garnetEntry (p : Partition) (a b : Nat) : Nat := mgetD p.garnet (64 * a + b) 3

/-- Two registrations of other tasks conflict. -/
def garnetConflict (p : Partition) (a x b y : Nat) : Bool :=
  if p.nkind ≤ a ∨ p.nkind ≤ b then true
  else match garnetEntry p a b with
    | 0 => false
    | 1 => x == y
    | 2 => x != y
    | _ => true

/-- CTQ (10 R257). -/
def execCtq (o : OpA) (s : State) : Host.Outcome State Fault Refusal :=
  let a := o.imm.toNat % 64
  let b := o.imm.toNat / 64 % 64
  .next (s.anchorFire {
    fl := o.fl, need := needL,
    act := fun s f =>
      let p := s.part f.part
      s.result f false 1 (fork (scalarTok .z32 (garnetEntry p a b + (if p.nkind ≤ a ∨ p.nkind ≤ b then 4 else 0)))) })

/-- The checks of a table image of 1,088 bytes (10 R257). -/
def tableOk (m : Memory) : Bool :=
  let n := word64 m 0
  let g (a b : Nat) : Nat := bitsAt (memRead m (64 + (64 * a + b) / 4)).toNat (2 * ((64 * a + b) % 4)) 2
  decide (n ≤ 64) && (List.range 7).all (fun i => word64 m (8 * (i + 1)) == 0) && (List.range n).all (fun a => (List.range a).all (fun b => g a b == g b a))

/-- Read, check and install a table (10 R257, 17 R305); the answer tells whether it was installed. -/
def State.installTable (s : State) (part core addr : Nat) : State × Bool :=
  let fuel := s.rangeBound part
  match s.extent core part false true false fuel addr 1088 false with
  | .ok _ =>
    let m := s.readExtent core part fuel addr 1088 0 []
    if addr % 64 = 0 ∧ tableOk m = true then
      let g := (List.range 4096).foldl (fun (g : Map Nat) e =>
        let v := bitsAt (memRead m (64 + e / 4)).toNat (2 * (e % 4)) 2
        if v = 3 then g else mset g e v) []
      (s.setPart part { s.part part with nkind := word64 m 0, garnet := g }, true)
    else (s, false)
  | .bad _ => (s, false)
  | .wait => (s, false)

/-- The table's range is held (20 R368 R369). -/
def State.tableHeld (s : State) (part core addr : Nat) : Bool := s.extent core part false true false (s.rangeBound part) addr 1088 false == .wait

/-- CTLOAD (10 R257): the table is read and checked at the marker that installs it. -/
def execCtload (o : OpA) (s : State) : Host.Outcome State Fault Refusal :=
  .next (s.accessFire (wordFire o needL (fun f => f.ops.l.all isAddr) (fun _ f => if f.lw % 64 = 0 then none else some (fBoost, f.lw)) (fun _ _ => false)
    (fun s f =>
      let (id, s) := s.fresh
      let p := s.part f.part
      let x : CtLoad := { addr := f.lw, site := f.e, flight := id, org := f.origin, lk := f.lk, round := f.round, chain := f.chain }
      (s.setPart f.part { p with ctloads := p.ctloads ++ [x] }).await f false false id)))

/-- At marker r of a launch on its cores: the CTLOADs of its rounds up to r install once no boosted task of the partition is left (10 R257). -/
def State.runCtloads (s : State) (lk r : Nat) (cores : List Nat) : State :=
  let part := lkPart lk
  if s.tasksLive part then s
  else
    (s.part part).ctloads.foldl (fun s (x : CtLoad) =>
      if x.lk ≠ lk ∨ r < x.round ∨ !cores.contains x.site.core ∨ s.tableHeld part x.site.core x.addr then s
      else
        let (s, ok) := s.installTable part x.site.core x.addr
        let s := if ok then s else s.notice lk x.site.core fBoost x.addr 0 x.org
        let p := s.part part
        let s := s.setPart part { p with ctloads := p.ctloads.filter (fun y => y.flight ≠ x.flight) }
        s.fill x.site x.flight s.fc (some r) (fork (orderTok x.chain))) s

/-! ### Operations, commit, abort, undo at firing -/

/-- Lanes of a BOP vector. -/
def bopLane (f : Firing) (i : Nat) : Nat := laneOf ((f.ops.r.map Token.num).getD 0) 64 i

/-- The undo record of a BOP (10 R258). -/
def undoBytes (f : Firing) (kind : Nat) : List Byte :=
  if bopLane f 2 = 0 then List.replicate 32 0
  else leBytes 8 (bopLane f 2 + kind * 2 ^ 24) ++ leBytes 8 (bopLane f 3) ++ leBytes 8 (bopLane f 4) ++ leBytes 8 (bopLane f 5)

/-- The faults of BOP: the words, the task, its state, a full undo stack (10 R258); words that are not 0 where they have to be are such a fault too (DESIGN CHOICE,
log 75). -/
def bopBad (s : State) (f : Firing) : Option (Nat × Nat) :=
  if f.lw % 8 ≠ 0 ∨ bopLane f 2 / 2 ^ 24 ≠ 0 ∨ bopLane f 6 ≠ 0 ∨ bopLane f 7 ≠ 0 then some (fBoost, f.lw)
  else
    match s.taskOf f (bopLane f 0) with
    | none => some (fBoost, 0)
    | some (_, t) => if t.state = 2 then none else if t.state ≠ 1 ∨ t.udepth * 32 = t.ulen then some (fBoost, 0) else none

/-- BOP (10 R258): stages the undo record and the registration; a task that is ABORTING gets false. -/
def execBop (o : OpA) (s : State) : Host.Outcome State Fault Refusal :=
  let kind := o.imm.toNat % 64
  let undo (s : State) (f : Firing) : Trans := match s.taskOf f (bopLane f 0) with
    | some (_, t) => if t.state = 1 then s.translate f.e.core f.part (!isPriv f.b) false true (t.ubase + 32 * t.udepth) 32 else .ok []
    | none => .ok []
  if !s.effReady s.firing then .next s
  else
    .next (s.accessFire {
      fl := o.fl, need := needLR, rd := false, wr := false,
      check := fun _ f => if f.ops.l.all isAddr && f.ops.r.all isVec64 then none else some (fFormat, 0),
      place := fun s f => match bopBad s f with
        | some (c, a) => .err c a
        | none => .global [(f.lw, 8, 0)]
      attrs := fun ps => match syncAttrs fBoost ps with
        | some e => some e
        | none => (undo s s.firing).err
      stall := fun s f ps => match undo s f with
        | .wait w => some (s.askWalk f.e.core w)
        | .ok us => if s.stageRoom f.e.core us then opStall s f ps else some (s.requestMarker f.lk f.e.core)
        | .fault _ _ => none
      act := fun s f ps =>
        match s.taskOf f (bopLane f 0), ps with
        | some (k, t), p :: _ =>
          let (id, s) := s.fresh
          if t.state = 2 then ((s.await f false false id).orderSecond f).fill f.e id s.fc (some f.round) [(0, predTok false)]
          else
            let us := (undo s f).parts
            let s := us.foldl (fun s u => s.stage (f.arrival u (.write (splitBytes (undoBytes f kind) u)) 0)) s
            let s := s.setTask f.e.core k { t with udepth := t.udepth + 1 }
            let s' := s.mapLaunch f.lk (fun l => { l with staged := l.staged ++ [{
              round := f.round, key := f.writeKey, seq := s.nid,
              kind := .bop p.addr (t.tseq.getD 0) kind (bopLane f 1) (t.ubase + 32 * t.udepth) f.e id, core := f.e.core, org := f.origin }] })
            ({ s' with nid := s.nid + 1 }.await f false false id).orderSecond f
        | _, _ => s })

/-- A firing on a TASK word. -/
def State.taskFire (s : State) (o : OpA) (bad : Task → Bool) (act : State → Firing → Nat → Task → State) : State :=
  if !s.effReady s.firing then s
  else
    s.accessFire (wordFire o needL (fun f => f.ops.l.all isAddr)
      (fun s f => match s.taskOf f f.lw with
        | some (_, t) => if bad t then some (fBoost, 0) else none
        | none => some (fBoost, 0))
      (fun _ _ => false)
      (fun s f => match s.taskOf f f.lw with
        | some (k, t) => act s f k t
        | none => s))

/-- BCOMMIT (10 R259). -/
def execBcommit (o : OpA) (s : State) : Host.Outcome State Fault Refusal :=
  .next (s.taskFire o (fun t => t.state != 1 && t.state != 2) (fun s f k t =>
    let (id, s) := s.fresh
    let s := (s.await f false false id).result f true 1 [(1, orderTok f.chain)]
    if t.state = 2 then s.fill f.e id s.fc (some f.round) [(0, predTok false)] else s.setTask f.e.core k { t with state := 5, commitFl := some (f.e, id) }))

/-- BABORT (10 R260). -/
def execBabort (o : OpA) (s : State) : Host.Outcome State Fault Refusal :=
  .next (s.taskFire o (fun t => t.state != 1 && t.state != 2) (fun s f _ t => (s.stageEff f (.babort (t.tseq.getD 0) f.e)).orderSame f))

/-- BUNDO (10 R260). -/
def execBundo (o : OpA) (s : State) : Host.Outcome State Fault Refusal :=
  .next (s.taskFire o (fun t => t.state != 3 || !t.undoOut) (fun s f k t =>
    ((s.setTask f.e.core k { t with undoOut := false }).stageEff f (.bundo (t.tseq.getD 0))).orderSame f))

/-- The status of a TASK as the last marker committed it (10 R262). -/
def State.taskStatus (s : State) (lk w : Nat) : Nat :=
  let q := bitsAt w 0 48
  match mget (((s.launch lk).map Launch.tdone).getD []) q with
  | some a => a * 2 ^ 48 + 6
  | none =>
    match s.taskBySeq lk q with
    | some (_, _, t) => t.cAborts * 2 ^ 48 + t.cDepth % 2 ^ 16 * 2 ^ 32 + t.cState
    | none => 0

/-- BSTAT (10 R262). -/
def execBstat (o : OpA) (s : State) : Host.Outcome State Fault Refusal :=
  if !s.effReady s.firing then .next s
  else
    .next (s.anchorFire {
      fl := o.fl, need := needL,
      check := fun _ f => if !f.ops.l.all isAddr then some (fFormat, 0) else if f.lw / 2 ^ 58 ≠ 0 then some (fBoost, 0) else none,
      act := fun s f =>
        let w := s.taskStatus f.lk f.lw
        (s.result f false 1 [(0, z64Tok w)]).result f true 1 [(1, z64Tok w)] })

/-! ### At a marker (17 R307) -/

/-- Results that a marker of launch lk decides are emitted in the round after it. -/
def afterOf (lk r : Nat) (t : Task) : Option Nat := if t.lk = lk then some r else none

/-- The record of a BOP becomes void: word 0 reads 0 (17 R306). -/
def State.voidRecord (s : State) (core lk : Nat) (b : PendBop) : State :=
  match s.physAt core (lkPart lk) b.undo 8 with
  | some p => s.homeWrite .dev p.addr (List.replicate 8 0)
  | none => s

/-- A BOP that has not emitted emits false, and its record becomes void (17 R306). -/
def State.voidBop (s : State) (lk r core : Nat) (t : Task) (b : PendBop) : State :=
  if s.waiting b.site b.flight then (s.voidRecord core lk b).refill b.site b.flight (afterOf lk r t) [(0, predTok false)] else s

/-- A task becomes ABORTING (10 R258 R259). -/
def State.strike (s : State) (lk r : Nat) (x : Nat × Nat × Task) (blocker : Nat × Nat) : State :=
  let t := x.2.2
  let s := t.bops.foldl (fun s b => s.voidBop lk r x.1 t b) s
  let s := match t.commitFl with
    | some (site, fl) => s.fill site fl s.fc (afterOf lk r t) [(0, predTok false)]
    | none => s
  s.setTask x.1 x.2.1 { t with state := 2, blocker := some blocker, bops := [], commitFl := none }

/-- A task can become ABORTING. -/
def Task.strikable (t : Task) : Bool := t.state == 1 || t.state == 5

/-- Age (10 R423): the ASEQ of the launch, then the TSEQ. -/
def olderThan (a b : Nat × Nat) : Bool := decide (a.1 < b.1 ∨ (a.1 = b.1 ∧ a.2 < b.2))

/-- A registration at its object's home (10 R258); the BOP of a task that has been struck already emits false (17 R306 R307). -/
def State.register (s : State) (lk r obj tseq kind key undo : Nat) (site : Site) (flight : Nat) : State :=
  match s.taskBySeq lk tseq, s.launch lk with
  | some x, some l =>
    let t := x.2.2
    let p := s.part (lkPart lk)
    let cs := s.regs.filter (fun g => g.obj == obj && !(g.lk == lk && g.tseq == tseq) && lkPart g.lk == lkPart lk && garnetConflict p g.kind g.key kind key)
    let me := (l.aseq, tseq)
    let older := sortBy (fun (a b : Reg) => olderThan (a.aseq, a.tseq) (b.aseq, b.tseq)) (cs.filter (fun (g : Reg) => olderThan (g.aseq, g.tseq) me))
    let b : PendBop := { site := site, flight := flight, undo := undo, younger := cs.map (fun (g : Reg) => (g.lk, g.tseq)) }
    match older with
    | g :: _ => (if t.strikable then s.strike lk r x (g.lk, g.tseq) else s).voidBop lk r x.1 t b
    | [] =>
      let s := { s with regs := s.regs ++ [({ obj := obj, lk := lk, tseq := tseq, aseq := l.aseq, kind := kind, key := key } : Reg)] }
      let s := if t.strikable then s.setTask x.1 x.2.1 { t with bops := t.bops ++ [b] } else s.voidBop lk r x.1 t b
      cs.foldl (fun (s : State) (g : Reg) => match s.taskBySeq g.lk g.tseq with
        | some y => if y.2.2.strikable then s.strike lk r y (lk, tseq) else s
        | none => s) s
  | _, _ => s

/-- Release the registrations of a task. -/
def State.releaseRegs (s : State) (lk tseq : Nat) : State := { s with regs := s.regs.filter (fun g => !(g.lk == lk && g.tseq == tseq)) }

/-- The next undo record of an UNDOING task, void ones skipped: its index and words (10 R260). -/
def State.nextUndo (s : State) (core : Nat) (t : Task) : Nat → Option (Nat × List Nat)
  | 0 => none
  | n + 1 =>
    match s.physAt core (lkPart t.lk) (t.ubase + 32 * n) 32 with
    | some p =>
      let ws := (List.range 4).map (fun i => word64 s.mem (p.addr + 8 * i))
      if bitsAt (ws.getD 0 0) 0 24 = 0 then s.nextUndo core t n else some (n, ws)
    | none => s.nextUndo core t n

/-- A step of the undo: the next record is pushed, or the task is WAITING (10 R260). The record is the block and its words. -/
def State.undoStep (s : State) (x : Nat × Nat × Task) : State × Option (Nat × Nat × List Nat) :=
  let t := x.2.2
  match s.nextUndo x.1 t t.undoLeft with
  | none =>
    ((s.releaseRegs t.lk (t.tseq.getD 0)).setTask x.1 x.2.1 { t with state := 4, udepth := 0, undoLeft := 0, undoOut := false }, none)
  | some (n, ws) =>
    let blk := bitsAt (ws.getD 0 0) 0 24
    if (s.launch t.lk).any (fun l => s.blockTakes l blk 4) then
      (s.setTask x.1 x.2.1 { t with undoLeft := n, undoOut := true }, some (blk, t.origin, taskWord t.slot (t.tseq.getD 0) :: ws.drop 1))
    else ((s.setTask x.1 x.2.1 { t with undoLeft := n, undoOut := false }).notice t.lk x.1 fBoost 0 0, none)

/-- BABORT takes effect (10 R260). -/
def State.startUndo (s : State) (lk r tseq : Nat) (site : Site) (o : Origin) : State × Option (Nat × Nat × List Nat) :=
  match s.taskBySeq lk tseq with
  | none => (s, none)
  | some x =>
    let t := x.2.2
    if t.state ≠ 1 ∧ t.state ≠ 2 then (s.notice lk site.core fBoost 0 0 o, none)
    else
      let s := (t.bops.filter (fun b => !b.told)).foldl (fun s b => s.voidBop lk r x.1 t b) s
      let t := { t with state := 3, aborts := min (t.aborts + 1) 0xFFFF, undoLeft := t.udepth, bops := [] }
      (s.setTask x.1 x.2.1 t).undoStep (x.1, x.2.1, t)

/-- Commit the READY tasks in ascending TSEQ (10 R259). -/
def State.commitTasks (s : State) (lk r : Nat) : Nat → State
  | 0 => s
  | n + 1 =>
    match s.launch lk with
    | none => s
    | some l =>
      match s.taskBySeq lk l.tlow with
      | none => s
      | some x =>
        let t := x.2.2
        if t.state ≠ 5 then s
        else
          let c := s.core x.1
          let s := (s.setCore x.1 { c with tasks := mdel c.tasks x.2.1 }).releaseRegs lk l.tlow
          let s := match t.commitFl with
            | some (site, fl) => s.fill site fl s.fc (some r) [(0, predTok true)]
            | none => s
          let s := s.fill t.site t.flight s.fc (some r) [(0, completionTok 0 t.aborts)]
          let s := s.setLaunch lk { l with tlow := l.tlow + 1, tdone := mset l.tdone l.tlow t.aborts, bops := l.bops ++ t.bops.filter (fun b => !b.told) }
          let s := if t.fut then s.futresNow x.1 lk r t.key t.user t.faddr t.fval t.org else s
          s.commitTasks lk r n

/-- A BLOCKER has committed, or its launch has ended (10 R260 R423). -/
def State.blockerGone (s : State) (b : Option (Nat × Nat)) : Bool :=
  match b with
  | none => true
  | some (lk, q) => (s.launch lk).all (fun l => decide (q < l.tlow))

/-- The BOPs whose younger tasks have released their registrations emit true in the round after marker r (10 R258), those of committed tasks too; one of
a task in flight may still be struck before it emits (17 R306). -/
def State.tellBops (s : State) (lk r : Nat) : State :=
  let free (b : PendBop) : Bool := b.younger.all (fun y => !s.regs.any (fun g => g.lk == y.1 && g.tseq == y.2))
  let tell (s : State) (b : PendBop) : State := if !b.told && free b then s.fill b.site b.flight s.fc (some r) [(0, predTok true)] else s
  let s := (s.tasksOf lk).foldl (fun s x =>
    let bops := x.2.2.bops.filter (fun b => s.waiting b.site b.flight || (s.elem b.site).sent.any (fun y => y.2.2.id == b.flight))
    (bops.foldl tell s).setTask x.1 x.2.1 { x.2.2 with bops := bops.map (fun (b : PendBop) => { b with told := b.told || free b }) }) s
  match s.launch lk with
  | none => s
  | some l => (l.bops.foldl tell s).mapLaunch lk (fun l => { l with bops := l.bops.filter (fun b => !free b) })

/-- What the boost unit does at marker r of a launch before the numbering: the undo records and the restarted tasks' records, each with its TSEQ
(10 R258-R262, 17 R307). -/
def State.boostMarker (s : State) (lk r : Nat) : State × List (Nat × Nat × Nat × List Nat) × List (Nat × Nat × Nat × List Nat) :=
  match s.launch lk with
  | none => (s, [], [])
  | some l =>
    let mine := commitOrder l.ord Eff.key Eff.seq (l.staged.filter (fun e => decide (e.round ≤ r)))
    -- registrations, in commit order
    let s := mine.foldl (fun s e => match e.kind with
      | .bop obj tseq kind key undo site flight => s.register lk r obj tseq kind key undo site flight
      | _ => s) s
    -- aborts and undone records
    let (s, undos) := mine.foldl (fun (a : State × List (Nat × Nat × Nat × List Nat)) e =>
      let add (q : Nat) (r : State × Option (Nat × Nat × List Nat)) : State × List (Nat × Nat × Nat × List Nat) := match r.2 with
        | some u => (r.1, a.2 ++ [(q, u)])
        | none => (r.1, a.2)
      match e.kind with
      | .babort q site => add q (a.1.startUndo lk r q site e.org)
      | .bundo q => (match a.1.taskBySeq lk q with
        | some x => add q (a.1.undoStep x)
        | none => a)
      | _ => a) (s, [])
    let s := s.commitTasks lk r (s.tasksOf lk).length
    -- restarts
    let (s, restarts) := (s.tasksOf lk).foldl (fun (a : State × List (Nat × Nat × Nat × List Nat)) x =>
      let t := x.2.2
      if t.state = 4 ∧ a.1.blockerGone t.blocker = true then
        (a.1.setTask x.1 x.2.1 { t with state := 1, blocker := none }, a.2 ++ [(t.tseq.getD 0, t.eblk, t.origin, [taskWord t.slot (t.tseq.getD 0), t.arg])])
      else a) (s, [])
    let s := s.tellBops lk r
    let sort (xs : List (Nat × Nat × Nat × List Nat)) := sortBy (fun (a b : Nat × Nat × Nat × List Nat) => decide (a.1 < b.1)) xs
    (s, sort undos, sort restarts)

/-- Number the tasks accepted in rounds up to r (10 R254): their records, in ascending TSEQ. -/
def State.numberTasks (s : State) (lk : Nat) (ord : Bool) : State × List (Nat × Nat × Nat × List Nat) :=
  let fresh := commitOrder ord (fun (x : Nat × Nat × Task) => x.2.2.key) (fun x => x.2.2.seq) ((s.tasksOf lk).filter (fun x => x.2.2.tseq.isNone))
  fresh.foldl (fun (a : State × List (Nat × Nat × Nat × List Nat)) x =>
    match a.1.launch lk with
    | none => a
    | some l =>
      let q := l.ntseq
      let t := x.2.2
      let s := (a.1.setLaunch lk { l with ntseq := q + 1 }).setTask x.1 x.2.1 { t with tseq := some q, state := 1 }
      (s, a.2 ++ [(q, t.eblk, t.origin, [taskWord t.slot q, t.arg])])) (s, [])

/-- The committed state of the tasks for BSTAT (10 R262). -/
def State.snapTasks (s : State) (lk : Nat) : State :=
  (s.tasksOf lk).foldl (fun s x => s.setTask x.1 x.2.1 { x.2.2 with cState := x.2.2.state, cDepth := x.2.2.udepth, cAborts := x.2.2.aborts }) s

end Sys2Proof.Machine
end

