-- ==== Sys2Proof/Machine/Int.lean ====
section
/-! DEFINITION. The firing of an arithmetic instruction as a pure producer, and the integer and address instructions (07 R161-R176). -/

namespace Sys2Proof.Machine

/-- The tag of an instruction's poison: that of its type (03 R65); under tag-following L's. -/
def poisonTag (o : OpA) (u : Bool) (l : Option Token) : Nat :=
  match fmtOf o.ty u with
  | some f => f.tag
  | none => (l.map (fun t => t.tag.toNat)).getD 5

/-- The width of an instruction's lanes: that of its type, or of L under tag-following. -/
def widthOf (o : OpA) (l : Option Token) : Nat := if o.ty = .tf then ((l.bind Token.fmt).map Fmt.width).getD 64 else o.ty.width

/-- The lanes of an instruction: those of its type, or of L under tag-following. -/
def laneCount (o : OpA) (l : Option Token) : Nat := if o.ty = .tf then ((l.bind Token.fmt).map Fmt.lanes).getD 128 else o.ty.lanes

/-- The firing of an instruction of 07 as a pure producer (07 R161): its latency, whether its fn bit 0 is U, whether R and P are operands, the V bit
of its result, its value and its early decision. -/
def State.arith (s : State) (o : OpA) (u : Bool) (lat : Nat) (r p vres : Bool) (eval : Operands → Predicate → Value)
    (early : Operands → Option (List (Nat × Token) × Nat) := fun _ => none) : State :=
  s.pureFire { fl := o.fl, vecP := o.v, lat := lat, need := { l := true, r := r, p := p }, tag := poisonTag o u s.firing.ops.l, v := vres, eval := eval, early := early }

/-- Latency of DIV and REM (07 R168). -/
def divLatency (o : OpA) (s : State) : Nat := if widthOf o s.firing.ops.l = 64 then 20 else 12

/-- Latency of a reduction (07 R168). -/
def treeLatency (o : OpA) (s : State) : Nat := lg (laneCount o s.firing.ops.l) + 1

/-- ADD (07 R170). -/
def execAdd (o : OpA) (s : State) : Host.Outcome State Fault Refusal :=
  .next (s.arith o o.u 1 (!o.i) false o.v (intBinValue 0x20 o.u intCls o))

/-- SUB (07 R170). -/
def execSub (o : OpA) (s : State) : Host.Outcome State Fault Refusal :=
  .next (s.arith o o.u 1 (!o.i) false o.v (intBinValue 0x21 o.u intCls o))

/-- ADDS (07 R170). -/
def execAdds (o : OpA) (s : State) : Host.Outcome State Fault Refusal :=
  .next (s.arith o o.u 1 (!o.i) false o.v (intBinValue 0x22 o.u intCls o))

/-- SUBS (07 R170). -/
def execSubs (o : OpA) (s : State) : Host.Outcome State Fault Refusal :=
  .next (s.arith o o.u 1 (!o.i) false o.v (intBinValue 0x23 o.u intCls o))

/-- NEG (07 R170). -/
def execNeg (o : OpA) (s : State) : Host.Outcome State Fault Refusal :=
  .next (s.arith o false 1 false false o.v (intUnValue 0x24 false intCls o))

/-- ABS (07 R170). -/
def execAbs (o : OpA) (s : State) : Host.Outcome State Fault Refusal :=
  .next (s.arith o false 1 false false o.v (intUnValue 0x25 false intCls o))

/-- MUL (07 R170, 03 R48). -/
def execMul (o : OpA) (s : State) : Host.Outcome State Fault Refusal :=
  .next (s.arith o o.u 3 (!o.i) false o.v (intBinValue 0x26 o.u intCls o) (zeroEarly o (fun _ => 0)))

/-- MULH (07 R170). -/
def execMulh (o : OpA) (s : State) : Host.Outcome State Fault Refusal :=
  .next (s.arith o o.u 3 (!o.i) false o.v (intBinValue 0x27 o.u intCls o))

/-- DIV (07 R171). -/
def execDiv (o : OpA) (s : State) : Host.Outcome State Fault Refusal :=
  .next (s.arith o o.u (divLatency o s) (!o.i) false o.v (intBinValue 0x28 o.u intCls o))

/-- REM (07 R171). -/
def execRem (o : OpA) (s : State) : Host.Outcome State Fault Refusal :=
  .next (s.arith o o.u (divLatency o s) (!o.i) false o.v (intBinValue 0x29 o.u intCls o))

/-- MIN (07 R170, 03 R48). -/
def execMin (o : OpA) (s : State) : Host.Outcome State Fault Refusal :=
  .next (s.arith o o.u 1 (!o.i) false o.v (intBinValue 0x2A o.u intCls o) (zeroEarly o (fun f => ofInt f.width f.lo)))

/-- MAX (07 R170, 03 R48). -/
def execMax (o : OpA) (s : State) : Host.Outcome State Fault Refusal :=
  .next (s.arith o o.u 1 (!o.i) false o.v (intBinValue 0x2B o.u intCls o) (zeroEarly o (fun f => ofInt f.width f.hi)))

/-- AND (07 R170, 03 R48). -/
def execAnd (o : OpA) (s : State) : Host.Outcome State Fault Refusal :=
  .next (s.arith o o.u 1 (!o.i) false o.v (intBinValue 0x2C o.u bitsCls o) (zeroEarly o (fun _ => 0)))

/-- OR (07 R170, 03 R48). -/
def execOr (o : OpA) (s : State) : Host.Outcome State Fault Refusal :=
  .next (s.arith o o.u 1 (!o.i) false o.v (intBinValue 0x2D o.u bitsCls o) (zeroEarly o (fun f => 2 ^ f.width - 1)))

/-- XOR (07 R170). -/
def execXor (o : OpA) (s : State) : Host.Outcome State Fault Refusal :=
  .next (s.arith o o.u 1 (!o.i) false o.v (intBinValue 0x2E o.u bitsCls o))

/-- ANDN (07 R170). -/
def execAndn (o : OpA) (s : State) : Host.Outcome State Fault Refusal :=
  .next (s.arith o o.u 1 (!o.i) false o.v (intBinValue 0x2F o.u bitsCls o))

/-- NOT (07 R170). -/
def execNot (o : OpA) (s : State) : Host.Outcome State Fault Refusal :=
  .next (s.arith o o.u 1 false false o.v (intUnValue 0x30 o.u bitsCls o))

/-- SHL (07 R172). -/
def execShl (o : OpA) (s : State) : Host.Outcome State Fault Refusal :=
  .next (s.arith o false 1 (!o.i) false o.v (intBinValue 0x31 false intCls o))

/-- SHR (07 R172). -/
def execShr (o : OpA) (s : State) : Host.Outcome State Fault Refusal :=
  .next (s.arith o false 1 (!o.i) false o.v (intBinValue 0x32 false intCls o))

/-- SAR (07 R172). -/
def execSar (o : OpA) (s : State) : Host.Outcome State Fault Refusal :=
  .next (s.arith o false 1 (!o.i) false o.v (intBinValue 0x33 false intCls o))

/-- ROTL (07 R172). -/
def execRotl (o : OpA) (s : State) : Host.Outcome State Fault Refusal :=
  .next (s.arith o false 1 (!o.i) false o.v (intBinValue 0x34 false intCls o))

/-- CLZ (07 R172). -/
def execClz (o : OpA) (s : State) : Host.Outcome State Fault Refusal :=
  .next (s.arith o false 1 false false o.v (intUnValue 0x35 false intCls o))

/-- CTZ (07 R172). -/
def execCtz (o : OpA) (s : State) : Host.Outcome State Fault Refusal :=
  .next (s.arith o false 1 false false o.v (intUnValue 0x36 false intCls o))

/-- POPC (07 R172). -/
def execPopc (o : OpA) (s : State) : Host.Outcome State Fault Refusal :=
  .next (s.arith o false 1 false false o.v (intUnValue 0x37 false intCls o))

/-- CMP (07 R173). -/
def execCmp (o : OpA) (s : State) : Host.Outcome State Fault Refusal :=
  .next (s.arith o o.u 1 (!o.i) false o.v (cmpValue o))

/-- SEL (07 R174, 03 R48 R67). -/
def execSel (o : OpA) (s : State) : Host.Outcome State Fault Refusal :=
  .next (s.arith o false 1 (!o.i) true o.v (fun x _ => selValue o x) (selEarly o))

/-- TRUNC (07 R175). -/
def execTrunc (o : OpA) (s : State) : Host.Outcome State Fault Refusal :=
  .next (s.arith o o.u 1 false false o.v (truncValue o))

/-- BFX (07 R175). -/
def execBfx (o : OpA) (s : State) : Host.Outcome State Fault Refusal :=
  .next (s.arith o o.u 1 false false o.v (bfxValue o))

/-- BFI (07 R175). -/
def execBfi (o : OpA) (s : State) : Host.Outcome State Fault Refusal :=
  .next (s.arith o false 1 true false o.v (bfiValue o))

/-- ADDR (07 R176). -/
def execAddr (o : OpA) (s : State) : Host.Outcome State Fault Refusal :=
  .next (s.arith o o.u 1 (!o.i) false o.v (addrValue o))

/-- IMAD (07 R170 R178). -/
def execImad (o : OpA) (s : State) : Host.Outcome State Fault Refusal :=
  .next (s.arith o o.u 3 (!o.i) true o.v (imadValue o))

/-- BSWAP (07 R170). -/
def execBswap (o : OpA) (s : State) : Host.Outcome State Fault Refusal :=
  .next (s.arith o false 1 false false o.v (intUnValue 0x3F false intCls o))


end Sys2Proof.Machine
end

