-- ==== Sys2Proof/Machine/Convert.lean ====
section
/-! DEFINITION. The conversion and format instructions and the random draw (07 R186-R192, 04 R88 R89). -/

namespace Sys2Proof.Machine

/-- UNFC and HC of a conversion stream as its next firing sees them, with the initial headroom where it has none yet (04 R88 R89). -/
def streamOf (o : OpA) : OpState → Nat × Nat
  | .cvt u h st => match st.getLast? with
    | some x => x.2
    | none => (u, h)
  | .none => (0, headroom0 o)
  | .carry _ => (0, 0)
  | .invar _ => (0, 0)
  | .gate _ => (0, 0)
  | .count _ => (0, 0)
  | .copies _ => (0, 0)
  | .mxwait _ => (0, 0)
  | .mxldb _ => (0, 0)
  | .stream _ _ _ _ _ _ => (0, 0)

/-- The stream after a conversion that underflowed c lanes (04 R88 R89): the automatic mode counts for every format, the others for the six of R88. -/
def streamNext (o : OpA) (u h c : Nat) : Nat × Nat :=
  (if o.ty = .f32 ∧ o.sub ≠ 3 then u else min (u + c) 0xFFFFFFFF, if o.sub = 3 ∧ o.imm.toNat / 16 % 128 < c then h - 1 else h)

/-- Stage the stream's update in the round of the firing. -/
def cvtPost (o : OpA) (s : State) (f : Firing) (x : Operands) (pr : Predicate) : State :=
  let (u, h) := streamOf o f.el.ost
  match cvtValue o h x pr with
  | .error _ => s
  | .ok v =>
    let (cu, ch, st) := match f.el.ost with
      | .cvt a b st => (a, b, st)
      | _ => (u, h, [])
    let el := s.elem f.e
    s.setElem f.e { el with ost := .cvt cu ch (st ++ [(f.round, streamNext o u h v.uf)]) }

/-- CVT (07 R186). -/
def execCvt (o : OpA) (s : State) : Host.Outcome State Fault Refusal :=
  let hc := (streamOf o s.firing.el.ost).2
  .next (s.pureFire {
    fl := o.fl, vecP := o.v, lat := 2, need := { l := true, r := o.sub == 2 }, tag := poisonTag o false none, v := o.v,
    eval := fun x pr => match cvtValue o hc x pr with
      | .error c => .error c
      | .ok v => .ok (fork v.tok, v.flags)
    post := cvtPost o })

/-- The committed UNFC and HC of the conversion at an index of a bank (07 R190). -/
def committedStream (b : Bank) (idx : Nat) : Nat :=
  match (b.elem idx).ost, b.instr idx with
  | .cvt u h _, _ => u + 2 ^ 32 * h
  | _, some (.cvt o) => 2 ^ 32 * headroom0 o
  | _, _ => 0

/-- UFRD (07 R190): a firing of round r waits for marker r - 1 at its bank and reads what that marker committed. -/
def execUfrd (o : OpA) (s : State) : Host.Outcome State Fault Refusal :=
  if s.firing.b.mpass < s.firing.round then .next s
  else
    .next (s.pureFire {
      fl := o.fl, vecP := false, lat := 1, need := needL, tag := 5, v := false,
      eval := fun _ _ => one (z64Tok (committedStream s.firing.b (o.imm.toNat % 128))) 0 })

/-- CVTI (07 R187). -/
def execCvti (o : OpA) (s : State) : Host.Outcome State Fault Refusal :=
  .next (s.arith o o.u 2 false false o.v (cvtiValue o))

/-- SCALEG (07 R188). -/
def execScaleg (o : OpA) (s : State) : Host.Outcome State Fault Refusal :=
  .next (s.arith o false 1 false false false (fun x _ => scalegValue o x))

/-- SCALES (07 R188). -/
def execScales (o : OpA) (s : State) : Host.Outcome State Fault Refusal :=
  .next (s.arith o false 1 (!o.i) false o.v (fun x _ => scalesValue o x))

/-- FMTCHK (07 R189). -/
def execFmtchk (o : OpA) (s : State) : Host.Outcome State Fault Refusal :=
  .next (s.arith o false 1 false false (s.firing.ops.l.any Token.v && o.bit 0) (fun x _ => fmtchkValue o x))

/-- PACK (07 R191). -/
def execPack (o : OpA) (s : State) : Host.Outcome State Fault Refusal :=
  .next (s.arith o false 1 true false o.v (packValue o))

/-- UNPACK (07 R191). -/
def execUnpack (o : OpA) (s : State) : Host.Outcome State Fault Refusal :=
  .next (s.arith o false 1 false false o.v (unpackValue o))

/-- RNG (07 R192). -/
def execRng (o : OpA) (s : State) : Host.Outcome State Fault Refusal :=
  .next (s.arith o false 6 (!o.i) false o.v (rngValue o))


end Sys2Proof.Machine
end

