-- ==== Sys2Proof/Machine/Matrix.lean ====
section
/-! DEFINITION. The matrix node (09 R221-R235): weight slots, the pattern generator, the rows and their sums (04 R90-R93), drains, status, and the
residue replay. -/

namespace Sys2Proof.Machine

/-! ### Weight operands (09 R224-R227) -/

/-- K and N of a weight slot tag. -/
def mxShape (tag : Nat) : Option (Nat × Nat) :=
  match tag with
  | 0x13 | 0x14 | 0x04 | 0x08 => some (64, 64)
  | 0x15 => some (64, 128)
  | 0x16 | 0x09 => some (128, 64)
  | 0x11 | 0x12 => some (32, 64)
  | _ => none

/-- The class of a format in the pair table: an A row and a weight slot of one class go together. -/
def mxClass (tag : Nat) : Nat :=
  match tag with
  | 0x13 | 0x14 => 1
  | 0x04 | 0x08 => 2
  | 0x15 => 3
  | 0x16 => 4
  | 0x09 => 5
  | 0x11 => 6
  | 0x12 => 7
  | _ => 0

/-- Rows of this tag accumulate in i32. -/
def mxInt (tag : Nat) : Bool := mxClass tag == 2 || mxClass tag == 5

/-- Positions of a column that a pattern keeps, per position of the dense column: the divisor of the density (09 R227). -/
def densDiv (dens : Nat) : Nat := match dens with
  | 0 => 1
  | 1 => 2
  | 2 => 4
  | _ => 8

/-- LEN of a tag and density: the kept codes over the lanes of a line (09 R227). -/
def mxLen (tag dens : Nat) : Nat :=
  match mxShape tag, Fmt.ofTag tag with
  | some (k, n), some f => k * n / densDiv dens / f.lanes
  | _, _ => 0

/-- PAIR of R226. -/
def mxPair (d : Nat) : Nat × Nat :=
  match d with
  | 0 => (0, 1)
  | 1 => (0, 2)
  | 2 => (0, 3)
  | 3 => (1, 2)
  | 4 => (1, 3)
  | _ => (2, 3)

/-- KEPT (09 R226). -/
def mxKept (dens seed k n : Nat) : Bool :=
  if dens = 0 then true
  else
    let m := if dens = 3 then 8 else 4
    let d := cyzer seed (n * 2 ^ 16 + k / m)
    if dens = 1 then (let p := mxPair (d % 6); k % m == p.1 || k % m == p.2) else k % m == d % m

/-- The kept codes of column n with their k, in ascending k (09 R227). -/
def WSlot.column (w : WSlot) (n : Nat) : List (Nat × Nat) :=
  match mxShape w.tag, Fmt.ofTag w.tag with
  | some (kk, _), some f =>
    let ks := (List.range kk).filter (fun k => mxKept w.dens w.seed k n)
    ks.zipIdx.map (fun (k, i) =>
      let j := n * (kk / densDiv w.dens) + i
      (k, laneOf (mgetD w.lines (j / f.lanes) 0) f.width (j % f.lanes)))
  | _, _ => []

/-- A header line is acceptable (09 R225 R227). -/
def mxHeaderOk (p : Payload) : Bool :=
  let h := bitsAt p.toNat 0 64
  p.toNat / 2 ^ 64 == 0 && bitsAt h 23 9 == 0 && (mxShape (bitsAt h 0 6)).isSome && bitsAt h 8 8 != 255 &&
  bitsAt h 16 7 + 1 == mxLen (bitsAt h 0 6) (bitsAt h 6 2)

/-- The slot that a header begins to load. -/
def mxOpen (p : Payload) : WSlot :=
  let h := bitsAt p.toNat 0 64
  { state := 1, tag := bitsAt h 0 6, scale := bitsAt h 8 8, dens := bitsAt h 6 2, seed := bitsAt h 32 32, len := bitsAt h 16 7 + 1, pos := 0,
    head := BitVec.ofNat 64 h, lines := [] }

/-! ### Sums (04 R90-R93) -/

/-- FP32 +0. -/
def f32Zero : Nat := 0

/-- The group value of R90: the exact sum of the products, scaled and rounded once; the special values of R93. -/
def groupSum (fa fb : Fmt) (sA sB : Nat) (xs : List (Nat × Nat)) : Lane :=
  let ps := xs.map (fun (a, b) =>
    let va := codeValue fa a
    let vb := codeValue fb b
    let p := va.1.mul vb.1
    (p.1, va.2 ||| vb.2 ||| p.2))
  let fl := ps.foldl (fun x p => x ||| p.2) 0
  let pos := ps.any (fun p => p.1 == .inf false)
  let neg := ps.any (fun p => p.1 == .inf true)
  if sA = 255 ∧ xs ≠ [] then { code := 0x7FC00000, flags := fl ||| flagNV }
  else
    let fl := if pos && neg then fl ||| flagNV else fl
    if ps.any (fun p => p.1.isNan) || (pos && neg) then { code := 0x7FC00000, flags := fl }
    else if pos then { code := Fmt.f32.infCode false, flags := fl }
    else if neg then { code := Fmt.f32.infCode true, flags := fl }
    else
      let sum := ps.foldl (fun x p => (x.add 0 p.1).1) (Exact.fin false 0 0 false)
      let r := encodeValue (sum.scale ((sA : Int) + sB - 254)) .f32 127 0
      { code := r.code, flags := fl ||| r.flags }

/-- RNE of the sum of two FP32 codes. -/
def f32Add (a b : Lane) : Lane :=
  let r := floatBin 0x40 .f32 0 (codeValue .f32 a.code) (codeValue .f32 b.code)
  { code := r.code, flags := a.flags ||| b.flags ||| r.flags }

/-- One level of the tree of R91. -/
def mxLevel : List Lane → List Lane
  | a :: b :: xs => f32Add a b :: mxLevel xs
  | xs => xs

/-- The group value of R91: 16 rounded leaves, a skipped leaf being +0, through four levels. -/
def groupTree (fa fb : Fmt) (sA sB : Nat) (xs : List (Option (Nat × Nat))) : Lane :=
  let leaf (x : Option (Nat × Nat)) : Lane := match x with
    | none => { code := f32Zero, flags := 0 }
    | some (a, b) =>
      let va := codeValue fa a
      let vb := codeValue fb b
      if sA = 255 then { code := 0x7FC00000, flags := va.2 ||| vb.2 ||| flagNV }
      else
        let p := va.1.mul vb.1
        let r := encodeValue (p.1.scale ((sA : Int) + sB - 254)) .f32 127 0
        { code := r.code, flags := va.2 ||| vb.2 ||| p.2 ||| r.flags }
  (mxLevel (mxLevel (mxLevel (mxLevel (xs.map leaf))))).headD { code := f32Zero, flags := 0 }

/-- The group value of an integer pair, wrapped to i32 (04 R90); a reserved scale reads as zero and sets NV (04 R74 R93). -/
def groupInt (fa fb : Fmt) (sA : Nat) (xs : List (Nat × Nat)) : Lane :=
  if sA = 255 ∧ xs ≠ [] then { code := 0, flags := flagNV }
  else { code := ofInt 32 (xs.foldl (fun s (a, b) => s + intOf fa a * intOf fb b) 0), flags := 0 }

/-- The lane of column n after a row (04 R92): the group values chained in ascending g. -/
def mxLane (w : WSlot) (a : Token) (n acc : Nat) : Lane :=
  let tA := a.tag.toNat
  let fa := (Fmt.ofTag tA).getD .i8
  let fb := (Fmt.ofTag w.tag).getD .i8
  let kk := ((mxShape w.tag).map Prod.fst).getD 0
  let col := w.column n
  let pairs (g : Nat) : List (Option (Nat × Nat)) := (List.range 16).map (fun i =>
    (col.find? (fun (k, _) => k == 16 * g + i)).map (fun (k, b) => (laneOf a.pay fa.width k, b)))
  (List.range (kk / 16)).foldl (fun (x : Lane) g =>
    let ps := pairs g
    if mxInt tA then
      let v := groupInt fa fb a.scale.toNat (ps.filterMap id)
      { code := (x.code + v.code) % 2 ^ 32, flags := x.flags ||| v.flags }
    else if mxClass tA = 6 ∨ mxClass tA = 7 then f32Add x (groupTree fa fb a.scale.toNat w.scale ps)
    else f32Add x (groupSum fa fb a.scale.toNat w.scale (ps.filterMap id))) { code := acc, flags := 0 }

/-! ### The node -/

/-- The key of the compute tile whose node an instruction uses. -/
def nodeKey (f : Firing) : Nat := tileKey f.e.core (siteTile f)

/-- A weight slot. -/
def CTile.slot (t : CTile) (w : Nat) : WSlot := mgetD t.slots w {}
/-- An accumulator. -/
def CTile.accOf (t : CTile) (a : Nat) : Acc := t.acc.getD a {}
/-- A lane code of an accumulator. -/
def Acc.lane (a : Acc) (m c : Nat) : Nat := mgetD a.lanes (64 * m + c) 0
/-- Store a lane code; zero is not listed. -/
def Acc.setLane (a : Acc) (m c v : Nat) : Acc := { a with lanes := if v = 0 then mdel a.lanes (64 * m + c) else mset a.lanes (64 * m + c) v }

/-- The node has been used: a slot of it is not INVALID (21 R385). -/
def State.useNode (s : State) (core t : Nat) : State := let k := s.core core; s.setCore core { k with nduse := k.nduse ||| BitVec.ofNat 16 (2 ^ t) }

/-- Slot and accumulator of a row instruction. -/
def rowSlot (o : OpA) : Nat := o.imm.toNat % 8
def rowAcc (o : OpA) : Nat := o.imm.toNat / 8 % 4

/-- A drain of an accumulator is in progress at a tile: an MXDRAIN of it still holds row tokens (09 R230). -/
def State.draining (s : State) (core tile acc : Nat) : Bool :=
  s.banks.any (fun (bk, b) => bankCore bk == core && b.elems.any (fun (i, el) => !el.q0.isEmpty &&
    (match b.instr i with
     | some (.mxdrain o) => o.imm.toNat % 4 == acc && (if 64 ≤ i then b.tile2.getD (bankTile bk) else bankTile bk) == tile
     | _ => false)))

/-- A row on its way to an accumulator: it is written in the sixth fc (01 R18, 09 R230 R231). -/
def CTile.rowUnderway (t : CTile) (a fc : Nat) : Bool :=
  t.kept.any (fun x => (x.2.1 == a || (mxClass x.2.2.2.1.tag.toNat == 3 && x.2.1 + 1 == a)) && decide (fc < x.2.2.2.2 + 6))

/-- A matrix instruction's anchor; its faults remove the faulting operand alone (09 R228). -/
def mxAnchor (o : OpA) (need : Slots) (check : State → Firing → Option (Nat × Nat)) (act : State → Firing → State) (hold : State → Firing → Bool)
    (nums : Slots := {}) : AnchorFiring :=
  -- a firing of round r acts once marker r - 1 has passed the node, so that the node's working copy at marker r is that of its round (09 R222)
  { fl := o.fl, need := need, check := check, culprit := some (fun _ _ => 0), nums := nums, hold := fun s f => decide (mgetD (s.ctile (nodeKey f)).pass f.lk 0 < f.round) || hold s f, act := act }

/-- MXLDB, header firing (09 R229): it requests a marker and takes effect once that marker's cut is complete. -/
def execMxldbHeaderFiring (o : OpA) (s : State) : Host.Outcome State Fault Refusal :=
  let f := s.firing
  let slot (s : State) : WSlot := (s.ctile (nodeKey f)).slot (rowSlot o)
  let ask (s : State) : State := (s.requestMarker f.lk f.e.core).setOst f.e (.mxwait (s.injOf f.lk f.e.core))
  let wants := !f.el.held && decide (f.round ≤ mgetD (s.ctile (nodeKey f)).pass f.lk 0) && f.ops.l.any (fun l => l.v && !l.poison && mxHeaderOk l.pay) && !breaks o.fl f.el && (slot s).state != 1
  match f.el.ost with
  | .mxwait m =>
    .next (s.anchorFire (mxAnchor o needL
      (fun _ f => if !f.ops.l.all Token.v then some (fFormat, 0) else if f.ops.l.all (fun l => mxHeaderOk l.pay) then none else some (fWeight, 0))
      (fun s f =>
        let w : WSlot := { mxOpen (f.ops.l.getD {}).pay with owner := some f.e }
        let t := s.ctile (nodeKey f)
        -- the old contents are gone: every cut that a rollback can return to finds the slot LOADING
        let snaps := t.snaps.map (fun (x : NodeCut) => { x with slots := mset x.slots (rowSlot o) w })
        ((s.setCtile (nodeKey f) { t with slots := mset t.slots (rowSlot o) w, snaps := snaps }).useNode f.e.core (siteTile f)).setOst f.e (.mxldb w.len))
      (fun s f => ((slot s).state == 1 && (slot s).owner != some f.e) || decide (s.cutOf f.lk f.e.core ≤ m))))
  | _ =>
    if wants then .next (ask s)
    else
      .next (s.anchorFire (mxAnchor o needL
        (fun _ f => if !f.ops.l.all Token.v then some (fFormat, 0) else if f.ops.l.all (fun l => mxHeaderOk l.pay) then none else some (fWeight, 0))
        (fun s _ => s) (fun _ _ => true)))

/-- MXLDB, payload firing (09 R229). -/
def execMxldbPayloadFiring (o : OpA) (s : State) : Host.Outcome State Fault Refusal :=
  .next (s.anchorFire (mxAnchor o needL (fun _ f => if f.ops.l.all Token.v then none else some (fFormat, 0))
    (fun s f =>
      let t := s.ctile (nodeKey f)
      let w := t.slot (rowSlot o)
      let w := { w with lines := mset w.lines w.pos (f.ops.l.getD {}).pay, pos := w.pos + 1 }
      let full := decide (w.len ≤ w.pos)
      let w := if full then { w with state := 2, owner := none } else w
      let s := s.setCtile (nodeKey f) { t with slots := mset t.slots (rowSlot o) w }
      if full then (s.setOst f.e .none).result f false 1 (fork (z64Tok w.head.toNat)) else s.setOst f.e (.mxldb (w.len - w.pos)))
    (fun _ _ => false)))

/-- ROWFIRE's effect on the accumulators (09 R230): a row with RV = 0 accumulates nothing. -/
def CTile.row (t : CTile) (w a m : Nat) (l : Token) : CTile × Nat :=
  if !l.rv then (t, 0)
  else
    let ws := t.slot w
    let n := ((mxShape ws.tag).map Prod.snd).getD 0
    (List.range n).foldl (fun (x : CTile × Nat) j =>
      let acc := x.1.accOf (a + j / 64)
      let r := mxLane ws l j (acc.lane m (j % 64))
      ({ x.1 with acc := x.1.acc.set (a + j / 64) (acc.setLane m (j % 64) r.code) }, x.2 ||| r.flags)) (t, 0)

/-- The pair of an A row with its slot and accumulators (09 R224). -/
def rowPairOk (t : CTile) (w a : Nat) (l : Token) : Bool :=
  mxClass l.tag.toNat == mxClass (t.slot w).tag && mxClass l.tag.toNat != 0 &&
  (t.accOf a).i32 == mxInt l.tag.toNat && (mxClass l.tag.toNat != 3 || !(t.accOf (a + 1)).i32)

/-- The faults of a row: format first; then, once the slot is VALID, the pair; then the row index (09 R224 R230, 21 R373). -/
def rowCheck (o : OpA) (indexed : Bool) (s : State) (f : Firing) : Option (Nat × Nat) :=
  let t := s.ctile (nodeKey f)
  if !(f.ops.l.all (dataOk o.ty true) && (!indexed || f.ops.r.all isW32)) then some (fFormat, 0)
  else if (t.slot (rowSlot o)).state ≠ 2 then none
  else if !f.ops.l.all (rowPairOk t (rowSlot o) (rowAcc o)) then some (fFormat, 0)
  else if indexed && f.ops.r.any (fun r => decide (63 < r.low32)) then some (fMatrix, 0)
  else none

/-- The fc that a row accepted now counts from: behind a mismatch in this fc it is issued again with the others, four fc later (09 R235). -/
def CTile.rowFc (t : CTile) (fc : Nat) : Nat := if t.busyTill = fc + 4 then t.busyTill else fc

/-- The node accepts nothing in this fc: four rows are issued again, or MXZERO has cleared an accumulator (09 R232 R235). -/
def CTile.shut (t : CTile) (fc : Nat) : Bool := decide (fc ≤ t.busyTill ∧ t.busyTill ≤ fc + 3 ∧ t.busyTill ≠ 0)

/-- What a row waits for (09 R230 R235). -/
def rowHold (o : OpA) (s : State) (f : Firing) : Bool :=
  let t := s.ctile (nodeKey f)
  let drains (a : Nat) : Bool := s.draining f.e.core (siteTile f) a
  (t.slot (rowSlot o)).state != 2 || drains (rowAcc o) || (o.ty == .kf6 && drains (rowAcc o + 1)) || t.shut s.fc ||
  t.kept.any (fun x => x.2.2.2.2 == t.rowFc s.fc)

/-- A row takes effect and goes on. -/
def rowAct (o : OpA) (indexed : Bool) (s : State) (f : Firing) : State :=
  let t := s.ctile (nodeKey f)
  let a := rowAcc o
  let l := f.ops.l.getD {}
  let m := if indexed then (f.ops.r.map Token.low32).getD 0 else (t.accOf a).rowp
  let r := t.row (rowSlot o) a m l
  let t := r.1
  let acc := t.accOf a
  let t := if indexed then t else { t with acc := t.acc.set a { acc with rowp := (m + 1) % 64 } }
  let kept := t.kept ++ [(rowSlot o, a, m, l, t.rowFc s.fc)]
  let s := (s.setCtile (nodeKey f) { t with kept := kept.drop (kept.length - 6) }).stageFlags f r.2
  s.result f false 1 (fork l)

/-- MXROW (09 R230). -/
def execMxrow (o : OpA) (s : State) : Host.Outcome State Fault Refusal :=
  .next (s.anchorFire (mxAnchor o needL (rowCheck o false) (rowAct o false) (rowHold o)))

/-- The operand that a failed check of MXROWS removes: the A row, or the row index. -/
def rowCulprit (o : OpA) (s : State) (f : Firing) : Nat :=
  if f.ops.l.all (dataOk o.ty true) && (!f.ops.r.all isW32 || f.ops.l.all (rowPairOk (s.ctile (nodeKey f)) (rowSlot o) (rowAcc o))) then 1 else 0

/-- MXROWS (09 R230). -/
def execMxrows (o : OpA) (s : State) : Host.Outcome State Fault Refusal :=
  .next (s.anchorFire { mxAnchor o needLR (rowCheck o true) (rowAct o true) (rowHold o) { r := true } with culprit := some (rowCulprit o) })

/-- The row tokens of a drain: lanes 16q to 16q + 15 of each row. -/
def drainTokens (a : Acc) (m0 c : Nat) : List Token :=
  (List.range (4 * c)).map (fun i =>
    { pay := vecPay 32 ((List.range 16).map (fun j => a.lane (m0 + i / 4) (16 * (i % 4) + j))), tag := if a.i32 then 2 else 0x10, v := true })

/-- MXDRAIN (09 R231): the first token in the second fc after the firing starts; pred true after the last. -/
def execMxdrain (o : OpA) (s : State) : Host.Outcome State Fault Refusal :=
  let a := o.imm.toNat % 4
  let m0 := o.imm.toNat / 4 % 64
  let c := o.imm.toNat / 256 % 64 + 1
  .next (s.anchorFire (mxAnchor o needL (fun _ _ => none)
    (fun s f =>
      let t := s.ctile (nodeKey f)
      let acc := t.accOf a
      let s := (drainTokens acc m0 c).zipIdx.foldl (fun s (x : Token × Nat) => s.result f false (3 + x.2) [(0, x.1)]) s
      let s := s.result f true (3 + 4 * c) [(1, predTok true)]
      if o.bit 0 then
        let zero := (List.range (64 * c)).foldl (fun x i => x.setLane (m0 + i / 64) (i % 64) 0) acc
        s.setCtile (nodeKey f) { t with acc := t.acc.set a zero }
      else s)
    (fun s f => s.draining f.e.core (siteTile f) a || (s.ctile (nodeKey f)).rowUnderway a s.fc)))

/-- MXCLR (09 R232). -/
def execMxclr (o : OpA) (s : State) : Host.Outcome State Fault Refusal :=
  .next (s.anchorFire (mxAnchor o needL (fun _ _ => none)
    (fun s f =>
      let t := s.ctile (nodeKey f)
      let s := s.setCtile (nodeKey f) { t with acc := t.acc.set (o.imm.toNat % 4) { i32 := o.ty == .i32 }, busyTill := max t.busyTill s.fc }
      s.result f false 1 (fork (f.ops.l.getD {}).pass))
    (fun s f => let t := s.ctile (nodeKey f); t.shut s.fc || t.kept.any (fun x => x.2.2.2.2 == s.fc))))

/-- The node status (09 R233). -/
def CTile.status (t : CTile) (a : Nat) : Nat :=
  let mask (st : Nat) : Nat := ((List.range 8).map (fun w => if (t.slot w).state = st then 2 ^ w else 0)).sum
  (min t.rplc (2 ^ 32 - 1)) * 2 ^ 32 + mask 1 * 2 ^ 16 + mask 2 * 2 ^ 8 + (if (t.accOf a).i32 then 2 ^ 6 else 0) + (t.accOf a).rowp

/-- MXCFG (09 R233). -/
def execMxcfg (o : OpA) (s : State) : Host.Outcome State Fault Refusal :=
  let a := o.imm.toNat % 4
  .next (s.anchorFire (mxAnchor o needL
    (fun _ f => if o.bit 0 && !f.ops.l.all (fun l => isAddr l && decide (l.word < 64)) then some (fFormat, 0) else none)
    (fun s f =>
      let t := s.ctile (nodeKey f)
      let t := if o.bit 0 then { t with acc := t.acc.set a { t.accOf a with rowp := (f.ops.l.map Token.word).getD 0 } } else t
      (s.setCtile (nodeKey f) t).result f false 1 (fork (z64Tok (t.status a))))
    (fun _ _ => false) { l := o.bit 0 }))

end Sys2Proof.Machine
end

