-- ==== Sys2Proof/Machine/Trace.lean ====
section
/-! DEFINITION. The dispatch trace (19 R345-R349): its buffer, its records and its streams; pinned ranges (20 R360); and the writes of the control
and status registers that have behaviour (18 R316, 19 R346, 20 R370, 21 R379 R392). -/

namespace Sys2Proof.Machine

/-! ### Pinned ranges -/

/-- The device address of n bytes that lie in one pinned range of a partition, writable where asked (20 R360). -/
def State.pinned (s : State) (part a n : Nat) (wr : Bool) : Option Nat :=
  match walkResult s (s.part part) a with
  | .error _ => none
  | .ok w =>
    if !entBit w atPIN || (wr && !entBit w atWR) || decide (entLimit w < a + n) then none
    else match backing s part w a n 0 false wr with
      | .ok (p :: _) => if p.space == .dev then some p.addr else none
      | _ => none

/-- A notice that names no place (21 R374): word 2, INFO and AUX. It goes out through the handler tile's core. -/
def State.partNotice (s : State) (part lid code w2 info aux : Nat) : State :=
  let p := s.part part
  if !p.en then s.halt part
  else
    s.sendRecord p.hcore ⟨siteWord code lid 0 0 0 0 kindNotice 0 false, [BitVec.ofNat 64 w2, 0, 0, 0, BitVec.ofNat 64 info, BitVec.ofNat 64 aux], 0⟩

/-! ### Records (19 R347) -/

/-- Types of a record. -/
def trDISPATCH : Nat := 1
def trCORES : Nat := 2
def trSCARAB : Nat := 3
def trUNIT : Nat := 4
def trSHRINK : Nat := 5
def trEND : Nat := 6
def trTRAILER : Nat := 15

/-- Word 0 of a record. -/
def trWord (ty ltag a : Nat) : Nat := a * 2 ^ 20 + ltag % 2 ^ 16 * 2 ^ 4 + ty

/-- Address of record i. -/
def trAddr (p : Partition) (i : Nat) : Nat := p.trcBase.toNat + 16 * i

/-- The two words of record i of the buffer. -/
def State.trRead (s : State) (part i : Nat) : Option (Nat × Nat) :=
  (s.pinned part (trAddr (s.part part) i) 16 false).map (fun a => (word64 s.mem a, word64 s.mem (a + 8)))

/-- Store the two words of record i, where the buffer takes them. -/
def State.trStore (s : State) (part i w0 w1 : Nat) : Option State :=
  let p := s.part part
  if p.trcLen.toNat ≤ i then none
  else (s.pinned part (trAddr p i) 16 true).map (fun a => { s with mem := writeBytes s.mem a (leBytes 8 w0 ++ leBytes 8 w1) })

/-- Append a record: one that does not fit is dropped, sets OVF and gives a notice (19 R347). -/
def State.trAppend (s : State) (part w0 w1 : Nat) : State :=
  let p := s.part part
  match s.trStore part p.trcPos w0 w1 with
  | some s => s.setPart part { s.part part with trcPos := p.trcPos + 1 }
  | none => (s.setPart part { p with trcOvf := true }).partNotice part 0 fTraceOvf 0 0 0

/-- A record of a launch in record mode; untracked launches write nothing. -/
def State.trRecord (s : State) (part : Nat) (l : Launch) (ty a b : Nat) : State :=
  if (s.part part).trcMode = 1 ∧ l.trk = true then s.trAppend part (trWord ty l.ltag a) b else s

/-- The cores of a half as a mask. -/
def coreMask (half : Nat) (cs : List Nat) : Nat := ((cs.filter (fun c => c / 64 == half)).map (fun c => 2 ^ (c % 64))).sum

/-- DISPATCH and CORES of a dispatch. -/
def State.trDispatch (s : State) (part : Nat) (l : Launch) (dseq : Nat) : State :=
  [0, 1].foldl (fun s h => if l.cores.any (fun c => c / 64 == h) then s.trRecord part l trCORES h (coreMask h l.cores) else s)
    (s.trRecord part l trDISPATCH l.size dseq)

/-! ### Streams in bind mode (19 R348) -/

/-- The trace is bound for a launch. -/
def State.trBound (s : State) (part : Nat) (trk : Bool) : Bool := (s.part part).trcMode == 2 && trk

/-- The first record not consumed that a stream accepts: its index and words. -/
def State.trNext (s : State) (part : Nat) (mine : Nat → Nat → Bool) : Option (Nat × Nat × Nat) :=
  let p := s.part part
  (List.range p.trcEnd).findSome? (fun i =>
    if p.trcUsed.contains i then none
    else match s.trRead part i with
      | some (a, b) => if mine a b then some (i, a, b) else none
      | none => none)

/-- Consume a record. -/
def State.trUse (s : State) (part i : Nat) : State :=
  let p := s.part part
  s.setPart part { p with trcUsed := p.trcUsed ++ [i], trcPos := p.trcPos + 1 }

/-- Fields of word 0. -/
def trType (w0 : Nat) : Nat := bitsAt w0 0 4
def trTag (w0 : Nat) : Nat := bitsAt w0 4 16
def trA (w0 : Nat) : Nat := bitsAt w0 20 44

/-- The next DISPATCH with the cores of its CORES records: index list, tag, size, cores. -/
def State.trNextDispatch (s : State) (part : Nat) : Option (List Nat × Nat × Nat × List Nat) :=
  match s.trNext part (fun a _ => trType a == trDISPATCH) with
  | none => none
  | some (i, a, _) =>
    let mask (j : Nat) : List (Nat × Nat × Nat) := match s.trRead part (i + j) with
      | some (x, y) => if trType x = trCORES ∧ trTag x = trTag a then [(i + j, trA x % 2, y)] else []
      | none => []
    let ms := match mask 1 with
      | [] => []
      | m => m ++ mask 2
    some (i :: ms.map Prod.fst, trTag a, trA a % 256, ms.flatMap (fun x => ((List.range 64).filter (fun b => bitAt x.2.2 b)).map (fun b => 64 * x.2.1 + b)))

/-! ### Register writes -/

/-- A launch with TRK = 1 is queued or runs (19 R346). -/
def Partition.tracked (p : Partition) : Bool := p.launches.any (fun x => x.2.trk) || p.queue.any (fun q => bitAt (q.words.getD 3 0) 28)

/-- A refused write to a trace register sets ERR. -/
def State.trRefuse (s : State) (part : Nat) : State := s.setPart part { s.part part with trcErr := true }

/-- Leaving record mode writes a TRAILER where it fits (19 R346). -/
def State.trLeave (s : State) (part : Nat) : State :=
  let p := s.part part
  if p.trcMode ≠ 1 then s
  else
    match s.trStore part p.trcPos (trWord trTRAILER 0 (if p.trcOvf then 1 else 0)) p.trcPos with
    | some s => s.setPart part { s.part part with trcPos := p.trcPos + 1, trcRec := p.trcPos + 1 }
    | none => s.setPart part { p with trcRec := p.trcPos }

/-- TRC_CTL.MODE off (19 R346). -/
def State.trOff (s : State) (part : Nat) : State :=
  if (s.part part).tracked then s.trRefuse part else let s := s.trLeave part; s.setPart part { s.part part with trcMode := 0 }

/-- TRC_CTL.MODE record. -/
def State.trStart (s : State) (part : Nat) : State :=
  if (s.part part).tracked then s.trRefuse part
  else s.setPart part { s.part part with trcMode := 1, trcPos := 0, trcOvf := false, trcDiv := false }

/-- TRC_CTL.MODE bind: a TRAILER at record POS - 1 of the previous recording with OVF = 0 is required. -/
def State.trBind (s : State) (part : Nat) : State :=
  if (s.part part).tracked then s.trRefuse part
  else
    let s' := s.trLeave part
    let p := s'.part part
    match s'.trRead part (p.trcRec - 1) with
    | some (a, _) =>
      if trType a = trTRAILER ∧ bitAt (trA a) 0 = false ∧ p.trcOvf = false ∧ 0 < p.trcRec then
        s'.setPart part { p with trcMode := 2, trcEnd := p.trcRec - 1, trcPos := 0, trcUsed := [] }
      else s.trRefuse part
    | none => s.trRefuse part

/-- RND_PERIOD of a launch (18 R316): a value outside 128 to 65,536 changes nothing. -/
def State.setPeriod (s : State) (lk v : Nat) : State := if 128 ≤ v ∧ v ≤ 65536 then s.mapLaunch lk (fun l => { l with period := v }) else s

/-- MT_CTL (21 R379 R392): EXACT holds every core's STEP at 0. -/
def State.setTrim (s : State) (part v : Nat) : State :=
  let p := s.part part
  let s := s.setPart part { p with exact := bitAt v 0, tlim := bitsAt v 4 3 }
  if bitAt v 0 then p.cores.foldl (fun s k => s.setCore k { s.core k with step := 0 }) s else s

/-- RDIR_CNT (20 R370): ignored while DLOCK = 0. -/
def State.setDirCount (s : State) (part v : Nat) : State :=
  let p := s.part part
  if p.dlock then s.setPart part { p with rdirCnt := v % 2 ^ 32 } else s

/-- A register without behaviour of its own: its writable bits are replaced; reserved and read-only bits, and registers that software cannot write,
ignore the value (18 R316). -/
def State.plainWrite (s : State) (part index : Nat) (v : BitVec 64) : State :=
  let p := s.part part
  match index with
  | 0x023 => s.setPart part { p with hndMsg := v }
  | 0x103 => s.setPart part { p with dlock := bitAt v.toNat 0 }
  | 0x181 => if bitsAt v.toNat 0 4 = 0 then s else s.setPart part { p with rbmax := bitsAt v.toNat 0 4 }
  | 0x184 => s.setPart part { p with shrBase := v }
  | 0x185 => s.setPart part { p with shrLen := v.setWidth 40 }
  | 0x201 => if p.tracked then s.trRefuse part else s.setPart part { p with trcBase := v }
  | 0x202 => if p.tracked then s.trRefuse part else s.setPart part { p with trcLen := v.setWidth 32 }
  | _ => s

/-- A write of any register but NUMF (18 R316). -/
def State.csrWrite (s : State) (lk index : Nat) (v : BitVec 64) : State :=
  let part := lkPart lk
  match index with
  | 0x003 => s.setPeriod lk v.toNat
  | 0x101 => s.setDirCount part v.toNat
  | 0x182 => s.setTrim part v.toNat
  | 0x200 =>
    match bitsAt v.toNat 0 2 with
    | 0 => s.trOff part
    | 1 => s.trStart part
    | 2 => s.trBind part
    | _ => s.trRefuse part
  | _ => s.plainWrite part index v

/-- TRACE_MODE_OFF (19 R346). -/
def execTraceModeOff (part : Nat) (s : State) : Host.Outcome State Fault Refusal := .next (s.trOff part)
/-- TRACE_MODE_RECORD (19 R346). -/
def execTraceModeRecord (part : Nat) (s : State) : Host.Outcome State Fault Refusal := .next (s.trStart part)
/-- TRACE_MODE_BIND (19 R346). -/
def execTraceModeBind (part : Nat) (s : State) : Host.Outcome State Fault Refusal := .next (s.trBind part)
/-- RND_PERIOD_WRITE (18 R316). -/
def execRndPeriodWrite (lk value : Nat) (s : State) : Host.Outcome State Fault Refusal := .next (s.setPeriod lk value)
/-- EXACT_MODE_SET (21 R392). -/
def execExactModeSet (part : Nat) (s : State) : Host.Outcome State Fault Refusal := .next (s.setTrim part (1 + (s.part part).tlim * 2 ^ 4))
/-- DIRECTORY_LOCK (20 R370). -/
def execDirectoryLock (part : Nat) (s : State) : Host.Outcome State Fault Refusal := .next (s.plainWrite part 0x103 1)
/-- RDIR_CNT_WRITE (20 R370). -/
def execRdirCntWrite (part value : Nat) (s : State) : Host.Outcome State Fault Refusal := .next (s.setDirCount part value)
/-- REGISTER_WRITE (18 R316). -/
def execRegisterWrite (part index : Nat) (value : BitVec 64) (s : State) : Host.Outcome State Fault Refusal := .next (s.plainWrite part index value)

end Sys2Proof.Machine
end

