-- ==== Sys2Proof/Machine/Commit.lean ====
section
/-! DEFINITION. What commits at a marker (12 R269-R272): a block's bank, a memory tile, a matrix node, the port of a core, and the units at home
slices (13 R281-R288); the context record of a bank (18 R330). -/

namespace Sys2Proof.Machine

/-- Ordered mode of a launch. -/
def State.ordOf (s : State) (lk : Nat) : Bool := (s.launch lk).any Launch.ord

/-- Replace what is kept for a cut and drop what is older than the cut before it. -/
def keepSnap {α : Type} (round : Nat) (x : α) (m : Map α) : Map α := mset (m.filter (fun y => decide (round ≤ y.1 + 1))) round x

/-! ### The context record (18 R330) -/

/-- The sideband of a stored value. -/
def Stored.sb (v : Stored) : Nat := sideband v.token

/-- What a block's operator holds in a record: the low nibble of its opcode. -/
def statefulNibble (i : Option Instr) : Option Nat :=
  match i with
  | some (.carry _) => some 3
  | some (.invar _) => some 4
  | some (.gatePassFiring _) => some 9
  | some (.gateCreditFiring _) => some 9
  | some (.countLFiring _) => some 10
  | some (.countPFiring _) => some 10
  | some (.repeatCopies _) => some 11
  | _ => none

/-- A CVT instruction. -/
def isCvt (i : Option Instr) : Bool :=
  match i with
  | some (.cvt _) => true
  | _ => false

/-- The indices of a block's instructions that a test accepts. -/
def Bank.indices (b : Bank) (p : Option Instr → Bool) : List Nat := (b.words.map Prod.fst).filter (fun i => p (b.instr i))

/-- The stream word of a CVT; one that has not fired has the headroom it starts with. -/
def cvtWord (i : Nat) (ins : Option Instr) (x : OpState) : Nat :=
  match x, ins with
  | .cvt u h _, _ => u + 2 ^ 32 * h + 2 ^ 36 * i + 2 ^ 63
  | _, some (.cvt o) => 2 ^ 32 * headroom0 o + 2 ^ 36 * i + 2 ^ 63
  | _, _ => 2 ^ 36 * i + 2 ^ 63

/-- The two lines of a stateful router operator: words 0 and 1 of line A, and line B. -/
def statLines (i n : Nat) (x : OpState) : List Nat × Nat :=
  let base := i + n * 2 ^ 7
  match x with
  | .carry a => ([base + (if a then 2 ^ 12 else 0), 0], 0)
  | .invar (some v) => ([base + 2 ^ 12 + 2 ^ 13 + sideband v * 2 ^ 14, 0], v.pay.toNat)
  | .gate c => ([base, c], 0)
  | .count c => ([base, c], 0)
  | _ => ([base, 0], 0)

/-- The committed state of a converter after round r (04 R88). -/
def OpState.commitTo (x : OpState) (r : Nat) : OpState :=
  match x with
  | .cvt u h st =>
    match (st.filter (fun y => decide (y.1 ≤ r))).getLast? with
    | some (_, u', h') => .cvt u' h' (st.filter (fun y => decide (r < y.1)))
    | .none => .cvt u h st
  | x => x

/-- The state of an instruction as marker m commits it (04 R88, 06 R139): what it was when the instruction forwarded the marker. -/
def Elem.committed (x : Elem) (m : Nat) : OpState := (((mget x.snaps (m + 1)).map ElemCut.ost).getD x.ost).commitTo m

/-- The bytes of the context record of a bank at marker m. -/
def contextRecord (b : Bank) (img m : Nat) : List Byte :=
  let cvts := b.indices isCvt
  let stats := b.indices (fun i => (statefulNibble i).isSome)
  let q := (b.qbind.zipIdx.map (fun (x, j) => (x + 2 ^ 11) * 2 ^ (12 * j))).sum
  let reg (i : Nat) : Stored := mgetD b.regs i { v := decide (16 ≤ i) }
  let line0 := [b.blk + lkLid b.lk * 2 ^ 24 + 2 ^ 40 + (if b.pin then 2 ^ 48 else 0), img, m, b.numf.toNat, q, stats.length + cvts.length * 2 ^ 8, 0, 0]
  let side := ((List.range 24).map (fun i => (reg i).sb * 2 ^ (16 * i))).sum
  let lines := (cvts.length + 7) / 8
  line0.flatMap (leBytes 8) ++
  (List.range 16).flatMap (fun i => leBytes 8 (bitsAt (reg i).pay.toNat 0 64)) ++
  (List.range 8).flatMap (fun i => leBytes 64 (reg (16 + i)).pay.toNat) ++
  leBytes 64 side ++
  (List.range (8 * lines)).flatMap (fun k => leBytes 8 (match cvts[k]? with
    | some i => cvtWord i (b.instr i) ((b.elem i).committed m)
    | none => 0)) ++
  stats.flatMap (fun i => let x := statLines i ((statefulNibble (b.instr i)).getD 0) ((b.elem i).committed m)
                          x.1.flatMap (leBytes 8) ++ List.replicate 48 0 ++ leBytes 64 x.2)

/-! ### Banks -/

/-- The B flag of a word, set or clear (05 R104 R106, 21 R393): bit 54 of Format B, bit 44 of the others. -/
def setBFlag (w : Word64) (on : Bool) : Word64 :=
  let k := if w.toNat / 2 ^ 56 = 5 then 54 else 44
  let m : Word64 := BitVec.ofNat 64 (2 ^ k)
  if on then w ||| m else w &&& ~~~m

/-- The new value of a register (18 R316). -/
def csrCombine (mode old : Nat) (v : Word64) : Word64 :=
  if mode = 1 then BitVec.ofNat 64 old ||| v else if mode = 2 then BitVec.ofNat 64 old &&& ~~~v else v

/-- Staged items of rounds up to r, and the others. -/
def splitRound {α : Type} (r : Nat) (xs : List (Nat × α)) : List α × List (Nat × α) :=
  ((xs.filter (fun x => decide (x.1 ≤ r))).map Prod.snd, xs.filter (fun x => decide (r < x.1)))

/-- The bank a selector names (18 R329). -/
def selBank (sel : Nat) : Nat := bankKeyOf (bitsAt sel 0 7) (bitsAt sel 7 4) (bitsAt sel 11 2)

/-- A selector names a bank, on either tile of its block's span. -/
def State.selects (s : State) (sel bk : Nat) : Bool := selBank sel == bk || (s.bank (selBank sel)).upper == some bk

/-- The descriptor words of a streamer that marker r of a bank commits (08 R205, 12 R271), with what they replace; those of complete cuts are forgotten. -/
def Streamer.commit (x : Streamer) (lk bk r cut : Nat) : Streamer :=
  let x := x.stage.foldl (fun (z : Streamer) y =>
    if y.bank = bk ∧ y.lk = lk ∧ y.old.isNone = true ∧ y.round ≤ r then { z.setWord y.word y.val with stage := z.stage ++ [{ y with old := some (z.word y.word) }] }
    else { z with stage := z.stage ++ [y] }) { x with stage := [] }
  { x with stage := x.stage.filter (fun y => !(y.lk == lk && y.old.isSome && decide (y.round < cut))) }

/-- MARKER r PASSES A BLOCK (12 R271, 04 R83 R88, 06 R154, 08 R205, 18 R316 R331): context registers in commit order, flags and then the writes of NUMF,
streams, descriptors of streamers, the B flags of the debug port; a CTXSAVE of the bank takes its record. -/
def State.commitBank (s : State) (bk r : Nat) : State :=
  let b := s.bank bk
  let ord := s.ordOf b.lk
  let (ws, rest) := splitRound r b.rstage
  let regs := (commitOrder ord RegWrite.key RegWrite.seq ws).foldl (fun m w => mset m w.reg w.val) b.regs
  let (fs, frest) := splitRound r b.nstage
  let c := s.core (bankCore bk)
  let mine (w : CsrWrite) : Bool := w.bank == bk && w.index == 0 && decide (w.round ≤ r)
  let numf := fs.foldl (fun (x : BitVec 5) f => x ||| f) b.numf
  let numf := (commitOrder ord CsrWrite.key CsrWrite.seq (c.csrStage.filter mine)).foldl (fun (x : BitVec 5) w => (csrCombine w.mode x.toNat w.val).setWidth 5) numf
  let words := b.dbgStage.foldl (fun ws (i, on) => match mget ws i with
    | some w => mset ws i (setBFlag w on)
    | none => ws) b.words
  let elems := b.elems.map (fun (i, (x : Elem)) => (i, { x with ost := x.ost.commitTo r }))
  let open' := (s.part (lkPart b.lk)).sites.any (fun x => siteKey x.site == bk)
  let b : Bank := {
    b with regs := regs, rstage := rest, numf := numf, nstage := frest, words := words, dbgStage := [], elems := elems, mpass := r + 1, heldC := open' }
  let b : Bank := { b with snaps := b.snaps.filter (fun x => decide (r ≤ x.round)) ++ [{ round := r + 1, regs := regs, numf := numf, ops := [] }] }
  let img := ((s.launch b.lk).map Launch.img).getD 0
  let save (x : Cmd) : Cmd :=
    if x.op = 0xD7 ∧ x.loaded = false ∧ x.finished = false ∧ s.selects (x.words.getD 1 0) bk = true then
      let rc := contextRecord b img r
      { x with loaded := true, total := rc.length, buf := writeBytes [] 0 rc }
    else x
  let cut := s.cutOf b.lk (bankCore bk)
  let s := { s with mtiles := s.mtiles.map (fun (k, (t : MTile)) => (k, if k / 16 = bankCore bk then { t with strm := t.strm.map (fun (x : Streamer) => x.commit b.lk bk r cut) } else t)) }
  let s := s.setCore (bankCore bk) { c with csrStage := c.csrStage.filter (fun w => !mine w) }
  let s := { s with cores := s.cores.map (fun (k, (c : Core)) => (k, { c with cmds := c.cmds.map save })) }
  s.setBank bk b

/-! ### Memory tiles -/

/-- A launch's records of several pushers become poppable at their marker, in sorted order (06 R151). -/
def commitRecs (lk r : Nat) (recs : List QRec) : List QRec :=
  let due (x : QRec) : Bool := x.key.isSome && x.lk == lk && decide (x.round ≤ r)
  let key (x : QRec) : Key := x.key.getD ⟨0, 0, 0, 0, 0⟩
  recs.filter (fun x => x.key.isNone) ++ (commitOrder true key QRec.seq (recs.filter due)).map (fun (x : QRec) => { x with key := none }) ++
  recs.filter (fun x => x.key.isSome && !due x)

/-- Carry the bytes that changed from one memory to another into a third. -/
def carryBytes (old new m : Memory) : Memory :=
  (((old ++ new).map Prod.fst).filter (fun a => memRead old a != memRead new a)).foldl (fun m a => memWrite m a (memRead new a)) m

/-- MARKER r PASSES A MEMORY TILE (12 R271 R272): staged writes and operations, and those performed on arrival, in commit order; queue records; what waits for
a commit looks again. -/
def State.commitTile (s : State) (lk core t r : Nat) : State :=
  let k := tileKey core t
  let m := s.mtile k
  let mine (a : Arrival) : Bool := a.lk == lk && decide (a.round ≤ r)
  let xs := writeOrder (s.ordOf lk) (m.stage.filter mine ++ m.undone.filter (fun a => mine a && !a.plain))
  let before := m.bytes
  let s := (s.commitCheck (lkPart lk) xs).setMtile k { m with stage := m.stage.filter (fun a => !mine a) }
  let s := xs.foldl State.commitOp s
  let m := s.mtile k
  let cut : TileCut := { lk := lk, round := r + 1, bytes := m.bytes }
  -- what the handler launch commits stays through a rollback of the region (18 R312)
  let kept (x : TileCut) : TileCut := if x.lk = lk then x else { x with bytes := carryBytes before m.bytes x.bytes }
  let snaps := if lkLid lk = 0 then m.snaps.map kept else m.snaps.filter (fun x => x.lk != lk || decide (r ≤ x.round)) ++ [cut]
  (s.setMtile k { m with recs := commitRecs lk r m.recs, pass := mset m.pass lk (r + 1), snaps := snaps }).wake

/-! ### Matrix nodes -/

/-- MARKER r PASSES A NODE (09 R222 R235): the working copies become the committed copies; a round without a mismatch ends RESX, a round of the region where
one is bound to the core. -/
def State.commitNode (s : State) (lk core t r : Nat) : State :=
  let k := tileKey core t
  let n := s.ctile k
  let cut : NodeCut := { lk := lk, round := r + 1, slots := n.slots, acc := n.acc }
  let snaps := if lkLid lk = 0 then n.snaps else n.snaps.filter (fun x => x.lk == lk && decide (r ≤ x.round)) ++ [cut]
  let counts := lkLid lk != 0 || (s.core core).lk.isNone
  s.setCtile k { n with pass := mset n.pass lk (r + 1), snaps := snaps, resx := if n.mism || !counts then n.resx else 0, mism := n.mism && !counts }

/-! ### The port of a core -/

/-- The value of a register that has one place and is read at firing (18 R315). -/
def State.csrBase (s : State) (part lk core index : Nat) : Nat :=
  let p := s.part part
  let l := (s.launch lk).getD { lid := 0, img := 0, size := 0, cores := [] }
  match index with
  | 0x003 => l.period
  | 0x010 => Config.feat0
  | 0x011 => Config.feat1
  | 0x012 => Config.feat2
  | 0x013 => Config.feat3
  | 0x020 => p.fqlog * 2 ^ 20 + (if p.en then 2 ^ 7 else 0) + p.hcore
  | 0x021 => p.fqBase.toNat
  | 0x022 => p.fq.length + min 0xFFFF ((p.cores.map (fun k => (s.core k).frecs.length)).sum) * 2 ^ 16
  | 0x023 => p.hndMsg.toNat
  | 0x100 => p.rdirBase
  | 0x101 => p.rdirCnt
  | 0x102 => p.rdirCap
  | 0x103 => (if p.dlock then 1 else 0) + (if p.busy then 2 else 0)
  | 0x180 => min l.l1cnt (2 ^ 32 - 1) + min l.rbcnt 0xFFFF * 2 ^ 32 + (if l.l3 then 2 ^ 48 + l.fcore * 2 ^ 49 else 0)
  | 0x181 => p.rbmax
  | 0x182 => (if p.exact then 1 else 0) + (s.core core).step * 2 + p.tlim * 2 ^ 4
  | 0x183 => min l.tcnt (2 ^ 32 - 1)
  | 0x184 => p.shrBase.toNat
  | 0x185 => p.shrLen.toNat
  | 0x200 => p.trcMode
  | 0x201 => p.trcBase.toNat
  | 0x202 => p.trcLen.toNat
  | 0x203 => p.trcPos % 2 ^ 32 + (if p.trcOvf then 2 ^ 32 else 0) + (if p.trcDiv then 2 ^ 33 else 0) + (if p.trcErr then 2 ^ 34 else 0)
  | 0x280 => part + p.cores.length * 2 ^ 8 + p.ports.toNat * 2 ^ 16
  | 0x281 => ((List.range 4).map (fun d => (s.dies[d]?.map (fun x => (if x.onl then 2 ^ d else 0) + x.st * 2 ^ (2 * d + 4))).getD 0)).sum
  | 0x282 => s.hub.jrnSeq
  | _ => 0

/-- Apply one staged write. -/
def State.csrApply (s : State) (lk core : Nat) (w : CsrWrite) : State :=
  s.csrWrite lk w.index (csrCombine w.mode (s.csrBase (lkPart lk) lk core w.index) w.val)

/-- A fill enters a fetch cache of 2 MiB (01 R14, 08 R202): a full one gives a line up for it. -/
def cacheFill (r tick : Nat) (m : Map (Nat × Payload)) (x : Nat × Nat × Nat) : Map (Nat × Payload) :=
  let m := if (mget m x.1).isSome || decide (m.length < Config.fetchLines) then m else m.eraseIdx (Config.fetchVictim tick % m.length)
  mset m x.1 (r, BitVec.ofNat 512 x.2.2)

/-- MARKER r PASSES A CORE'S PORT (12 R271, 18 R312 R316, 20 R363 R365, 21 R391): the round's writes go to their homes ahead of it, fills enter the
fetch cache, staged register and table writes take effect, invalidations reach the core, IDLE counts the system bank's markers. -/
def State.commitPort (s : State) (lk core r : Nat) : State :=
  let part := lkPart lk
  let c := s.core core
  let mine (a : Arrival) : Bool := a.lk == lk && decide (a.round ≤ r)
  let csr (w : CsrWrite) : Bool := (s.bank w.bank).lk == lk && w.index != 0 && decide (w.round ≤ r)
  let ws := commitOrder (s.ordOf lk) CsrWrite.key CsrWrite.seq (c.csrStage.filter csr)
  -- the trim step changes at markers of the system bank, or at the region's where there is none (21 R391)
  let trims := lkLid lk == 0 || (s.part part).handler.isNone
  let step := if trims && decide (256 < c.replays) then c.step - 1 else c.step
  let fills := c.fcFill.filter (fun x => x.2.1 == lk)
  let c' : Core := {
    c with gstage := c.gstage.filter (fun a => !mine a), csrStage := c.csrStage.filter (fun w => !csr w), walks := c.walks.filter (fun w => w.fault.isNone),
           fcache := fills.zipIdx.foldl (fun m x => cacheFill r (s.tick + x.2) m x.1) c.fcache, fcFill := c.fcFill.filter (fun x => x.2.1 != lk), pass := mset c.pass lk (r + 1),
           step := step, replays := if trims then 0 else c.replays,
           idles := if lkLid lk = 0 then c.idles.map (fun (e, fl, n, m) => (e, fl, n - 1, m)) else c.idles }
  let s := { s.setCore core c' with units := s.units ++ c.gstage.filter mine, tick := s.tick + fills.length }
  let s := ws.foldl (fun s w => s.csrApply lk core w) s
  let s := if lkLid lk ≠ 0 ∨ c.lk.isNone then s.rttCommit core lk r else s
  -- DIE_STAT shows a die that has come back from the next marker of a system bank on (23 R408)
  let s := if lkLid lk = 0 then { s with dies := s.dies.map (fun (d : Die) => if d.st = 0 then { d with onl := true } else d) } else s
  if lkLid lk ≠ 0 ∨ c.lk.isNone then s.invalMarker core part lk r else s

/-! ### Units at slices -/

/-- An arrival stands at a slice of device memory. -/
def State.atSlice (s : State) (a : Arrival) (slice : Nat) : Bool := a.space == .dev && s.sliceOf (lkPart a.lk) a.addr == slice

/-- The launch holds a view of the slice (13 R285). -/
def State.hasView (s : State) (lk slice : Nat) : Bool := s.views.any (fun v => v.1 == slice && v.2.1 == lk)

/-- The next round that a slice has to apply for a launch: its view's next, or the least with something pending there. -/
def State.nextUnit (s : State) (lk core slice : Nat) : Option Nat :=
  let c := s.cutOf lk core
  if s.hasView lk slice then (let n := s.appliedRounds lk core slice; if n < c then some n else none)
  else
    let rs := ((s.units ++ s.undone).filter (fun a => a.of lk core && s.atSlice a slice && decide (a.round < c))).map Arrival.round
    rs.foldl (fun (b : Option Nat) r => match b with
      | none => some r
      | some x => some (min x r)) none

/-- Before a home applies a unit, the host's copies of its lines are written back and invalidated (13 R291). -/
def State.recall (s : State) (xs : List Arrival) : State :=
  xs.foldl (fun s a =>
    let l := a.addr / 64 * 64
    match mget s.hostLines l with
    | some v => { s.homeWrite .dev l (leBytes 64 v.toNat) with hostLines := mdel s.hostLines l }
    | none => s) s

/-- A SLICE APPLIES THE UNIT (L, r), whole (13 R283 R285): its writes and operations, and the operations of the round performed on arrival, in commit order;
then the view, the interleave and the trace, and what waits for a commit looks again. -/
def State.applyUnit (s : State) (lk core slice r : Nat) : State :=
  let part := lkPart lk
  let mine (a : Arrival) : Bool := a.of lk core && s.atSlice a slice && decide (a.round ≤ r)
  let xs := writeOrder (s.ordOf lk) (s.units.filter mine ++ s.undone.filter (fun a => mine a && !a.plain))
  let s0 := { s.commitCheck part xs with units := s.units.filter (fun a => !mine a) }
  let s1 := xs.foldl State.commitOp (s0.recall xs)
  let s1 := { s1 with applied := mset s1.applied (appliedKey lk core slice) (r + 1) }
  let s1 :=
    if s.hasView lk slice then
      let v := { s1 with
        views := s1.views.map (fun v => if v.1 = slice ∧ v.2.1 = lk then (slice, lk, r, s1.mem) else v), interleave := s1.interleave ++ [(slice, lk, r)] }
      match s.launch lk with
      | some l => if l.ord then v.trRecord part l trUNIT slice r else v
      | none => v
    else s1
  (s1.wake.settle part).sendRinvs part

end Sys2Proof.Machine
end

