-- ==== Sys2Proof/Machine/Launch.lean ====
section
/-! DEFINITION. Launch packets and queues (19 R336-R340), the effects that the dispatcher applies at a marker (06 R155-R158), and the end of a launch:
retirement, TKILL, a trace divergence (02 R44, 18 R328, 19 R343 R349). -/

namespace Sys2Proof.Machine

/-! ### Packets -/

/-- Word i of a packet. -/
def pkW (ws : List Nat) (i : Nat) : Nat := ws.getD i 0
def pkImg (ws : List Nat) : Nat := pkW ws 0
def pkEntry (ws : List Nat) : Nat := bitsAt (pkW ws 1) 0 24
def pkNthr (ws : List Nat) : Nat := bitsAt (pkW ws 1) 32 32
def pkArgs (ws : List Nat) : Nat := pkW ws 2
def pkArgw (ws : List Nat) : Nat := bitsAt (pkW ws 3) 0 3
def pkRndp (ws : List Nat) : Nat := bitsAt (pkW ws 3) 4 17
def pkMaxc (ws : List Nat) : Nat := bitsAt (pkW ws 3) 21 7
def pkTrk (ws : List Nat) : Bool := bitAt (pkW ws 3) 28
def pkTag (ws : List Nat) : Nat := bitsAt (pkW ws 4) 0 16
def pkAft (ws : List Nat) (j : Nat) : Nat := bitsAt (pkW ws 4) (16 + 16 * j) 16
def pkAv (ws : List Nat) (j : Nat) : Bool := bitAt (pkW ws 4) (48 + j)
def pkEt (ws : List Nat) (j : Nat) : Bool := bitAt (pkW ws 4) (50 + j)
def pkAfk (ws : List Nat) : Bool := bitAt (pkW ws 4) 52
def pkCfut (ws : List Nat) : Nat := pkW ws 5
def pkCtab (ws : List Nat) : Nat := pkW ws 6
def pkFence (ws : List Nat) (i : Nat) : Bool := bitAt (pkW ws 10) i
def pkNslot (ws : List Nat) : Nat := bitsAt (pkW ws 10) 4 3

/-- The 16 words of 128 bytes. -/
def packetWords (bs : List Byte) : List Nat := (List.range 16).map (fun i => leNat ((bs.drop (8 * i)).take 8))

/-- Reserved bits of a packet are zero. -/
def packetReserved (ws : List Nat) : Bool :=
  bitsAt (pkW ws 1) 24 8 == 0 && !bitAt (pkW ws 3) 3 && pkW ws 3 / 2 ^ 29 == 0 && pkW ws 4 / 2 ^ 53 == 0 && [7, 8, 9].all (fun i => pkW ws i == 0) &&
  pkW ws 10 / 2 ^ 7 == 0

/-- The check of a packet (19 R338, 19 R347). -/
def State.packetOk (s : State) (part : Nat) (ws : List Nat) (graph : Bool) : Bool :=
  let p := s.part part
  let img := pkImg ws
  packetReserved ws && pkNthr ws != 0 && !(decide (0 < pkArgw ws) && pkArgs ws == 0) &&
  (pkRndp ws == 0 || decide (128 ≤ pkRndp ws ∧ pkRndp ws ≤ 65536)) && decide (pkMaxc ws ≤ 96) &&
  (List.range 4).all (fun i => !pkFence ws i || decide (i < pkNslot ws)) &&
  (pkTag ws == 0 || (!p.queue.any (fun q => pkTag q.words == pkTag ws) && !p.launches.any (fun x => x.2.ltag == pkTag ws))) &&
  !(pkCtab ws != 0 && graph) && img % 64 == 0 && inShare p img 64 && inShare p img (imgLen s.mem img) && imageOk s.mem img && namesBlock s.mem img (pkEntry ws) &&
  !(p.trcMode == 1 && pkTrk ws && pkTag ws == 0)

/-- Accept a packet into a queue (19 R339): refused as full (5) or by its check (6). -/
def State.acceptPacket (s : State) (part queue : Nat) (ws : List Nat) (addr : Option Nat) (vf : Option Nat) (graph : Bool) : Except Nat State :=
  let p := s.part part
  if 32 ≤ (p.queue.filter (fun q => q.queue == queue)).length then .error 5
  else if !s.packetOk part ws graph then .error 6
  else
    let q : Packet := { words := ws, addr := addr, queue := queue, aseq := p.aseq, age := 0, vf := vf, fenced := bitsAt (pkW ws 10) 0 4 }
    .ok (s.setPart part { p with queue := p.queue ++ [q], aseq := (p.aseq + 1) % 2 ^ 64 })

/-- A launch has released its early dependants (02 R45, 06 R158): by a TRIG whose round has committed, or, where the device releases early, by one whose
earlier rounds are home. -/
def State.released (s : State) (lk : Nat) (l : Launch) : Bool :=
  l.released || (!Config.trigLate lk && l.staged.any (fun e => e.kind == .trig && (e.round == 0 || s.roundHome lk (l.cores.headD 0) (e.round - 1))))

/-- The wait of a packet on AFTj is met (19 R340). -/
def State.waitMet (s : State) (part : Nat) (ws : List Nat) (j : Nat) : Bool :=
  let p := s.part part
  let t := pkAft ws j
  !pkAv ws j || t == 0 ||
  (!p.queue.any (fun q => pkTag q.words == t) && p.launches.all (fun (lid, l) => l.ltag != t || (pkEt ws j && s.released (part * 65536 + lid) l)))

/-- Held in bind mode: a tracked packet is not the one that the dispatch stream names next, or a divergence has stopped them (19 R348 R349). -/
def State.packetHeld (s : State) (part : Nat) (ws : List Nat) : Bool :=
  s.trBound part (pkTrk ws) &&
  ((s.part part).trcDiv || (match s.trNextDispatch part with
    | some (_, tag, _, _) => tag != pkTag ws
    | none => true))

/-- A queued packet is ready but for the hold of bind mode. -/
def State.packetReady' (s : State) (part : Nat) (q : Packet) : Bool :=
  (List.range 4).all (fun i => !pkFence q.words i) && s.waitMet part q.words 0 && s.waitMet part q.words 1 && (pkCtab q.words == 0 || q.ctabDone)

/-- A marker of the partition has just been injected, or none of its launches injects any. -/
def State.atMarker (s : State) (part : Nat) : Bool :=
  let p := s.part part
  p.launches.any (fun x => x.2.since == 0) || p.cores.any (fun k => (s.core k).sysSince == 0) || (p.launches.isEmpty && p.handler.isNone)

/-- CTAB_INSTALL (17 R305): once a host packet with CTAB is ready but for its table, and no packet whose table has been installed still waits for its dispatch,
the table is installed at a marker; a failed check removes the packet with a notice. -/
def execCtabInstall (part aseq : Nat) (s : State) : Host.Outcome State Fault Refusal :=
  let p := s.part part
  let core := p.cores.headD 0
  match p.queue.find? (fun q => q.aseq == aseq) with
  | none => .next s
  | some q =>
    let addr := pkCtab q.words
    if addr = 0 ∨ q.ctabDone ∨ !s.packetReady' part { q with ctabDone := true } ∨ p.queue.any Packet.ctabDone ∨ s.tasksLive part ∨ !s.atMarker part ∨
        s.tableHeld part core addr then .next s
    else
      let (s, ok) := s.installTable part core addr
      let p := s.part part
      if ok then .next (s.setPart part { p with queue := p.queue.map (fun x => if x.aseq = aseq then { x with ctabDone := true } else x) })
      else
        let cf := if pkCfut q.words = 0 then [] else [(pkCfut q.words, 2)]
        .next ((s.setPart part { p with queue := p.queue.filter (fun x => x.aseq ≠ aseq), cfuts := p.cfuts ++ cf }).partNotice part 0 fBoost 0 addr 0)

/-- A queued packet is ready (19 R340). -/
def State.packetReady (s : State) (part : Nat) (q : Packet) : Bool := s.packetReady' part q && !s.packetHeld part q.words

/-! ### Effects at a marker (06 R155-R158) -/

/-- The bytes of a packet as committed. -/
def State.readParts (s : State) (ps : List Part) : List Byte := gatherBytes ps (fun p a => s.latestByte p a)

/-- The device address that a packet's address stands for (06 R156, log 28): that of its first byte, or itself where nothing translates it. -/
def State.packetAt (s : State) (part core addr : Nat) : Nat := ((s.physAt core part addr 128).map Part.addr).getD addr

/-- A LAUNCH at its marker: a full queue and a refused packet are launch faults, and the round commits. The packet's address is the device address that it
has been read from. -/
def State.doLaunch (s : State) (lk core queue addr : Nat) (ps : List Part) (vf : Option Nat) (o : Origin) : State :=
  match s.acceptPacket (lkPart lk) queue (packetWords (s.readParts ps)) ((ps.head?.map Part.addr).or (some addr)) vf true with
  | .ok s => s
  | .error _ => s.notice lk core fLaunch addr 0 o

/-- A PATCH at its marker (06 R156, 02 R43): the oldest packet at the address with the slot's fence set is filled. -/
def State.doPatch (s : State) (lk core addr slot : Nat) (v : Word64) (o : Origin) : State :=
  let p := s.part (lkPart lk)
  let at' := s.packetAt (lkPart lk) core addr
  match p.queue.find? (fun q => q.addr == some at' && pkFence q.words slot) with
  | none => s.notice lk core fPatch addr 0 o
  | some q =>
    let q' := { q with words := (q.words.set (11 + slot) v.toNat).set 10 (pkW q.words 10 - 2 ^ slot) }
    s.setPart (lkPart lk) { p with queue := p.queue.map (fun x => if x.aseq = q.aseq then q' else x) }

/-- The rounds that an effect waits for have committed. -/
def State.effSettled (s : State) (e : Eff) : Bool := e.wait.all (s.roundSettled .dev)

/-- The effects of the dispatcher for rounds up to r, in the order LAUNCH, PATCH, TRIG (06 R157). Of two patches of one round to one slot the second
faults. -/
def State.dispatchEffects (s : State) (lk r : Nat) (here : Eff → Bool) : State :=
  match s.launch lk with
  | none => s
  | some l =>
    let mine := commitOrder l.ord Eff.key Eff.seq (l.staged.filter (fun e => decide (e.round ≤ r) && here e && s.effSettled e))
    let s := mine.foldl (fun s e => match e.kind with
      | .launch q a ps => s.doLaunch lk e.core q a ps l.vf e.org
      | _ => s) s
    let s := (mine.foldl (fun (x : State × List (Nat × Nat × Nat)) e => match e.kind with
      | .patch a k v =>
        if x.2.contains (e.round, a, k) then (x.1.notice lk e.core fPatch a 0 e.org, x.2) else (x.1.doPatch lk e.core a k v e.org, (e.round, a, k) :: x.2)
      | _ => x) (s, [])).1
    if mine.any (fun e => e.kind == .trig) then s.mapLaunch lk (fun l => { l with released := true }) else s

/-- The last effects of a launch: what still has to wait stays with the partition (08 R220). -/
def State.lastEffects (s : State) (lk r : Nat) (here : Eff → Bool) : State :=
  match s.launch lk with
  | none => s
  | some l =>
    let left := l.staged.filter (fun e => decide (e.round ≤ r) && here e && !s.effSettled e)
    let s := s.dispatchEffects lk r here
    s.setPart (lkPart lk) { s.part (lkPart lk) with late := (s.part (lkPart lk)).late ++ left.map (fun e => (lk, l.vf, e)) }

/-- The launches of launches that have ended go on once the rounds that they rest on have committed (08 R220). -/
def State.launchLate (s : State) (part : Nat) : State :=
  let now := (s.part part).late.filter (fun x => s.effSettled x.2.2)
  if now.isEmpty then s
  else
    let s := s.setPart part { s.part part with late := (s.part part).late.filter (fun x => !s.effSettled x.2.2) }
    now.foldl (fun s x => match x.2.2.kind with
      | .launch q a ps => s.doLaunch x.1 x.2.2.core q a ps x.2.1 x.2.2.org
      | _ => s) s

/-! ### The end of a launch -/

/-- The units of complete cuts reach their slices. -/
def State.flushUnits (s : State) (lk core slice : Nat) : Nat → State
  | 0 => s
  | n + 1 =>
    match s.nextUnit lk core slice with
    | some r => (s.applyUnit lk core slice r).flushUnits lk core slice n
    | none => s

/-- Slices at which something of a launch is pending. -/
def State.pendingSlices (s : State) (lk core : Nat) : List Nat :=
  let xs := ((s.units ++ s.undone).filter (fun a => a.of lk core && a.space == .dev)).map (fun a => s.sliceOf (lkPart lk) a.addr) ++
    (s.views.filter (fun v => v.2.1 == lk)).map Prod.fst
  xs.eraseDups

/-- All units of complete cuts. -/
def State.flushAll (s : State) (lk core : Nat) : State :=
  (s.pendingSlices lk core).foldl (fun s sl => s.flushUnits lk core sl (s.units.length + s.overlay.length + s.cutOf lk core + 1)) s

/-- A log without the operations that a test drops. -/
def HomeLog.drop (h : HomeLog) (gone : Arrival → Bool) : HomeLog := ({ h with log := h.log.filter (fun a => !gone a) } : HomeLog).settle

/-- Operations performed on arrival never happened: those of discarded rounds, and those whose outcome rests on one. -/
def dropsRound (late : RoundOf → Bool) (a : Arrival) : Bool := !a.done && (late a.roundOf || a.deps.any late)

/-- A permit that a give has passed to a take of a discarded round goes to the next take, or is free (08 R218). -/
def State.handOn (s : State) (x : Waiter) : State :=
  match x.passed with
  | none => s
  | some g =>
    match s.nextTake x.addr with
    | some y => s.passTo (g :: s.restsOn .dev x.addr 8) g y
    | none =>
      s.atomicStore (s.roundSettled .dev g) { lk := g.lk, core := g.core, round := g.round, key := ⟨0, 0, 0, 0, 0⟩, seq := s.nid, space := .dev, addr := x.addr, op := .permit true, req := 0 }
        (leBytes 8 0)

/-- The takes whose permit a discarded round had held find it free. -/
def State.retake (s : State) : State :=
  s.waiters.foldl (fun s x =>
    match s.waiterReq x with
    | none => s
    | some r =>
      let a := r.arrival (.permit false)
      if r.op == some (.permit false) && x.granted.isNone && leNat (s.atomicBytes a 8) == 0 then
        (s.atomicStore false a (leBytes 8 1)).grantTake a (a.roundOf :: s.restsOn .dev a.addr 8)
      else s) s

/-- THE OPERATIONS PERFORMED ON ARRIVAL IN DISCARDED ROUNDS NEVER HAPPENED, nor what rests on them: the log drops them, releases and staged launches that rest
on them are taken back, permits go on to the takes that are left, and an operation that had failed on them is performed again (08 R212-R220). -/
def State.dropLogs (s : State) (late : RoundOf → Bool) : State :=
  let gone := dropsRound late
  let own (x : Waiter) : Bool := late ⟨x.lk, ((s.waiterReq x).map (fun r => r.site.core)).getD 0, x.round⟩
  let again (xs : List Arrival) : List Arrival := xs.filter (fun a => gone a && !late a.roundOf)
  let redo := again (s.overlay ++ s.mtiles.flatMap (fun x => x.2.overlay))
  let left := s.waiters.filter own
  let s := s.setHomeLog .dev ((s.homeLog .dev).drop gone)
  let tile (m : MTile) : MTile :=
    let h : HomeLog := (⟨m.overlay, m.abase, m.bytes⟩ : HomeLog).drop gone
    { m with overlay := h.log, abase := h.base, bytes := h.mem }
  let back (x : Waiter) : Waiter := if x.passed.any late || x.granted.any (fun g => g.1.any late) then { x with granted := none, passed := none } else x
  let keep (l : Launch) : Launch := { l with staged := l.staged.filter (fun e => !e.wait.any late) }
  let part (p : Partition) : Partition :=
    { p with launches := p.launches.map (fun (k, (l : Launch)) => (k, keep l)), handler := p.handler.map keep, late := p.late.filter (fun x => !x.2.2.wait.any late) }
  let s : State := {
    s with mtiles := s.mtiles.map (fun (k, (m : MTile)) => (k, tile m)), waiters := (s.waiters.filter (fun x => !own x)).map back
           parts := s.parts.map (fun (k, (p : Partition)) => (k, part p)) }
  let s := ((left.filter (fun x => !x.passed.any late)).foldl State.handOn s).retake
  redo.foldl (fun s a => match a.op with
    | .fault _ _ op => s.performOp false { a with op := op, deps := [] }
    | _ => s) s

/-- Discard everything of a launch that is not committed, and free what it holds (18 R328): its banks empty, staged writes and operations, requests,
waiters, registrations, tasks, loops, commands, sites. Memory tiles keep their bytes and queues keep their records. -/
def State.purge (s : State) (lk : Nat) : State :=
  let part := lkPart lk
  let s := s.dropLogs (fun x => x.lk == lk)
  let p := s.part part
  let keep (xs : List Arrival) : List Arrival := xs.filter (fun a => a.lk != lk)
  let core (k : Nat) (c : Core) : Core := {
    c with gstage := keep c.gstage, cmds := c.cmds.filter (fun x => x.lk != lk), loops := c.loops.filter (fun x => x.2.lk != lk),
           tasks := c.tasks.filter (fun x => x.2.lk != lk), csrStage := c.csrStage.filter (fun w => (s.bank w.bank).lk != lk),
           rttStage := c.rttStage.filter (fun w => w.lk != lk), pass := mdel c.pass lk, inj := mdel c.inj lk, snaps := c.snaps.filter (fun x => x.lk != lk),
           idles := c.idles.filter (fun x => (s.bank (siteKey x.1)).lk != lk), sysEff := if lkLid lk = 0 ∧ p.cores.contains k then 0 else c.sysEff }
  let tile (m : MTile) : MTile := {
    m with stage := keep m.stage, pass := mdel m.pass lk, snaps := m.snaps.filter (fun x => x.lk != lk), popped := m.popped.filter (fun y => y.2.lk != lk) }
  let node (n : CTile) : CTile := { n with pass := mdel n.pass lk, snaps := n.snaps.filter (fun x => x.lk != lk) }
  { s with
    banks := s.banks.filter (fun x => x.2.lk != lk || x.2.st == 0)
    ctiles := s.ctiles.map (fun (k, n) => (k, node n))
    mtiles := s.mtiles.map (fun (k, m) => (k, tile m))
    cores := s.cores.map (fun (k, c) => (k, core k c))
    parts := mset s.parts part { p with
      ctloads := p.ctloads.filter (fun x => x.lk != lk), sites := p.sites.filter (fun x => x.lk != lk),
      rinvs := p.rinvs.filter (fun x => (s.bank (siteKey x.site)).lk != lk), rcmds := p.rcmds.filter (fun x => x.cmd.lk != lk) }
    reqs := s.reqs.filter (fun r => r.lk != lk)
    units := s.units.filter (fun a => a.lk != lk || (decide (a.round < s.cutOf lk a.core) && a.space != .dev))
    waiters := s.waiters.filter (fun w => w.lk != lk)
    regs := s.regs.filter (fun g => g.lk != lk) }

/-- Packets that wait for a killed tag leave their queues undispatched, unless AFK lets the kill count (19 R340); a wait that the early trigger has met is none
(log 83). -/
def State.killWaits (s : State) (part tag : Nat) (early : Bool) : State :=
  let p := s.part part
  let hit (q : Packet) : Bool := !pkAfk q.words && [0, 1].any (fun j => pkAv q.words j && pkAft q.words j == tag && !(early && pkEt q.words j))
  if tag = 0 then s
  else
    let gone := p.queue.filter hit
    let cf := (gone.filter (fun q => pkCfut q.words != 0)).map (fun q => (pkCfut q.words, 2))
    let s := s.setPart part { p with queue := p.queue.filter (fun q => !hit q), cfuts := p.cfuts ++ cf }
    gone.foldl (fun s q => s.partNotice part 0 fPrereq 0 (q.addr.getD 0) 0) s

/-- MSI-X vector 0 of the VF that pushed a launch whose CFUT resolves (23 R402). -/
def State.msiDone (s : State) (vf : Option Nat) : State :=
  match vf with
  | some v => { s with hub := { s.hub with msix := s.hub.msix ++ [(v, 0)] } }
  | none => s

/-- A launch ends (19 R343): END in the trace, its cores free, its completion future resolved at this marker, the launches that this continues queued, its
tag free. -/
def State.endLaunch (s : State) (lk status : Nat) : State :=
  match s.launch lk with
  | none => s
  | some l =>
    let part := lkPart lk
    let core := l.cores.headD 0
    let s := s.trRecord part l trEND status 0
    let s := { s with
      cores := s.cores.map (fun (k, (c : Core)) => (k, if c.lk = some lk then { c with lk := none } else c)), views := s.views.filter (fun v => v.2.1 != lk),
      applied := s.applied.filter (fun x => x.1 / 32768 != lk) }
    let s := s.mapLaunch lk (fun l => { l with staged := [] })
    let s := if l.cfut = 0 then s else (s.futresNow core lk l.cut ⟨0, 0, 0, 0, 0⟩ false l.cfut status).msiDone l.vf
    let s := s.lastEffects lk l.cut (fun _ => true)
    let s := match l.shrink with
      | some (_, _, some (e, id)) => s.fill e id s.fc none (fork (predTok false))
      | _ => s
    let p := s.part part
    let s := if lkLid lk = 0 then s.setPart part { p with handler := none } else s.setPart part { p with launches := mdel p.launches (lkLid lk) }
    if status = 1 then s.killWaits part l.ltag l.released else s

/-- TKILL's work (18 R328): the effects and units of committed rounds stand, the rest is discarded, the launch ends as killed. -/
def State.kill (s : State) (lk : Nat) : State :=
  match s.launch lk with
  | none => s
  | some l =>
    let early := s.released lk l
    let s := s.flushAll lk 0
    let s := if 0 < l.cut then s.lastEffects lk (l.cut - 1) (fun e => decide (l.eff ≤ e.round)) else s
    let s := s.mapLaunch lk (fun l => { l with staged := [], released := l.released || early })
    (s.purge lk).endLaunch lk 1

/-- A trace divergence (19 R349): DIV is set, every tracked launch that runs is killed, a notice carries the LTAG. -/
def State.diverge (s : State) (part ltag : Nat) : State :=
  let s := s.setPart part { s.part part with trcDiv := true }
  let s := ((s.part part).launches.filter (fun x => x.2.trk)).foldl (fun s x => s.kill (part * 65536 + x.1)) s
  s.partNotice part ltag fTraceDiv 0 0 0

/-- End a launch whose trace may be bound: an END record that says otherwise, a shrink that has not come and a block that did not become waiting are
divergences (19 R349). -/
def State.finish (s : State) (lk status : Nat) : State :=
  match s.launch lk with
  | none => s
  | some l =>
    let part := lkPart lk
    let stop (s : State) : State := if status = 1 then s.kill lk else (s.purge lk).endLaunch lk status
    if !s.trBound part l.trk || (s.part part).trcDiv then stop s
    else
      let left := (s.trNext part (fun a _ => trTag a == l.ltag && (trType a == trSHRINK || trType a == trSCARAB))).isSome
      match s.trNext part (fun a _ => trTag a == l.ltag && trType a == trEND) with
      | some (i, a, _) => if trA a % 4 = status ∧ left = false then (stop s).trUse part i else s.diverge part l.ltag
      | none => s.diverge part l.ltag

end Sys2Proof.Machine
end

