-- ==== Sys2Proof/Machine/Loader.lean ====
section
/-! DEFINITION. The block loader and the configuration of a fabric load: the checks of 05 R115 and R116, the checks of thread and queue instructions
(06 R145 R148), residency (02 R35-R37, 15 R299, 22 R396), memory tiles (05 R124) and circuits (05 R122). -/

namespace Sys2Proof.Machine

/-! ### What an instruction uses -/

/-- The slot classes of 02 R27 and 05 R112. -/
inductive SlotClass where
  | router
  | access
  | matrix
  | other
  | any
  deriving DecidableEq, Repr

/-- The class of an instruction. -/
def slotClass (i : Instr) : SlotClass :=
  match i.form with
  | .event _ => .any
  | .b _ => .router
  | .c op _ => if op = 0x0C then .router else .other
  | .a op o =>
    if op = 0x06 then .any
    else if op < 0x10 then .router
    else if op < 0x88 then .other
    else if op < 0x90 then .matrix
    else if op < 0xC0 then .access
    else if op = 0xCD ∨ op = 0xCF then .other
    else if op < 0xD0 then .access
    else if op = 0xD7 ∨ op = 0xD8 then .access
    else if op < 0xE0 then .other
    else if o.bit 4 then .access else .other

/-- An instruction of a class may stand at an index. -/
def classAt (c : SlotClass) (idx : Nat) : Bool :=
  let k := idx % 64
  match c with
  | .router => decide (32 ≤ k)
  | .access => decide (28 ≤ k ∧ k < 32)
  | .matrix => decide (24 ≤ k ∧ k < 28)
  | .other => decide (k < 28)
  | .any => true

/-- Privileged opcodes (18 R310). -/
def privileged (i : Instr) : Bool :=
  match i.form with
  | .a op _ => decide ((0xBC ≤ op ∧ op ≤ 0xBF) ∨ op = 0xCE ∨ (0xD4 ≤ op ∧ op ≤ 0xDF))
  | _ => false

/-- A register access that the block's privilege does not have; SVC and BRK in a privileged block (18 R315 R324). -/
def rightsBad (priv : Bool) (i : Instr) : Bool :=
  let need (o : OpA) (n : Nat) : Bool := !(csrRights o.imm.toNat).any (fun r => decide (n ≤ if priv then r.2 else r.1))
  match i with
  | .csrr o => need o 1
  | .csrw o => need o 2
  | .svc _ => priv
  | .brk _ => priv
  | i => privileged i && !priv

/-- The operand slots an instruction uses (05 R116). -/
def slotUse (i : Instr) : Slots :=
  match i.form with
  | .event _ => {}
  | .b _ => needL
  | .c op o => { l := true, r := op != 0x0C && decide (0 < bitsAt o.imm.toNat 24 3), p := op == 0x11 || o.fl.pm != .none }
  | .a op o =>
    let pm := o.fl.pm != .none
    let lp (r p : Bool) : Slots := { l := true, r := r, p := p }
    if op = 0x01 ∨ op = 0x04 then lp false true
    else if op = 0x02 ∨ op = 0x03 ∨ op = 0x09 then lp true true
    else if op = 0x08 then lp true (o.bit 0)
    else if op = 0x0A then lp (!o.i) true
    else if op = 0x0B then lp (!o.i) false
    else if op < 0x20 then lp (op == 0x16) pm
    else if op ≤ 0x80 then lp (readsR op o) (op == 0x39 || op == 0x3E || op == 0x43 || op == 0x64 || pm)
    else if op < 0x90 then lp (op == 0x8A) false
    else if op = 0x98 ∨ op = 0x9A then lp false true
    else if op = 0x90 ∨ op = 0x92 ∨ op = 0x94 ∨ op = 0x96 then lp (o.bit 2) true
    else if op = 0x99 then lp (o.bit 0) true
    else if op < 0xA0 then lp true true
    else if op < 0xB0 then lp (!o.i) true
    else if op = 0xB0 then lp true false
    else if op = 0xB1 then lp (o.bit 0) true
    else if op = 0xB3 ∨ op = 0xB4 then lp true true
    else if op < 0xC0 then lp (op == 0xBE || op == 0xBF) true
    else if op = 0xC1 ∨ op = 0xC2 ∨ op = 0xC9 then lp true true
    else if op = 0xCD ∨ op = 0xCF then lp false pm
    else if op < 0xD0 then lp false true
    else if op = 0xD7 ∨ op = 0xD8 then lp true pm
    else if op = 0xD5 ∨ op = 0xD9 ∨ op = 0xDC ∨ op = 0xDD then lp true false
    else if op = 0xDE then (if o.bit 0 then { p := true } else lp true true)
    else if op < 0xE0 then lp false pm
    else lp true pm

/-- A slot is used. -/
def Slots.has (u : Slots) (k : Slot) : Bool :=
  match k with
  | .l => u.l
  | .r => u.r
  | .p => u.p

/-! ### Checks (05 R115) -/

/-- Shift a byte into the CRC (05 R103). -/
def crcBits : Nat → Nat → Nat
  | 0, c => c
  | n + 1, c => crcBits n (if bitAt c 7 then (c * 2 % 256) ^^^ 7 else c * 2 % 256)

/-- CRC-8 of bytes, from the most significant bit of each. -/
def crc8 (bs : List Byte) : Nat := bs.foldl (fun c b => crcBits 8 (c ^^^ b.toNat)) 0

/-- Where a copy of a block goes. -/
structure Place' where
  core : Nat
  tile : Nat
  tile2 : Nat
  bank : Nat
  deriving DecidableEq, Repr

/-- The header checks, steps 1 to 7: the first that fails. -/
def headerFault (m : Memory) (img blk : Nat) (ord handler : Bool) (p : Place') : Option Nat :=
  let h0 := (header0 m img blk).toNat
  let h1 := (header1 m img blk).toNat
  -- a block of the handler launch stands in a system bank alone, any other in none on either tile of its span (18 R311 R312)
  let sys := p.bank == 3 && (if handler then p.tile == 15 && p.tile2 == 15 else p.tile == 15 || p.tile2 == 15)
  let count := bitsAt h0 12 7 + 1
  let span := bitAt h0 19
  let bytes := readBytes m (img + 64 * blk) 15
  if !namesHeader m img blk then some 1
  else if !decide (1 ≤ bitsAt h0 8 4 ∧ bitsAt h0 8 4 ≤ Config.flevel) then some 2
  else if bitsAt h0 32 32 &&& (2 ^ 32 - 1 - Config.feat1) ≠ 0 then some 3
  else if 2 ≤ bitsAt h0 20 2 ∨ (bitsAt h0 20 2 = 1 ∧ sys = false) ∨ sys ≠ handler then some 4
  else if bitsAt h0 26 6 ≠ 0 ∨ bitsAt h1 44 12 ≠ 0 ∨ bitsAt h0 24 2 ≠ 0 ∨ (bitAt h0 22 = true ∧ ord = false) then some 5
  else if bitsAt h1 56 8 ≠ crc8 bytes then some 6
  else if (64 < count ∧ span = false) ∨ (span = true ∧ adjacentTiles p.tile p.tile2 = false) ∨ (span = false ∧ p.tile ≠ p.tile2) then some 7
  else none

/-- Ports of a map. -/
def portsOf (m : Nat) : List Nat := (List.range 16).filter (fun j => bitAt m j)

/-- Step 8: the ports, the entry reader and the circuits of a block with a number in the load. -/
def portFault (m : Memory) (img : Nat) (r : LoadRec) (blk : Nat) (num : Option Nat) (swap : Bool) : Bool :=
  let h0 := (header0 m img blk).toNat
  let h1 := (header1 m img blk).toNat
  let eqv := bitAt h1 43
  let eqix := bitsAt h1 32 11
  let sw := switchTable m img r
  let ins := sw.filter (fun x => some x.dst == num)
  (portsOf (bitsAt h1 0 16)).any (fun j => decide (bitsAt h0 12 7 < 32 + j)) || (eqv && !bitAt h1 0) || (eqv && decide (r.nq ≤ eqix)) || (!eqv && eqix != 0) ||
  (swap && !eqv) || ins.any (fun x => !bitAt h1 x.inp || (eqv && decide (x.inp < 8))) ||
  (portsOf (bitsAt h1 16 16)).any (fun p => !sw.any (fun x => some x.src == num && x.out == p))

/-- The queue that QPUSH, QPOP or EXITQ names. -/
def queueNamed (i : Instr) : Option Nat :=
  match i with
  | .qpush o => some (o.imm.toNat % 2048)
  | .qpop o => some (o.imm.toNat % 2048)
  | .exitq o => some (bitsAt o.imm.toNat 27 8)
  | _ => none

/-- The distinct queues that words name, in order (06 R148). -/
def queuesNamed (ws : List Word64) : List Nat :=
  (ws.filterMap (fun w => match decodeWord w with
    | .ok i => queueNamed i
    | .error _ => none)).eraseDups

/-- The entry queues of a load. -/
def entryQueues (m : Memory) (img : Nat) (r : LoadRec) : List Nat :=
  (blockTable m img r).filterMap (fun x =>
    let h1 := (header1 m img x.2.blk).toNat
    if bitAt h1 43 then some (bitsAt h1 32 11) else none)

/-- The checks of EXIT, EXITP, EXITQ and SPAWN (06 R145): q tells that the record goes to the successor's own queue. -/
def successorBad (m : Memory) (img : Nat) (r : LoadRec) (q : Bool) (o : OpC) : Bool :=
  let blk := bitsAt o.imm.toNat 0 24
  let n := bitsAt o.imm.toNat 24 3
  let h1 := (header1 m img blk).toNat
  !namesHeader m img blk || !bitAt h1 43 || !(List.range (n + 1)).all (fun j => bitAt h1 j) ||
  (q && !(blockTable m img r).any (fun x => x.2.blk == blk) && decide (r.nq ≤ bitsAt h1 32 11))

/-- The sources of an operand slot among the words, and by an input port (05 R116). -/
def sourceCount (ws : List Word64) (imap idx : Nat) (k : Slot) : Nat :=
  (if k = .l ∧ 32 ≤ idx ∧ idx < 48 ∧ bitAt imap (idx - 32) = true then 1 else 0) +
  (ws.map (fun w => match decodeWord w with
    | .ok i => (i.targets.filter (fun t => match t with
      | .slot j k' => j.toNat == idx && k' == k
      | .none => false
      | .port _ => false
      | .creg _ => false)).length
    | .error _ => 0)).sum

/-- The checks of step 9 that need the other words of the block: CONST under tag-following needs a source on L (06 R133), UFRD names a CVT (07 R190), and
FENCE without a source on R has no target 1 (08 R216). -/
def neighbourBad (ws : List Word64) (imap idx : Nat) (i : Instr) : Bool :=
  match i with
  | .const o => o.ty == .tf && sourceCount ws imap idx .l == 0
  | .ufrd o => !(ws[o.imm.toNat]?).any (fun w => match decodeWord w with
    | .ok (.cvt _) => true
    | _ => false)
  | .fence o => o.t1 != .none && sourceCount ws imap idx .r == 0
  | _ => false

/-- The check of one word at step 9. -/
def wordBad (m : Memory) (img : Nat) (r : LoadRec) (blk idx : Nat) (w : Word64) (ws : List Word64) (queues : List Nat) : Bool :=
  let h0 := (header0 m img blk).toNat
  let h1 := (header1 m img blk).toNat
  match decodeWord w with
  | .error _ => true
  | .ok i =>
    let target (t : Target) : Bool := match t with
      | .slot j _ => decide (j.toNat ≤ bitsAt h0 12 7)
      | .port p => bitAt h1 (16 + p.toNat)
      | .none => true
      | .creg _ => true
    !i.wf || !i.targets.all target || !classAt (slotClass i) idx || rightsBad (bitsAt h0 20 2 == 1) i || neighbourBad ws (bitsAt h1 0 16) idx i ||
    (match i with
     | .exit o => successorBad m img r true o
     | .exitp o => successorBad m img r true o
     | .spawn o => successorBad m img r true o
     | .exitq o => successorBad m img r false o
     | _ => false) ||
    (match queueNamed i with
     | some q => decide (r.nq ≤ q) || (entryQueues m img r).contains q || !(queues.take 4).contains q
     | none => false)

/-- Step 10 for one instruction. -/
def slotsBad (ws : List Word64) (imap idx : Nat) (w : Word64) : Bool :=
  let u : Slots := match decodeWord w with
    | .ok i => slotUse i
    | .error _ => {}
  [Slot.l, .r, .p].any (fun k => let n := sourceCount ws imap idx k; decide (1 < n) || (decide (0 < n) && !u.has k))

/-- THE CHECKS OF A BLOCK (05 R115), in order: the step that fails first, with the instruction index for steps 9 and 10. -/
def blockFault (m : Memory) (img : Nat) (r : LoadRec) (ord handler : Bool) (blk : Nat) (num : Option Nat) (swap : Bool) (p : Place') : Option (Nat × Nat) :=
  match headerFault m img blk ord handler p with
  | some k => some (k, 0)
  | none =>
    if portFault m img r blk num swap then some (8, 0)
    else
      let ws := blockWords m img blk
      let qs := queuesNamed ws
      let imap := bitsAt (header1 m img blk).toNat 0 16
      match ws.zipIdx.find? (fun (w, i) => wordBad m img r blk i w ws qs) with
      | some (_, i) => some (9, i)
      | none => (ws.zipIdx.find? (fun (w, i) => slotsBad ws imap i w)).map (fun (_, i) => (10, i))

/-! ### Residency -/

/-- Hops of a circuit between two tiles of two cores; across cores it passes both ports (05 R122), which stand beside the tile of
row 0 and column 0 (DESIGN CHOICE, log 76). -/
def circuitHops (c1 t1 c2 t2 : Nat) : Nat :=
  if c1 = c2 then tileHops t1 t2 else gridHops (computeXY t1) (0, 0) + gridHops (computeXY t2) (0, 0) + 4 + 2 * dieHops (dieOfCore c1) (dieOfCore c2)

/-- The tile of the span in which an instruction stands. -/
def spanTile (tile tile2 idx : Nat) : Nat := if 64 ≤ idx then tile2 else tile

/-- Empty hops. -/
def emptyHops (n : Nat) : List Hop := List.replicate n {}

/-- An instruction is the first that names an output port, which starts the port's circuits; a later one of another tile emits into them (log 69). -/
def startsPort (ws : List Word64) (p : BitVec 4) (i : Nat) : Bool :=
  ws.findIdx? (fun w => match decodeWord w with
    | .error _ => false
    | .ok ins => ins.targets.any (fun t => t == .port p)) == some i

/-- The arcs of a block between the tiles of its span, and its circuits. -/
def blockArcs (ws : List Word64) (tile tile2 core : Nat) (num base : Nat) (sw : List SwitchEnt) (at' : Nat → Nat × Nat) : List Arc :=
  ws.zipIdx.flatMap (fun (w, i) =>
    match decodeWord w with
    | .error _ => []
    | .ok ins => (ins.targets.zipIdx).flatMap (fun (t, n) => match t with
      | .slot j k =>
        let a := spanTile tile tile2 i
        let b := spanTile tile tile2 j.toNat
        if a = b then [] else [{ src := (i, n), dstNum := none, dstIdx := j.toNat, dstSlot := k, hops := emptyHops (tileHops a b) }]
      | .port p =>
        (sw.filter (fun x => x.src == num && x.out == p.toNat && startsPort ws p i && ins.targets.findIdx? (fun t => t == .port p) == some n)).map (fun x =>
          let d := at' x.dst
          { src := (128 + p.toNat, 0), dstNum := some (base + x.dst), dstIdx := x.inp, dstSlot := .l,
            hops := emptyHops (circuitHops core (spanTile tile tile2 i) d.1 d.2) })
      | .none => []
      | .creg _ => []))

/-- The initial registers of a block at its first residency: init entries, then the patch slots in s12 to s15 (15 R299, 22 R396). -/
def firstRegs (m : Memory) (l : Launch) (r : LoadRec) (num : Nat) : Map Stored :=
  let set (x : Map Stored) (i v : Nat) : Map Stored := mset x i { pay := BitVec.ofNat 512 v }
  let x := (initsOf m l.img r num).foldl (fun x y => set x y.1 y.2) []
  if l.lid = 0 then x else (List.range 4).foldl (fun x j => set x (12 + j) (l.slots.getD j 0)) x

/-- Key of a block's context record in a launch: origin core and BLK_ADDR. -/
def workKey (origin blk : Nat) : Nat := origin * 2 ^ 24 + blk

/-- A copy of a block becomes resident, with its committed state from its context record or as at its first residency; it joins at round r, and every
marker before r counts as passed. -/
def State.install (s : State) (lk : Nat) (l : Launch) (r : LoadRec) (num origin blk : Nat) (pin : Bool) (p : Place') (round : Nat) : State :=
  let ws := blockWords s.mem l.img blk
  let h1 := header1 s.mem l.img blk
  let base := 4096 * l.load
  let sw := switchTable s.mem l.img r
  let spot (n : Nat) : Nat × Nat := let e := blockEnt s.mem l.img r n; (l.coreOf e.core, e.tile)
  let saved := mget l.working (workKey origin blk)
  let regs := (saved.map BankCut.regs).getD (firstRegs s.mem l r num)
  let numf := (saved.map BankCut.numf).getD 0
  let elem (i : Nat) : Elem :=
    let o := (saved.bind (fun x => mget x.ops i)).getD .none
    let k : InSlot := { marks := round }
    { l := k, r := k, p := k, fwd := round, chafer := round, ost := o, snaps := [(round, { ost := o, fires := [] })] }
  let b : Bank := {
    st := 1, blk := blk, lk := lk, pin := pin, tile2 := if p.tile = p.tile2 then none else some p.tile2, h0 := header0 s.mem l.img blk, h1 := h1,
    words := ws.zipIdx.map (fun (w, i) => (i, w)), origin := origin, num := base + num, elems := (List.range ws.length).map (fun i => (i, elem i)),
    arcs := blockArcs ws p.tile p.tile2 p.core num base sw spot, srcs := (sw.filter (fun x => x.dst == num)).map (fun x => (x.inp, base + x.src)),
    regs := regs, numf := numf, qbind := queuesNamed ws, mpass := round, snaps := [{ round := round, regs := regs, numf := numf, ops := [] }] }
  let bk := bankKeyOf p.core p.tile p.bank
  let s := s.setBank bk b
  if p.tile = p.tile2 then s else s.setBank (bankKeyOf p.core p.tile2 p.bank) { st := 1, lk := lk, blk := blk, pin := pin, upper := some bk, mpass := round }

/-- The notice of a failed block load (05 R115, 21 R374). -/
def State.blockNotice (s : State) (lk : Nat) (p : Place') (blk step idx : Nat) : State :=
  if !(s.part (lkPart lk)).en then s.halt (lkPart lk)
  else
    let w0 := siteWord fBlockLoad (lkLid lk) p.core p.tile p.bank 0 kindNotice 0 false
    s.sendRecord p.core ⟨w0, [0, 0, 0, 0, BitVec.ofNat 64 blk, BitVec.ofNat 64 (step + idx * 2 ^ 8)], 0⟩

/-- Check a copy of a block and make it resident, or mark it failed in this load. -/
def State.loadBlock (s : State) (lk : Nat) (l : Launch) (r : LoadRec) (num : Nat) (e : BlockEnt) (round : Nat) : State :=
  let p : Place' := ⟨l.coreOf e.core, e.tile, e.tile2, e.bank⟩
  match blockFault s.mem l.img r l.ord (lkLid lk == 0) e.blk (some num) (!e.pinned) p with
  | some (k, i) => (s.blockNotice lk p e.blk k i).mapLaunch lk (fun l' => { l' with failed := l'.failed ++ [4096 * l.load + num] })
  | none => s.install lk l r num e.core e.blk e.pinned p round

/-- The committed state of a resident block, as its context record keeps it. -/
def Bank.cut (b : Bank) : BankCut := { round := b.mpass, regs := b.regs, numf := b.numf, ops := b.elems.map (fun (i, x) => (i, x.ost)) }

/-- The counts of firings that a copy of a block adds to those of the copies that have left (12 R269 field K). -/
def addFires (b : Bank) (m : Map (Map Nat)) : Map (Map Nat) :=
  b.elems.foldl (fun m (i, x) => if x.fires.isEmpty then m else
    let g := gsp b i
    mset m g (x.fires.foldl (fun y (t, n) => mset y t (mgetD y t 0 + n)) (mgetD m g []))) m

/-- A block leaves its bank, or the two banks of its span; its context record goes to the load's working area (02 R36). -/
def State.evict (s : State) (bk : Nat) : State :=
  let b := s.bank bk
  let s := s.mapLaunch b.lk (fun l => { l with working := mset l.working (workKey b.origin b.blk) b.cut, kdone := addFires b l.kdone })
  { s with banks := s.banks.filter (fun x => x.1 != bk && x.2.upper != some bk) }

/-! ### Configuration of a load -/

/-- Pushing instructions of a queue of a load, counting each copy (06 R151). -/
def pusherCount (m : Memory) (img : Nat) (r : LoadRec) (q : Nat) : Nat :=
  let enters (blk : Nat) : Bool := bitsAt (header1 m img blk).toNat 32 11 == q
  let one (w : Word64) : Nat := match decodeWord w with
    | .ok (.qpush o) => if o.imm.toNat % 2048 = q then 1 else 0
    | .ok (.exitq o) => if bitsAt o.imm.toNat 27 8 = q then 1 else 0
    | .ok (.exit o) => if enters (bitsAt o.imm.toNat 0 24) then 1 else 0
    | .ok (.exitp o) => if enters (bitsAt o.imm.toNat 0 24) then 1 else 0
    | _ => 0
  ((blockTable m img r).map (fun x => ((blockWords m img x.2.blk).map one).sum)).sum

/-- The configuration that a load gives a memory tile of a core (05 R124). -/
def tileConfig (m : Memory) (l : Launch) (r : LoadRec) (core t : Nat) : TileCfg :=
  match (List.range r.nq).find? (fun q => let e := queueEnt m l.img r q; l.coreOf e.core == core && e.tile == t) with
  | some q => .fifo (queueEnt m l.img r q).depth (pusherCount m l.img r q)
  | none =>
    match (tileTable m l.img r).find? (fun x => l.coreOf x.1 == core && x.2.1 == t) with
    | some (_, _, c) => c
    | none => .store 1

/-- A tile holds a FIFO. -/
def TileCfg.isFifo : TileCfg → Bool
  | .fifo _ _ => true
  | .store _ => false
  | .lbuf _ => false

/-- A load's tables name a memory tile of a core. -/
def tileNamed (m : Memory) (l : Launch) (r : LoadRec) (core t : Nat) : Bool :=
  (List.range r.nq).any (fun q => let e := queueEnt m l.img r q; l.coreOf e.core == core && e.tile == t) ||
  (tileTable m l.img r).any (fun x => l.coreOf x.1 == core && x.2.1 == t)

/-- Configure a memory tile: bytes stay; a tile that becomes or stops being a FIFO has no records, one that the load does not name keeps what it is (02 R40).
A launch's first load starts its queues empty. -/
def State.configTile (s : State) (lk : Nat) (l : Launch) (r : LoadRec) (core t round : Nat) (fresh : Bool) : State :=
  let k := tileKey core t
  let m := s.mtile k
  let cfg := if fresh || tileNamed s.mem l r core t then tileConfig s.mem l r core t else m.cfg
  let keep := m.cfg.isFifo && cfg.isFifo && !fresh
  let m : MTile := { m with cfg := cfg, recs := if keep then m.recs else [], popped := if keep then m.popped else [], pass := mset m.pass lk round }
  let m : MTile := if fresh then { m with strm := [{}, {}, {}, {}], snaps := [{ lk := lk, round := round, bytes := m.bytes }] } else m
  s.setMtile k m

/-- A load places a block on a tile of a core. -/
def Launch.placesOn (l : Launch) (m : Memory) (r : LoadRec) (core t : Nat) : Bool :=
  (blockTable m l.img r).any (fun x => l.coreOf x.2.core == core && (x.2.tile == t || x.2.tile2 == t))

/-- The first load of a launch that places a block on a tile resets the tile's node (09 R221): no slot is loaded, the accumulators are clear, and no
residue is counted towards an escalation; RPLC stays. -/
def State.resetNode (s : State) (lk core t : Nat) : State :=
  let n := s.ctile (tileKey core t)
  let acc : List Acc := [{}, {}, {}, {}]
  s.setCtile (tileKey core t) { n with
    slots := [], acc := acc, resx := 0, kept := [], busyTill := 0, snaps := n.snaps.map (fun x => if x.lk = lk then { x with slots := [], acc := acc } else x) }

/-- A node of a core that a launch binds: the context counter starts over (02 R26). -/
def State.bindNode (s : State) (lk core t round : Nat) : State :=
  let n := s.ctile (tileKey core t)
  s.setCtile (tileKey core t) { n with
    last := 3, pass := mset n.pass lk round, snaps := [{ lk := lk, round := round, slots := n.slots, acc := n.acc }] }

/-- The load that a launch runs is the first that places a block on a tile of a core (09 R221). -/
def Launch.firstOn (l : Launch) (m : Memory) (core t : Nat) : Bool :=
  l.placesOn m (loadRec m l.img l.size l.load) core t && !(List.range l.load).any (fun k => l.placesOn m (loadRec m l.img l.size k) core t)

/-- Configure a core for the first load of a launch: memory tiles, nodes, and the pinned blocks of every region core that the core stands for. -/
def State.configCore (s : State) (lk core round : Nat) : State :=
  match s.launch lk with
  | none => s
  | some l =>
    let r := loadRec s.mem l.img l.size l.load
    let s := if lkLid lk = 0 then s else (List.range 16).foldl (fun s t => s.configTile lk l r core t round true) s
    let s := if lkLid lk = 0 then s else (List.range 16).foldl (fun s t => s.bindNode lk core t round) s
    let s := if lkLid lk = 0 then s else ((List.range 16).filter (l.firstOn s.mem core)).foldl (fun s t => s.resetNode lk core t) s
    (blockTable s.mem l.img r).foldl (fun s (n, e) => if e.pinned && l.coreOf e.core == core then s.loadBlock lk ((s.launch lk).getD l) r n e round else s) s

end Sys2Proof.Machine
end

