-- ==== Sys2Proof/Machine/System.lean ====
section
/-! DEFINITION. The system instructions (18 R315-R334, 20 R362): calls, register reads and writes, the fault queue, TKILL, context records, HALT and
IDLE; the emulation call of an extension opcode (05 R114); records entering the fault queue (18 R323 R424). -/

namespace Sys2Proof.Machine

/-! ### Calls (18 R325, 05 R114) -/

/-- A firing opens a call site: it owes its round the result that REINJ supplies. -/
def State.call (s : State) (f : Firing) (code : Nat) (words : List Word64) : State :=
  if s.mustCheck f then s.halt f.part
  else
    let (id, s) := s.fresh
    (s.await f false true id).raise f kindCall code 0 false words (some id)

/-- A call waits for room at its core's port (18 R323). -/
def callHold (s : State) (f : Firing) : Bool := !s.mustCheck f && !s.portRoom f.e.core

/-- SVC and BRK: the argument is a scalar of any tag that 04 R70 names. -/
def State.callFire (s : State) (code : Nat) (o : OpA) : State :=
  s.anchorFire {
    fl := o.fl, need := needL, nums := {}, hold := callHold, check := fun _ f => if f.ops.l.all (fun l => !l.v && tagNamed l) then none else some (fFormat, 0),
    act := fun s f => match f.ops.l with
      | some l => s.call f code [l.pay.setWidth 64, BitVec.ofNat 64 (sideband l + 2 ^ 16 * (o.imm.toNat % 2 ^ 16)), 0, 0, 0, 0]
      | none => s }

/-- SVC (18 R325). -/
def execSvc (o : OpA) (s : State) : Host.Outcome State Fault Refusal := .next (s.callFire fSvc o)
/-- BRK (18 R325). -/
def execBrk (o : OpA) (s : State) : Host.Outcome State Fault Refusal := .next (s.callFire fBrk o)

/-- The slots of an extension opcode: L, R where it has a source, and P under PM. -/
def extNeed (b : Bank) (idx : Nat) (o : OpA) : Slots := { l := true, r := !o.i && hasSource b idx .r }

/-- EXTENSION_OPCODE (05 R114): none is implemented, so each firing that starts calls the handler with its operands and the instruction word. An anchor
holds a poisoned operand; a pure producer passes the poison on. -/
def execExtensionOpcode (i : BitVec 5) (o : OpA) (s : State) : Host.Outcome State Fault Refusal :=
  let need := extNeed s.firing.b s.firing.e.idx o
  let f := s.firing
  let ops := f.ops.mask (withPm o.fl need)
  let trap (s : State) (f : Firing) : State :=
    s.call f fEmulate (recordWords f.ops ((mget f.b.words f.e.idx).getD (BitVec.ofNat 64 ((224 + i.toNat) * 2 ^ 56))).toNat 0)
  match (if o.bit 5 then none else ops.poison) with
  | some _ =>
    .next (s.pureFire {
      fl := o.fl, vecP := false, lat := 1, need := need, tag := routeTag o.ty f.ops.l, v := f.ops.l.any Token.v, eval := fun _ _ => .error fFormat })
  | none => .next (s.anchorFire { fl := o.fl, need := need, nums := {}, hold := callHold, act := trap })

/-! ### Control and status registers (18 R315-R320) -/

/-- CTX_STATE of the bank of a firing (18 R317). -/
def ctxState (f : Firing) : Nat :=
  f.b.blk * 2 ^ 40 + lkLid f.lk * 2 ^ 24 + (if isSysBank f.bk then 2 ^ 7 else 0) + (if isPriv f.b then 2 ^ 6 else 0) + (if f.b.heldC then 2 ^ 5 else 0) +
  (if f.b.pin then 2 ^ 4 else 0) + f.b.st % 4

/-- CORE_ID of a firing (18 R318). -/
def coreId (f : Firing) : Nat := f.part * 2 ^ 13 + f.e.bank * 2 ^ 11 + siteTile f * 2 ^ 7 + f.e.core

/-- LQ_CNT of a queue (19 R346). -/
def State.queueCount (s : State) (part q : Nat) : Nat :=
  let xs := (s.part part).queue.filter (fun x => x.queue == q)
  xs.length + (xs.filter (s.packetReady part)).length * 2 ^ 8

/-- The value a firing reads (18 R315): the registers of its bank are those of its own place, the queue counts look at the packets, every other one
has one place. -/
def State.csrValue (s : State) (f : Firing) (index : Nat) : Nat :=
  match index with
  | 0x000 => f.b.numf.toNat
  | 0x001 => ctxState f
  | 0x002 => f.round % 2 ^ 48
  | 0x004 => coreId f
  | n => if 0x240 ≤ n ∧ n ≤ 0x27F then s.queueCount f.part (n - 0x240) else s.csrBase f.part f.lk f.e.core n

/-- CSRR (18 R316): NUMF and CTX_STATE read what marker r - 1 left, so the firing waits until that marker has passed the block. -/
def execCsrr (o : OpA) (s : State) : Host.Outcome State Fault Refusal :=
  let ix := o.imm.toNat % 2 ^ 12
  .next (s.anchorFire {
    fl := o.fl, need := needL, nums := {}, hold := fun _ f => decide (ix ≤ 1 ∧ f.b.mpass < f.round),
    act := fun s f => s.result f false 1 (fork (z64Tok (s.csrValue f ix))) })

/-- CSRW (18 R316): staged until the marker that closes its round; L goes on. -/
def execCsrw (o : OpA) (s : State) : Host.Outcome State Fault Refusal :=
  .next (s.anchorFire {
    fl := o.fl, need := needL, check := fun _ f => if f.ops.l.all isAddr then none else some (fFormat, 0),
    act := fun s f => match f.ops.l with
      | some l =>
        let w : CsrWrite := {
          key := f.effKey, seq := s.nid, bank := f.bk, round := f.round, index := o.imm.toNat % 2 ^ 12, mode := o.fn.toNat % 4, val := BitVec.ofNat 64 l.word }
        let c := s.core f.e.core
        emitL { s.setCore f.e.core { c with csrStage := c.csrStage ++ [w] } with nid := s.nid + 1 } f
      | none => s })

/-! ### The fault queue (18 R323 R326 R327 R424) -/

/-- The partition that holds a core. -/
def State.partOfCore (s : State) (core : Nat) : Option Nat := (s.parts.find? (fun (_, p) => p.cores.contains core)).map Prod.fst

/-- The words of a queued record: word 1 is its serial number. -/
def Queued.words (q : Queued) : List Nat := q.record.word0.toNat :: q.fser :: q.record.rest.map BitVec.toNat

/-- Give an open site the serial number of its record. -/
def Partition.nameSite (p : Partition) (id fser : Nat) : List OpenSite :=
  if id = 0 then p.sites else p.sites.map (fun x => if x.id = id then { x with fser := some fser } else x)

/-- FAULT_RECORD_ENQUEUE (18 R323 R424, 23 R402): the oldest record at a core's port enters the fault queue when there is room, and stands in the ring, and a
record that a unit holds takes its place at the port; a queue that was empty raises vector 1 of the partition's VFs. A ring that no pinned range holds is a machine check. -/
def execFaultRecordEnqueue (core : Nat) (s : State) : Host.Outcome State Fault Refusal :=
  match s.partOfCore core, (s.core core).frecs with
  | some part, r :: rest =>
    let p := s.part part
    if p.fqlog < 4 ∨ 2 ^ p.fqlog ≤ p.fq.length then .next s
    else
      let q : Queued := { fser := p.fser, record := r }
      match s.pinned part (p.fqBase.toNat + 64 * (p.fser % 2 ^ p.fqlog)) 64 true with
      | none => .next (s.halt part)
      | some a =>
        let c := s.core core
        let s := { s.setCore core { c with frecs := rest ++ c.fwait.take 1, fwait := c.fwait.drop 1 } with mem := writeBytes s.mem a (q.words.flatMap (leBytes 8)) }
        let vfs := if p.fq.isEmpty then (s.hub.vfs.filter (fun x => x.2 == part)).map (fun x => (x.1, 1)) else []
        let s := { s with hub := { s.hub with msix := s.hub.msix ++ vfs } }
        .next (s.setPart part { p with fq := p.fq ++ [q], fser := p.fser + 1, sites := p.nameSite r.siteId p.fser })
  | _, _ => .next s

/-- Both targets of the firing would take a result now. -/
def State.targetsFree (s : State) (f : Firing) (o : OpA) : Bool := s.targetAccepts f.bk f.e.idx 0 o.t0 && s.targetAccepts f.bk f.e.idx 1 o.t1

/-- TFETCH (18 R326): waits on an empty queue; the record leaves the queue as it is emitted, so the firing starts where its targets accept. -/
def execTfetch (o : OpA) (s : State) : Host.Outcome State Fault Refusal :=
  .next (s.anchorFire {
    fl := o.fl, need := needL, nums := {}, hold := fun s f => (s.part f.part).fq.isEmpty || !s.targetsFree f o,
    act := fun s f =>
      let p := s.part f.part
      match p.fq with
      | q :: rest => (s.setPart f.part { p with fq := rest }).result f false 1 (fork (vecTok q.words))
      | [] => s })

/-- REINJ (18 R327): the answer tells whether an open site took the token. -/
def execReinj (o : OpA) (s : State) : Host.Outcome State Fault Refusal :=
  .next (s.anchorFire {
    fl := o.fl, need := needLR, nums := { l := true }, check := fun _ f => if f.ops.l.all isVec64 then none else some (fFormat, 0),
    act := fun s f => match f.ops.l, f.ops.r with
      | some l, some r =>
        let x := s.reinject f.part (laneOf l.num 64 1) (BitVec.ofNat 64 (laneOf l.num 64 0)) r (o.fn.toNat % 4)
        x.1.result f false 1 (fork (predTok x.2))
      | _, _ => s })

/-- The LID of a launch word (18 R324). -/
def launchWordLid (t : Option Token) : Nat := bitsAt ((t.map Token.word).getD 0) 40 16

/-- TKILL (18 R328): ends the launch its word names. -/
def execTkill (o : OpA) (s : State) : Host.Outcome State Fault Refusal :=
  .next (s.anchorFire {
    fl := o.fl, need := needL, check := fun _ f => if f.ops.l.all isZ64 then none else some (fFormat, 0),
    act := fun s f =>
      let lk := f.part * 65536 + launchWordLid f.ops.l
      let ok := lkLid lk != 0 && (s.launch lk).isSome
      (if ok then s.finish lk 1 else s).result f false 1 (fork (predTok ok)) })

/-! ### HALT and IDLE (18 R333 R334) -/

/-- HALT: the partition halts; the journal of the management core is the host's. -/
def execHalt (o : OpA) (s : State) : Host.Outcome State Fault Refusal :=
  .next (s.anchorFire { fl := o.fl, need := needL, nums := {}, act := fun s f => s.halt f.part })

/-- IDLE (18 R333): the mask of events is awaited, and belongs to the round in which it is emitted; one trigger at a time waits (log 64). -/
def execIdle (o : OpA) (s : State) : Host.Outcome State Fault Refusal :=
  .next (s.anchorFire {
    fl := o.fl, need := needL, nums := {}, hold := fun s f => (s.core f.e.core).idles.any (fun x => x.1 == f.e),
    act := fun s f =>
      let (id, s) := s.fresh
      let c := s.core f.e.core
      let n := o.imm.toNat % 2 ^ 16
      (s.setCore f.e.core { c with idles := c.idles ++ [(f.e, id, n, n)] }).await f false false id })

/-- The events that hold for a waiting IDLE: the markers still to pass and the markers asked for. -/
def idleMask (p : Partition) (left asked : Nat) : Nat :=
  (if p.fq.isEmpty then 0 else 1) + (if p.hndMsg = 0 then 0 else 2) + (if asked ≠ 0 ∧ left = 0 then 4 else 0)

/-- An IDLE with an event that holds has its mask. -/
def State.wakeIdle (s : State) (e : Site) : State :=
  let c := s.core e.core
  let p := s.part (lkPart (s.bank (siteKey e)).lk)
  (c.idles.filter (fun x => x.1 == e && idleMask p x.2.2.1 x.2.2.2 != 0)).foldl (fun s (x : Site × Nat × Nat × Nat) =>
    s.fill e x.2.1 s.fc none (fork (z64Tok (idleMask p x.2.2.1 x.2.2.2))))
    (s.setCore e.core { c with idles := c.idles.filter (fun x => x.1 != e || idleMask p x.2.2.1 x.2.2.2 == 0) })

/-- RESULT_EMIT (02 R22 R23): the results of both outputs that are due; a system bank of a halted partition stands still (18 R334). -/
def execResultEmit (e : Site) (s : State) : Host.Outcome State Fault Refusal :=
  let bk := siteKey e
  if isSysBank bk && (s.part (lkPart (s.bank bk).lk)).halted then .next s
  else .next (((s.wakeIdle e).emitQueue e false).emitQueue e true)

/-! ### Context records (18 R329-R331) -/

/-- The launch whose markers a core's port counts: that bound to the core, or else the handler launch. -/
def State.portLaunch (s : State) (part core : Nat) : Nat := ((s.core core).lk).getD (part * 65536)

/-- The cases of R329 that end a command at once. -/
def ctxRefused (s : State) (part a sel : Nat) : Bool := !(s.part part).cores.contains (sel % 2 ^ 7) || sel / 2 ^ 13 != 0 || a % 64 != 0

/-- Accept CTXSAVE or CTXLOAD: words 2 and 3 keep the launch and the count of markers that the port has passed. -/
def State.ctxAccept (s : State) (f : Firing) (op : Nat) : State :=
  let a := (f.ops.l.map Token.word).getD 0
  let sel := (f.ops.r.map Token.word).getD 0
  let lk := s.portLaunch f.part (sel % 2 ^ 7)
  let bad := ctxRefused s f.part a sel || (op == 0xD8 && (s.bank (selBank sel)).st != 0)
  let (id, s) := s.fresh
  let c := s.core f.e.core
  let x : Cmd := {
    id := id, site := f.e, lk := f.lk, core := f.e.core, round := f.round, thr := f.thr, op := op,
    words := [a, sel, lk, mgetD (s.core (sel % 2 ^ 7)).pass lk 0], key := f.writeKey, org := f.origin, user := false, finished := bad, status := if bad then fContext else 0 }
  let s := ((s.setCore f.e.core { c with cmds := c.cmds ++ [x] }).await f false false id).orderSecond f
  if op = 0xD8 ∧ bad = false then s.setBank (selBank sel) { st := 2, lk := f.lk } else s

/-- The firing of CTXSAVE or CTXLOAD. -/
def State.ctxFire (s : State) (op : Nat) (o : OpA) : State :=
  s.accessFire {
    fl := o.fl, need := needLR, rd := false, wr := false, check := fun _ f => if f.ops.l.all isAddr && f.ops.r.all isZ64 then none else some (fFormat, 0),
    place := fun _ _ => .tile [], act := fun s f _ => s.ctxAccept f op }

/-- CTXSAVE (18 R331). -/
def execCtxsave (o : OpA) (s : State) : Host.Outcome State Fault Refusal := .next (s.ctxFire 0xD7 o)
/-- CTXLOAD (18 R331). -/
def execCtxload (o : OpA) (s : State) : Host.Outcome State Fault Refusal := .next (s.ctxFire 0xD8 o)

/-- A marker has passed the port of the selected core since acceptance, or the launch whose markers they were has ended. -/
def State.ctxMarker (s : State) (x : Cmd) : Bool :=
  let lk := x.words.getD 2 0
  (s.launch lk).isNone || decide (x.words.getD 3 0 < mgetD (s.core (x.words.getD 1 0 % 2 ^ 7)).pass lk 0)

/-- A command ends with a status. -/
def State.ctxEnd (s : State) (core : Nat) (x : Cmd) (status done : Nat) : State := s.setCmd core { x with finished := true, status := status, done := done }

/-- CTXSAVE writes its record line by line; an empty bank at the marker is a context fault; a line outside a pinned range is a machine check. -/
def State.ctxWrite (s : State) (core : Nat) (x : Cmd) : State :=
  if !x.loaded then
    (if s.ctxMarker x && (s.bank (selBank (x.words.getD 1 0))).st != 1 then s.ctxEnd core x fContext 0 else s)
  else if x.total ≤ x.prog then s.ctxEnd core x 0 x.prog
  else
    match s.pinned (lkPart x.lk) (x.words.getD 0 0 + x.prog) 64 true with
    | none => s.halt (lkPart x.lk)
    | some a =>
      let p : Part := { space := .dev, addr := a, size := 64, off := 0, prog := x.words.getD 0 0 + x.prog }
      if !s.stageRoom core [p] then s.requestMarker x.lk core else s.stageCmd core x [p] (readBytes x.buf x.prog 64) 64

/-- What a context record says. -/
structure CtxRec where
  blk : Nat
  lid : Nat
  pin : Bool
  img : Nat
  cut : BankCut
  deriving DecidableEq, Repr

/-- RVER and the reserved bits of the first line and of the sideband line. -/
def ctxHeaderOk (w : Nat → Nat) (side : Nat) : Bool :=
  bitsAt (w 0) 40 8 == 1 && w 0 / 2 ^ 49 == 0 && decide (w 2 < 2 ^ 48 ∧ w 3 < 32 ∧ w 4 < 2 ^ 48) && !bitAt (w 5) 7 && w 5 / 2 ^ 15 == 0 && w 6 == 0 && w 7 == 0 &&
  decide (side < 2 ^ 384)

/-- Lines that the counts of a record's first line give it. -/
def ctxLines (w5 : Nat) : Nat := 12 + (bitsAt w5 8 7 + 7) / 8 + 2 * bitsAt w5 0 7

/-- The operator that two lines of a record describe; no copy of a REPEAT is left at a marker. -/
def opOfLines (a0 a1 b : Nat) : Nat × OpState :=
  (bitsAt a0 0 7, match bitsAt a0 8 4 with
    | 3 => .carry (bitAt a0 12)
    | 4 => .invar (if bitAt a0 13 then some (ofSideband (bitsAt a0 14 16) (BitVec.ofNat 512 b)).token else .none)
    | 9 => .gate (bitsAt a1 0 32)
    | 10 => .count (bitsAt a1 0 32)
    | _ => .none)

/-- Read a context record at a device address (18 R330). -/
def readCtx (m : Memory) (a : Nat) : Option CtxRec :=
  let w (i : Nat) : Nat := word64 m (a + 8 * i)
  let side := leNat (readBytes m (a + 64 * 11) 64)
  if !ctxHeaderOk w side then none
  else
    let n := (bitsAt (w 5) 8 7 + 7) / 8
    let regs := (List.range 24).foldl (fun (x : Map Stored) i =>
      mset x i (ofSideband (bitsAt side (16 * i) 16) (if i < 16 then BitVec.ofNat 512 (w (8 + i)) else BitVec.ofNat 512 (leNat (readBytes m (a + 64 * (3 + (i - 16))) 64))))) []
    let cvt := (List.range (8 * n)).filterMap (fun i =>
      let x := w (96 + i)
      if bitAt x 63 then some (bitsAt x 36 7, OpState.cvt (bitsAt x 0 32) (bitsAt x 32 4) []) else none)
    let ops := (List.range (bitsAt (w 5) 0 7)).map (fun i =>
      let l := a + 64 * (12 + n + 2 * i)
      opOfLines (word64 m l) (word64 m (l + 8)) (leNat (readBytes m (l + 64) 64)))
    let all := (cvt ++ ops).foldl (fun (x : Map OpState) y => mset x y.1 y.2) []
    some { blk := bitsAt (w 0) 0 24, lid := bitsAt (w 0) 24 16, pin := bitAt (w 0) 48, img := w 1,
           cut := { round := bitsAt (w 2) 0 48, regs := regs, numf := BitVec.ofNat 5 (w 3), ops := all } }

/-- A block that has become resident takes the count of markers on its circuits from their sources (log 18). -/
def State.joinBlock (s : State) (bk : Nat) : State :=
  let b := s.bank bk
  b.srcs.foldl (fun s (x : Nat × Nat) =>
    match s.bankOfNum b.lk x.2 with
    | none => s
    | some sb =>
      let src := s.bank sb
      match src.arcs.find? (fun a => a.dstNum == some b.num && a.dstIdx == x.1) with
      | none => s
      | some a =>
        let ws := (portWriters src (a.src.1 - 128)).map (fun i => (src.elem i).fwd)
        let fwd := ws.foldl min (ws.headD 0)
        let marks := fwd - (a.hops.map Hop.marks).sum
        let b := s.bank bk
        let el := b.elem (32 + x.1)
        s.setBank bk (b.setElem (32 + x.1) { el with l := { el.l with marks := marks } })) s

/-- A bank is empty again. -/
def State.freeBank (s : State) (k : Nat) : State := { s with banks := s.banks.filter (fun x => x.1 != k) }

/-- The cases of R331 that leave the bank empty, found in the record. -/
def State.ctxBad (s : State) (part core : Nat) (r : CtxRec) : Bool :=
  let lk := part * 65536 + r.lid
  (s.launch lk).isNone || (r.lid != 0 && (s.core core).lk != some lk) ||
  s.banks.any (fun (k, b) => bankCore k == core && b.st == 1 && b.lk == lk && b.blk == r.blk)

/-- CTXLOAD at its marker: the checks of the block, then residency with the record's state as the committed state. -/
def State.ctxInstall (s : State) (core : Nat) (x : Cmd) (r : CtxRec) (bytes : Nat) : State :=
  let part := lkPart x.lk
  let sel := x.words.getD 1 0
  let k := selBank sel
  let tc := sel % 2 ^ 7
  let lk := part * 65536 + r.lid
  let s := s.freeBank k
  match s.launch lk with
  | none => s.ctxEnd core x fContext 0
  | some l =>
    let l := { l with img := r.img }
    let lr := s.loadOf l
    let ent := (blockTable s.mem r.img lr).find? (fun y => y.2.blk == r.blk && l.coreOf y.2.core == tc)
    let tile := bankTile k
    let tile2 := match ent with
      | some (_, e) => if e.tile = tile then e.tile2 else tile
      | none => tile
    let p : Place' := ⟨tc, tile, tile2, k % 4⟩
    let full := tile2 != tile && (s.bank (bankKeyOf tc tile2 (k % 4))).st != 0
    match blockFault s.mem r.img lr l.ord (r.lid == 0) r.blk (ent.map Prod.fst) (!r.pin) p with
    | some (step, idx) => (s.blockNotice lk p r.blk step idx).ctxEnd core x fContext 0
    | none =>
      if full then s.ctxEnd core x fContext 0
      else
        let origin := ((ent.map (fun y => y.2.core)).getD (l.cores.findIdx (fun c => c == tc)))
        let l := { l with working := mset l.working (workKey origin r.blk) r.cut }
        ((s.install lk l lr ((ent.map Prod.fst).getD (2 ^ 40)) origin r.blk r.pin p (s.injOf lk tc)).joinBlock k).ctxEnd core x 0 bytes

/-- CTXLOAD: at the first marker after acceptance, once the writes before it are home, the record is read. -/
def State.ctxRead (s : State) (core : Nat) (x : Cmd) : State :=
  if !s.ctxMarker x || !s.roundHome x.lk core x.round then s
  else
    let a := x.words.getD 0 0
    let k := selBank (x.words.getD 1 0)
    match s.pinned (lkPart x.lk) a (64 * 12) false with
    | none => s.halt (lkPart x.lk)
    | some d =>
      let n := 64 * ctxLines (word64 s.mem (d + 40))
      if (s.pinned (lkPart x.lk) a n false).isNone then s.halt (lkPart x.lk)
      else
        match readCtx s.mem d with
        | none => (s.freeBank k).ctxEnd core x fContext 0
        | some r => if s.ctxBad (lkPart x.lk) (x.words.getD 1 0 % 2 ^ 7) r then (s.freeBank k).ctxEnd core x fContext 0 else s.ctxInstall core x r n

/-- ENGINE_WRITE_STAGE (09 R240, 13 R293, 18 R331): a command moves on by one part. -/
def execEngineWriteStage (id : Nat) (s : State) : Host.Outcome State Fault Refusal :=
  match s.cmdOf id with
  | none => .next s
  | some (core, x) =>
    if x.finished || (s.part (lkPart x.lk)).halted || s.portHolds core then .next s
    else
      match x.op with
      | 0xD7 => .next (s.ctxWrite core x)
      | 0xD8 => .next (s.ctxRead core x)
      | _ => .next (s.engineStage core x)

end Sys2Proof.Machine
end

