-- ==== Sys2Proof/Machine/Round.lean ====
section
/-! DEFINITION. Rounds (02 R25 R422, 06 R140, 12 R271, 18 R312, 21 R381): the injection of markers, what a marker waits for at an instruction, a bank, a
memory tile, a matrix node and a port, complete cuts, the effects of a marker (06 R157, 10 R261), and units at home slices and at peers (13 R283-R288). -/

namespace Sys2Proof.Machine

/-! ### The inputs of an instruction that markers arrive on -/

/-- The arc of a source block that ends at an input port of a block. -/
def State.portArc (s : State) (b : Bank) (port : Nat) : Option (Nat × Arc) :=
  (b.srcs.find? (fun x => x.1 == port)).bind (fun x => (s.bankOfNum b.lk x.2).bind (fun k =>
    ((s.bank k).arcs.find? (fun a => a.dstNum == some b.num && a.dstIdx == port)).map (fun a => (k, a))))

/-- Every token of a slot comes from a free constant: on its arc every marker has already arrived. -/
def State.fedFree (s : State) (b : Bank) (idx : Nat) (k : Slot) : Bool :=
  if portFed b idx k then
    (s.portArc b (idx - 32)).any (fun (bk, a) => let w := portWriters (s.bank bk) (a.src.1 - 128); !w.isEmpty && w.all (freeConst (s.bank bk)))
  else let ps := producers b idx k; !ps.isEmpty && ps.all (fun x => freeConst b x.1)

/-- Every operand of an instruction comes from free constants (06 R133). -/
def State.freeFed (s : State) (b : Bank) (idx : Nat) : Bool :=
  let ks := [Slot.l, .r, .p].filter (hasSource b idx)
  !ks.isEmpty && ks.all (s.fedFree b idx)

/-- The slots on which markers align (02 R25, 06 R140). -/
def State.aligned (s : State) (b : Bank) (idx : Nat) : List Slot :=
  [Slot.l, .r, .p].filter (fun k => hasSource b idx k && !backEdge (b.instr idx) k && !s.fedFree b idx k)

/-- An input port receives its markers from Chafer (02 R422): no circuit reaches it, or the circuit's source is not resident (log 18). -/
def State.portOfChafer (s : State) (b : Bank) (port : Nat) : Bool :=
  bitAt (ipmap b) port && (match b.srcs.find? (fun x => x.1 == port) with
    | none => true
    | some x => (s.bankOfNum b.lk x.2).isNone)

/-- The operand slots that an instruction needs: those it uses, but for an order token, a fence's data, an extension's operands and a flush, which it takes
where they have a source (08 R193 R216, 05 R114, 06 R136 R138). -/
def needsOf (i : Instr) (b : Bank) (idx : Nat) : Slots :=
  let u := slotUse i
  match i.form with
  | .a op o =>
    let pm := o.fl.pm != .none
    if op = 0xB0 then { u with r := hasSource b idx .r }
    else if op = 0x09 then { u with r := false }
    else if op = 0x0A then { u with l := false, p := false }
    else if 0xE0 ≤ op then { l := true, r := u.r && hasSource b idx .r, p := pm }
    else if (0x90 ≤ op ∧ op < 0xD0) ∨ op = 0xD7 ∨ op = 0xD8 ∨ op = 0xDE then { u with p := u.p && (pm || hasSource b idx .p) }
    else u
  | _ => u

/-- An instruction that needs a slot without a source never fires and never forwards a marker (05 R116). -/
def deadInstr (b : Bank) (idx : Nat) (i : Instr) : Bool :=
  let n := needsOf i b idx
  (n.l && !hasSource b idx .l && !freeConst b idx) || (n.r && !hasSource b idx .r) || (n.p && !hasSource b idx .p)

/-- One more step of the instructions that a dead one keeps from forwarding. -/
def State.stuckMore (s : State) (b : Bank) (xs : List Nat) : List Nat :=
  (b.words.map Prod.fst).filter (fun i => xs.contains i || (s.aligned b i).any (fun k => (producers b i k).any (fun p => xs.contains p.1)))

/-- n steps of it. -/
def State.stuckClose (s : State) (b : Bank) : Nat → List Nat → List Nat
  | 0, xs => xs
  | n + 1, xs => let ys := s.stuckMore b xs; if ys.length = xs.length then ys else s.stuckClose b n ys

/-- The instructions of a block whose forwarding the block's marker waits for. -/
def State.liveInstrs (s : State) (b : Bank) : List Nat :=
  let all := b.words.map Prod.fst
  let dead := all.filter (fun i => (b.instr i).any (deadInstr b i))
  let stuck := if dead.isEmpty then [] else s.stuckClose b all.length dead
  all.filter (fun i => !stuck.contains i && !freeConst b i)

/-! ### What the round is owed at an instruction -/

/-- The early decision of an instruction with E on the operands that stand (03 R48). -/
def earlyStands (i : Instr) (x : Operands) : Bool :=
  match i with
  | .and o => o.fl.e && !o.fl.b && (zeroEarly o (fun _ => 0) x).isSome
  | .or o => o.fl.e && !o.fl.b && (zeroEarly o (fun f => 2 ^ f.width - 1) x).isSome
  | .mul o => o.fl.e && !o.fl.b && (zeroEarly o (fun _ => 0) x).isSome
  | .min o => o.fl.e && !o.fl.b && (zeroEarly o (fun f => ofInt f.width f.lo) x).isSome
  | .max o => o.fl.e && !o.fl.b && (zeroEarly o (fun f => ofInt f.width f.hi) x).isSome
  | .sel o => o.fl.e && !o.fl.b && (selEarly o x).isSome
  | .steer o => o.fl.e && !o.fl.b && (steerEarly o x).isSome
  | .merge o => o.fl.e && !o.fl.b && (mergeEarly o x).isSome
  | _ => false

/-- A well-formed predicate that is true. -/
def goodTrue (p : Option Token) : Bool := p.any (fun t => isScalarPred t && !t.poison && t.truth)
/-- A well-formed predicate. -/
def goodPred (p : Option Token) : Bool := p.any (fun t => isScalarPred t && !t.poison)

/-- A whole set of operands stands at an instruction. -/
def operandsStand (f : Firing) (i : Instr) : Bool :=
  let x := f.ops
  match i with
  | .merge o =>
    if o.fl.e then ready x { l := true, r := true, p := true }
    else x.p.any (fun p => !(isScalarPred p && !p.poison) || (if p.truth then x.l.isSome else x.r.isSome))
  | .carry _ =>
    (match f.el.ost with
     | .carry true => x.p.isSome && (!goodTrue x.p || x.r.isSome)
     | _ => x.l.isSome)
  | .invar _ =>
    (match f.el.ost with
     | .invar (some _) => x.p.isSome
     | _ => x.l.isSome)
  | .gateCreditFiring o => x.l.isSome && x.p.isSome && !(goodTrue x.p && gateCredits o f.el.ost == 0)
  | .gatePassFiring o => x.l.isSome && x.p.isSome && !(goodTrue x.p && gateCredits o f.el.ost == 0)
  | .countLFiring o => (x.l.isSome && (o.i || x.r.isSome)) || (x.p.isSome && (!goodTrue x.p || o.i || x.r.isSome))
  | .countPFiring o => (x.l.isSome && (o.i || x.r.isSome)) || (x.p.isSome && (!goodTrue x.p || o.i || x.r.isSome))
  | .strgoWrite _ =>
    (match f.el.ost with
     | .stream _ _ _ _ _ _ => x.r.isSome
     | _ => ready x { l := true, p := hasSource f.b f.e.idx .p })
  | i => if freeConst f.b f.e.idx then false else ready x (needsOf i f.b f.e.idx)

/-- The parts of a place, where they are translated. -/
def State.placeParts (s : State) (f : Firing) (p : Place) : List Part :=
  match p with
  | .err _ _ => []
  | .tile ps => ps
  | .global as => match s.translateAll f.e.core f.part (!isPriv f.b) false false as with
    | .ok ps => ps
    | _ => []

/-- The place that a memory instruction accesses, whether it is a write, whether it needs room to stage. -/
def accessPlace (i : Instr) (s : State) (f : Firing) : Option (Place × Bool × Bool) :=
  match i with
  | .ld o => some (.global [(globalAddr o f, scalarSize o.ty, 0)], false, false)
  | .ldv o => some (.global [(globalAddr o f, 64, 0)], false, false)
  | .mtld o => some (tilePlace s f o.imm.toInt (if o.v then 64 else scalarSize o.ty), false, false)
  | .gath o => some (lanePlace (scalarSize o.ty) f, false, false)
  | .st o => some (.global [(globalAddr o f, scalarSize o.ty, 0)], true, true)
  | .stv o => some (.global [(globalAddr o f, 64, 0)], true, true)
  | .mtst o => some (tilePlace s f o.imm.toInt (if o.v then 64 else scalarSize o.ty), true, true)
  | .scat o => some (lanePlace (scalarSize o.ty) f, true, true)
  | .rsv o => some (wordPlace (o.bit 0) 4 s f, true, false)
  | .bop _ => some (.global [(f.lw, 8, 0)], true, true)
  | .bar o => some (wordPlace (decide (o.imm.toNat ≤ 2)) 8 s f, true, false)
  | .barCopy o => some (wordPlace (decide (o.imm.toNat ≤ 2)) 8 s f, true, false)
  | i => match i.form with
    | .a op o =>
      if 0xA0 ≤ op ∧ op ≤ 0xAB then some (wordPlace (o.bit 0) (atomicSize op o.ty) s f, true, false)
      else if op = 0xB2 ∨ op = 0xB3 ∨ op = 0xB4 then some (wordPlace false 8 s f, true, false)
      else none
    | _ => none

/-- A memory instruction waits for room to stage, or for an ordered atomic of its chain: both need a later marker (08 R197 R212). -/
def State.accessParks (s : State) (f : Firing) (i : Instr) : Bool :=
  match accessPlace i s f with
  | none => false
  | some (p, wr, room) =>
    let ps := s.placeParts f p
    !ps.isEmpty && (s.chainBusy f.lk (if wr then f.writeChain else f.chain) ps || (room && !s.stageRoom f.e.core ps))

/-- An operand set that stands waits for what may come only after this marker, so its result is not owed to this round (log 9). -/
def State.parks (s : State) (f : Firing) (i : Instr) : Bool :=
  let l (s : State) : Option Nat := (namedQueueOf i s f).bind (fun k => (s.queueHead k).map (fun _ => k))
  match i with
  | .qpop _ => (l s).isNone
  | .strcfg o => strHold o s f
  | .strgo o => strHold o s f || strBusy o s f f.chain
  | .strgoWrite o =>
    (match f.el.ost with
     | .stream n _ _ _ _ _ =>
       let (k, j) := strOf o f
       let t := s.mtile k
       let w := (strWindow t.cfg).getD 1
       !s.stageRoom f.e.core [{ space := .tile f.e.core (k % 16), addr := 64 * (strLine (t.streamer j).words w n).getD 0, size := 64, off := 0 }]
     | _ => strHold o s f || strBusy o s f f.writeChain)
  | .mxldbHeaderFiring _ => (match f.el.ost with
    | .mxldb _ => false
    | _ => true)
  | .mxldbPayloadFiring _ => (match f.el.ost with
    | .mxldb _ => false
    | _ => true)
  | .mxrow o => ((s.ctile (nodeKey f)).slot (rowSlot o)).state != 2
  | .mxrows o => ((s.ctile (nodeKey f)).slot (rowSlot o)).state != 2
  | .rloop _ => (s.freeLoop f.e.core f.b.origin).isNone
  | .btask _ => (s.freeTask f.e.core f.b.origin).isNone || !(s.part f.part).ctloads.isEmpty
  | .tfetch _ => (s.part f.part).fq.isEmpty
  | .shrink _ => true
  | i => (match i.form with
    | .a op _ => decide (0xB8 ≤ op ∧ op ≤ 0xBF) && decide (16 ≤ s.portCommands f.e.core f.part)
    | _ => false) || s.accessParks f i
where
  /-- The queue that QPOP names. -/
  namedQueueOf (i : Instr) (s : State) (f : Firing) : Option Nat :=
    match i with
    | .qpop o => namedQueue o s f
    | _ => none

/-- A result or a firing of the round is still owed at an instruction (02 R25): a result on its way, copies of a REPEAT (06 R137), a countdown of QUIET
(06 R160), a whole set of operands other than free constants, an open site, a pending cancel, an anti-token of its own (03 R62). -/
def State.owes (s : State) (e : Site) (i : Instr) : Bool :=
  let f := { s with cur := e }.firing
  let r := f.round
  let late (x : Flight) : Bool := x.round.any (fun k => decide (k ≤ r))
  let anti (k : Slot) : Bool := !(f.el.slot k).anti.isEmpty || (match arcTo f.b e.idx k with
    | some j => f.b.arcs[j]?.any (fun a => a.hops.any (fun h => h.rev.isSome))
    | none => false)
  let port := e.idx - 32
  let drops : Bool := decide (32 ≤ e.idx ∧ e.idx < 48) && ((mgetD f.b.drops port []).any (fun x => decide (x < r)) || (mget f.b.rev port).any (fun x => decide (x ≤ r)))
  let copies : Bool := match f.el.ost with
    | .copies _ => true
    | _ => false
  (f.el.q0 ++ f.el.q1).any late || f.el.held || (s.part f.part).sites.any (fun x => x.site == e && x.lk == f.lk && decide (x.round ≤ r)) ||
  f.el.pend.any (fun q => q.any (fun x => decide (x ≤ r))) || [Slot.l, .r, .p].any anti || drops || copies || s.quietOwed f.lk e r ||
  (!s.freeFed f.b e.idx && ((operandsStand f i && !s.parks f i) || earlyStands i f.ops))

/-- Marker r has arrived where it is awaited, and on the back edges marker r - 1 has been absorbed (02 R25, 06 R140). -/
def State.markersIn (s : State) (b : Bank) (idx : Nat) : Bool :=
  let el := b.elem idx
  (decide (el.fwd < el.chafer) || decide (el.fwd < el.l.marks) || decide (el.fwd < el.r.marks) || decide (el.fwd < el.p.marks)) &&
  let i := b.instr idx
  let al := s.aligned b idx
  (if al.isEmpty then decide (el.fwd < el.chafer) else al.all (fun k => decide (el.fwd < (el.slot k).marks))) &&
  [Slot.l, .r, .p].all (fun k => !(backEdge i k && hasSource b idx k && !s.fedFree b idx k) || decide (el.fwd ≤ (el.slot k).marks))

/-! ### Forwarding -/

/-- A marker arrives at a slot. -/
def State.markSlot (s : State) (bk idx : Nat) (k : Slot) : State :=
  let b := s.bank bk
  let el := b.elem idx
  s.setBank bk (b.setElem idx (el.setSlot k { el.slot k with marks := (el.slot k).marks + 1 }))

/-- A marker enters an arc: it stands behind the token of the first hop, or arrives at once where the arc has none. -/
def State.markArc (s : State) (bk j : Nat) : State :=
  let b := s.bank bk
  match b.arcs[j]? with
  | none => s
  | some a =>
    match a.hops with
    | h :: hs => s.setBank bk { b with arcs := b.arcs.set j { a with hops := { h with marks := h.marks + 1 } :: hs } }
    | [] =>
      match s.arcBank bk a with
      | none => s
      | some d => s.markSlot d (if a.dstNum.isSome then 32 + a.dstIdx else a.dstIdx) (if a.dstNum.isSome then .l else a.dstSlot)

/-- A marker goes out on every output; on a port that others write too, with the last of them. -/
def State.markOutputs (s : State) (bk idx : Nat) (ts : List Target) : State :=
  ts.zipIdx.foldl (fun s (t, n) => match t with
    | .none => s
    | .creg _ => s
    | .port p => if portAhead (s.bank bk) idx p.toNat then s else (arcsOf (s.bank bk) idx n t).foldl (fun s j => s.markArc bk j) s
    | .slot i k => match arcsOf (s.bank bk) idx n t with
      | [] => s.markSlot bk i.toNat k
      | js => js.foldl (fun s j => s.markArc bk j) s) s

/-- K releases R at the marker (05 R106). -/
def hasSticky (i : Instr) : Bool :=
  match i.form with
  | .a _ o => o.fl.k
  | _ => false

/-- AN INSTRUCTION FORWARDS ITS MARKER (02 R25). -/
def State.forwardElem (s : State) (e : Site) : State :=
  let bk := siteKey e
  let b := s.bank bk
  match b.instr e.idx with
  | none => s
  | some i =>
    if b.st ≠ 1 ∨ !s.markersIn b e.idx ∨ freeConst b e.idx ∨ deadInstr b e.idx i ∨ s.owes e i then s
    else
      let el := b.elem e.idx
      let n := el.fwd + 1
      let cut := s.cutOf b.lk e.core
      let held (k : InSlot) : List Token := k.rein ++ k.latch.toList
      let rs : InSlot := if hasSticky i then { el.r with latch := none, rein := [] } else el.r
      let el : Elem := {
        el with fwd := n, r := rs, snaps := keepSnap n { ost := el.ost, fires := el.fires, l := held el.l, r := held rs, p := held el.p } el.snaps,
                sent := el.sent.filter (fun x => decide (cut ≤ x.1)) }
      (s.setBank bk (b.setElem e.idx el)).markOutputs bk e.idx i.targets

/-- Something of a block without QEX is left at its marker (06 R160); a QUIET that waits is none of it. -/
def State.blockBusy (s : State) (bk : Nat) : Bool :=
  let b := s.bank bk
  let waits (f : Flight) : Bool := f.outs.isNone && (s.launchOfBank b).any (fun l => l.quiets.any (fun q => q.flight == f.id))
  let full (k : InSlot) : Bool := k.latch.isSome || !k.rein.isEmpty || !k.anti.isEmpty
  b.elems.any (fun (_, x) => full x.l || full x.r || full x.p || !x.q0.all waits || !x.q1.isEmpty || x.pend.any (fun q => !q.isEmpty)) ||
  b.arcs.any (fun a => !a.pend.isEmpty || a.hops.any (fun h => h.fwd.isSome || h.rev.isSome)) || b.drops.any (fun d => !d.2.isEmpty) || !b.rev.isEmpty ||
  s.reqs.any (fun q => siteKey q.site == bk) || (s.core (bankCore bk)).cmds.any (fun c => siteKey c.site == bk && c.emitted.isNone)

/-- A MARKER PASSES A BLOCK once its instructions have forwarded it and no drop of its round is pending (12 R271, 03 R62). -/
def State.forwardBank (s : State) (bk : Nat) : State :=
  let b := s.bank bk
  let r := b.mpass
  if b.st ≠ 1 ∨ b.upper.isSome then s
  else if !decide (r < s.injOf b.lk (bankCore bk)) || !(s.liveInstrs b).all (fun i => decide (r < (b.elem i).fwd)) ||
      b.drops.any (fun d => d.2.any (fun x => decide (x ≤ r))) || b.rev.any (fun d => decide (d.2 ≤ r)) then s
  else
    let s := if !isQex b && s.blockBusy bk then s.active b.lk (bankCore bk) r else s
    let s := s.commitBank bk r
    match b.tile2 with
    | none => s
    | some t => let u := bankKeyOf (bankCore bk) t (bk % 4); s.setBank u { s.bank u with mpass := r + 1 }

/-- The blocks of a launch on a core have passed marker r. -/
def State.banksPast (s : State) (lk core r : Nat) : Bool :=
  s.banks.all (fun (k, b) => !(bankCore k == core && b.lk == lk && b.st == 1) || decide (r < b.mpass))

/-- An operation of rounds up to r is on its way to its unit. -/
def State.opUnderway (s : State) (lk core r : Nat) (here : Space → Bool) : Bool :=
  s.reqs.any (fun q => q.lk == lk && q.site.core == core && q.op.isSome && !q.arrived && decide (q.round ≤ r) && q.parts.any (fun p => here p.space))

/-- A marker passes a memory tile after the blocks. -/
def State.forwardTile (s : State) (lk core t : Nat) : State :=
  let r := mgetD (s.mtile (tileKey core t)).pass lk 0
  if !decide (r < s.injOf lk core) || !s.banksPast lk core r || s.opUnderway lk core r (fun x => x == .tile core t) then s else s.commitTile lk core t r

/-- A marker passes a matrix node after the blocks. -/
def State.forwardNode (s : State) (lk core t : Nat) : State :=
  let r := mgetD (s.ctile (tileKey core t)).pass lk 0
  if !decide (r < s.injOf lk core) || !s.banksPast lk core r then s else s.commitNode lk core t r

/-! ### Complete cuts -/

/-- Units for the host go out, one request a round; those for a peer as that peer's remote unit (13 R288 R291). -/
def State.sendFar (s : State) (lk : Nat) (cores : List Nat) (r : Nat) : State :=
  let mine (a : Arrival) : Bool := a.lk == lk && cores.contains a.core && decide (a.round ≤ r)
  let host := s.units.filter (fun a => mine a && a.space == Space.host)
  let (id, s) := s.fresh
  let s := { s with units := s.units.filter (fun a => !(mine a && a.space == Space.host)), hostReqs := s.hostReqs ++ host.map (fun a => (id, a)) }
  let far (a : Arrival) : List RemoteUnit := match a.space with
    | .peer p => if mine a then [⟨p, lk, a.core, a.round⟩] else []
    | _ => []
  { s with remoteUnits := s.remoteUnits ++ ((s.units.flatMap far).eraseDups.filter (fun x => !s.remoteUnits.contains x)) }

/-- A thread record of a block without QEX stood in an entry queue of a core, or on its way there, at marker r. -/
def State.recordsAt (s : State) (lk : Nat) (l : Launch) (cores : List Nat) (r : Nat) : Bool :=
  let counts (w0 : Nat) : Bool := !bitAt (header0 s.mem l.img (bitsAt w0 0 24)).toNat 23
  let here (x : QRec) : Bool := x.lk == lk && x.copy.isSome && decide (x.round ≤ r) && counts (laneOf x.val.pay 64 0)
  l.pushes.any (fun p => decide (p.round ≤ r) && counts p.blk) ||
  cores.any (fun c => (List.range 16).any (fun t =>
    let m := s.mtile (tileKey c t)
    m.recs.any here || m.popped.any (fun y => decide (r < y.1) && here y.2)))

/-- QUIETs count round r of a launch, or of a core of the handler launch (06 R160): nothing of a block without QEX fired in it, and none of them had a record or
a staged launch at its marker. -/
def State.countQuiets (s : State) (lk : Nat) (l : Launch) (cores : List Nat) (r : Nat) : Launch :=
  let core := cores.headD 0
  let calm := !l.active.contains (roundKey lk core r) && !s.recordsAt lk l cores r && !l.staged.any (fun e => !e.qex && decide (e.round ≤ r) && cores.contains e.core && (match e.kind with
    | .launch _ _ _ => true
    | _ => false))
  let count (q : Quiet) : Quiet :=
    if r ≤ q.start || !cores.contains q.site.core then q else { q with count := if calm then q.count + 1 else if q.n ≤ q.count then q.count else 0 }
  { l with quiets := l.quiets.map count, active := l.active.filter (fun x => decide (roundKey lk core r < x) || (lkLid lk == 0 && x / 2 ^ 48 != core)) }

/-- A cut is complete: QUIETs count their rounds, the host and the peers are sent their units, completed commands of earlier rounds leave. -/
def State.completeCut (s : State) (lk : Nat) (l : Launch) (r : Nat) : State :=
  let s := s.setLaunch lk { s.countQuiets lk l l.cores r with cut := r + 1, rbCut := 0 }
  (s.sendFar lk l.cores r).letGo

/-- A marker passes the port of a core after the banks, tiles and nodes (12 R271, 21 R380); the last core's completes the cut. -/
def State.forwardPort (s : State) (lk core : Nat) : State :=
  let r := mgetD (s.core core).pass lk 0
  let tiles := (List.range 16).all (fun t => decide (r < mgetD (s.mtile (tileKey core t)).pass lk 0) && decide (r < mgetD (s.ctile (tileKey core t)).pass lk 0))
  if !decide (r < s.injOf lk core) || !s.banksPast lk core r || !tiles || s.opUnderway lk core r (fun _ => true) then s
  else
    let s := s.commitPort lk core r
    let c := s.core core
    let cut := s.cutOf lk core
    let s := s.setCore core { c with cmds := c.cmds.filter (fun x => !(x.lk == lk && x.emitted.any (fun e => decide (e < cut)))) }
    match s.launch lk with
    | none => s
    | some l =>
      if lkLid lk = 0 then ((s.setLaunch lk (s.countQuiets lk l [core] r)).sendFar lk [core] r).letGo
      else if l.cores.all (fun k => decide (r < mgetD (s.core k).pass lk 0)) then s.completeCut lk l r
      else s

/-! ### Effects at a marker (06 R146 R157, 10 R261) -/

/-- A thread number in the first word of a record (02 R30). -/
def withThread (v : Stored) (thr : Nat) : Stored :=
  let w := bitsAt v.pay.toNat 0 64
  { v with pay := BitVec.ofNat 512 (v.pay.toNat - w + (bitsAt w 56 8 * 2 ^ 56 + thr % 2 ^ 32 * 2 ^ 24 + bitsAt w 0 24)) }

/-- A record that the device pushes on a graph's behalf, meant for the copy of a region core, takes the next thread number; it may enter its queue in the round after marker r. A number that
would reach 2^32 is a spawn fault; a block whose queue the load does not have, a thread-token notice (05 R122, 06 R146). -/
def State.pushRecord (s : State) (lk r core blk : Nat) (v : Stored) (o : Origin := {}) : State :=
  match s.launch lk with
  | none => s
  | some l =>
    if 2 ^ 32 ≤ l.nthr then s.notice lk (l.coreOf core) fSpawn 0 0 o
    else
      let v := withThread v l.nthr
      let s := s.setLaunch lk { l with nthr := l.nthr + 1 }
      if (s.entryQueue l blk).isNone then s.partNotice (lkPart lk) (lkLid lk) fThread (bitsAt v.pay.toNat 0 64) 0 0
      else s.mapLaunch lk (fun l => { l with pushes := l.pushes ++ [{ blk := blk, core := core, round := r + 1, line := v }] })

/-- Put a record that the device pushes into a queue: it can be popped at once. -/
def State.pushNow (s : State) (k lk round : Nat) (v : Stored) (copy : Nat) : State :=
  let t := s.mtile k
  let q : QRec := { val := v, round := round, key := none, seq := s.nid, copy := some copy, lk := lk, ofDevice := true }
  { s.setMtile k { t with recs := t.recs.filter (fun x => x.key.isNone) ++ [q] ++ t.recs.filter (fun x => x.key.isSome) } with nid := s.nid + 1 }

/-- The pending pushes of a launch enter their queues, in order at each queue, as there is room (02 R33); one whose queue the load does not have is a
thread-token notice (05 R122). -/
def State.drainPushes (s : State) (lk : Nat) : State :=
  match s.launch lk with
  | none => s
  | some l =>
    let x := l.pushes.foldl (fun (a : State × List Push × List Nat) p =>
      match a.1.entryQueue l p.blk with
      | none => (a.1.partNotice (lkPart lk) (lkLid lk) fThread (bitsAt p.line.pay.toNat 0 64) 0 0, a.2.1, a.2.2)
      | some k =>
        if a.2.2.contains k || !a.1.queueRoom k then (a.1, a.2.1 ++ [p], k :: a.2.2) else (a.1.pushNow k lk (p.round - 1) p.line p.core, a.2.1, a.2.2)) (s, [], [])
    x.1.mapLaunch lk (fun l => { l with pushes := x.2.1 })

/-- A record of the sideband z64 for a block. -/
def State.pushWords (s : State) (lk r core blk : Nat) (ws : List Nat) : State := s.pushRecord lk r core blk (threadRecord blk 0 ws)

/-- A loop of a launch has a phase to close at this marker. -/
def State.closesDue (s : State) (lk : Nat) (cores : List Nat) : Bool :=
  cores.any (fun k => (s.core k).loops.any (fun (i, l) => l.lk == lk && (s.closeDue k i 1 || s.closeDue k i 2)))

/-- What a core's engines hold after the effects of a marker (21 R380). -/
def State.snapCore (s : State) (lk r core : Nat) : State :=
  let c := s.core core
  let cut := s.cutOf lk core
  let x : CoreCut := { lk := lk, round := r + 1, loops := c.loops.filter (fun y => y.2.lk == lk), tasks := c.tasks.filter (fun y => y.2.lk == lk) }
  s.setCore core { c with snaps := c.snaps.filter (fun y => y.lk != lk || decide (cut ≤ y.round)) ++ [x] }

/-- THE EFFECTS OF MARKER r (06 R157, 10 R247-R261, 17 R307), once its round is home and its loops have closed their phases: tables, windows, the boost
unit, the numbering and pushing of records in the order of R261, and the dispatcher's effects. -/
def State.applyEffects (s : State) (lk core : Nat) (cores : List Nat) : State :=
  let r := s.effOf lk core
  let here (e : Eff) : Bool := decide (e.round ≤ r) && (lkLid lk != 0 || e.core == core)
  let rest := (((s.launch lk).map Launch.staged).getD []).filter (fun e => !here e)
  let s := s.mapLaunch lk (fun l => { l with staged := l.staged.filter here })
  let s := (s.runCtloads lk r cores).openLoops lk r cores
  let (s, undos, restarts) := s.boostMarker lk r
  let spawns := commitOrder (s.ordOf lk) Eff.key Eff.seq ((((s.launch lk).map Launch.staged).getD []))
  let s := spawns.foldl (fun s e => match e.kind with
    | .spawn blk _ line c => s.pushRecord lk r c blk line e.org
    | _ => s) s
  let s := (s.loopRecords lk r cores).foldl (fun s (x : Nat × Nat × List Nat) => s.pushWords lk r x.2.1 x.1 x.2.2) s
  let (s, fresh) := s.numberTasks lk (s.ordOf lk)
  let s := (fresh ++ undos ++ restarts).foldl (fun s (x : Nat × Nat × Nat × List Nat) => s.pushWords lk r x.2.2.1 x.2.1 x.2.2.2) s
  let s := s.snapTasks lk
  let waits (e : Eff) : Bool := decide (r < e.round) || !s.effSettled e
  let s := s.dispatchEffects lk r (fun _ => true)
  let s := s.mapLaunch lk (fun l => { l with staged := rest ++ l.staged.filter waits })
  let s := if lkLid lk = 0 then s.setCore core { s.core core with sysEff := r + 1 } else s.mapLaunch lk (fun l => { l with eff := r + 1 })
  cores.foldl (fun s k => s.snapCore lk r k) s

/-- Launches whose wait has ended are queued (08 R220). -/
def State.applySettled (s : State) (lk : Nat) : State :=
  match s.launch lk with
  | none => s
  | some l =>
    let due (e : Eff) : Bool := !e.wait.isEmpty && decide (e.round < s.effOf lk e.core) && s.effSettled e
    if !l.staged.any due then s
    else
      let s := l.staged.foldl (fun s e => match e.kind with
        | .launch q a ps => if due e then s.doLaunch lk e.core q a ps l.vf e.org else s
        | _ => s) s
      s.mapLaunch lk (fun l => { l with staged := l.staged.filter (fun e => !due e) })

/-- The effects of the next marker take place when they may; launches that have waited, and pending pushes, go on. A unit of the core that holds a record for its
port's room waits with it (18 R323). -/
def State.tryEffects (s : State) (lk core : Nat) : State :=
  match s.launch lk with
  | none => s
  | some l =>
    let cores := if lkLid lk = 0 then [core] else l.cores
    if cores.any s.portHolds then s
    else
      let s := if s.markDue lk core && !s.closesDue lk cores then s.applyEffects lk core cores else s
      (((s.applySettled lk).launchLate (lkPart lk)).drainPushes lk).letGo

/-- MARKER_FORWARD (02 R25, 12 R271): an instruction, a block, a memory tile, a node or a port lets its next marker pass where it can. -/
def execMarkerForward (u : MarkerUnit) (s : State) : Host.Outcome State Fault Refusal :=
  match u with
  | .elem e => .next (s.forwardElem e)
  | .bank bk => .next (s.forwardBank bk)
  | .memoryTile lk core t => .next (s.forwardTile lk core t)
  | .node lk core t => .next (s.forwardNode lk core t)
  | .corePort lk core => .next ((s.forwardPort lk core).tryEffects lk core)

/-! ### Injection (02 R25 R422, 18 R312) -/

/-- Chafer gives a marker to the sources of a block. -/
def State.injectBank (s : State) (bk : Nat) : State :=
  let b := s.bank bk
  (b.words.map Prod.fst).foldl (fun s i =>
    let b := s.bank bk
    let el := b.elem i
    let s := if (s.aligned b i).isEmpty then s.setBank bk (b.setElem i { el with chafer := el.chafer + 1 }) else s
    if decide (32 ≤ i ∧ i < 48) && s.portOfChafer (s.bank bk) (i - 32) then s.markSlot bk i .l else s) s

/-- Chafer gives a marker to the sources of a core. -/
def State.injectCore (s : State) (lk core : Nat) : State :=
  let ks := (s.banks.filter (fun (k, b) => bankCore k == core && b.lk == lk && b.st == 1 && b.upper.isNone)).map Prod.fst
  let s := ks.foldl (fun s k => s.injectBank k) s
  let c := s.core core
  s.setCore core { c with inj := mset c.inj lk (mgetD c.inj lk 0 + 1) }

/-- A marker of a region is due: its period has run out or a request's time has come; the cut before the last is complete (21 R381); nothing has stopped
the region (18 R334, 19 R343, 21 R377 R386, 02 R39). -/
def State.markerDue (s : State) (lk : Nat) (l : Launch) : Bool :=
  let p := s.part (lkPart lk)
  (decide (l.period ≤ l.since) || l.rmark.any (fun d => decide (d ≤ s.fc))) && decide (l.round ≤ l.cut + 1) && !l.doomed && !l.l3 && l.reconf.isNone &&
  l.shrink.all (fun x => decide (l.round ≤ x.2.1)) && !(p.halted && (mget p.haltAt (lkLid lk)).all (fun r => decide (r < l.round)))

/-- A marker of a core's system bank is due: with that of the region bound to the core, and of itself where none is (18 R312). -/
def State.sysMarkerDue (s : State) (lk core : Nat) : Bool :=
  let c := s.core core
  let p := s.part (lkPart lk)
  !p.halted && p.cores.contains core && decide (0 < c.sysSince) &&
  (match c.lk with
   | some rl => (s.launch rl).any (fun l => l.since == 0 && decide (0 < l.round))
   | none => decide (((p.handler.map Launch.period).getD 1024) ≤ c.sysSince) || c.sysRmark.any (fun d => decide (d ≤ s.fc)))

/-- MARKER_INJECT (02 R25, 18 R312): at one core; the region's round ends with the last core's. -/
def execMarkerInject (lk core : Nat) (s : State) : Host.Outcome State Fault Refusal :=
  match s.launch lk with
  | none => .next s
  | some l =>
    if lkLid lk = 0 then
      if s.sysMarkerDue lk core then
        let s := s.injectCore lk core
        .next (s.setCore core { s.core core with sysSince := 0, sysRmark := none })
      else .next s
    else if !l.cores.contains core || mgetD (s.core core).inj lk 0 != l.round || !s.markerDue lk l then .next s
    else
      let s := s.injectCore lk core
      if l.cores.all (fun k => decide (l.round < mgetD (s.core k).inj lk 0)) then
        .next (s.mapLaunch lk (fun l => { l with round := l.round + 1, since := 0, rmark := none }))
      else .next s

/-! ### Units (13 R283-R288) -/

/-- The record that binds the next unit of a slice: its index, tag and round (13 R285, 19 R348). -/
def State.boundUnit (s : State) (part slice : Nat) : Option (Nat × Nat × Nat) :=
  (s.trNext part (fun a _ => trType a == trUNIT && trA a % 256 == slice)).map (fun (i, a, b) => (i, trTag a, b % 2 ^ 48))

/-- A unit that the interleave lists can still arrive: its launch is queued, or runs and has not had that round applied. -/
def State.canArrive (s : State) (part slice tag round : Nat) : Bool :=
  let p := s.part part
  p.queue.any (fun q => pkTag q.words == tag) ||
  p.launches.any (fun (lid, l) => l.ltag == tag && decide (s.appliedRounds (part * 65536 + lid) 0 slice ≤ round))

/-- UNIT_APPLY (13 R283 R285): a home slice applies a launch's next unit; while a trace is bound, an ordered-shared slice keeps to its interleave, in which no
launch has a place that the trace does not name. -/
def execUnitApply (lk core slice : Nat) (s : State) : Host.Outcome State Fault Refusal :=
  match s.nextUnit lk core slice with
  | none => .next s
  | some r =>
    if (s.dies[slice / 64]?).any (fun d => d.st != 0) || s.portHolds core then .next s
    else
      let part := lkPart lk
      match s.launch lk with
      | none => .next (s.applyUnit lk core slice r)
      | some l =>
        if s.trBound part true && (l.ord || !l.trk) && s.hasView lk slice && !(s.part part).trcDiv then
          match s.boundUnit part slice with
          | none => .next (s.diverge part l.ltag)
          | some (i, tag, r') =>
            if tag = l.ltag ∧ r' = r then .next (((s.applyUnit lk core slice r).trUse part i).tryEffects lk core)
            else if s.canArrive part slice tag r' then .next s
            else .next (s.diverge part l.ltag)
        else .next ((s.applyUnit lk core slice r).tryEffects lk core)

end Sys2Proof.Machine
end

