-- ==== Sys2Proof/Machine/Dispatcher.lean ====
section
/-! DEFINITION. The dispatcher and Scarab: entry readers (02 R31), the decisions of 19 R341-R344 with the trace (19 R347-R349), the closing of a fabric load
and the reconfiguration token (02 R38-R40), retirement (02 R44). -/

namespace Sys2Proof.Machine

/-! ### Entry readers (02 R31) -/

/-- The head record is not fit for delivery: a reserved bit, no header at its BLK_ADDR, or fewer input ports than the record needs. -/
def readerFault (m : Memory) (img : Nat) (b : Bank) (w0 : Nat) : Bool :=
  bitsAt w0 59 5 != 0 || !namesHeader m img (bitsAt w0 0 24) || !(List.range (bitsAt w0 56 3 + 1)).all (fun j => bitAt (ipmap b) j)

/-- The notice of a thread token that stays at the head of its queue: SITE names instruction 32, word 0 of the record stands as the L operand. -/
def State.readerNotice (s : State) (bk : Nat) (b : Bank) (w0 : Nat) : State :=
  if !(s.part (lkPart b.lk)).en then s.halt (lkPart b.lk)
  else
    let e := siteOf bk 32
    let t : Token := { pay := BitVec.ofNat 512 w0, tag := 0x21 }
    s.sendRecord e.core ⟨siteWord fThread (lkLid b.lk) e.core e.tile e.bank 32 kindNotice 0 false, recordWords { l := some t } (bitsAt w0 56 3) 0, 0⟩

/-- The words of a record as the entry reader delivers them, by input port: a live-out stands in the low bits of its word, and a scalar has the bits of
04 R76 above them (06 R143). -/
def readerTokens (v : Stored) : List (Nat × Token) :=
  let w0 := laneOf v.pay 64 0
  let word (j : Nat) : Payload :=
    let w := laneOf v.pay 64 j
    match Fmt.ofTag v.tag.toNat with
    | some f => scalarPay f (w % 2 ^ f.width)
    | none => BitVec.ofNat 512 w
  let thr := some (bitsAt w0 24 32)
  (0, ({ pay := BitVec.ofNat 512 w0, tag := 0x21, thr := thr } : Token)) ::
  (List.range (bitsAt w0 56 3)).map (fun j => (j + 1, ({ pay := word (j + 1), tag := v.tag, scale := v.scale, thr := thr } : Token)))

/-- The place in its entry queue of the record that a block's reader takes next: the oldest that goes to this copy (05 R122). -/
def State.readerHead (s : State) (l : Launch) (b : Bank) (k : Nat) : Option (Nat × Stored) :=
  let rs := (s.mtile k).recs
  (rs.findIdx? (fun r => r.key.isNone && s.recordFor l b.blk b.origin r)).bind (fun i => rs[i]?.map (fun r => (i, r.val)))

/-- ENTRY_READER_POP (02 R31): the reader of a selected block checks the head record, pops it and delivers its words when their ports are free. -/
def execEntryReaderPop (bank : Nat) (s : State) : Host.Outcome State Fault Refusal :=
  let b := s.bank bank
  match s.launchOfBank b with
  | none => .next s
  | some l =>
    match s.queueTile l (eqix b) with
    | none => .next s
    | some k =>
      match s.readerHead l b k with
      | none => .next s
      | some (i, v) =>
        if b.st ≠ 1 ∨ b.upper.isSome ∨ eqv b = false ∨ b.blocked then .next s
        else
          let w0 := laneOf v.pay 64 0
          let ts := readerTokens v
          if readerFault s.mem l.img b w0 then .next ((s.readerNotice bank b w0).setBank bank { b with blocked := true })
          else if !ts.all (fun x => latchAccepts b (32 + x.1) .l) then .next s
          else
            let s := s.queueTake k i b.lk (b.elem 32).l.marks
            .next (ts.foldl (fun s x => s.setBank bank ((s.bank bank).deliverPort x.1 x.2)) s)

/-! ### Scarab (02 R36 R37, 19 R344) -/

/-- Records that the entry queue of a block holds for the copy of a region core. -/
def State.queueCountAt (s : State) (l : Launch) (blk core : Nat) : Nat :=
  ((s.entryQueue l blk).map (fun k => ((poppable (s.mtile k).recs).filter (s.recordFor l blk core)).length)).getD 0

/-- A swappable block of a load waits: it is not resident, its load has not failed, its entry queue holds a record. -/
def State.waits (s : State) (lk : Nat) (l : Launch) (n : Nat) (e : BlockEnt) : Bool :=
  !e.pinned && !l.failed.contains (4096 * l.load + n) && (s.bankOfNum lk (4096 * l.load + n)).isNone && decide (0 < s.queueCountAt l e.blk e.core)

/-- The lowest bank that is free on the span of a block; system banks are no one's (18 R311). -/
def State.freeSpan (s : State) (core : Nat) (e : BlockEnt) : Option Nat :=
  (List.range 4).find? (fun k =>
    (s.bank (bankKeyOf core e.tile k)).st == 0 && (s.bank (bankKeyOf core e.tile2 k)).st == 0 && !(k == 3 && (e.tile == 15 || e.tile2 == 15)))

/-- A token of a thread. -/
def ofThread (t : Token) : Bool := t.thr.any (fun x => x != 0xFFFFFFFF)

/-- Nothing of an element holds or owes a token. -/
def Elem.quiet (x : Elem) : Bool :=
  let slot (k : InSlot) : Bool := k.latch.isNone && k.rein.isEmpty && k.anti.isEmpty && decide (k.marks ≤ x.fwd)
  slot x.l && slot x.r && slot x.p && x.q0.isEmpty && x.q1.isEmpty && x.pend.all (fun q => q.isEmpty) && !x.held &&
  (match x.ost with
   | .copies _ => false
   | .mxwait _ => false
   | .mxldb _ => false
   | .stream _ _ _ _ _ _ => false
   | _ => true)

/-- A swappable block is evictable (02 R36): its entry queue is empty, it holds no token, a marker has passed since it last fired. -/
def State.evictable (s : State) (lk : Nat) (l : Launch) (bk : Nat) : Bool :=
  let b := s.bank bk
  let l := (s.launchOfBank b).getD l
  b.st == 1 && b.upper.isNone && b.lk == lk && !b.pin && (s.entryQueue l b.blk).all (fun k => !(s.mtile k).recs.any (s.recordFor l b.blk b.origin)) &&
  b.lastFire.all (fun r => decide (r < b.mpass)) && b.elems.all (fun x => x.2.quiet) && b.drops.all (fun d => d.2.isEmpty) && b.rev.isEmpty && b.rstage.isEmpty &&
  b.nstage.isEmpty && b.arcs.all (fun a => a.pend.isEmpty && a.hops.all (fun h => h.fwd.isNone && h.rev.isNone && h.marks == 0)) &&
  !(s.core (bankCore bk)).csrStage.any (fun w => w.bank == bk)

/-- A decision that a rollback takes back is kept until the cut of its round is complete (21 R382). -/
def State.keepSwap (s : State) (lk bk tile : Nat) : State :=
  let b := s.bank bk
  s.mapLaunch lk (fun l =>
    let x : Swap := { round := l.round, bank := bk, old := b, ages := l.ages, working := l.working, failed := l.failed, kdone := l.kdone, tile := tile, trec := none }
    { l with swaps := l.swaps.filter (fun y => decide (l.cut ≤ y.round)) ++ [x] })

/-- Scarab evicts a block: its circuits end, and the ports they reached take their markers from Chafer, every one injected so far among them (log 18). -/
def State.scarabEvict (s : State) (lk bk : Nat) : State :=
  let b := s.bank bk
  let n := s.injOf lk (bankCore bk)
  let s := s.keepSwap lk bk (bankTile bk)
  let s := b.arcs.foldl (fun s a => match a.dstNum.bind (s.bankOfNum lk) with
    | none => s
    | some d =>
      let t := s.bank d
      let el := t.elem (32 + a.dstIdx)
      s.setBank d (t.setElem (32 + a.dstIdx) { el with l := { el.l with marks := max el.l.marks n } })) s
  s.evict bk

/-- The choice of 02 R37, steps 1 and 2: the greatest age of 64 or more, else the most records; the lower block number on a tie. -/
def State.scarabChoice (s : State) (l : Launch) (ws : List (Nat × BlockEnt)) : Option (Nat × BlockEnt) :=
  let age (x : Nat × BlockEnt) : Nat := mgetD l.ages x.1 0
  let best (f : Nat × BlockEnt → Nat) (xs : List (Nat × BlockEnt)) : Option (Nat × BlockEnt) :=
    xs.foldl (fun (b : Option (Nat × BlockEnt)) x => match b with
      | none => some x
      | some y => if f y < f x then some x else some y) none
  let old := ws.filter (fun x => decide (64 ≤ age x))
  if old.isEmpty then best (fun x => s.queueCountAt l x.2.blk x.2.core) ws else best age old

/-- The trace record of the latest decision. -/
def State.nameSwap (s : State) (lk : Nat) (i : Option Nat) : State :=
  s.mapLaunch lk (fun l => match l.swaps.getLast? with
    | none => l
    | some x => { l with swaps := l.swaps.dropLast ++ [{ x with trec := i }] })

/-- Load the chosen block: the ages of the other waiting blocks rise, the trace takes the decision. -/
def State.scarabLoad (s : State) (lk core tile : Nat) (l : Launch) (ws : List (Nat × BlockEnt)) (n : Nat) (e : BlockEnt) (bank : Nat)
    (used : Option Nat) : State :=
  let part := lkPart lk
  let bk := bankKeyOf core e.tile bank
  let k := mgetD l.decisions (tileKey core tile) 0
  let s := s.keepSwap lk bk tile
  let s := s.mapLaunch lk (fun l => {
    l with ages := mdel (ws.foldl (fun m x => if x.1 = n then m else mset m x.1 (mgetD m x.1 0 + 1)) l.ages) n, decisions := mset l.decisions (tileKey core tile) (k + 1) })
  let s := s.loadBlock lk l (s.loadOf l) n { e with bank := bank } (s.injOf lk core)
  let s := if (s.bank bk).st = 1 then s.joinBlock bk else s
  let pos := (s.part part).trcPos
  let s := s.trRecord part l trSCARAB (core + tile * 2 ^ 7) (n + k % 2 ^ 32 * 2 ^ 12)
  s.nameSwap lk (if (s.part part).trcPos = pos then used else some pos)

/-- Make room for a block: one evictable block of its tiles leaves, the one with the lowest number. -/
def State.scarabRoom (s : State) (lk core : Nat) (l : Launch) (e : BlockEnt) : State :=
  let ks := (s.banks.map Prod.fst).filter (fun k =>
    bankCore k == core && s.evictable lk l k && (bankTile k == e.tile || bankTile k == e.tile2 || (s.bank k).tile2.any (fun t => t == e.tile || t == e.tile2)))
  match ks.foldl (fun (b : Option Nat) k => match b with
    | none => some k
    | some y => if (s.bank k).num < (s.bank y).num then some k else some y) none with
  | none => s
  | some k => s.scarabEvict lk k

/-- Load a waiting block where a bank of its span is free, or else make room. -/
def State.scarabServe (s : State) (lk core tile : Nat) (l : Launch) (ws : List (Nat × BlockEnt)) (x : Nat × BlockEnt) : State :=
  match s.freeSpan core x.2 with
  | some k => s.scarabLoad lk core tile l ws x.1 x.2 k none
  | none => s.scarabRoom lk core l x.2

/-- A launch may change its blocks: nothing has stopped it. -/
def State.mayChange (s : State) (lk : Nat) (l : Launch) : Bool := l.reconf.isNone && l.shrink.isNone && !l.doomed && !l.l3 && !(s.part (lkPart lk)).halted

/-- SCARAB_DECIDE (19 R344) for the blocks whose span holds a tile of a core; with a bound trace the next SCARAB record of the tile decides, and a
record of a block that the load does not have is a divergence. -/
def execScarabDecide (core tile : Nat) (s : State) : Host.Outcome State Fault Refusal :=
  match (s.core core).lk.bind (fun lk => (s.launch lk).map (fun l => (lk, l))) with
  | none => .next s
  | some (lk, l) =>
    let part := lkPart lk
    let here := (blockTable s.mem l.img (s.loadOf l)).filter (fun x => l.coreOf x.2.core == core && (x.2.tile == tile || x.2.tile2 == tile) && !x.2.pinned)
    let ws := here.filter (fun x => s.waits lk l x.1 x.2)
    let l := { l with ages := l.ages.filter (fun y => !here.any (fun x => x.1 == y.1) || ws.any (fun x => x.1 == y.1)) }
    let s := s.setLaunch lk l
    if !s.mayChange lk l then .next s
    else if s.trBound part l.trk && !(s.part part).trcDiv then
      match s.trNext part (fun a _ => trTag a == l.ltag && trType a == trSCARAB && trA a % 2 ^ 11 == core + tile * 2 ^ 7) with
      | none => .next s
      | some (i, _, b) =>
        if !here.any (fun x => x.1 == b % 2 ^ 12) then .next (s.diverge part l.ltag)
        else
          match ws.find? (fun x => x.1 == b % 2 ^ 12) with
          | none => .next s
          | some x =>
            match s.freeSpan core x.2 with
            | some k => .next ((s.scarabLoad lk core tile l ws x.1 x.2 k (some i)).trUse part i)
            | none => .next (s.scarabRoom lk core l x.2)
    else
      let free := ws.filter (fun x => (s.freeSpan core x.2).isSome)
      match s.scarabChoice l (if free.isEmpty then ws else free) with
      | none => .next s
      | some x => .next (s.scarabServe lk core tile l ws x)

/-! ### What a launch still has to do -/

/-- A result that keeps a graph: one of a thread, or one that is awaited. -/
def flightKeeps (x : Flight) : Bool := x.outs.isNone || x.thr != 0xFFFFFFFF || x.push.isSome

/-- A block holds something of a thread. -/
def Bank.busy (b : Bank) : Bool :=
  let full (k : InSlot) : Bool := k.latch.any ofThread || k.rein.any ofThread
  b.elems.any (fun (_, x) => full x.l || full x.r || full x.p || (x.q0 ++ x.q1).any flightKeeps) ||
  b.arcs.any (fun a => a.hops.any (fun h => h.fwd.any ofThread))

/-- Something of a launch is in progress: a token of a thread, a waiting state, a command, a record on its way (02 R44). -/
def State.underway (s : State) (lk : Nat) (l : Launch) : Bool :=
  s.banks.any (fun (_, b) => b.lk == lk && b.busy) || s.reqs.any (fun r => r.lk == lk) || !l.quiets.isEmpty ||
  (s.part (lkPart lk)).sites.any (fun x => x.lk == lk) || (s.part (lkPart lk)).rcmds.any (fun r => r.cmd.lk == lk) ||
  l.cores.any (fun k =>
    let c := s.core k
    c.cmds.any (fun x => x.lk == lk && x.emitted.isNone) || c.loops.any (fun x => x.2.lk == lk) || c.tasks.any (fun x => x.2.lk == lk))

/-- The last round that did anything has committed, at the region and at the slices. -/
def State.allCommitted (s : State) (lk : Nat) (l : Launch) : Bool :=
  l.staged.isEmpty && s.banks.all (fun (_, b) => b.lk != lk || (b.lastFire.all (fun r => decide (r < l.cut)) && b.rstage.isEmpty && b.nstage.isEmpty)) &&
  (s.units ++ s.undone).all (fun a => a.lk != lk || a.space == .host) && s.hostReqs.all (fun x => x.2.lk != lk) && l.cores.all (fun k =>
    let c := s.core k
    c.gstage.all (fun a => a.lk != lk) && (List.range 16).all (fun t => let m := s.mtile (tileKey k t); (m.stage ++ m.undone).all (fun a => a.lk != lk)))

/-- A thread record of a launch waits in an entry queue, or is staged for one; what QPUSH and EXITQ push is data (02 R44). -/
def State.recordsLeft (s : State) (lk : Nat) (l : Launch) : Bool :=
  !l.pushes.isEmpty || l.cores.any (fun c => (List.range 16).any (fun t => (s.mtile (tileKey c t)).recs.any (fun r => r.lk == lk && r.copy.isSome)))

/-- GRAPH_RETIRE (02 R44): nothing is left of the graph's threads, and its last round has committed. A doomed launch ends as killed (03 R63). -/
def execGraphRetire (lk : Nat) (s : State) : Host.Outcome State Fault Refusal :=
  match s.launch lk with
  | none => .next s
  | some l =>
    if lkLid lk = 0 then .next s
    else if l.doomed then .next (s.finish lk 1)
    else if s.mayChange lk l && !s.underway lk l && !s.recordsLeft lk l && s.allCommitted lk l then .next (s.finish lk 0)
    else .next s

/-! ### Loads (02 R38-R40) -/

/-- A thread record waits for a block of the load, or is staged for one. -/
def State.loadWaits (s : State) (l : Launch) : Bool :=
  let mine := (blockTable s.mem l.img (s.loadOf l)).map (fun x => x.2.blk)
  l.pushes.any (fun p => mine.contains p.blk) || mine.any (fun blk => (s.entryQueue l blk).any (fun k => !(s.mtile k).recs.isEmpty))

/-- The marker of a core's system bank comes in the same fc as the region's (18 R312). -/
def State.injectSystem (s : State) (part core : Nat) : State :=
  if (s.part part).handler.isSome && s.sysMarkerDue (part * 65536) core then
    let s := s.injectCore (part * 65536) core
    s.setCore core { s.core core with sysSince := 0, sysRmark := none }
  else s

/-- LOAD_CLOSE (02 R38): every source of the load has delivered its last token, and nothing is left that could still give one (log 71); Chafer injects a marker
at once, and the reconfiguration token follows it. -/
def execLoadClose (lk : Nat) (s : State) : Host.Outcome State Fault Refusal :=
  match s.launch lk with
  | none => .next s
  | some l =>
    if lkLid lk = 0 ∨ loadCount s.mem l.img l.size ≤ l.load + 1 ∨ !s.mayChange lk l ∨ l.doomed ∨ s.underway lk l ∨ s.loadWaits l ∨ l.cut + 1 < l.round then .next s
    else
      let s := l.cores.foldl (fun s k => s.injectCore lk k) s
      let s := s.mapLaunch lk (fun l => { l with round := l.round + 1, since := 0, rmark := none, reconf := some [] })
      .next (l.cores.foldl (fun s k => s.injectSystem (lkPart lk) k) s)

/-- The next load places a pinned block on a bank. -/
def Launch.rebinds (l : Launch) (m : Memory) (r : LoadRec) (core tile bank : Nat) : Bool :=
  (blockTable m l.img r).any (fun x => x.2.pinned && l.coreOf x.2.core == core && (x.2.tile == tile || x.2.tile2 == tile) && x.2.bank == bank)

/-- The reconfiguration token has come to a unit of a core, right behind the closing marker, and no work of the old load is there (02 R39). -/
def State.tokenAt (s : State) (lk : Nat) (l : Launch) (core u : Nat) : Bool :=
  if u < 64 then
    let k := core * 64 + u
    let b := s.bank ((s.bank k).upper.getD k)
    b.lk != lk || b.st != 1 ||
      (decide (l.round ≤ b.mpass) && !b.busy && b.arcs.all (fun a => a.hops.all (fun h => h.marks == 0)) && b.rstage.isEmpty && b.nstage.isEmpty)
  else if u < 80 then decide (l.round ≤ mgetD (s.mtile (tileKey core (u - 64))).pass lk 0)
  else decide (l.round ≤ mgetD (s.ctile (tileKey core (u - 80))).pass lk 0)

/-- A unit of a core takes its words of the next load (02 R39): a bank that the load rebinds is given up, one that it does not keeps what it holds (02 R40). -/
def State.switchUnit (s : State) (lk : Nat) (l' : Launch) (core u : Nat) : State :=
  let r := s.loadOf l'
  if u < 64 then
    let k := core * 64 + u
    let k := (s.bank k).upper.getD k
    let b := s.bank k
    let spots := bankTile k :: b.tile2.toList
    if b.st == 1 && b.lk == lk && spots.any (fun t => l'.rebinds s.mem r core t (k % 4)) then s.evict k else s
  else if u < 80 then s.configTile lk l' r core (u - 64) l'.round false
  else if l'.firstOn s.mem core (u - 80) then s.resetNode lk core (u - 80) else s

/-- The pinned blocks of the next load stand on a core as soon as the banks of their spans have been reprogrammed. -/
def State.switchBlocks (s : State) (lk : Nat) (l' : Launch) (core : Nat) (ks : List Nat) : State :=
  let r := s.loadOf l'
  (blockTable s.mem l'.img r).foldl (fun s (n, e) =>
    let spots := [e.tile, e.tile2].map (fun t => core * 128 + 4 * t + e.bank)
    if e.pinned && l'.coreOf e.core == core && spots.all (fun u => ks.contains u) && (s.bankOfNum lk (4096 * l'.load + n)).isNone &&
        !((s.launch lk).any (fun l => l.failed.contains (4096 * l'.load + n))) then
      s.loadBlock lk (((s.launch lk).map (fun (l : Launch) => { l with load := l'.load })).getD l') r n e l'.round
    else s) s

/-- RECONFIG_TOKEN (02 R39): once the closing marker's cut is complete (log 71), the token passes the units of a core that have no work of the old load left;
the launch is in its next load when it has passed every unit. -/
def execReconfigToken (lk core : Nat) (s : State) : Host.Outcome State Fault Refusal :=
  match s.launch lk with
  | none => .next s
  | some l =>
    match l.reconf with
    | none => .next s
    | some ks =>
      if !l.cores.contains core ∨ l.cut < l.round ∨ (s.part (lkPart lk)).halted then .next s
      else
        let l' := { l with load := l.load + 1 }
        let us := (List.range 96).filter (fun u => !ks.contains (core * 128 + u) && s.tokenAt lk l core u)
        let ks := ks ++ us.map (fun u => core * 128 + u)
        let s := us.foldl (fun s u => s.switchUnit lk l' core u) s
        let s := s.switchBlocks lk l' core ks
        let all := l.cores.all (fun k => (List.range 96).all (fun u => ks.contains (k * 128 + u)))
        if all ∧ l.round ≤ l.eff then .next (s.mapLaunch lk (fun l => { l with load := l.load + 1, reconf := none, ages := [], swaps := [] }))
        else .next (s.mapLaunch lk (fun l => { l with reconf := some ks }))

/-! ### The dispatcher (19 R341-R343 R348) -/

/-- Raise the EP of a tag. -/
def raiseEp (tag v : Nat) (m : List (Nat × Nat × Nat)) : List (Nat × Nat × Nat) := m.map (fun x => if x.2.1 = tag ∧ tag ≠ 0 then (x.1, x.2.1, max x.2.2 v) else x)

/-- One pass of inheritance over packets and launches, as (identity, tag, EP), the packets among them with the tags they wait on. -/
def inheritPass (ws : List (Nat × List Nat)) (m : List (Nat × Nat × Nat)) : List (Nat × Nat × Nat) :=
  ws.foldl (fun m w => let v := ((m.find? (fun x => x.1 == w.1)).map (fun x => x.2.2)).getD 0
                       w.2.foldl (fun m t => raiseEp t v m) m) m

/-- n passes. -/
def inherit (ws : List (Nat × List Nat)) : Nat → List (Nat × Nat × Nat) → List (Nat × Nat × Nat)
  | 0, m => m
  | n + 1, m => inherit ws n (inheritPass ws m)

/-- EP of every queued packet, by 2 × ASEQ, and of every running launch, by 2 × LID + 1 (19 R341). -/
def Partition.priorities (p : Partition) : List (Nat × Nat × Nat) :=
  let ps := p.queue.map (fun q => (2 * q.aseq, pkTag q.words, min 3 (q.queue / 16 + q.age / 32)))
  let ls := p.launches.map (fun (lid, l) => (2 * lid + 1, l.ltag, l.ep))
  let ws := p.queue.map (fun q => (2 * q.aseq, (if pkAv q.words 0 then [pkAft q.words 0] else []) ++ (if pkAv q.words 1 then [pkAft q.words 1] else [])))
  inherit ws (ps.length + ls.length) (ps ++ ls)

/-- Free cores: no region is bound to them, and they are not fenced (19 R341, 21 R377); cores of a die that is not online take no launch (23 R408). -/
def State.freeCores (s : State) (part : Nat) : List Nat :=
  (s.part part).cores.filter (fun k => (s.core k).lk.isNone && !(s.core k).fenced && (s.dies[dieOfCore k]?).all (fun d => d.st == 0))

/-- The largest variant that fits (19 R341, 02 R41). -/
def variantFor (m : Memory) (img n maxc : Nat) : Nat :=
  let m' := min n (if maxc = 0 then 96 else maxc)
  (((variants m img).map Variant.size).filter (fun k => decide (k ≤ m'))).foldl max 0

/-- The next LID: above the previous one, skipping 0 and those that run. -/
def nextLid (p : Partition) : Nat → Nat → Nat
  | 0, x => x
  | n + 1, x => let y := (x + 1) % 65536; if y = 0 ∨ (mget p.launches y).isSome then nextLid p n y else y

/-- A core is bound to a launch: its fetch cache is invalidated (08 R202), its use maps are clear. -/
def State.bindCore (s : State) (lk core : Nat) : State :=
  s.setCore core { s.core core with lk := some lk, fcache := [], fcFill := [], mtuse := 0, nduse := 0, replays := 0, pass := mset (s.core core).pass lk 0, inj := mset (s.core core).inj lk 0 }

/-- The completion futures of packets that left resolve at a decision (19 R343), in the name of the handler launch, or of one of no core where there is none; the
launches that they continue are queued at once. -/
def State.resolveGone (s : State) (part : Nat) : State :=
  let p := s.part part
  let lk := part * 65536
  if p.cfuts.isEmpty then s else
  let s := s.setPart part { p with cfuts := [], handler := some (p.handler.getD { lid := 0, img := 0, size := 0, cores := [] }) }
  let n := s.nid
  let s := p.cfuts.foldl (fun s x => s.futresNow (p.cores.headD 0) lk 0 ⟨0, 0, 0, 0, 0⟩ false x.1 x.2) s
  let s := (s.lastEffects lk 0 (fun e => decide (n ≤ e.seq))).mapLaunch lk (fun l => { l with staged := l.staged.filter (fun e => decide (e.seq < n)) })
  if p.handler.isSome then s else s.setPart part { s.part part with handler := none }

/-- DISPATCH (19 R342): the LID, the cores, the load, the entry records; failed argument words discard the packet. -/
def State.dispatch (s : State) (part : Nat) (q : Packet) (ep : Nat) (cores : List Nat) : State :=
  let p := s.part part
  let ws := q.words
  let n := pkNthr ws * pkArgw ws * 8
  let core := cores.headD 0
  let s := s.setPart part { p with queue := p.queue.filter (fun x => x.aseq ≠ q.aseq) }
  match s.extent core part true true false (s.rangeBound part) (pkArgs ws) n false with
  | .ok _ =>
    let args := s.readExtent core part (s.rangeBound part) (pkArgs ws) n 0 []
    let lid := nextLid p 65536 p.prevLid
    let lk := part * 65536 + lid
    let l : Launch := {
      lid := lid, img := pkImg ws, size := cores.length, cores := cores, ord := imageOrd s.mem (pkImg ws), ltag := pkTag ws, trk := pkTrk ws, maxc := pkMaxc ws,
      cfut := pkCfut ws, slots := (List.range 4).map (fun j => if bitAt q.fenced j then pkW ws (11 + j) else 0), ep := ep, pri := q.queue / 16, aseq := q.aseq,
      vf := q.vf, period := if pkRndp ws = 0 then 1024 else pkRndp ws, nthr := pkNthr ws,
      pushes := (List.range (pkNthr ws)).map (fun t =>
        { blk := pkEntry ws, core := 0, round := 0,
          line := threadRecord (pkEntry ws) t ((List.range (pkArgw ws)).map (fun j => word64 args (8 * (t * pkArgw ws + j)))) }) }
    let p := s.part part
    let s := s.setPart part { p with launches := mset p.launches lid l, prevLid := lid, dseq := (p.dseq + 1) % 2 ^ 64 }
    let s := s.trDispatch part l p.dseq
    let s := cores.foldl (fun s k => s.bindCore lk k) s
    (cores.foldl (fun s k => s.configCore lk k 0) s).drainPushes lk
  | _ =>
    let s := s.partNotice part 0 fLaunch 0 (q.addr.getD 0) 0
    let p := s.part part
    if pkCfut ws = 0 then s else s.setPart part { p with cfuts := p.cfuts ++ [(pkCfut ws, 3)] }

/-- The arguments of a packet lie in a range that is held. -/
def State.argsHeld (s : State) (part : Nat) (q : Packet) : Bool :=
  s.extent ((s.part part).cores.headD 0) part true true false (s.rangeBound part) (pkArgs q.words) (pkNthr q.words * pkArgw q.words * 8) false == .wait

/-- A decision for a packet: the cores it takes, and whether they are those of the trace. -/
def State.coresFor (s : State) (part : Nat) (free : List Nat) (q : Packet) : List Nat :=
  if s.trBound part (pkTrk q.words) then
    match s.trNextDispatch part with
    | some (_, _, _, cs) => if cs.all (fun k => free.contains k) then cs else []
    | none => []
  else free.take (variantFor s.mem (pkImg q.words) free.length (pkMaxc q.words))

/-- A tracked packet that shows a divergence (19 R349): it is ready with the dispatch stream at its end, or the stream names it with a size that its image
does not have or cores that are not the partition's. -/
def State.trackedBad (s : State) (part : Nat) (q : Packet) : Bool :=
  s.trBound part (pkTrk q.words) && !(s.part part).trcDiv && s.packetReady' part q &&
  (match s.trNextDispatch part with
   | none => true
   | some (_, tag, size, cs) =>
     tag == pkTag q.words &&
     (!((variants s.mem (pkImg q.words)).any (fun v => v.size == size)) || cs.length != size || cs.any (fun k => !(s.part part).cores.contains k)))

/-- Cores that a tracked packet, ready and named next, waits for: others may take only the rest meanwhile (19 R348). -/
def State.reserved (s : State) (part : Nat) (free : List Nat) : List Nat :=
  match (s.part part).queue.find? (fun q => s.trBound part (pkTrk q.words) && s.packetReady part q) with
  | none => []
  | some _ =>
    match s.trNextDispatch part with
    | some (_, _, _, cs) => if cs.all (fun k => free.contains k) then [] else cs
    | none => []

/-! ### What may fold (21 R385) -/

/-- Two of a list's entries stand in different region cores that fold together, and agree otherwise. -/
def foldClash : List (Nat × Nat × Nat) → Bool
  | [] => false
  | x :: xs => xs.any (fun y => y.1 == x.1 && y.2.1 != x.2.1 && y.2.2 == x.2.2) || foldClash xs

/-- The tiles of a block's span on which it has matrix instructions. -/
def matrixTiles (ws : List Word64) (e : BlockEnt) : List Nat :=
  (ws.zipIdx.filterMap (fun (w, i) => match decodeWord w with
    | .ok ins => if slotClass ins == .matrix then some (spanTile e.tile e.tile2 i) else none
    | .error _ => none)).eraseDups

/-- A load lets its region cores fold by a map of their numbers. -/
def loadFolds (m : Memory) (img : Nat) (r : LoadRec) (f : Nat → Nat) : Bool :=
  let pins := ((blockTable m img r).map Prod.snd).filter (fun e => e.pinned)
  let spots := pins.flatMap (fun e => (if e.tile = e.tile2 then [e.tile] else [e.tile, e.tile2]).map (fun t => (f e.core, e.core, 4 * t + e.bank)))
  let queues := (List.range r.nq).map (fun q => let x := queueEnt m img r q; (f x.core, x.core, x.tile))
  let nodes := pins.flatMap (fun e => (matrixTiles (blockWords m img e.blk) e).map (fun t => (f e.core, e.core, t)))
  !foldClash spots && !foldClash queues && !foldClash nodes

/-- A launch's variant folds to m cores: every load does. -/
def State.foldsTo (s : State) (l : Launch) (m : Nat) : Bool :=
  (List.range (loadCount s.mem l.img l.size)).all (fun i => loadFolds s.mem l.img (loadRec s.mem l.img l.size i) (fun c => l.place c % m))

/-- THE DISPATCHER SHRINKS ON ITS OWN BEHALF (21 R390): a ready packet of EP 3 finds no free core; of the running untracked launches below EP 3 that can give
a core up, the one with the lowest base priority, on a tie the highest LID, takes its largest size. -/
def State.selfShrink (s : State) (part : Nat) : State :=
  let p := s.part part
  let eps := p.priorities
  let ep (i : Nat) : Nat := ((eps.find? (fun x => x.1 == i)).map (fun x => x.2.2)).getD 0
  let wanted := p.queue.any (fun q => s.packetReady part q && ep (2 * q.aseq) == 3)
  if !wanted || !(s.freeCores part).isEmpty || p.launches.any (fun x => x.2.shrink.isSome || !x.2.leaving.isEmpty) then s
  else
    let sizes (l : Launch) : List Nat := variantSizes.filter (fun m => decide (m < l.cores.length) && s.foldsTo l m)
    let able := p.launches.filter (fun (lid, l) => !l.trk && !l.l3 && decide (ep (2 * lid + 1) < 3) && !(sizes l).isEmpty)
    match able.foldl (fun (b : Option (Nat × Launch)) x => match b with
      | none => some x
      | some y => if x.2.pri < y.2.pri ∨ (x.2.pri = y.2.pri ∧ y.1 < x.1) then some x else some y) none with
    | none => s
    | some (lid, l) => s.setLaunch (part * 65536 + lid) { l with shrink := some ((sizes l).foldl max 0, l.round, none) }

/-- DECIDE (19 R341): the ready packet of the greatest EP, on equal EP the lowest ASEQ, is dispatched; the others that are ready age. -/
def execDecide (part : Nat) (s : State) : Host.Outcome State Fault Refusal :=
  let s := s.launchLate part
  if (s.part part).halted then .next s
  else
    match (s.part part).queue.find? (s.trackedBad part) with
    | some q => .next (s.diverge part (pkTag q.words))
    | none =>
      let p := s.part part
      let free := (s.freeCores part).filter (fun k => !(s.reserved part (s.freeCores part)).contains k)
      let ready := p.queue.filter (s.packetReady part)
      let eps := p.priorities
      let ep (i : Nat) : Nat := ((eps.find? (fun x => x.1 == i)).map (fun x => x.2.2)).getD 0
      let able := ready.filter (fun q => !(s.coresFor part (if s.trBound part (pkTrk q.words) then s.freeCores part else free) q).isEmpty)
      match able.foldl (fun (b : Option Packet) q => match b with
        | none => some q
        | some y => if ep (2 * y.aseq) < ep (2 * q.aseq) ∨ (ep (2 * y.aseq) = ep (2 * q.aseq) ∧ q.aseq < y.aseq) then some q else some y) none with
      | none => .next (s.selfShrink part)
      | some x =>
        if s.argsHeld part x then .next s
        else
          let used := if s.trBound part (pkTrk x.words) then (s.trNextDispatch part).map Prod.fst else none
          let cores := s.coresFor part (if used.isSome then s.freeCores part else free) x
          let s := s.resolveGone part
          let p := s.part part
          let older (q : Packet) : Packet := if ready.any (fun y => y.aseq == q.aseq) && q.aseq != x.aseq then { q with age := min 96 (q.age + 1) } else q
          let s := s.setPart part {
            p with queue := p.queue.map older, launches := p.launches.map (fun (lid, (l : Launch)) => (lid, { l with ep := ep (2 * lid + 1) })) }
          let s := (used.getD []).foldl (fun s i => s.trUse part i) s
          .next (s.dispatch part x (ep (2 * x.aseq)) cores)

end Sys2Proof.Machine
end

