-- ==== Sys2Proof/Machine/Float.lean ====
section
/-! DEFINITION. The floating-point instructions (07 R177-R182). -/

namespace Sys2Proof.Machine

/-- FADD (07 R177). -/
def execFadd (o : OpA) (s : State) : Host.Outcome State Fault Refusal :=
  .next (s.arith o false 4 (!o.i) false o.v (floatBinValue 0x40 o))

/-- FSUB (07 R177). -/
def execFsub (o : OpA) (s : State) : Host.Outcome State Fault Refusal :=
  .next (s.arith o false 4 (!o.i) false o.v (floatBinValue 0x41 o))

/-- FMUL (07 R177). -/
def execFmul (o : OpA) (s : State) : Host.Outcome State Fault Refusal :=
  .next (s.arith o false 4 (!o.i) false o.v (floatBinValue 0x42 o))

/-- FDIV (07 R177). -/
def execFdiv (o : OpA) (s : State) : Host.Outcome State Fault Refusal :=
  .next (s.arith o false 12 (!o.i) false o.v (floatBinValue 0x44 o))

/-- FMIN (07 R179). -/
def execFmin (o : OpA) (s : State) : Host.Outcome State Fault Refusal :=
  .next (s.arith o false 1 (!o.i) false o.v (floatBinValue 0x4B o))

/-- FMAX (07 R179). -/
def execFmax (o : OpA) (s : State) : Host.Outcome State Fault Refusal :=
  .next (s.arith o false 1 (!o.i) false o.v (floatBinValue 0x4C o))

/-- FMA (07 R177 R178). -/
def execFma (o : OpA) (s : State) : Host.Outcome State Fault Refusal :=
  .next (s.arith o false 4 (!o.i) true o.v (fmaValue o))

/-- FSQRT (07 R177). -/
def execFsqrt (o : OpA) (s : State) : Host.Outcome State Fault Refusal :=
  .next (s.arith o false 12 false false o.v (floatUnValue 0x45 o))

/-- FRCP (07 R182). -/
def execFrcp (o : OpA) (s : State) : Host.Outcome State Fault Refusal :=
  .next (s.arith o false 6 false false o.v (floatUnValue 0x46 o))

/-- FRSQ (07 R182). -/
def execFrsq (o : OpA) (s : State) : Host.Outcome State Fault Refusal :=
  .next (s.arith o false 6 false false o.v (floatUnValue 0x47 o))

/-- FEXP2 (07 R182). -/
def execFexp2 (o : OpA) (s : State) : Host.Outcome State Fault Refusal :=
  .next (s.arith o false 6 false false o.v (floatUnValue 0x48 o))

/-- FLOG2 (07 R182). -/
def execFlog2 (o : OpA) (s : State) : Host.Outcome State Fault Refusal :=
  .next (s.arith o false 6 false false o.v (floatUnValue 0x49 o))

/-- FEXP (07 R182). -/
def execFexp (o : OpA) (s : State) : Host.Outcome State Fault Refusal :=
  .next (s.arith o false 6 false false o.v (floatUnValue 0x4A o))

/-- FRINT (07 R181). -/
def execFrint (o : OpA) (s : State) : Host.Outcome State Fault Refusal :=
  .next (s.arith o false 2 false false o.v (floatUnValue 0x52 o))

/-- FTANH (07 R182). -/
def execFtanh (o : OpA) (s : State) : Host.Outcome State Fault Refusal :=
  .next (s.arith o false 6 false false o.v (floatUnValue 0x54 o))

/-- FSIGM (07 R182). -/
def execFsigm (o : OpA) (s : State) : Host.Outcome State Fault Refusal :=
  .next (s.arith o false 6 false false o.v (floatUnValue 0x55 o))

/-- FABS (07 R179). -/
def execFabs (o : OpA) (s : State) : Host.Outcome State Fault Refusal :=
  .next (s.arith o false 1 false false o.v (signValue false o))

/-- FNEG (07 R179). -/
def execFneg (o : OpA) (s : State) : Host.Outcome State Fault Refusal :=
  .next (s.arith o false 1 false false o.v (signValue true o))

/-- FCPYS (07 R179). -/
def execFcpys (o : OpA) (s : State) : Host.Outcome State Fault Refusal :=
  .next (s.arith o false 1 (!o.i) false o.v (cpysValue o))

/-- FCMP (07 R180). -/
def execFcmp (o : OpA) (s : State) : Host.Outcome State Fault Refusal :=
  .next (s.arith o false 1 (!o.i) false o.v (fcmpValue o))

/-- FCLASS (07 R180). -/
def execFclass (o : OpA) (s : State) : Host.Outcome State Fault Refusal :=
  .next (s.arith o false 1 false false o.v (fclassValue o))

/-- FSCALB (07 R181). -/
def execFscalb (o : OpA) (s : State) : Host.Outcome State Fault Refusal :=
  .next (s.arith o false 4 (!o.i) false o.v (scalbValue o))


end Sys2Proof.Machine
end

