-- ==== Sys2Proof/Machine/Recovery.lean ====
section
/-! DEFINITION. Recovery and the fold of a region: rollback to a complete cut (21 R380-R384), replays and traps (09 R235, 21 R377 R378 R391), shrink (18 R332,
21 R385-R390), the debug port (21 R393). -/

namespace Sys2Proof.Machine

/-! ### Rollback (21 R382) -/

/-- The flights of an element that a rollback to cut c keeps: results owed to no round whose firing the cut holds, those emitted since among them. -/
def keptFlights (c : Nat) (second : Bool) (q : List Flight) (sent : List (Nat × Bool × Flight)) : List Flight :=
  let old (x : Flight) : Bool := decide (x.issued < c) && x.round.isNone
  (sent.filter (fun x => decide (c ≤ x.1) && x.2.1 == second && decide (x.2.2.issued < c))).reverse.map (fun x => x.2.2) ++ q.filter old

/-- An element at cut c; what free constants feed they refill. -/
def Elem.restore (x : Elem) (c : Nat) (refills : Slot → Bool) : Elem :=
  let t : ElemCut := (mget x.snaps c).getD { ost := x.ost, fires := x.fires }
  let slot (k : Slot) (ts : List Token) : InSlot := { marks := c, rein := if refills k then [] else ts }
  { l := slot .l t.l, r := slot .r t.r, p := slot .p t.p, fwd := c, q0 := keptFlights c false x.q0 x.sent, q1 := keptFlights c true x.q1 x.sent, ost := t.ost, fires := t.fires,
    snaps := x.snaps.filter (fun y => decide (y.1 ≤ c)), chafer := c }

/-- A bank at cut c: no token, no marker beyond it, the registers and flags it held; the B flags stay as the debug port set them (21 R393). -/
def Bank.restore (b : Bank) (c : Nat) (unblock : Bool) (refills : Nat → Slot → Bool) : Bank :=
  let x := if c < b.mpass then b.snaps.find? (fun x => x.round == c) else none
  { b with
    elems := b.elems.map (fun (i, el) => (i, if freeConst b i then { el.restore c (refills i) with q0 := [], q1 := [] } else el.restore c (refills i)))
    arcs := b.arcs.map (fun (a : Arc) => { a with hops := a.hops.map (fun _ => {}), pend := [] })
    drops := []
    rev := []
    regs := (x.map BankCut.regs).getD b.regs
    rstage := []
    numf := (x.map BankCut.numf).getD b.numf
    nstage := []
    mpass := c
    lastFire := b.lastFire.filter (fun r => decide (r < c))
    blocked := b.blocked && !unblock
    snaps := b.snaps.filter (fun y => decide (y.round ≤ c)) }

/-- A streamer at cut c of a launch: the descriptor words that its later rounds had written are as they were, the latest first. -/
def Streamer.restore (x : Streamer) (lk c : Nat) : Streamer :=
  let gone (y : StrWrite) : Bool := y.lk == lk && decide (c ≤ y.round)
  let x := (x.stage.filter gone).reverse.foldl (fun (z : Streamer) y => match y.old with
    | some v => z.setWord y.word v
    | none => z) x
  { x with stage := x.stage.filter (fun y => !gone y), busy := none }

/-- A memory tile at cut c of a launch: bytes, descriptors, and the queue with its head where it was. Operations performed on arrival in later rounds have
never committed; where no earlier one has, the bytes before those that are left are those of the cut. -/
def MTile.restore (m : MTile) (lk c : Nat) : MTile :=
  let x := if c < mgetD m.pass lk 0 then m.snaps.find? (fun x => x.lk == lk && x.round == c) else none
  let back := (m.popped.filter (fun y => y.2.lk == lk && decide (c ≤ y.1))).reverse.map Prod.snd
  let gone (a : Arrival) : Bool := a.lk == lk && decide (c ≤ a.round)
  let bytes := (x.map TileCut.bytes).getD m.bytes
  let log := m.overlay.filter (fun a => !(gone a && a.done))
  let base (y : Nat × Byte) : Nat × Byte := if log.any (fun a => a.done && a.covers y.1) then y else (y.1, memRead bytes y.1)
  { m with
    bytes := bytes
    stage := m.stage.filter (fun a => !gone a)
    overlay := log
    abase := if x.isSome then m.abase.map base else m.abase
    strm := m.strm.map (fun (y : Streamer) => y.restore lk c)
    recs := (back ++ m.recs).filter (fun y => y.lk != lk || y.ofDevice || decide (y.round < c))
    popped := m.popped.filter (fun y => y.2.lk != lk || decide (y.1 < c))
    pass := mset m.pass lk c
    snaps := m.snaps.filter (fun y => y.lk != lk || decide (y.round ≤ c)) }

/-- A matrix node at cut c: working and committed copies; RPLC and RESX stay (09 R235). -/
def CTile.restore (n : CTile) (lk c : Nat) : CTile :=
  match n.snaps.find? (fun x => x.lk == lk && x.round == c) with
  | none => { n with kept := [], busyTill := 0, pass := mset n.pass lk c }
  | some x => {
    n with slots := x.slots, acc := x.acc, kept := [], busyTill := 0, pass := mset n.pass lk c, snaps := n.snaps.filter (fun y => y.lk != lk || decide (y.round ≤ c)) }

/-- An engine command at cut c (09 R243): the progress that has committed. -/
def Cmd.restore (x : Cmd) (c : Nat) : Cmd :=
  let undone := x.hist.filter (fun h => decide (c ≤ h.1))
  let x : Cmd := { x with emitted := x.emitted.filter (fun e => decide (e < c)) }
  match undone.getLast? with
  | none => x
  | some h => { x with prog := h.2, hist := x.hist.filter (fun h => decide (h.1 < c)), finished := false }

/-- A core at cut c of a launch: its port, its loops and tasks, its commands; what no rollback touches stays. -/
def Core.restore (k : Core) (lk c eff : Nat) (mine : CsrWrite → Bool) : Core :=
  let x := k.snaps.find? (fun y => y.lk == lk && y.round == c)
  let others {α : Type} (f : α → Nat) (m : Map α) : Map α := m.filter (fun y => f y.2 != lk)
  let back {α : Type} (m now : Map α) (f : α → Nat) : Map α := if eff = c then m.foldl (fun z y => mset z y.1 y.2) (others f now) else now
  { k with
    gstage := k.gstage.filter (fun a => !(a.lk == lk && decide (c ≤ a.round)))
    cmds := (k.cmds.filter (fun y => !(y.lk == lk && decide (c ≤ y.round)))).map (fun y => if y.lk = lk then y.restore c else y)
    loops := back ((x.map CoreCut.loops).getD []) k.loops Loop.lk
    tasks := back ((x.map CoreCut.tasks).getD []) k.tasks Task.lk
    inj := mset k.inj lk c
    pass := mset k.pass lk c
    fcFill := k.fcFill.filter (fun y => y.2.1 != lk)
    csrStage := k.csrStage.filter (fun w => !mine w)
    rttStage := k.rttStage.filter (fun w => !(w.lk == lk && decide (c ≤ w.round)))
    snaps := k.snaps.filter (fun y => y.lk != lk || decide (y.round ≤ c)) }

/-- Withdraw record i of a recording: the later ones move down (21 R383). -/
def State.trWithdraw (s : State) (part i : Nat) : State :=
  let p := s.part part
  let s := (List.range (p.trcPos - i - 1)).foldl (fun s j => match s.trRead part (i + j + 1) with
    | some (a, b) => (s.trStore part (i + j) a b).getD s
    | none => s) s
  let lower (x : Swap) : Swap := { x with trec := x.trec.map (fun n => if i < n then n - 1 else n) }
  let p := s.part part
  s.setPart part { p with trcPos := p.trcPos - 1, launches := p.launches.map (fun (k, (l : Launch)) => (k, { l with swaps := l.swaps.map lower })) }

/-- A record of a bound trace is consumed no more. -/
def State.trUnuse (s : State) (part i : Nat) : State :=
  let p := s.part part
  s.setPart part { p with trcUsed := p.trcUsed.filter (fun x => x ≠ i), trcPos := p.trcPos - 1 }

/-- Take a decision of Scarab back: what the bank held, the ages, the context records, the trace record. -/
def State.undoSwap (s : State) (lk : Nat) (x : Swap) : State :=
  let part := lkPart lk
  let s := { s with banks := s.banks.filter (fun y => y.1 != x.bank && y.2.upper != some x.bank) }
  let s := if x.old.st = 0 then s else s.setBank x.bank x.old
  let s := match x.old.tile2 with
    | some t => s.setBank (bankKeyOf (bankCore x.bank) t (x.bank % 4)) { st := 1, lk := lk, blk := x.old.blk, pin := x.old.pin, upper := some x.bank }
    | none => s
  let k := tileKey (bankCore x.bank) x.tile
  let s := s.mapLaunch lk (fun l => {
    l with ages := x.ages, working := x.working, failed := x.failed, kdone := x.kdone,
           decisions := if x.old.st = 0 then mset l.decisions k (mgetD l.decisions k 0 - 1) else l.decisions })
  match x.trec with
  | none => s
  | some i => if (s.part part).trcMode = 2 then s.trUnuse part i else s.trWithdraw part i

/-- The decisions of rounds from c on are taken back, the latest first (21 R382 R383). -/
def State.undoSwaps (s : State) (lk c : Nat) : State :=
  match s.launch lk with
  | none => s
  | some l =>
    let s := (l.swaps.filter (fun x => decide (c ≤ x.round))).reverse.foldl (fun s x => s.undoSwap lk x) s
    s.mapLaunch lk (fun l => { l with swaps := l.swaps.filter (fun x => decide (x.round < c)) })

/-- Streamers in the middle of a stream that began before the cut. -/
def State.busyStreams (s : State) (lk : Nat) : State :=
  let xs := (s.banks.filter (fun x => x.2.lk == lk && x.2.st == 1 && x.2.upper.isNone)).flatMap (fun (k, b) => b.elems.filterMap (fun (i, x) =>
    match x.ost, b.instr i with
    | .stream _ _ _ _ _ _, some (.strgo o) => some (siteOf k i, o)
    | .stream _ _ _ _ _ _, some (.strgoWrite o) => some (siteOf k i, o)
    | _, _ => none))
  xs.foldl (fun s (x : Site × OpA) =>
    let t := tileKey x.1.core (x.2.imm.toNat / 16)
    let j := x.2.imm.toNat / 4 % 4
    s.setStreamer t j { (s.mtile t).streamer j with busy := some (x.1, 0) }) s

/-- THE REGION RETURNS TO ITS LAST COMPLETE CUT (21 R382, steps 1 to 4): staged work, tokens, requests and sites of later rounds are discarded, every
element stands where the cut left it, the round starts again. Slices, tables, range commands, the handler launch and the counts stay. -/
def State.restore (s : State) (lk : Nat) : State :=
  match s.launch lk with
  | none => s
  | some l =>
    let c := l.cut
    let s := s.undoSwaps lk c
    let part := lkPart lk
    let gone (a : Arrival) : Bool := a.lk == lk && decide (c ≤ a.round)
    let stuck (b : Bank) : Bool := (s.launchOfBank b).any (fun l => (s.queueTile l (eqix b)).any (fun k =>
      ((s.mtile k).recs.find? (fun r => r.key.isNone && s.recordFor l b.blk b.origin r)).any (fun y => !y.ofDevice && decide (c ≤ y.round))))
    let csr (w : CsrWrite) : Bool := (s.bank w.bank).lk == lk && decide (c ≤ w.round)
    let mineCore (k : Nat) : Bool := l.cores.contains k
    let ids := ((s.part part).sites.filter (fun x => x.lk == lk)).map OpenSite.id
    let bank (b : Bank) : Bank := if b.lk ≠ lk ∨ b.st ≠ 1 then b else if b.upper.isSome then { b with mpass := c } else b.restore c (stuck b) (s.fedFree b)
    let core (x : Core) : Core := { x.restore lk c l.eff csr with fwait := x.fwait.filter (fun r => !ids.contains r.siteId) }
    let s := {
      s with
      banks := s.banks.map (fun (k, (b : Bank)) => (k, bank b))
      mtiles := s.mtiles.map (fun (k, (m : MTile)) => (k, if mineCore (k / 16) then m.restore lk c else m))
      ctiles := s.ctiles.map (fun (k, (n : CTile)) => (k, if mineCore (k / 16) then n.restore lk c else n))
      cores := s.cores.map (fun (k, (x : Core)) => (k, if mineCore k then core x else x)) }
    let s := s.dropLogs (fun x => x.lk == lk && decide (c ≤ x.round))
    let p := s.part part
    let s := {
      s with
      reqs := s.reqs.filter (fun r => !(r.lk == lk && decide (c ≤ r.round)))
      units := s.units.filter (fun a => !gone a)
      parts := mset s.parts part { p with sites := p.sites.filter (fun x => x.lk != lk), ctloads := p.ctloads.filter (fun x => x.lk != lk || decide (x.round < c)) } }
    (s.mapLaunch lk (fun l => {
      l with round := c, since := 0, rmark := none, staged := l.staged.filter (fun e => decide (e.round < c)), active := l.active.filter (fun r => decide (r < c)),
             quiets := l.quiets.filter (fun q => decide (q.start < c)) })).busyStreams lk

/-- Level 3 (21 R377): the region stops, the core is fenced, a residue trap notice goes to the handler. -/
def State.levelThree (s : State) (lk core : Nat) : State :=
  let s := s.mapLaunch lk (fun l => { l with l3 := true, fcore := core })
  (s.setCore core { s.core core with fenced := true }).notice lk core fResidue 0 0

/-- Level 2 (21 R377 R384): a rollback, or level 3 where the cut has seen RBMAX of them. The handler launch is never rolled back (18 R312): an error of
this kind there is a machine check. -/
def State.levelTwo (s : State) (lk core : Nat) : State :=
  match s.launch lk with
  | none => s
  | some l =>
    if lkLid lk = 0 then s.halt (lkPart lk)
    else if (s.part (lkPart lk)).rbmax ≤ l.rbCut then s.levelThree lk core
    else (s.restore lk).mapLaunch lk (fun l => { l with rbcnt := l.rbcnt + 1, rbCut := l.rbCut + 1 })

/-- Level 1 (21 R378): the pipeline of an element holds while the firing repeats; nothing else changes. -/
def State.replay (s : State) (lk : Nat) (e : Site) : State :=
  let el := s.elem e
  let later (x : Flight) : Flight := if x.outs.isSome then { x with due := max x.due s.fc + 1 } else x
  let s := s.setElem e { el with last := some s.fc, q0 := el.q0.map later, q1 := el.q1.map later }
  s.mapLaunch lk (fun l => { l with l1cnt := l.l1cnt + 1 })

/-! ### Errors of the hardware -/

/-- The launch whose work stands on a core: that bound to it, or else the handler launch. -/
def State.coreLaunch (s : State) (core : Nat) : Option Nat :=
  match (s.core core).lk with
  | some lk => some lk
  | none => (s.partOfCore core).map (fun p => p * 65536)

/-- RESIDUE_MISMATCH (09 R235): in the row accepted three fc ago, with RV = 1. That row and the later ones are issued again, four fc after they were accepted,
with the same results; the count of mismatches chooses the level. -/
def execResidueMismatch (core tile : Nat) (s : State) : Host.Outcome State Fault Refusal :=
  let k := tileKey core tile
  let n := s.ctile k
  match s.coreLaunch core with
  | none => .next s
  | some lk =>
    if !n.kept.any (fun x => x.2.2.2.1.rv && x.2.2.2.2 + 3 == s.fc) then .next s
    else
      match n.resx with
      | 0 =>
        let again (x : Nat × Nat × Nat × Token × Nat) : Nat × Nat × Nat × Token × Nat := (x.1, x.2.1, x.2.2.1, x.2.2.2.1, if s.fc ≤ x.2.2.2.2 + 3 then x.2.2.2.2 + 4 else x.2.2.2.2)
        let s := s.setCtile k { n with resx := 1, rplc := n.rplc + 1, mism := true, busyTill := s.fc + 4, kept := n.kept.map again }
        .next (s.mapLaunch lk (fun l => { l with l1cnt := l.l1cnt + 1 }))
      | 1 => .next ((s.setCtile k { n with resx := 2, mism := true }).levelTwo lk core)
      | _ => .next ((s.setCtile k { n with mism := true }).levelThree lk core)

/-- The instruction at a site reads a context register. -/
def readsContext (i : Option Instr) : Bool :=
  match i with
  | some (.crd _) => true
  | _ => false

/-- CONTEXT_PARITY_ERROR (21 R377): a register read fails its parity once, or on two reads. -/
def execContextParityError (e : Site) (second : Bool) (s : State) : Host.Outcome State Fault Refusal :=
  let b := s.bank (siteKey e)
  if b.st ≠ 1 ∨ readsContext (b.instr e.idx) = false then .next s
  else if second then .next (s.levelTwo b.lk e.core)
  else .next (s.replay b.lk e)

/-- TIMING_ERROR_DETECT (21 R377 R391 R392): a late result under margin trim; the firing replays, or, where it fails again, the region rolls back. -/
def execTimingErrorDetect (e : Site) (second : Bool) (s : State) : Host.Outcome State Fault Refusal :=
  let b := s.bank (siteKey e)
  let c := s.core e.core
  if b.st ≠ 1 ∨ (b.instr e.idx).isNone ∨ c.step = 0 ∨ (s.part (lkPart b.lk)).exact then .next s
  else
    let s := (s.setCore e.core { c with replays := c.replays + 1 }).mapLaunch b.lk (fun l => { l with tcnt := l.tcnt + 1 })
    if second then .next (s.levelTwo b.lk e.core) else .next (s.replay b.lk e)

/-- MARGIN_TRIM_STEP (21 R391 R392): at a marker of the core's system bank the management core sets the step, from 0 up to TLIM; in exact mode it stays 0. -/
def execMarginTrimStep (core step : Nat) (s : State) : Host.Outcome State Fault Refusal :=
  match s.partOfCore core with
  | none => .next s
  | some part =>
    let p := s.part part
    let c := s.core core
    if p.exact ∨ p.tlim < step ∨ (p.handler.isSome ∧ c.sysSince ≠ 0) then .next s else .next (s.setCore core { c with step := step })

/-- DEBUG_SET_BREAKPOINT (21 R393): the B flag of a slot, in a block image at a device address, or of a resident copy at its bank's next marker. -/
def execDebugSetBreakpoint (e : Site) (image : Option Nat) (b : Bool) (s : State) : Host.Outcome State Fault Refusal :=
  match image with
  | some a =>
    let at' := a + 16 + 8 * e.idx
    .next { s with mem := writeBytes s.mem at' (leBytes 8 (setBFlag (BitVec.ofNat 64 (word64 s.mem at')) b).toNat) }
  | none =>
    let k := siteKey e
    let x := s.bank k
    if x.st ≠ 1 ∨ (mget x.words e.idx).isNone then .next s else .next (s.setBank k { x with dbgStage := mset x.dbgStage e.idx b })

/-! ### Shrink: the checks at the cut (21 R385 R389) -/

/-- The use masks of cores that fold together meet (21 R385). -/
def State.masksMeet (s : State) (l : Launch) (m : Nat) : Bool :=
  let n := l.cores.length
  (List.range n).any (fun i => (List.range i).any (fun j =>
    let a := s.core (l.cores.getD i 0)
    let b := s.core (l.cores.getD j 0)
    i % m == j % m && (a.mtuse &&& b.mtuse != 0 || a.nduse &&& b.nduse != 0)))

/-- Bytes that a vacated core takes in the save area (21 R389). -/
def saveSize : Nat := 9408 * 64 + 2 ^ 19 * 16 + 2 ^ 20

/-- The save area holds the vacated cores: in one pinned range, writable, large enough (21 R389). -/
def State.saveArea (s : State) (part n : Nat) : Option Nat :=
  let p := s.part part
  if p.shrLen.toNat < n * saveSize ∨ p.shrBase.toNat % 64 ≠ 0 then none else s.pinned part p.shrBase.toNat p.shrLen.toNat true

/-! ### Shrink: the fold (21 R386 R387) -/

/-- A vacated core's state goes to the save area: a context record for each bank, an image of each memory tile in use, and the rest (log 12). -/
def State.saveCore (s : State) (lk core a round : Nat) : State :=
  let img := ((s.launch lk).map Launch.img).getD 0
  let recs := s.banks.filter (fun (k, b) => bankCore k == core && b.lk == lk && b.st == 1 && b.upper.isNone)
  let m := recs.foldl (fun m (k, b) => writeBytes m (a + 9408 * (k % 64)) (contextRecord b img round)) s.mem
  let tiles := (List.range 16).filter (fun t => (s.core core).mtuse.getLsbD t)
  let m := tiles.foldl (fun m t => writeBytes m (a + 9408 * 64 + 2 ^ 19 * t) (readBytes (s.mtile (tileKey core t)).bytes 0 (2 ^ 19))) m
  let m := writeBytes m (a + 9408 * 64 + 2 ^ 19 * 16) ((List.range (2 ^ 20)).map (fun i => Config.saveAreaByte (s.tick * 2 ^ 20 + i)))
  { s with mem := m }.tickUp

/-- A site on the partner core. -/
def moveSite (src dst : Nat) (e : Site) : Site := if e.core = src then { e with core := dst } else e

/-- Whose notice it is, on the partner core. -/
def Origin.move (src dst : Nat) (o : Origin) : Origin := { o with site := o.site.map (moveSite src dst) }

/-- A task on the partner core. -/
def moveTask (src dst : Nat) (t : Task) : Task :=
  { t with site := moveSite src dst t.site, org := t.org.move src dst, commitFl := t.commitFl.map (fun x => (moveSite src dst x.1, x.2)),
           bops := t.bops.map (fun b => { b with site := moveSite src dst b.site }) }

/-- A part on the partner core. -/
def movePart (src dst : Nat) (p : Part) : Part :=
  match p.space with
  | .tile c t => if c = src then { p with space := .tile dst t } else p
  | _ => p

/-- The blocks of a core move to the partner: a swappable block whose bank is taken leaves for its context record. -/
def State.moveBanks (s : State) (lk src dst : Nat) : State :=
  let ks := (s.banks.filter (fun (k, b) => bankCore k == src && b.lk == lk && b.st == 1 && b.upper.isNone)).map Prod.fst
  ks.foldl (fun s k =>
    let b := s.bank k
    let spots := (bankTile k :: b.tile2.toList).map (fun t => bankKeyOf dst t (k % 4))
    let taken (s : State) : List Nat := (spots.filter (fun q => (s.bank q).st != 0)).map (fun q => (s.bank q).upper.getD q)
    let s := if b.pin then (taken s).eraseDups.foldl (fun s q => if (s.bank q).pin then s else s.evict q) s else s
    if !(taken s).isEmpty then s.evict k
    else
      let s := { s with banks := s.banks.filter (fun x => x.1 != k && x.2.upper != some k) }
      let d := bankKeyOf dst (bankTile k) (k % 4)
      let s := s.setBank d b
      match b.tile2 with
      | some t => s.setBank (bankKeyOf dst t (k % 4)) { st := 1, lk := lk, blk := b.blk, pin := b.pin, upper := some d, mpass := b.mpass }
      | none => s) s

/-- A bank key on the partner core. -/
def moveBank (src dst k : Nat) : Nat := if bankCore k = src then bankKeyOf dst (bankTile k) (k % 4) else k

/-- The memory tiles, queues and streamers of a core move to the partner. -/
def State.moveTiles (s : State) (lk src dst round : Nat) : State :=
  (List.range 16).foldl (fun s t =>
    let a := s.mtile (tileKey src t)
    let d := s.mtile (tileKey dst t)
    let used := (s.core src).mtuse.getLsbD t
    let move (x : Streamer) : Streamer := { x with stage := x.stage.map (fun (y : StrWrite) => { y with bank := moveBank src dst y.bank }) }
    let strm := if a.strm = [{}, {}, {}, {}] then d.strm else a.strm.map move
    let d : MTile := {
      d with bytes := if used then a.bytes else d.bytes, strm := strm, recs := if a.cfg.isFifo then a.recs else d.recs, cfg := if a.cfg.isFifo then a.cfg else d.cfg,
             popped := [] }
    let d : MTile := { d with snaps := d.snaps.filter (fun x => x.lk != lk) ++ [{ lk := lk, round := round, bytes := d.bytes }] }
    let s := s.setMtile (tileKey dst t) d
    s.setMtile (tileKey src t) { a with recs := [], popped := [], strm := [{}, {}, {}, {}], pass := mdel a.pass lk, snaps := a.snaps.filter (fun x => x.lk != lk) }) s

/-- The matrix nodes in use move to the partner. -/
def State.moveNodes (s : State) (lk src dst round : Nat) : State :=
  (List.range 16).foldl (fun s t =>
    let a := s.ctile (tileKey src t)
    let d := s.ctile (tileKey dst t)
    let s :=
      if (s.core src).nduse.getLsbD t then
        let slots := a.slots.map (fun (i, (w : WSlot)) => (i, { w with owner := w.owner.map (moveSite src dst) }))
        s.setCtile (tileKey dst t) { d with slots := slots, acc := a.acc, rplc := a.rplc, resx := a.resx, mism := a.mism, snaps := [{ lk := lk, round := round, slots := slots, acc := a.acc }] }
      else s
    s.setCtile (tileKey src t) { a with pass := mdel a.pass lk, snaps := a.snaps.filter (fun x => x.lk != lk) }) s

/-- Loops, tasks and commands of a core go on at the partner; the core itself waits for its commands. -/
def State.moveCore (s : State) (lk src dst round : Nat) : State :=
  let a := s.core src
  let d := s.core dst
  let σ := moveSite src dst
  let loops := (a.loops.filter (fun x => x.2.lk == lk)).map (fun (i, (x : Loop)) => (i, { x with org := x.org.move src dst, rldone := x.rldone.map (fun (y : Site × Nat) => (σ y.1, y.2)) }))
  let tasks := (a.tasks.filter (fun x => x.2.lk == lk)).map (fun (i, x) => (i, moveTask src dst x))
  let cmds := (a.cmds.filter (fun x => x.lk == lk)).map (fun (x : Cmd) => { x with core := dst, site := σ x.site, org := x.org.move src dst })
  let ids := (cmds.filter (fun x => x.emitted.isNone)).map Cmd.id
  let loops' := loops.foldl (fun m x => mset m x.1 x.2) d.loops
  let tasks' := tasks.foldl (fun m x => mset m x.1 x.2) d.tasks
  let s := s.setCore dst {
    d with loops := loops', tasks := tasks', cmds := d.cmds ++ cmds, mtuse := d.mtuse ||| a.mtuse, nduse := d.nduse ||| a.nduse, fcache := [], fcFill := [],
           snaps := d.snaps.filter (fun y => y.lk != lk) ++
             [{ lk := lk, round := round, loops := loops'.filter (fun y => y.2.lk == lk), tasks := tasks'.filter (fun y => y.2.lk == lk) }] }
  let s := s.setCore src {
    a with loops := a.loops.filter (fun x => x.2.lk != lk), tasks := a.tasks.filter (fun x => x.2.lk != lk), cmds := a.cmds.filter (fun x => x.lk != lk),
           pass := mdel a.pass lk, inj := mdel a.inj lk, snaps := a.snaps.filter (fun y => y.lk != lk), lk := if ids.isEmpty then none else a.lk }
  let req (r : Req) : Req := if r.lk = lk then { r with site := σ r.site, org := r.org.move src dst, parts := r.parts.map (movePart src dst) } else r
  let part := lkPart lk
  let p := s.part part
  let s := (s.setPart part { p with ctloads := p.ctloads.map (fun (x : CtLoad) => { x with site := σ x.site, org := x.org.move src dst }) })
  let s := { s with reqs := s.reqs.map req }
  s.mapLaunch lk (fun l => {
    l with quiets := l.quiets.map (fun (q : Quiet) => { q with site := σ q.site }), leaving := if ids.isEmpty then l.leaving else l.leaving ++ [(src, ids)] })

/-- Circuits are routed anew inside the kept cores (21 R387). -/
def State.reroute (s : State) (lk : Nat) : State :=
  match s.launch lk with
  | none => s
  | some l =>
    let one (k : Nat) (b : Bank) : Bank :=
      let base := if 2 ^ 40 ≤ b.num then 0 else b.num / 4096 * 4096
      let r := loadRec s.mem l.img l.size (base / 4096)
      let spot (n : Nat) : Nat × Nat := let e := blockEnt s.mem l.img r n; (l.coreOf e.core, e.tile)
      { b with arcs := blockArcs (b.words.map Prod.snd) (bankTile k) (b.tile2.getD (bankTile k)) (bankCore k) (b.num - base) base (switchTable s.mem l.img r) spot }
    { s with banks := s.banks.map (fun (k, b) => (k, if b.lk = lk ∧ b.st = 1 ∧ b.upper.isNone then one k b else b)) }

/-- THE FOLD AT CUT s (21 R386 R387): state moves by way of the save area, the region keeps its first m cores, the next round starts there. -/
def State.fold (s : State) (lk m : Nat) (l : Launch) (area : Nat) : State :=
  let n := l.cores.length
  let old := l.cores
  let s := s.restore lk
  let s := ((List.range n).drop m).foldl (fun s i => s.saveCore lk (old.getD i 0) (area + saveSize * (i - m)) (l.cut - 1)) s
  let s := ((List.range n).drop m).foldl (fun s i =>
    let src := old.getD i 0
    let dst := old.getD (i % m) 0
    (((s.moveBanks lk src dst).moveTiles lk src dst l.cut).moveNodes lk src dst l.cut).moveCore lk src dst l.cut) s
  let s := s.mapLaunch lk (fun l => { l with cores := l.cores.take m, folds := l.folds ++ [m], shrink := none, swaps := [] })
  let s := ((s.reroute lk).busyStreams lk).trRecord (lkPart lk) l trSHRINK m (l.cut - 1)
  (old.take m).foldl (fun s k => s.setCore k { s.core k with fcache := [], fcFill := [] }) s

/-- Answer the SHRINK that asked. -/
def State.shrinkAnswer (s : State) (asked : Option (Site × Nat)) (ok : Bool) : State :=
  match asked with
  | some (e, id) => s.fill e id s.fc none (fork (predTok ok))
  | none => s

/-- Vacated cores whose commands have completed are released (21 R386). -/
def State.releaseLeft (s : State) (lk : Nat) : State :=
  match s.launch lk with
  | none => s
  | some l =>
    let busy (x : Nat × List Nat) : Bool := l.cores.any (fun k => (s.core k).cmds.any (fun y => x.2.contains y.id && y.emitted.isNone))
    let s := (l.leaving.filter (fun x => !busy x)).foldl (fun s x => s.setCore x.1 { s.core x.1 with lk := none }) s
    s.mapLaunch lk (fun l => { l with leaving := l.leaving.filter busy })

/-- SHRINK_CUT (21 R386): once cut s of a launch with a shrink in progress is complete, the masks and the save area are checked and the region folds; a save area
with an error that ECC cannot correct is a machine check (21 R388 R389). -/
def execShrinkCut (lk : Nat) (s : State) : Host.Outcome State Fault Refusal :=
  let s := s.releaseLeft lk
  match s.launch lk with
  | none => .next s
  | some l =>
    match l.shrink with
    | none => .next s
    | some (m, mk, asked) =>
      if l.cut ≤ mk ∨ l.eff < l.cut ∨ (s.part (lkPart lk)).halted then .next s
      else
        let part := lkPart lk
        let no := s.setLaunch lk { l with shrink := none }
        match s.saveArea part (l.cores.length - m) with
        | none => .next (no.shrinkAnswer asked false)
        | some a =>
          if s.masksMeet l m then .next (no.shrinkAnswer asked false)
          else if s.spoilt .dev a ((l.cores.length - m) * saveSize) then .next (s.halt part)
          else
            let s := (s.fold lk m l a).shrinkAnswer asked true
            match s.trNext part (fun w _ => trTag w == l.ltag && trType w == trSHRINK) with
            | some (i, _, _) => .next (if s.trBound part l.trk then s.trUse part i else s)
            | none => .next s

/-! ### SHRINK (18 R332) -/

/-- The answer that depends only on the request and the image: false at once (18 R332, 19 R348, 21 R377). -/
def State.shrinkRefused (s : State) (part lid m : Nat) : Bool :=
  match (if lid = 0 then none else mget (s.part part).launches lid) with
  | none => true
  | some l =>
    !variantSizes.contains m || decide (l.cores.length ≤ m) || !s.foldsTo l m || l.l3 ||
    (s.trBound part l.trk && !(s.trNext part (fun w b => trTag w == l.ltag && trType w == trSHRINK && trA w % 256 == m && b % 2 ^ 48 == l.round)).isSome)

/-- A shrink of the launch is in progress already. -/
def State.shrinking (s : State) (part lid : Nat) : Bool := ((mget (s.part part).launches lid).bind Launch.shrink).isSome

/-- SHRINK (18 R332): a request to the dispatcher; its answer is awaited, and belongs to the round in which it is emitted. -/
def execShrink (o : OpA) (s : State) : Host.Outcome State Fault Refusal :=
  .next (s.anchorFire {
    fl := o.fl, need := needLR, check := fun _ f => if f.ops.l.all isZ64 && f.ops.r.all isZ64 then none else some (fFormat, 0),
    hold := fun s f => s.shrinking f.part (launchWordLid f.ops.l),
    act := fun s f =>
      let lid := launchWordLid f.ops.l
      let m := (f.ops.r.map Token.word).getD 0
      if s.shrinkRefused f.part lid m then s.result f false 1 (fork (predTok false))
      else
        let (id, s) := s.fresh
        (s.mapLaunch (f.part * 65536 + lid) (fun l => { l with shrink := some (m, l.round, some (f.e, id)) })).await f false false id })

end Sys2Proof.Machine
end

