-- ==== Sys2Proof/Machine/Host.lean ====
section
/-! DEFINITION. The edges of the system (23 R398-R418): the command ring and its commands, the journal, pushes by virtual functions, boot and attestation, dies
under warm reset and error replies, CXL accesses (13 R291), Tilhorn flits, the clamps, patrol scrub. -/

namespace Sys2Proof.Machine

/-- Shift bytes into the CRC-64 of a flit, from the most significant bit of each. -/
def crc64 (bs : List Byte) : BitVec 64 :=
  let bit (c : BitVec 64) : BitVec 64 := if c.getLsbD 63 then (c <<< 1) ^^^ 0x42F0E1EBA9EA3693#64 else c <<< 1
  bs.foldl (fun c b => (List.range 8).foldl (fun c _ => bit c) (c ^^^ ((BitVec.ofNat 64 b.toNat : BitVec 64) <<< (56 : Nat)))) 0

end Sys2Proof.Machine

namespace Sys2Proof

/-- Word i of a command. -/
def HostCommand.w (c : HostCommand) (i : Nat) : Nat := (c.words.getD i 0).toNat
/-- OP and PART of word 0. -/
def HostCommand.op (c : HostCommand) : Nat := bitsAt (c.w 0) 0 8
def HostCommand.part (c : HostCommand) : Nat := bitsAt (c.w 0) 8 8

/-- The command of a ring entry. -/
def HostCommand.instr (c : HostCommand) : Option Instr :=
  match c.op with
  | 0x01 => some (.partCores c)
  | 0x02 => some (.partMem c)
  | 0x03 => some (.partClr c)
  | 0x04 => some (.partReg c)
  | 0x05 => some (.hndStart c)
  | 0x06 => some (.dmaWin c)
  | 0x07 => some (.peerSet c)
  | 0x08 => some (.grpSet c)
  | 0x09 => some (.fenceClr c)
  | 0x0A => some (.resume c)
  | 0x0B => some (.dieReset c)
  | 0x0C => some (.vfBind c)
  | 0x0D => some (.rateSet c)
  | 0x0E => some (.hostHalt c)
  | _ => none

/-- The CRC of a flit is right. -/
def Flit.crcOk (f : Flit) : Bool :=
  f.words.length == 32 && Machine.crc64 ((f.words.take 31).flatMap (fun w => Machine.leBytes 8 w.toNat)) == f.words.getD 31 0

/-- SEQ and destination partition of a flit. -/
def Flit.seq (f : Flit) : Nat := bitsAt (f.words.getD 0 0).toNat 0 12
def Flit.dest (f : Flit) : Nat := bitsAt (f.words.getD 0 0).toNat 20 7
/-- The remote unit that a flit carries: source core and writes (log 74). -/
def Flit.unit (f : Flit) : Option (Nat × List (Nat × Byte)) := Config.flitUnit f.words

end Sys2Proof

namespace Sys2Proof.Machine

/-! ### Commands and the journal (23 R404 R406) -/

/-- A journal entry: the most recent 2,048 are kept. -/
def State.journal (s : State) (op part src status : Nat) (done : Bool) (a b : Word64) : State :=
  let h := s.hub
  let n := h.jrnSeq + 1
  let xs := h.journal ++ [{ seq := n, op := op, part := part, src := src, status := status, done := done, arg0 := a, arg1 := b }]
  { s with hub := { h with jrnSeq := n, journal := xs.drop (xs.length - 2048) } }

/-- The effect of a command is complete. -/
def State.journalDone (s : State) (n : Nat) : State :=
  { s with hub := { s.hub with journal := s.hub.journal.map (fun (e : JrnEntry) => if e.seq = n then { e with done := true } else e) } }

/-- The bits of word 0 and of the operand words that a command leaves reserved are zero: free i gives the bits of word i that the table assigns. -/
def reservedClear (c : HostCommand) (free : Nat → Nat) : Bool :=
  decide (c.w 0 < 2 ^ 16) && (List.range 7).all (fun i => c.w (i + 1) &&& (2 ^ 64 - 1 - free (i + 1)) == 0)

/-- All bits of a word; its n low bits. -/
def allBits : Nat := 2 ^ 64 - 1
def lowBits (n : Nat) : Nat := 2 ^ n - 1

/-- A HOST COMMAND (23 R404 R406): journalled, refused with the first status that holds, or else its effect takes place and the entry is DONE. -/
def State.command (s : State) (op : Nat) (c : HostCommand) (free : Nat → Nat) (busy bad : Bool) (act : State → State) : State :=
  let st := if !reservedClear c free then 1 else if 95 < c.part then 3 else if busy then 4 else if bad then 6 else 0
  let s := s.journal op c.part 0x1FF st (st != 0) (c.words.getD 1 0) (c.words.getD 2 0)
  if st ≠ 0 then s else (act s).journalDone s.hub.jrnSeq

/-- A ring entry whose OP is unassigned: journalled as such (23 R406). -/
def State.unknownCommand (s : State) (c : HostCommand) : State :=
  s.journal c.op c.part 0x1FF (if 2 ^ 16 ≤ c.w 0 then 1 else 2) true (c.words.getD 1 0) (c.words.getD 2 0)

/-- The device reads the ring entry at HEAD, where one is pending and Griwell runs (23 R403). -/
def State.ringPop (s : State) : Option (HostCommand × State) :=
  let h := s.hub
  if !h.ready || h.head = h.tail then none else some (mgetD h.ring h.head ⟨[]⟩, { s with hub := { h with head := (h.head + 1) % 64 } })

/-! ### Partitions (23 R398-R401 R407) -/

/-- A launch other than the handler launch runs in a partition. -/
def Partition.runs (p : Partition) : Bool := !p.launches.isEmpty

/-- The other partitions. -/
def State.others (s : State) (part : Nat) : List Partition := (s.parts.filter (fun x => x.1 != part)).map Prod.snd

/-- Cores that two mask words name. -/
def maskCores (a b : Nat) : List Nat := (List.range 64).filter (fun i => bitAt a i) ++ ((List.range 32).filter (fun i => bitAt b i)).map (fun i => 64 + i)

/-- The four 16-bit fields of a word. -/
def fields16 (w : Nat) : List Nat := (List.range 4).map (fun d => bitsAt w (16 * d) 16)

/-- A core leaves its partition (23 R400): the system bank there stops with what it has in flight, and no table or line of the partition stays. -/
def State.leaveCore (s : State) (k : Nat) : State :=
  let c := s.core k
  let s : State := { s with banks := s.banks.filter (fun x => bankCore x.1 != k), reqs := s.reqs.filter (fun r => r.site.core != k) }
  s.setCore k { fenced := c.fenced, step := c.step }

/-- PART_CORES (23 R398 R399 R400 R404): a core may leave while the handler launch alone uses it. -/
def execPartCores (c : HostCommand) (s : State) : Host.Outcome State Fault Refusal :=
  let p := s.part c.part
  let cs := maskCores (c.w 1) (c.w 2)
  let bw := fields16 (c.w 3)
  let oth := s.others c.part
  let gone := p.cores.filter (fun k => !cs.contains k)
  let busy := gone.any (fun k => (s.core k).lk.isSome) || (p.runs && bw != p.bw)
  let bad := cs.any (fun k => oth.any (fun q => q.cores.contains k)) || bw.any (fun x => decide (256 < x)) ||
    (List.range 4).any (fun d => decide (256 < bw.getD d 0 + (oth.map (fun q => q.bw.getD d 0)).sum))
  let free (i : Nat) : Nat := match i with
    | 1 => allBits
    | 2 => lowBits 32
    | 3 => lowBits 9 * (1 + 2 ^ 16 + 2 ^ 32 + 2 ^ 48)
    | _ => 0
  .next (s.command 0x01 c free busy bad (fun s =>
    let p := s.part c.part
    (gone.foldl State.leaveCore s).setPart c.part { p with cores := cs, bw := bw, sites := p.sites.filter (fun x => !gone.contains x.site.core) }))

/-- PART_MEM (23 R398 R401 R404). -/
def execPartMem (c : HostCommand) (s : State) : Host.Outcome State Fault Refusal :=
  let p := s.part c.part
  let oth := s.others c.part
  let masks := [c.w 1, c.w 2, c.w 3, c.w 4]
  let size := fields16 (c.w 5)
  let base := fields16 (c.w 6)
  let gb := 2 ^ 30
  let lo (d : Nat) : Nat := d * 2 ^ 38 + base.getD d 0 * gb
  let len (d : Nat) : Nat := size.getD d 0 * gb
  let ds := List.range 4
  let busy := p.runs && ds.any (fun d => p.shareS.getD d 0 != 0 && (p.shareS.getD d 0 != len d || p.shareB.getD d 0 != lo d || p.slices.getD d 0 != masks.getD d 0))
  let bad := ds.any (fun d =>
    decide (192 < base.getD d 0 + size.getD d 0) || (size.getD d 0 != 0 && masks.getD d 0 == 0) ||
    oth.any (fun q => overlap (lo d) (len d) (q.shareB.getD d 0) (q.shareS.getD d 0) || (masks.getD d 0 &&& q.slices.getD d 0) != 0))
  let free (i : Nat) : Nat := if 1 ≤ i ∧ i ≤ 6 then allBits else 0
  .next (s.command 0x02 c free busy bad (fun s => s.setPart c.part { s.part c.part with slices := masks, shareB := ds.map lo, shareS := ds.map len }))

/-- PART_CLR (23 R400): every launch is killed, the handler launch included, and the partition's resources return; the records in its fault queue are kept
(21 R376). -/
def execPartClr (c : HostCommand) (s : State) : Host.Outcome State Fault Refusal :=
  .next (s.command 0x03 c (fun _ => 0) false false (fun s =>
    let n := c.part
    let s := ((s.part n).launches.map Prod.fst).foldl (fun s lid => s.kill (n * 65536 + lid)) s
    let s := s.kill (n * 65536)
    let s := (s.part n).cores.foldl State.leaveCore s
    let fq := (s.part n).fq
    { s with parts := if fq.isEmpty then mdel s.parts n else mset s.parts n { fq := fq } }))

/-- The registers that PART_REG writes (18 R320, 20 R356). -/
def regWritable (i v : Nat) : Bool :=
  (i == 0x020 && decide (4 ≤ bitsAt v 20 4 ∧ bitsAt v 20 4 ≤ 12)) || i == 0x021 || i == 0x023 || i == 0x100 || i == 0x102

/-- Write one of them; EN is the device's own. -/
def Partition.regWrite (p : Partition) (i v : Nat) : Partition :=
  match i with
  | 0x020 => { p with fqlog := bitsAt v 20 4, hcore := bitsAt v 0 7 }
  | 0x021 => { p with fqBase := BitVec.ofNat 64 v }
  | 0x023 => { p with hndMsg := BitVec.ofNat 64 v }
  | 0x100 => { p with rdirBase := v }
  | _ => { p with rdirCap := v % 2 ^ 32 }

/-- PART_REG (23 R404). -/
def execPartReg (c : HostCommand) (s : State) : Host.Outcome State Fault Refusal :=
  .next (s.command 0x04 c (fun i => if i = 1 ∨ i = 2 then allBits else 0) false (!regWritable (c.w 1) (c.w 2))
    (fun s => s.setPart c.part ((s.part c.part).regWrite (c.w 1) (c.w 2))))

/-- An image that may be the handler launch's: acceptable to the graph loader, no launch packet among its records (18 R312). -/
def handlerImageOk (m : Memory) (p : Partition) (img : Nat) : Bool :=
  img % 64 == 0 && inShare p img 64 && inShare p img (imgLen m img) && imageOk m img && imgField m img 0x28 4 == 0

/-- HND_START (18 R312 R320, 23 R404): the handler launch starts, and faults are diverted from now on. -/
def execHndStart (c : HostCommand) (s : State) : Host.Outcome State Fault Refusal :=
  let p := s.part c.part
  let img := c.w 1
  let bad := p.handler.isSome || decide (p.fqlog < 4 ∨ 12 < p.fqlog) || p.fqBase.toNat % (64 * 2 ^ p.fqlog) != 0 || !handlerImageOk s.mem p img
  .next (s.command 0x05 c (fun i => if i = 1 then allBits else 0) false bad (fun s =>
    let p := s.part c.part
    let l : Launch := { lid := 0, img := img, size := variantFor s.mem img p.cores.length 0, cores := p.cores }
    let s := s.setPart c.part { p with en := true, handler := some l, fser := 0 }
    p.cores.foldl (fun s k => s.configCore (c.part * 65536) k (s.injOf (c.part * 65536) k)) s))

/-- DMA_WIN (23 R410). -/
def execDmaWin (c : HostCommand) (s : State) : Host.Outcome State Fault Refusal :=
  let free (i : Nat) : Nat := if i = 4 then 3 else if 1 ≤ i ∧ i ≤ 3 then allBits else 0
  .next (s.command 0x06 c free false (decide (15 < c.w 1)) (fun s =>
    let p := s.part c.part
    s.setPart c.part { p with dma := mset p.dma (c.w 1) (c.w 2, c.w 3, bitAt (c.w 4) 0, bitAt (c.w 4) 1) }))

/-- PEER_SET (23 R404): a peer-table entry; its ports are the partition's from then on, and no port has two partitions (23 R398). -/
def execPeerSet (c : HostCommand) (s : State) : Host.Outcome State Fault Refusal :=
  let mask := BitVec.ofNat 16 (bitsAt (c.w 2) 0 16)
  let bad := decide (c.w 1 < 1 ∨ 255 < c.w 1) || (s.others c.part).any (fun q => q.ports &&& mask != 0)
  .next (s.command 0x07 c (fun i => if i = 1 then allBits else if i = 2 then lowBits 39 else 0) false bad (fun s =>
    let p := s.part c.part
    let s := s.setPart c.part { p with ports := p.ports ||| mask }
    { s with hub := { s.hub with peers := mset s.hub.peers (c.w 1) (bitsAt (c.w 2) 0 16, bitsAt (c.w 2) 16 16, bitsAt (c.w 2) 32 7) } }))

/-- The member list of a collective group at a device address (23 R413): G, r, and peer and core of each rank. -/
def memberList (m : Memory) (a : Nat) : Nat × Nat × List (Nat × Nat) :=
  let g := bitsAt (word64 m a) 0 8
  (g, bitsAt (word64 m a) 8 8, (List.range g).map (fun i => let w := word64 m (a + 8 * (i + 1)); (bitsAt w 0 8, bitsAt w 8 7)))

/-- The list is in order: alignment, G, r, a peer for every rank, zeros elsewhere. -/
def State.groupOk (s : State) (a : Nat) : Bool :=
  let (g, r, ms) := memberList s.mem a
  a % 64 == 0 && decide (a % 2 ^ 38 + 64 * ((g + 8) / 8) ≤ 192 * 2 ^ 30 ∧ a < 2 ^ 40 ∧ 1 ≤ g ∧ g ≤ 56 ∧ r < g) && word64 s.mem a / 2 ^ 16 == 0 &&
  (List.range g).all (fun i => word64 s.mem (a + 8 * (i + 1)) / 2 ^ 15 == 0) &&
  (List.range (8 * ((g + 1 + 7) / 8))).all (fun i => decide (i ≤ g) || word64 s.mem (a + 8 * i) == 0) &&
  ms.all (fun x => x.1 == 0 || (mget s.hub.peers x.1).isSome)

/-- GRP_SET (23 R413). -/
def execGrpSet (c : HostCommand) (s : State) : Host.Outcome State Fault Refusal :=
  .next (s.command 0x08 c (fun i => if i = 1 ∨ i = 2 then allBits else 0) false (decide (255 < c.w 1) || !s.groupOk (c.w 2)) (fun s =>
    { s with hub := { s.hub with groups := mset s.hub.groups (c.w 1) (memberList s.mem (c.w 2)) } }))

/-- FENCE_CLR (23 R404). -/
def execFenceClr (c : HostCommand) (s : State) : Host.Outcome State Fault Refusal :=
  .next (s.command 0x09 c (fun i => if i = 1 then allBits else 0) false (decide (95 < c.w 1)) (fun s => s.setCore (c.w 1) { s.core (c.w 1) with fenced := false }))

/-- RESUME (18 R334, 23 R404). -/
def execResume (c : HostCommand) (s : State) : Host.Outcome State Fault Refusal :=
  .next (s.command 0x0A c (fun _ => 0) false false (fun s => s.setPart c.part { s.part c.part with halted := false, haltAt := [] }))

/-- HALT by the host (23 R404). -/
def execHostHalt (c : HostCommand) (s : State) : Host.Outcome State Fault Refusal := .next (s.command 0x0E c (fun _ => 0) false false (fun s => s.halt c.part))

/-- VF_BIND (23 R404). -/
def execVfBind (c : HostCommand) (s : State) : Host.Outcome State Fault Refusal :=
  let bad := decide (383 < c.w 1) || !(decide (c.w 2 ≤ 95) || c.w 2 == 0xFF)
  .next (s.command 0x0C c (fun i => if i = 1 ∨ i = 2 then allBits else 0) false bad (fun s =>
    { s with hub := { s.hub with vfs := if c.w 2 = 0xFF then mdel s.hub.vfs (c.w 1) else mset s.hub.vfs (c.w 1) (c.w 2) } }))

/-- A Tilhorn port. -/
def State.port (s : State) (n : Nat) : Port := mgetD s.hub.ports n {}
/-- Store a port. -/
def State.setPort (s : State) (n : Nat) (x : Port) : State := { s with hub := { s.hub with ports := mset s.hub.ports n x } }

/-- RATE_SET (23 R404 R412). -/
def execRateSet (c : HostCommand) (s : State) : Host.Outcome State Fault Refusal :=
  let bad := decide (15 < c.w 1 ∨ c.w 2 < 1 ∨ 224 < c.w 2)
  .next (s.command 0x0D c (fun i => if i = 1 ∨ i = 2 then allBits else 0) false bad (fun s => s.setPort (c.w 1) { s.port (c.w 1) with rate := c.w 2 }))

/-! ### Pushes (23 R402, 19 R338 R339) -/

/-- VF_LAUNCH_DOORBELL (23 R402): a host push into a queue of the bound partition, journalled whether accepted or refused. -/
def execVfLaunchDoorbell (vf queue addr : Nat) (s : State) : Host.Outcome State Fault Refusal :=
  if 384 ≤ vf ∨ 64 ≤ queue then .next s
  else
    let log (s : State) (part st : Nat) : State := s.journal 0x80 part vf st true (BitVec.ofNat 64 addr) (BitVec.ofNat 64 queue)
    match mget s.hub.vfs vf with
    | none => .next (log s 0xFF 6)
    | some part =>
      if addr % 128 ≠ 0 ∨ inShare (s.part part) addr 128 = false then .next (log s part 6)
      else
        match s.acceptPacket part queue (packetWords (readBytes s.mem addr 128)) (some addr) (some vf) false with
        | .ok t => .next (log t part 0)
        | .error e => .next (log s part e)

/-! ### Dies (23 R408 R409) -/

/-- An access has a line on a die. -/
def Req.onDie (r : Req) (d : Nat) : Bool := r.parts.any (fun p => p.space == .dev && dieOfAddr p.addr == d)

/-- Change a die. -/
def State.setDie (s : State) (d : Nat) (f : Die → Die) : State := { s with dies := s.dies.modify d f }

/-- DIE_RESET (23 R408): the die stops admitting requests, its regions are killed, and a partition whose handler tile stands there halts. -/
def execDieReset (c : HostCommand) (s : State) : Host.Outcome State Fault Refusal :=
  let d := c.w 1
  let here (k : Nat) : Bool := dieOfCore k == d
  let on (x : Die) : Bool := x.st == 0
  let bad := !(s.dies[d]?).any on || decide ((s.dies.filter on).length ≤ 1)
  let st := if !reservedClear c (fun i => if i = 1 then allBits else 0) then 1 else if 95 < c.part then 3 else if bad then 6 else 0
  let s := s.journal 0x0B c.part 0x1FF st (st != 0) (c.words.getD 1 0) (c.words.getD 2 0)
  if st ≠ 0 then .next s
  else
    let s := s.setDie d (fun x => { x with st := 1, onl := false, since := s.fc, jrn := s.hub.jrnSeq })
    let s := { s with reqs := s.reqs.map (fun (r : Req) => if r.onDie d then { r with admitted := true } else r) }
    let lks := s.parts.flatMap (fun (n, p) => (p.launches.filter (fun x => x.2.cores.any here)).map (fun x => n * 65536 + x.1))
    let s := lks.foldl (fun s lk => s.finish lk 1) s
    .next ((s.parts.filter (fun x => !x.2.cores.isEmpty && here x.2.hcore)).foldl (fun s x => s.halt x.1) s)

/-- DIE_WRITEBACK_DONE (23 R408): the requests admitted have been answered and the dirty lines stand in DRAM. -/
def execDieWritebackDone (die : Nat) (s : State) : Host.Outcome State Fault Refusal :=
  let left := s.reqs.any (fun r => r.admitted && r.onDie die && !r.arrived)
  if !(s.dies[die]?).any (fun x => x.st == 1) || left then .next s else .next (s.setDie die (fun x => { x with st := 2, since := s.fc }))

/-- Something is outstanding for a die: a request, or a unit of a complete cut. -/
def State.outstanding (s : State) (die : Nat) : Bool :=
  s.reqs.any (fun r => r.onDie die && !r.arrived) || s.units.any (fun a => a.space == .dev && dieOfAddr a.addr == die && decide (a.round < s.cutOf a.lk a.core))

/-- DIE_RETRAIN_START (23 R408): 1 ms, which is 850,000 fc (00 R6), after OFFLINE, or at once when nothing is outstanding; the die's cores, slices and nodes
reset, its fetch caches are empty. -/
def execDieRetrainStart (die : Nat) (s : State) : Host.Outcome State Fault Refusal :=
  if !(s.dies[die]?).any (fun x => x.st == 2 && (decide (x.since + 850000 ≤ s.fc) || !s.outstanding die)) then .next s
  else
    let away (k : Nat) : Bool := dieOfCore k != die
    let s := s.setDie die (fun x => { x with st := 3, since := s.fc })
    .next {
      s with
      banks := s.banks.filter (fun x => away (bankCore x.1))
      ctiles := s.ctiles.filter (fun x => away (x.1 / 16))
      mtiles := s.mtiles.filter (fun x => away (x.1 / 16))
      cores := s.cores.map (fun (k, (c : Core)) => (k, if away k then c else { lk := c.lk, fenced := c.fenced, pass := c.pass, inj := c.inj, sysEff := c.sysEff })) }

/-- DIE_RETRAIN_DONE (23 R408): the die is ONLINE and its command DONE; DIE_STAT shows it from the next system marker on. -/
def execDieRetrainDone (die : Nat) (s : State) : Host.Outcome State Fault Refusal :=
  match s.dies[die]? with
  | none => .next s
  | some x =>
    if x.st ≠ 3 then .next s
    else
      let quiet := s.parts.all (fun p => p.2.handler.isNone)
      .next ((s.setDie die (fun x => { x with st := 0, onl := quiet })).journalDone x.jrn)

/-- Every port to a peer is down (23 R411). -/
def State.peerDown (s : State) (p : Nat) : Bool :=
  match mget s.hub.peers p with
  | some (mask, _, _) => (List.range 16).all (fun i => !bitAt mask i || (s.port i).down)
  | none => true

/-- A part meets an error reply: its die is not online and the request came after that, or its peer cannot be reached. -/
def State.partLost (s : State) (admitted : Bool) (sp : Space) (a : Nat) : Bool :=
  match sp with
  | .dev => !admitted && (s.dies[dieOfAddr a]?).any (fun d => d.st != 0)
  | .peer p => s.peerDown p
  | .host => false
  | .tile _ _ => false

/-- An error reply to a unit: it is refused whole, with a notice for each write and operation, and the rest of the round commits, the operations that were performed
on arrival among it (23 R409, 13 R283). -/
def State.replyUnit (s : State) (a : Arrival) : State :=
  let slice := s.sliceOf (lkPart a.lk) a.addr
  let mine (x : Arrival) : Bool := x.lk == a.lk && x.round == a.round && (lkLid a.lk != 0 || x.core == a.core) &&
    (match a.space with
     | .dev => s.atSlice x slice
     | sp => x.space == sp && x.core == a.core)
  let gone := s.units.filter mine
  let here := match a.space with
    | .dev => s.undone.filter (fun x => mine x && !x.plain)
    | _ => []
  let s := here.foldl State.commitLogged { s with units := s.units.filter (fun x => !mine x) }
  let s := gone.foldl (fun s x => s.faultNow x fDieOffline x.addr) s
  let s := match a.space with
    | .dev => { s with applied := mset s.applied (appliedKey a.lk a.core slice) (a.round + 1) }
    | .peer p => { s with remoteUnits := s.remoteUnits.filter (fun u => u != (⟨p, a.lk, a.core, a.round⟩ : RemoteUnit)) }
    | _ => s
  s.wake

/-- ERROR_REPLY (23 R409 R411): to the request of this identity, or to the unit whose write or operation has it. -/
def execErrorReply (id : Nat) (s : State) : Host.Outcome State Fault Refusal :=
  match s.reqs.find? (fun r => r.id == id && !r.arrived) with
  | some r =>
    match r.parts.find? (fun p => s.partLost r.admitted p.space p.addr) with
    | some p => .next (s.replyAccess r fDieOffline p.addr p.prog)
    | none => .next s
  | none =>
    match s.units.find? (fun a => a.seq == id && decide (a.round < s.cutOf a.lk a.core) && s.partLost false a.space a.addr) with
    | some a => .next (s.replyUnit a)
    | none => .next s

/-! ### CXL (13 R291 R292) -/

/-- The range entry, in some partition's directory, whose device memory holds an address. -/
def State.rangeAt (s : State) (a : Nat) : Option (Nat × List Nat) :=
  s.parts.findSome? (fun (n, p) => ((List.range p.rdirCnt).map (dirEntry s p)).findSome? (fun w =>
    if !entBit w atHOST && entRdev w == 0 && decide ((entBase w + entOffset w) % 2 ^ 64 ≤ a ∧ a < (entLimit w + entOffset w) % 2 ^ 64) then some (n, w) else none))

/-- A range is being flipped or moved. -/
def State.flipping (s : State) (part : Nat) (w : List Nat) : Bool :=
  (s.part part).rcmds.any (fun r => r.phase == 1 && (r.cmd.op == 0xBE || r.cmd.op == 0xBF) && entHas w r.base)

/-- A write of the host or of a peer is applied at its home as a unit of its own (13 R288 R291); under a bound trace, one to an ordered-shared line is no unit of
the trace (13 R285). -/
def State.outerWrite (s : State) (addr : Nat) (bs : List Byte) : State :=
  let t := s.homeWrite .dev addr bs
  match s.rangeAt addr with
  | some (n, w) => if entBit w atOSH && (s.part n).trcMode == 2 then t.diverge n 0 else t
  | none => t

/-- HOST_CXL_ACCESS (13 R291): in host bias the host may keep the line in its own cache, with what it writes there; in device bias it caches nothing, reads
applied state and writes at once. An access to a range that a flip is changing waits; one to a die that is not online gets an error reply and has no effect (13 R287). -/
def execHostCxlAccess (a : HostAccess) (s : State) : Host.Outcome State Fault Refusal :=
  let line := a.addr / 64 * 64
  let off : Bool := (s.dies[dieOfAddr a.addr]?).any (fun (d : Die) => d.st != 0)
  if off || decide (a.size = 0 ∨ line + 64 < a.addr + a.size ∨ 2 ^ 40 ≤ a.addr ∨ 192 * 2 ^ 30 ≤ a.addr % 2 ^ 38) then .next s
  else
    let range := s.rangeAt a.addr
    if range.any (fun x => s.flipping x.1 x.2) then .next s
    else if range.any (fun x => entBit x.2 atBIAS) && a.caches then
      let now : Payload := (mget s.hostLines line).getD (lineAt s.mem line)
      let bytes := writeBytes (writeBytes [] line (leBytes 64 now.toNat)) a.addr (leBytes a.size a.data.toNat)
      .next { s with hostLines := mset s.hostLines line (if a.write then lineAt bytes line else now) }
    else if a.write then
      let s := match mget s.hostLines line with
        | some v => { s.homeWrite .dev line (leBytes 64 v.toNat) with hostLines := mdel s.hostLines line }
        | none => s
      .next (s.outerWrite a.addr (leBytes a.size a.data.toNat)).wake
    else .next s

/-- HOST_CXL_REPLY (13 R291): the host answers a coherent read, or takes the oldest unit of device writes of its launch and acknowledges it. -/
def execHostCxlReply (id : Nat) (s : State) : Host.Outcome State Fault Refusal :=
  match s.hostReqs.find? (fun x => x.1 == id) with
  | some (_, a) =>
    let mine (x : Nat × Arrival) : Bool := x.1 == id
    let first := (s.hostReqs.find? (fun x => x.2.lk == a.lk && (lkLid a.lk != 0 || x.2.core == a.core))).any mine
    if !first then .next s
    else
      let xs := writeOrder (s.ordOf a.lk) ((s.hostReqs.filter mine).map Prod.snd)
      .next (xs.foldl (fun (s : State) x => s.performOp true x) { s with hostReqs := s.hostReqs.filter (fun x => !mine x) }).wake
  | none =>
    match s.reqs.find? (fun r => r.id == id && r.op.isNone && r.ofHost) with
    | some r => .next (s.serveReq r)
    | none => .next s

/-! ### Boot and trust (23 R403 R415-R417) -/

/-- A 32-bit field of the boot image. -/
def bootField (m : Memory) (o : Nat) : Nat := leNat (readBytes m o 4)

/-- The magic and the lengths of the boot image are those of R415. -/
def bootHeaderOk (m : Memory) (len : Nat) : Bool :=
  bootField m 0 == 0x47525749 && bootField m 8 == len && decide (256 ≤ len ∧ len ≤ 2 ^ 21 ∧ bootField m 0x10 ≤ 2 ^ 20) &&
  decide (bootField m 0x0C + bootField m 0x10 ≤ len ∧ bootField m 0x14 + bootField m 0x18 ≤ len ∧ bootField m 0x1C + bootField m 0x20 ≤ len)

/-- BOOT_GO (23 R403): a write of BOOT_CTL with GO starts verification, unless one runs or Griwell does. -/
def execBootGo (value : BitVec 64) (s : State) : Host.Outcome State Fault Refusal :=
  let h := s.hub
  if !(h.bstate == 0 || h.bstate == 3) || !value.getLsbD 63 then .next s
  else .next { s with hub := { h with bstate := 1, len := bitsAt value.toNat 0 22, reason := 0 } }

/-- BOOT_VERIFY_DONE (23 R415 R416): the image is refused with its reason, or Griwell runs with the alias key. -/
def execBootVerifyDone (s : State) : Host.Outcome State Fault Refusal :=
  let h := s.hub
  let refuse (r : Nat) : Host.Outcome State Fault Refusal := .next { s with hub := { h with bstate := 3, reason := r } }
  if h.bstate ≠ 1 then .next s
  else if !bootHeaderOk h.bootWin h.len then refuse 1
  else if !Config.signatureOk h.bootWin h.len then refuse 2
  else if !Config.certificateOk h.bootWin h.len then refuse 3
  else if !Config.configRecordOk h.bootWin h.len then refuse 4
  else .next { s with hub := { h with bstate := 2, ready := true, image := h.bootWin, imageLen := h.len, aliasKey := Config.aliasKey h.bootWin h.len } }

/-- COLD_BOOT (23 R415): everything the device holds is as at reset; what the host and the peers hold is theirs. -/
def execColdBoot (s : State) : Host.Outcome State Fault Refusal :=
  .next { State.reset with hostMem := s.hostMem, peerMem := s.peerMem, tick := s.tick, nid := s.nid }

/-- GET_MEASUREMENTS (23 R417): the ROM, the Griwell image with its SVN, the configuration record, and the signature under the alias key. -/
def execGetMeasurements (s : State) : Host.Outcome State Fault Refusal :=
  let h := s.hub
  if h.bstate ≠ 2 then .next s
  else
    let d (i : Nat) : BitVec 512 := Config.digest i h.image h.imageLen
    let ms := [d 1, d 2, BitVec.ofNat 512 (bootField h.image 4), d 3]
    .next { s with hub := { h with measured := ms ++ [Config.sign h.aliasKey ms] } }

/-! ### Tilhorn Link (23 R411) -/

/-- The destination partition of a flit stands on the port and owns what the flit touches (23 R411). -/
def State.takesFlit (s : State) (port : Nat) (f : Flit) : Bool :=
  (s.part f.dest).ports.getLsbD port && f.unit.all (fun u => u.2.all (fun x => inShare (s.part f.dest) x.1 1))

/-- The oldest remote unit of a core of a peer among the flits that have been taken (13 R288): its port, its flit, its writes. -/
def State.incoming (s : State) (peer core : Nat) : Option (Nat × Flit × List (Nat × Byte)) :=
  (List.range 16).findSome? (fun n =>
    if bitAt (((mget s.hub.peers peer).map Prod.fst).getD 0) n then
      (s.port n).rx.findSome? (fun f => f.unit.bind (fun u => if u.1 = core then some (n, f, u.2) else none))
    else none)

/-- The device applies a remote unit of a peer, whole (13 R288). -/
def State.applyIncoming (s : State) (peer core : Nat) : State :=
  match s.incoming peer core with
  | none => s
  | some (n, f, ws) =>
    let p := s.port n
    (ws.foldl (fun s x => s.outerWrite x.1 [x.2]) (s.setPort n { p with rx := p.rx.erase f })).wake

/-- REMOTE_UNIT_APPLY (13 R288): a peer applies the oldest remote unit of a core of this package at every slice, and acknowledges it, which ends the run of
replays of its ports (23 R411); or the device applies the oldest that it has received from the peer's core. -/
def execRemoteUnitApply (peer core : Nat) (s : State) : Host.Outcome State Fault Refusal :=
  match s.remoteUnits.find? (fun x => x.peer == peer && x.core == core) with
  | none => .next (s.applyIncoming peer core)
  | some u =>
    let mine (a : Arrival) : Bool := a.space == .peer peer && a.lk == u.lk && a.core == core && a.round == u.round
    let s := (writeOrder (s.ordOf u.lk) (s.units.filter mine)).foldl State.commitOp { s with
      units := s.units.filter (fun a => !mine a), remoteUnits := s.remoteUnits.filter (fun x => x != u) }
    let sound := fun (x : Nat × Port) => if bitAt (((mget s.hub.peers peer).map Prod.fst).getD 0) x.1 then (x.1, { x.2 with fails := 0 }) else x
    .next ({ s with hub := { s.hub with ports := s.hub.ports.map sound } }).wake

/-- FLIT_RECEIVE (23 R411): a flit whose CRC fails is negatively acknowledged; the next flit in order is acknowledged, and taken when its destination
partition stands on the port and owns what it touches. -/
def execFlitReceive (port : Nat) (flit : Flit) (s : State) : Host.Outcome State Fault Refusal :=
  let p := s.port port
  if 16 ≤ port ∨ p.down then .next s
  else if !flit.crcOk then .next (s.setPort port { p with acks := p.acks ++ [(p.rxSeq, false)] })
  else if flit.seq ≠ p.rxSeq then .next s
  else
    let mine := s.takesFlit port flit
    .next (s.setPort port {
      p with rxSeq := (p.rxSeq + 1) % 4096, acks := p.acks ++ [(flit.seq, true)], rx := if mine then p.rx ++ [flit] else p.rx })

/-- FLIT_REPLAY (23 R411): a negative acknowledgement starts a replay; that of the eighth replay in a row takes the port down. -/
def execFlitReplay (port : Nat) (s : State) : Host.Outcome State Fault Refusal :=
  let p := s.port port
  if 16 ≤ port ∨ p.down then .next s
  else if 8 ≤ p.fails then .next (s.setPort port { p with down := true })
  else .next (s.setPort port { p with fails := p.fails + 1 })

/-! ### The management core, power and scrub (23 R414 R418) -/

/-- THERMAL_CLAMP (23 R414): at the clamp the tiles skip fc; at the limit every partition halts with a machine check. -/
def execThermalClamp (level : ThermalLevel) (s : State) : Host.Outcome State Fault Refusal :=
  let s := { s with hub := { s.hub with thermal := level } }
  match level with
  | .limit => .next ((s.parts.map Prod.fst).foldl (fun s n => s.halt n) s)
  | .clamp => .next s
  | .normal => .next s

/-- MGMT_CORE_RESET (23 R414): the ring is read again from the first entry without DONE. -/
def execMgmtCoreReset (s : State) : Host.Outcome State Fault Refusal :=
  let h := s.hub
  let pf0 := h.journal.filter (fun e => e.src == 0x1FF)
  let back := (pf0.dropWhile (fun e => e.done)).length
  .next { s with hub := { h with head := (h.head + 64 - back % 64) % 64 } }

/-- PATROL_SCRUB (23 R418, 21 R388): a corrected line is written back with the value it has, unless a round stages it; nothing visible changes. -/
def execPatrolScrub (u : ScrubUnit) (s : State) : Host.Outcome State Fault Refusal :=
  match u with
  | .memoryTile core tile line =>
    let k := tileKey core tile
    let m := s.mtile k
    if m.stage.any (fun a => a.addr / 64 == line) ∨ (mget s.mtiles k).isNone then .next s
    else .next (s.setMtile k { m with bytes := writeBytes m.bytes (64 * line) (readBytes m.bytes (64 * line) 64) })
  | .slice addr =>
    let line := addr / 64 * 64
    if s.units.any (fun a => a.space == .dev && a.addr / 64 * 64 == line) then .next s
    else .next { s with mem := writeBytes s.mem line (readBytes s.mem line 64) }

end Sys2Proof.Machine
end

