-- ==== Sys2Proof/Machine/LaneOps.lean ====
section
/-! DEFINITION. The lane instructions (07 R183-R185). -/

namespace Sys2Proof.Machine

/-- VBCAST (07 R183). -/
def execVbcast (o : OpA) (s : State) : Host.Outcome State Fault Refusal :=
  .next (s.arith o false 1 false false true (vbcastValue o))

/-- VEXTR (07 R183). -/
def execVextr (o : OpA) (s : State) : Host.Outcome State Fault Refusal :=
  .next (s.arith o false 1 (!o.i) false false (vextrValue o))

/-- VINS (07 R183). -/
def execVins (o : OpA) (s : State) : Host.Outcome State Fault Refusal :=
  .next (s.arith o false 1 true false true (vinsValue o))

/-- VPERM (07 R183). -/
def execVperm (o : OpA) (s : State) : Host.Outcome State Fault Refusal :=
  .next (s.arith o false 1 true false true (vpermValue o))

/-- VSHUF (07 R183). -/
def execVshuf (o : OpA) (s : State) : Host.Outcome State Fault Refusal :=
  .next (s.arith o false 1 true true true (fun x _ => vshufValue o x))

/-- VROT (07 R183). -/
def execVrot (o : OpA) (s : State) : Host.Outcome State Fault Refusal :=
  .next (s.arith o false 1 (!o.i) false true (vrotValue o))

/-- VSLIDE (07 R183). -/
def execVslide (o : OpA) (s : State) : Host.Outcome State Fault Refusal :=
  .next (s.arith o false 1 true false true (vslideValue o))

/-- VZIP (07 R183). -/
def execVzip (o : OpA) (s : State) : Host.Outcome State Fault Refusal :=
  .next (s.arith o false 1 true false true (vzipValue o))

/-- VUNZIP (07 R183). -/
def execVunzip (o : OpA) (s : State) : Host.Outcome State Fault Refusal :=
  .next (s.arith o false 1 true false true (vunzipValue o))

/-- VRADD (07 R185). -/
def execVradd (o : OpA) (s : State) : Host.Outcome State Fault Refusal :=
  .next (s.arith o false (treeLatency o s) false false false (reduceValue 0x69 o))

/-- VRMIN (07 R185). -/
def execVrmin (o : OpA) (s : State) : Host.Outcome State Fault Refusal :=
  .next (s.arith o false (treeLatency o s) false false false (reduceValue 0x6A o))

/-- VRMAX (07 R185). -/
def execVrmax (o : OpA) (s : State) : Host.Outcome State Fault Refusal :=
  .next (s.arith o false (treeLatency o s) false false false (reduceValue 0x6B o))

/-- VRAND (07 R185). -/
def execVrand (o : OpA) (s : State) : Host.Outcome State Fault Refusal :=
  .next (s.arith o false (treeLatency o s) false false false (reduceValue 0x6C o))

/-- VRIOR (07 R185). -/
def execVrior (o : OpA) (s : State) : Host.Outcome State Fault Refusal :=
  .next (s.arith o false (treeLatency o s) false false false (reduceValue 0x6D o))

/-- VCOMPR (07 R183 R184). -/
def execVcompr (o : OpA) (s : State) : Host.Outcome State Fault Refusal :=
  .next (s.arith o false 1 true false true (vcomprValue o))

/-- VEXPND (07 R183 R184). -/
def execVexpnd (o : OpA) (s : State) : Host.Outcome State Fault Refusal :=
  .next (s.arith o false 1 true false true (vexpndValue o))

/-- VPCNT (07 R183). -/
def execVpcnt (o : OpA) (s : State) : Host.Outcome State Fault Refusal :=
  .next (s.arith o false 1 false false false vpcntValue)

/-- VMASK (07 R183). -/
def execVmask (o : OpA) (s : State) : Host.Outcome State Fault Refusal :=
  .next (s.arith o false 1 false false true (vmaskValue o))


end Sys2Proof.Machine
end

