-- ==== Sys2Proof/Machine/Dispatch.lean ====
section
/-! DEFINITION. The meaning of every instruction: one arm for each constructor. -/

namespace Sys2Proof.Machine

/-- What an instruction does. -/
def exec (i : Instr) (s : State) : Host.Outcome State Fault Refusal :=
  match i with
  | .steer o => Sys2Proof.Machine.execSteer o s
  | .merge o => Sys2Proof.Machine.execMerge o s
  | .carry o => Sys2Proof.Machine.execCarry o s
  | .invar o => Sys2Proof.Machine.execInvar o s
  | .fanout o => Sys2Proof.Machine.execFanout o s
  | .drop o => Sys2Proof.Machine.execDrop o s
  | .ordf o => Sys2Proof.Machine.execOrdf o s
  | .ordj o => Sys2Proof.Machine.execOrdj o s
  | .gateCreditFiring o => Sys2Proof.Machine.execGateCreditFiring o s
  | .gatePassFiring o => Sys2Proof.Machine.execGatePassFiring o s
  | .countLFiring o => Sys2Proof.Machine.execCountLFiring o s
  | .countPFiring o => Sys2Proof.Machine.execCountPFiring o s
  | .repeatCopies o => Sys2Proof.Machine.execRepeat o s
  | .const o => Sys2Proof.Machine.execConst o s
  | .exit o => Sys2Proof.Machine.execExit o s
  | .exitp o => Sys2Proof.Machine.execExitp o s
  | .exitq o => Sys2Proof.Machine.execExitq o s
  | .spawn o => Sys2Proof.Machine.execSpawn o s
  | .retire o => Sys2Proof.Machine.execRetire o s
  | .launch o => Sys2Proof.Machine.execLaunch o s
  | .patch o => Sys2Proof.Machine.execPatch o s
  | .trig o => Sys2Proof.Machine.execTrig o s
  | .qpush o => Sys2Proof.Machine.execQpush o s
  | .qpop o => Sys2Proof.Machine.execQpop o s
  | .crd o => Sys2Proof.Machine.execCrd o s
  | .cwr o => Sys2Proof.Machine.execCwr o s
  | .rmark o => Sys2Proof.Machine.execRmark o s
  | .quiet o => Sys2Proof.Machine.execQuiet o s
  | .quietEmit e => Sys2Proof.Machine.execQuietEmit e s
  | .add o => Sys2Proof.Machine.execAdd o s
  | .sub o => Sys2Proof.Machine.execSub o s
  | .adds o => Sys2Proof.Machine.execAdds o s
  | .subs o => Sys2Proof.Machine.execSubs o s
  | .neg o => Sys2Proof.Machine.execNeg o s
  | .abs o => Sys2Proof.Machine.execAbs o s
  | .mul o => Sys2Proof.Machine.execMul o s
  | .mulh o => Sys2Proof.Machine.execMulh o s
  | .div o => Sys2Proof.Machine.execDiv o s
  | .rem o => Sys2Proof.Machine.execRem o s
  | .min o => Sys2Proof.Machine.execMin o s
  | .max o => Sys2Proof.Machine.execMax o s
  | .and o => Sys2Proof.Machine.execAnd o s
  | .or o => Sys2Proof.Machine.execOr o s
  | .xor o => Sys2Proof.Machine.execXor o s
  | .andn o => Sys2Proof.Machine.execAndn o s
  | .not o => Sys2Proof.Machine.execNot o s
  | .shl o => Sys2Proof.Machine.execShl o s
  | .shr o => Sys2Proof.Machine.execShr o s
  | .sar o => Sys2Proof.Machine.execSar o s
  | .rotl o => Sys2Proof.Machine.execRotl o s
  | .clz o => Sys2Proof.Machine.execClz o s
  | .ctz o => Sys2Proof.Machine.execCtz o s
  | .popc o => Sys2Proof.Machine.execPopc o s
  | .cmp o => Sys2Proof.Machine.execCmp o s
  | .sel o => Sys2Proof.Machine.execSel o s
  | .trunc o => Sys2Proof.Machine.execTrunc o s
  | .bfx o => Sys2Proof.Machine.execBfx o s
  | .bfi o => Sys2Proof.Machine.execBfi o s
  | .addr o => Sys2Proof.Machine.execAddr o s
  | .imad o => Sys2Proof.Machine.execImad o s
  | .bswap o => Sys2Proof.Machine.execBswap o s
  | .fadd o => Sys2Proof.Machine.execFadd o s
  | .fsub o => Sys2Proof.Machine.execFsub o s
  | .fmul o => Sys2Proof.Machine.execFmul o s
  | .fma o => Sys2Proof.Machine.execFma o s
  | .fdiv o => Sys2Proof.Machine.execFdiv o s
  | .fsqrt o => Sys2Proof.Machine.execFsqrt o s
  | .frcp o => Sys2Proof.Machine.execFrcp o s
  | .frsq o => Sys2Proof.Machine.execFrsq o s
  | .fexp2 o => Sys2Proof.Machine.execFexp2 o s
  | .flog2 o => Sys2Proof.Machine.execFlog2 o s
  | .fexp o => Sys2Proof.Machine.execFexp o s
  | .fmin o => Sys2Proof.Machine.execFmin o s
  | .fmax o => Sys2Proof.Machine.execFmax o s
  | .fabs o => Sys2Proof.Machine.execFabs o s
  | .fneg o => Sys2Proof.Machine.execFneg o s
  | .fcpys o => Sys2Proof.Machine.execFcpys o s
  | .fcmp o => Sys2Proof.Machine.execFcmp o s
  | .fclass o => Sys2Proof.Machine.execFclass o s
  | .frint o => Sys2Proof.Machine.execFrint o s
  | .fscalb o => Sys2Proof.Machine.execFscalb o s
  | .ftanh o => Sys2Proof.Machine.execFtanh o s
  | .fsigm o => Sys2Proof.Machine.execFsigm o s
  | .vbcast o => Sys2Proof.Machine.execVbcast o s
  | .vextr o => Sys2Proof.Machine.execVextr o s
  | .vins o => Sys2Proof.Machine.execVins o s
  | .vperm o => Sys2Proof.Machine.execVperm o s
  | .vshuf o => Sys2Proof.Machine.execVshuf o s
  | .vrot o => Sys2Proof.Machine.execVrot o s
  | .vslide o => Sys2Proof.Machine.execVslide o s
  | .vzip o => Sys2Proof.Machine.execVzip o s
  | .vunzip o => Sys2Proof.Machine.execVunzip o s
  | .vradd o => Sys2Proof.Machine.execVradd o s
  | .vrmin o => Sys2Proof.Machine.execVrmin o s
  | .vrmax o => Sys2Proof.Machine.execVrmax o s
  | .vrand o => Sys2Proof.Machine.execVrand o s
  | .vrior o => Sys2Proof.Machine.execVrior o s
  | .vcompr o => Sys2Proof.Machine.execVcompr o s
  | .vexpnd o => Sys2Proof.Machine.execVexpnd o s
  | .vpcnt o => Sys2Proof.Machine.execVpcnt o s
  | .vmask o => Sys2Proof.Machine.execVmask o s
  | .cvt o => Sys2Proof.Machine.execCvt o s
  | .cvti o => Sys2Proof.Machine.execCvti o s
  | .scaleg o => Sys2Proof.Machine.execScaleg o s
  | .scales o => Sys2Proof.Machine.execScales o s
  | .fmtchk o => Sys2Proof.Machine.execFmtchk o s
  | .ufrd o => Sys2Proof.Machine.execUfrd o s
  | .pack o => Sys2Proof.Machine.execPack o s
  | .unpack o => Sys2Proof.Machine.execUnpack o s
  | .rng o => Sys2Proof.Machine.execRng o s
  | .mxldbHeaderFiring o => Sys2Proof.Machine.execMxldbHeaderFiring o s
  | .mxldbPayloadFiring o => Sys2Proof.Machine.execMxldbPayloadFiring o s
  | .mxrow o => Sys2Proof.Machine.execMxrow o s
  | .mxrows o => Sys2Proof.Machine.execMxrows o s
  | .mxdrain o => Sys2Proof.Machine.execMxdrain o s
  | .mxclr o => Sys2Proof.Machine.execMxclr o s
  | .mxcfg o => Sys2Proof.Machine.execMxcfg o s
  | .residueMismatch core tile => Sys2Proof.Machine.execResidueMismatch core tile s
  | .ld o => Sys2Proof.Machine.execLd o s
  | .st o => Sys2Proof.Machine.execSt o s
  | .ldv o => Sys2Proof.Machine.execLdv o s
  | .stv o => Sys2Proof.Machine.execStv o s
  | .gath o => Sys2Proof.Machine.execGath o s
  | .scat o => Sys2Proof.Machine.execScat o s
  | .mtld o => Sys2Proof.Machine.execMtld o s
  | .mtst o => Sys2Proof.Machine.execMtst o s
  | .strcfg o => Sys2Proof.Machine.execStrcfg o s
  | .strgo o => Sys2Proof.Machine.execStrgo o s
  | .strgoWrite o => Sys2Proof.Machine.execStrgoWrite o s
  | .pref o => Sys2Proof.Machine.execPref o s
  | .aadd o => Sys2Proof.Machine.execAadd o s
  | .afadd o => Sys2Proof.Machine.execAfadd o s
  | .amin o => Sys2Proof.Machine.execAmin o s
  | .amax o => Sys2Proof.Machine.execAmax o s
  | .aand o => Sys2Proof.Machine.execAand o s
  | .aor o => Sys2Proof.Machine.execAor o s
  | .axor o => Sys2Proof.Machine.execAxor o s
  | .axchg o => Sys2Proof.Machine.execAxchg o s
  | .acas o => Sys2Proof.Machine.execAcas o s
  | .atas o => Sys2Proof.Machine.execAtas o s
  | .atopk o => Sys2Proof.Machine.execAtopk o s
  | .aincb o => Sys2Proof.Machine.execAincb o s
  | .atomicPerform id => Sys2Proof.Machine.execAtomicPerform id s
  | .memoryAccessServe id => Sys2Proof.Machine.execMemoryAccessServe id s
  | .fence o => Sys2Proof.Machine.execFence o s
  | .bar o => Sys2Proof.Machine.execBar o s
  | .barCopy o => Sys2Proof.Machine.execBarCopy o s
  | .permitTake o => Sys2Proof.Machine.execPermitTake o s
  | .permitGive o => Sys2Proof.Machine.execPermitGive o s
  | .futreg o => Sys2Proof.Machine.execFutreg o s
  | .futres o => Sys2Proof.Machine.execFutres o s
  | .futwait o => Sys2Proof.Machine.execFutwait o s
  | .xcopy o => Sys2Proof.Machine.execXcopy o s
  | .xfill o => Sys2Proof.Machine.execXfill o s
  | .xgather o => Sys2Proof.Machine.execXgather o s
  | .xcoll o => Sys2Proof.Machine.execXcoll o s
  | .engineCompletion id => Sys2Proof.Machine.execEngineCompletion id s
  | .rsplit o => Sys2Proof.Machine.execRsplit o s
  | .rmerge o => Sys2Proof.Machine.execRmerge o s
  | .rcompact o => Sys2Proof.Machine.execRcompact o s
  | .biasflip o => Sys2Proof.Machine.execBiasflip o s
  | .rangeCommandComplete part => Sys2Proof.Machine.execRangeCommandComplete part s
  | .rloop o => Sys2Proof.Machine.execRloop o s
  | .rsv o => Sys2Proof.Machine.execRsv o s
  | .rsvDone o => Sys2Proof.Machine.execRsvDone o s
  | .rchk o => Sys2Proof.Machine.execRchk o s
  | .rcommit o => Sys2Proof.Machine.execRcommit o s
  | .rretry o => Sys2Proof.Machine.execRretry o s
  | .rldone o => Sys2Proof.Machine.execRldone o s
  | .reservePhaseClose core loop => Sys2Proof.Machine.execReservePhaseClose core loop s
  | .commitPhaseClose core loop => Sys2Proof.Machine.execCommitPhaseClose core loop s
  | .btask o => Sys2Proof.Machine.execBtask o s
  | .bop o => Sys2Proof.Machine.execBop o s
  | .bcommit o => Sys2Proof.Machine.execBcommit o s
  | .babort o => Sys2Proof.Machine.execBabort o s
  | .bundo o => Sys2Proof.Machine.execBundo o s
  | .bstat o => Sys2Proof.Machine.execBstat o s
  | .ctload o => Sys2Proof.Machine.execCtload o s
  | .ctq o => Sys2Proof.Machine.execCtq o s
  | .ctabInstall part aseq => Sys2Proof.Machine.execCtabInstall part aseq s
  | .svc o => Sys2Proof.Machine.execSvc o s
  | .brk o => Sys2Proof.Machine.execBrk o s
  | .csrr o => Sys2Proof.Machine.execCsrr o s
  | .csrw o => Sys2Proof.Machine.execCsrw o s
  | .tfetch o => Sys2Proof.Machine.execTfetch o s
  | .reinj o => Sys2Proof.Machine.execReinj o s
  | .tkill o => Sys2Proof.Machine.execTkill o s
  | .ctxsave o => Sys2Proof.Machine.execCtxsave o s
  | .ctxload o => Sys2Proof.Machine.execCtxload o s
  | .shrink o => Sys2Proof.Machine.execShrink o s
  | .halt o => Sys2Proof.Machine.execHalt o s
  | .idle o => Sys2Proof.Machine.execIdle o s
  | .rttw o => Sys2Proof.Machine.execRttw o s
  | .rttr o => Sys2Proof.Machine.execRttr o s
  | .rinv o => Sys2Proof.Machine.execRinv o s
  | .rfence o => Sys2Proof.Machine.execRfence o s
  | .extensionOpcode ix o => Sys2Proof.Machine.execExtensionOpcode ix o s
  | .resultEmit e => Sys2Proof.Machine.execResultEmit e s
  | .tokenHop bank arc hop => Sys2Proof.Machine.execTokenHop bank arc hop s
  | .antiTokenHop bank arc => Sys2Proof.Machine.execAntiTokenHop bank arc s
  | .cancelledFiring e => Sys2Proof.Machine.execCancelledFiring e s
  | .markerInject lk core => Sys2Proof.Machine.execMarkerInject lk core s
  | .markerForward u => Sys2Proof.Machine.execMarkerForward u s
  | .unitApply lk core slice => Sys2Proof.Machine.execUnitApply lk core slice s
  | .remoteUnitApply peer core => Sys2Proof.Machine.execRemoteUnitApply peer core s
  | .hostCxlAccess a => Sys2Proof.Machine.execHostCxlAccess a s
  | .entryReaderPop bank => Sys2Proof.Machine.execEntryReaderPop bank s
  | .scarabDecide core tile => Sys2Proof.Machine.execScarabDecide core tile s
  | .loadClose lk => Sys2Proof.Machine.execLoadClose lk s
  | .reconfigToken lk core => Sys2Proof.Machine.execReconfigToken lk core s
  | .graphRetire lk => Sys2Proof.Machine.execGraphRetire lk s
  | .decide part => Sys2Proof.Machine.execDecide part s
  | .shrinkCut lk => Sys2Proof.Machine.execShrinkCut lk s
  | .contextParityError e second => Sys2Proof.Machine.execContextParityError e second s
  | .timingErrorDetect e second => Sys2Proof.Machine.execTimingErrorDetect e second s
  | .marginTrimStep core step => Sys2Proof.Machine.execMarginTrimStep core step s
  | .faultRecordEnqueue core => Sys2Proof.Machine.execFaultRecordEnqueue core s
  | .rangeWalk core => Sys2Proof.Machine.execRangeWalk core s
  | .debugSetBreakpoint e image b => Sys2Proof.Machine.execDebugSetBreakpoint e image b s
  | .traceModeOff part => Sys2Proof.Machine.execTraceModeOff part s
  | .traceModeRecord part => Sys2Proof.Machine.execTraceModeRecord part s
  | .traceModeBind part => Sys2Proof.Machine.execTraceModeBind part s
  | .rndPeriodWrite lk value => Sys2Proof.Machine.execRndPeriodWrite lk value s
  | .exactModeSet part => Sys2Proof.Machine.execExactModeSet part s
  | .directoryLock part => Sys2Proof.Machine.execDirectoryLock part s
  | .rdirCntWrite part value => Sys2Proof.Machine.execRdirCntWrite part value s
  | .registerWrite part index value => Sys2Proof.Machine.execRegisterWrite part index value s
  | .partCores c => Sys2Proof.Machine.execPartCores c s
  | .partMem c => Sys2Proof.Machine.execPartMem c s
  | .partClr c => Sys2Proof.Machine.execPartClr c s
  | .partReg c => Sys2Proof.Machine.execPartReg c s
  | .hndStart c => Sys2Proof.Machine.execHndStart c s
  | .dmaWin c => Sys2Proof.Machine.execDmaWin c s
  | .peerSet c => Sys2Proof.Machine.execPeerSet c s
  | .grpSet c => Sys2Proof.Machine.execGrpSet c s
  | .fenceClr c => Sys2Proof.Machine.execFenceClr c s
  | .resume c => Sys2Proof.Machine.execResume c s
  | .dieReset c => Sys2Proof.Machine.execDieReset c s
  | .dieWritebackDone die => Sys2Proof.Machine.execDieWritebackDone die s
  | .dieRetrainStart die => Sys2Proof.Machine.execDieRetrainStart die s
  | .dieRetrainDone die => Sys2Proof.Machine.execDieRetrainDone die s
  | .errorReply id => Sys2Proof.Machine.execErrorReply id s
  | .vfBind c => Sys2Proof.Machine.execVfBind c s
  | .rateSet c => Sys2Proof.Machine.execRateSet c s
  | .hostHalt c => Sys2Proof.Machine.execHostHalt c s
  | .vfLaunchDoorbell vf queue addr => Sys2Proof.Machine.execVfLaunchDoorbell vf queue addr s
  | .bootGo value => Sys2Proof.Machine.execBootGo value s
  | .bootVerifyDone => Sys2Proof.Machine.execBootVerifyDone s
  | .coldBoot => Sys2Proof.Machine.execColdBoot s
  | .getMeasurements => Sys2Proof.Machine.execGetMeasurements s
  | .flitReceive port flit => Sys2Proof.Machine.execFlitReceive port flit s
  | .flitReplay port => Sys2Proof.Machine.execFlitReplay port s
  | .thermalClamp level => Sys2Proof.Machine.execThermalClamp level s
  | .mgmtCoreReset => Sys2Proof.Machine.execMgmtCoreReset s
  | .patrolScrub u => Sys2Proof.Machine.execPatrolScrub u s
  | .engineWriteStage id => Sys2Proof.Machine.execEngineWriteStage id s
  | .hostCxlReply id => Sys2Proof.Machine.execHostCxlReply id s

end Sys2Proof.Machine
end

