-- ==== Sys2Proof/Machine/Sched.lean ====
section
/-! DEFINITION. What moves next (log 1): the bank that each tile selects (02 R26), the agenda of an fc, the row that a site's instruction word stands for, and
what the host writes. -/

namespace Sys2Proof.Machine

/-! ### The row of a firing -/

/-- The row that fires at a site: a GATE takes a credit before it passes (06 R136), a COUNT counts on L before it closes on P, which then has its turn (06 R138), an MXLDB takes its
header before its payload (09 R229); any other word has one row. -/
def rowOf (f : Firing) (i : Instr) : Instr :=
  match i with
  | .gatePassFiring o => if f.ops.r.isSome then .gateCreditFiring o else .gatePassFiring o
  | .gateCreditFiring o => if f.ops.r.isSome then .gateCreditFiring o else .gatePassFiring o
  | .countLFiring o => if countFirstP o f.el f.ops then .countPFiring o else .countLFiring o
  | .countPFiring o => if countFirstP o f.el f.ops then .countPFiring o else .countLFiring o
  | .mxldbHeaderFiring o => (match f.el.ost with
    | .mxldb _ => .mxldbPayloadFiring o
    | _ => .mxldbHeaderFiring o)
  | .mxldbPayloadFiring o => (match f.el.ost with
    | .mxldb _ => .mxldbPayloadFiring o
    | _ => .mxldbHeaderFiring o)
  | i => i

/-- The instruction that stands at a site, as the row that fires next. -/
def State.instrAt (s : State) (e : Site) : Option Instr :=
  ((s.bank (siteKey e)).instr e.idx).map (rowOf { s with cur := e }.firing)

/-! ### Which firings may start -/

/-- Two more ways to fire: a free constant whose target is empty (06 R133), a GATE that takes a credit (06 R136). -/
def State.refires (s : State) (f : Firing) (i : Instr) : Bool :=
  match i with
  | .const o => freeConst f.b f.e.idx && f.el.q0.isEmpty && s.targetAccepts f.bk f.e.idx 0 o.t0
  | .gateCreditFiring _ => f.ops.r.isSome
  | _ => false

/-- Nothing stops the firings of an instruction: its die is online (23 R408), its launch runs (02 R39, 03 R63, 21 R377), and its partition is not halted, or
halted in a round that the instruction is still in (18 R334). What free constants alone feed belongs to the next round once Chafer's marker has come
(02 R25, log 9). -/
def State.mayFire (s : State) (bk idx : Nat) : Bool :=
  let b := s.bank bk
  let el := b.elem idx
  !(decide (el.fwd < el.chafer) && s.freeFed b idx) &&
  let p := s.part (lkPart b.lk)
  b.st == 1 && (s.dies[dieOfCore (bankCore bk)]?).any (fun d => d.st == 0) && (s.launch b.lk).any (fun l => !l.doomed && !l.l3) &&
  (!p.halted || (!isSysBank bk && (mget p.haltAt (lkLid b.lk)).all (fun r => decide ((b.elem idx).fwd ≤ r))))

/-- A firing of a REPEAT has copies left (06 R137). -/
def Elem.copying (x : Elem) : Bool :=
  match x.ost with
  | .copies _ => true
  | _ => false

/-- The instruction of a site meets the conditions of R21 but for bank selection, or those of an early or a cancelled firing (02 R21,
03 R48 R57). The copies of a REPEAT that has started are no new firings. -/
def State.starts (s : State) (e : Site) : Bool :=
  let f := { s with cur := e }.firing
  s.mayFire (siteKey e) e.idx && !f.el.held && !f.el.copying && stageFree f.el s.fc &&
  ((s.instrAt e).any (fun i => s.refires f i || operandsStand f i || earlyStands i f.ops) || (s.canCancel e).isSome)

/-- The instructions of a bank of a tile: of a two-tile block, those of that tile (02 R27 R28). -/
def State.tileInstrs (s : State) (k : Nat) : List Site :=
  let b := s.bank k
  match b.upper with
  | some o => (((s.bank o).words.map Prod.fst).filter (fun i => decide (64 ≤ i))).map (siteOf o)
  | none => ((b.words.map Prod.fst).filter (fun i => b.tile2.isNone || decide (i < 64))).map (siteOf k)

/-- The entry reader of a bank can do something (02 R26 R31): deliver a record, or raise the fault of one (DESIGN CHOICE, log 61). -/
def State.reads (s : State) (k : Nat) : Bool :=
  s.mayFire k 32 && eqv (s.bank k) && (match exec (.entryReaderPop k) s with
    | .next t => t.bank k != s.bank k
    | .fault _ => false
    | .refused _ => false)

/-- A bank is eligible (02 R26). -/
def State.eligible (s : State) (k : Nat) : Bool := (s.bank k).st == 1 && ((s.tileInstrs k).any s.starts || s.reads k)

/-- The bank of a tile that the context counter selects (02 R26): under a clamp every second fc selects none (23 R414, log 60). -/
def State.select (s : State) (t : Nat) : Option Nat :=
  if s.hub.thermal != .normal && s.fc % 2 == 1 then none
  else
    let n := (s.ctile t).last
    ([n + 1, n + 2, n + 3, n].map (fun k => t * 4 + k % 4)).find? s.eligible

/-- The tiles where something is resident. -/
def State.liveTiles (s : State) : List Nat := (s.banks.map (fun x => x.1 / 4)).eraseDups

/-! ### The agenda of an fc -/

/-- The resident blocks, by the bank of their first tile. -/
def State.blocks (s : State) : List (Nat × Bank) := s.banks.filter (fun x => x.2.st == 1 && x.2.upper.isNone)

/-- The launches that run, by launch key, each with its cores; the handler launches with the cores of their partitions. -/
def State.regions (s : State) : List (Nat × List Nat) := s.parts.flatMap (fun (n, p) => p.launches.map (fun (lid, l) => (n * 65536 + lid, l.cores)))
def State.handlers (s : State) : List (Nat × List Nat) := (s.parts.filter (fun x => x.2.handler.isSome)).map (fun (n, p) => (n * 65536, p.cores))

/-- Markers enter (02 R25 R422): of regions, then of system banks (18 R312). -/
def State.listInject (s : State) : List Instr :=
  (s.regions.filter (fun x => (s.launch x.1).any (s.markerDue x.1)) ++ s.handlers).flatMap (fun x => x.2.map (.markerInject x.1))

/-- The firings of a selected bank, and its entry reader. -/
def State.listBank (s : State) (k : Nat) : List Action :=
  let es := (s.tileInstrs k).filter (fun e => s.mayFire (siteKey e) e.idx)
  es.flatMap (fun e =>
    (if (s.canCancel e).isSome then [.ev (.cancelledFiring e)] else []) ++
    (match s.instrAt e with
     | some (.gateCreditFiring _) => [.fire e, .fire e]
     | _ => [.fire e])) ++
  (if s.mayFire k 32 && eqv (s.bank k) then [.ev (.entryReaderPop k)] else [])

/-- The sites where a REPEAT that has started goes on with its copies, whichever bank its tile selects (02 R26, 11 R264). -/
def State.listCopies (s : State) : List Site :=
  s.blocks.flatMap (fun (k, b) => ((b.words.map Prod.fst).filter (fun i => (b.elem i).copying && s.mayFire k i)).map (siteOf k))

/-- The place of a site in the order of what comes in the same fc: core, tile, slot (06 R151, 12 R272). -/
def State.placeOf (s : State) (e : Site) : Nat :=
  let t := if 64 ≤ e.idx then ((s.bank (siteKey e)).tile2).getD e.tile else e.tile
  ((e.core * 16 + t) * 64 + e.idx % 64) * 4 + e.bank

/-- Requests, commands and host accesses in flight move on. -/
def State.listUnits (s : State) : List Instr :=
  let cmds := s.cores.flatMap (fun (x : Nat × Core) => x.2.cmds)
  (sortBy (fun (x y : Req) => decide (s.placeOf x.site < s.placeOf y.site)) s.reqs).map (fun r => if r.op.isSome then .atomicPerform r.id else if r.ofHost then .hostCxlReply r.id else .memoryAccessServe r.id) ++
  (s.hostReqs.map Prod.fst).eraseDups.map .hostCxlReply ++
  (s.reqs.filter (fun r => !r.arrived && r.parts.any (fun p => s.partLost r.admitted p.space p.addr))).map (fun r => .errorReply r.id) ++
  (s.units.filter (fun a => decide (a.round < s.cutOf a.lk a.core) && s.partLost false a.space a.addr)).map (fun a => .errorReply a.seq) ++
  (cmds.filter (fun x => !x.finished)).map (fun x => .engineWriteStage x.id) ++
  (cmds.filter (fun x => x.emitted.isNone)).map (fun x => .engineCompletion x.id) ++
  (s.cores.filter (fun (x : Nat × Core) => !x.2.walks.isEmpty)).map (fun x => .rangeWalk x.1) ++
  (s.parts.filter (fun x => !x.2.rcmds.isEmpty)).map (fun x => .rangeCommandComplete x.1) ++
  (s.cores.filter (fun (x : Nat × Core) => !x.2.frecs.isEmpty)).map (fun x => .faultRecordEnqueue x.1) ++
  s.parts.flatMap (fun (n, p) => (p.queue.filter (fun q => !q.ctabDone && q.words.getD 6 0 != 0)).map (fun q => .ctabInstall n q.aseq)) ++
  s.parts.flatMap (fun (_, p) => (p.launches.map Prod.snd ++ p.handler.toList).flatMap (fun l => l.quiets.map (fun q => .quietEmit q.site)))

/-- Anti-tokens move one reverse register (03 R53): of arcs, then those next to ports and at latches. -/
def State.listAntis (s : State) : List Instr :=
  s.blocks.flatMap (fun (k, b) =>
    ((List.range b.arcs.length).filter (fun j => (b.arcs[j]?).any (fun a => a.hops.any (fun h => h.rev.isSome)))).map (.antiTokenHop k) ++
    b.rev.map (fun y => .antiTokenHop k (b.arcs.length + 3 * (32 + y.1))) ++
    b.elems.flatMap (fun (i, x) =>
      (([(0, x.l), (1, x.r), (2, x.p)] : List (Nat × InSlot)).filter (fun y => !y.2.anti.isEmpty)).map (fun y => .antiTokenHop k (b.arcs.length + 3 * i + y.1))))

/-- Tokens and markers move one hop, those nearest the consumer first (02 R20). -/
def State.listHops (s : State) : List Instr :=
  s.blocks.flatMap (fun (k, b) =>
    (List.range b.arcs.length).flatMap (fun j =>
      let hs := (b.arcs[j]?.map Arc.hops).getD []
      ((List.range hs.length).filter (fun h => (hs[h]?).any (fun x => x.fwd.isSome || decide (0 < x.marks)))).reverse.map (.tokenHop k j)))

/-- Results that may be due: of instructions with results on their way, of those listed to fire, of streams in progress (02 R22), in the order of their
places. -/
def State.listEmits (s : State) (fired : List Site) : List Instr :=
  let es := s.blocks.flatMap (fun (k, b) =>
    ((b.words.map Prod.fst).filter (fun i =>
      let x := b.elem i
      !x.q0.isEmpty || !x.q1.isEmpty || fired.contains (siteOf k i) || s.reqs.any (fun r => r.site == siteOf k i))).map (siteOf k))
  (sortBy (fun (x y : Site) => decide (s.placeOf x < s.placeOf y)) es).map .resultEmit

/-- A marker of a launch may still have to pass at a core where n have passed: one has been injected, or may be in this fc. -/
def State.markerLeft (s : State) (lk core n : Nat) : Bool :=
  decide (n < s.injOf lk core) || decide (lkLid lk = 0) || (s.launch lk).any (s.markerDue lk)

/-- Markers pass instructions, blocks, memory tiles, nodes and ports (02 R25, 12 R271): of regions, then of system banks. -/
def State.listForward (s : State) (xs : List (Nat × List Nat)) : List Instr :=
  xs.flatMap (fun (lk, cores) =>
    let bs := s.blocks.filter (fun (x : Nat × Bank) => x.2.lk == lk && s.markerLeft lk (bankCore x.1) x.2.mpass)
    bs.flatMap (fun (k, b) => (b.words.map Prod.fst).map (fun i => .markerForward (.elem (siteOf k i)))) ++
    bs.map (fun (k, _) => .markerForward (.bank k)) ++
    cores.flatMap (fun c =>
      (if s.markerLeft lk c (mgetD (s.core c).pass lk 0) then
        (List.range 16).map (fun t => .markerForward (.memoryTile lk c t)) ++ (List.range 16).map (fun t => .markerForward (.node lk c t)) else []) ++
      [.markerForward (.corePort lk c)]))

/-- Loops close their phases (10 R249). -/
def State.listLoops (s : State) : List Instr :=
  s.cores.flatMap (fun (k, c) => c.loops.flatMap (fun (i, _) => [.reservePhaseClose k i, .commitPhaseClose k i]))

/-- The slices where a launch has something to apply, as seen from a core. -/
def State.slicesOf (s : State) (lk : Nat) : List Nat :=
  let part := lkPart lk
  (((s.units ++ s.undone).filter (fun a => a.lk == lk && a.space == .dev)).map (fun a => s.sliceOf part a.addr) ++
   (s.views.filter (fun v => v.2.1 == lk)).map Prod.fst).eraseDups

/-- The peers and their cores whose remote units this package has received (13 R288). -/
def State.listIncoming (s : State) : List (Nat × Nat) :=
  s.hub.peers.flatMap (fun (p, x) => (s.hub.ports.filter (fun y => bitAt x.1 y.1)).flatMap (fun y => y.2.rx.filterMap (fun f => f.unit.map (fun u => (p, u.1)))))

/-- Units arrive at slices and at peers (13 R283 R288). -/
def State.listApply (s : State) : List Instr :=
  let rs : List (Nat × List Nat) := s.regions.map (fun (x : Nat × List Nat) => (x.1, [0])) ++ s.handlers
  rs.flatMap (fun (x : Nat × List Nat) => x.2.flatMap (fun c => (s.slicesOf x.1).map (.unitApply x.1 c))) ++
  ((s.remoteUnits.map (fun u => (u.peer, u.core))) ++ s.listIncoming).eraseDups.map (fun x => .remoteUnitApply x.1 x.2)

/-- The tiles of a core that Scarab decides for: those where a span of a swappable block begins; with a bound trace, all (19 R344 R348). -/
def State.scarabTiles (s : State) (lk core : Nat) : List Nat :=
  match s.launch lk with
  | none => []
  | some l =>
    if s.trBound (lkPart lk) l.trk then List.range 16
    else (((blockTable s.mem l.img (s.loadOf l)).filter (fun x => !x.2.pinned && l.coreOf x.2.core == core)).flatMap (fun x => [x.2.tile, x.2.tile2])).eraseDups

/-- Chafer, Scarab and the dispatcher act (19 R341-R346, 02 R37-R44, 21 R386). -/
def State.listLaunch (s : State) : List Instr :=
  s.regions.flatMap (fun (lk, cores) =>
    cores.flatMap (fun c => (s.scarabTiles lk c).map (.scarabDecide c)) ++ [.graphRetire lk, .loadClose lk] ++ cores.map (.reconfigToken lk) ++ [.shrinkCut lk]) ++
  s.parts.map (fun x => .decide x.1)

/-- Dies and the hub move on (23 R403 R408 R415). -/
def State.listHub (s : State) : List Action :=
  (s.dies.zipIdx.flatMap (fun (d, n) => if d.st = 1 then [.dieWritebackDone n] else if d.st = 2 then [.dieRetrainStart n]
    else if d.st = 3 then [.dieRetrainDone n] else [])).map .ev ++
  (if s.hub.bstate = 1 then [.ev .bootVerifyDone] else []) ++ (if s.hub.ready && s.hub.head != s.hub.tail then [.ringRead] else [])

/-- A NEW FC (log 1): the counters advance, markers enter, anti-tokens move; then the banks are chosen. -/
def State.openFc (s : State) : State :=
  let s := { s with fc := s.fc + 1 }
  let tick (l : Launch) : Launch := { l with since := l.since + 1 }
  let s := { s with
    parts := s.parts.map (fun (n, (p : Partition)) => (n, { p with launches := p.launches.map (fun (lid, l) => (lid, tick l)) }))
    cores := s.cores.map (fun (k, (c : Core)) => (k, { c with sysSince := c.sysSince + 1 })) }
  { s with agenda := (s.listInject ++ s.listAntis).map .ev ++ [.choose] }

/-- EVERY TILE SELECTS ITS BANK (02 R26), and what the device does in the fc is listed (log 1). -/
def State.chooseBanks (s : State) : State :=
  let chosen := s.liveTiles.filterMap (fun t => (s.select t).map (fun k => (t, k)))
  let copies := s.listCopies
  let fires := copies.map .fire ++ chosen.flatMap (fun x => s.listBank x.2)
  let fired := fires.filterMap (fun a => match a with
    | .fire e => some e
    | .ev (.cancelledFiring e) => some e
    | _ => none)
  let rest := (s.listUnits ++ s.listHops ++ s.listEmits fired ++ s.listForward s.regions ++ s.listForward s.handlers ++ s.listLoops ++ s.listApply ++ s.listLaunch).map .ev ++ s.listHub
  { chosen.foldl (fun s x => s.setCtile x.1 { s.ctile x.1 with last := x.2 % 4 }) s with agenda := fires ++ rest ++ s.agenda }

/-! ### What the host writes (23 R403) -/

/-- A doorbell write moves TAIL while the device is READY. -/
def State.ringDoorbell (s : State) (tail : Nat) : State := if s.hub.ready then { s with hub := { s.hub with tail := tail % 64 } } else s

/-- A byte of the boot window: accepted while no image is verified or runs. -/
def State.bootByte (s : State) (a : Nat) (b : Byte) : State :=
  if (s.hub.bstate = 0 ∨ s.hub.bstate = 3) ∧ a < 2 ^ 21 then { s with hub := { s.hub with bootWin := memWrite s.hub.bootWin a b } } else s

/-- An entry of the command ring. -/
def State.ringEntry (s : State) (i : Nat) (c : HostCommand) : State := if i < 64 then { s with hub := { s.hub with ring := mset s.hub.ring i c } } else s

/-- A byte of the host's own memory. -/
def State.hostByte (s : State) (a : Nat) (b : Byte) : State := { s with hostMem := memWrite s.hostMem a b }

/-! ### The head of the agenda -/

/-- What a step finds to do. -/
inductive Fetch where
  /-- an instruction to run -/
  | run (i : Instr) (s : State)
  /-- the next fc, a write of the host, a command without a meaning, or a site whose block has left since the fc opened -/
  | done (s : State)
  /-- the word at the site is no instruction -/
  | empty
  deriving DecidableEq, Repr

/-- The firing of a site (02 R21). -/
def State.fetchSite (s : State) (e : Site) : Fetch :=
  if (mget (s.bank (siteKey e)).words e.idx).isNone then .done s
  else
    match s.instrAt e with
    | none => .empty
    | some i => .run i { s with cur := e }

/-- The next entry of the command ring (23 R403 R406). -/
def State.fetchRing (s : State) : Fetch :=
  match s.ringPop with
  | none => .done s
  | some (c, s) => match c.instr with
    | none => .done (s.unknownCommand c)
    | some i => .run i s

/-- Take the head of the agenda; the next fc opens when it is empty (log 1). -/
def State.nextAction (s : State) : Fetch :=
  match s.agenda with
  | [] => .done s.openFc
  | a :: rest =>
    let s := { s with agenda := rest }
    match a with
    | .fire e => s.fetchSite e
    | .ev i => .run i s
    | .choose => .done s.chooseBanks
    | .doorbell tail => .done (s.ringDoorbell tail)
    | .bootWrite a b => .done (s.bootByte a b)
    | .ringWrite i c => .done (s.ringEntry i c)
    | .hostWrite a b => .done (s.hostByte a b)
    | .eccError sp line => .done { s with ecc := s.ecc ++ [(sp, line)] }
    | .ringRead => s.fetchRing

end Sys2Proof.Machine
end

