-- ==== Sys2Proof/Machine/Step.lean ====
section
/-! DEFINITION. One step of the machine, and the state whose next step fires a given word. -/

namespace Sys2Proof.Machine

/-- One step: the head of the agenda, or the next fc when the agenda is empty (log 1). -/
def step (s : State) : Host.Outcome State Fault Refusal :=
  match s.nextAction with
  | .run i t => exec i t
  | .done t => .next t
  | .empty => .fault .noInstruction

/-- The state whose next step fires the word: it stands at index 0 of bank 0 of tile 0 of core 0, resident and first on the agenda (log 16). -/
def State.withFetchWord (s : State) (nbits w : Nat) : State :=
  let b := s.bank 0
  let s := s.setBank 0 { b with st := 1, words := mset b.words 0 (BitVec.ofNat 64 (w % 2 ^ nbits)) }
  { s with agenda := .fire ⟨0, 0, 0, 0⟩ :: s.agenda }

end Sys2Proof.Machine
end

