-- ==== Sys2Proof/Safety.lean ====
section
/-! DEFINITION. The words the statements use: what counts as a safe run, when an instruction can fire (02 R21), what one firing does to its own
instruction, and what a step leaves as it was. -/

namespace Sys2Proof.Machine

/-! ### Memory and steps -/

/-- Every memory of the machine is in canonical form: device memory, the host's and the peers', the memory tiles and their committed copies. -/
def State.memOk (s : State) : Bool :=
  Memory.wf s.mem && Memory.wf s.hostMem && s.peerMem.all (fun x => Memory.wf x.2) &&
  s.mtiles.all (fun x => Memory.wf x.2.bytes && x.2.snaps.all (fun c => Memory.wf c.bytes))

/-- The step ends in a next state. -/
def completes (s : State) : Prop := ∃ t, step s = .next t

/-! ### When an instruction fires -/

/-- The operands of the instruction at the current site in the slots it needs. -/
def State.operands (s : State) (need : Slots) : Operands := s.firing.ops.mask need

/-- THE INSTRUCTION AT THE CURRENT SITE CAN FIRE (02 R21): it is not held by a site, its first stage is free, every slot it needs holds a token, and B does
not trap the firing (05 R106). -/
structure State.CanFire (s : State) (fl : Flags) (need : Slots) : Prop where
  unheld : s.firing.el.held = false
  stage : stageFree s.firing.el s.fc = true
  full : ready (s.operands need) need = true
  noBreak : breaks fl s.firing.el = false

/-- The element of the current site. -/
def State.here (s : State) : Elem := s.elem s.cur

/-- A result of the present firing (02 R22): it emits in fc n + L - 1 and belongs to the round of the firing (02 R25); its tokens carry the firing's thread. -/
def State.resultOf (s : State) (lat : Nat) (thr : Nat) (outs : List (Nat × Token)) : Flight where
  due := s.fc + lat - 1
  lat := lat
  outs := some (outs.map (fun (k, t) => (k, { t with thr := some thr })))
  round := some s.here.fwd
  after := none
  id := 0
  thr := thr
  k := s.firing.k
  issued := s.here.fwd

/-! ### What a firing does -/

/-- The slots a firing empties: under K the operand of R stays (05 R106). -/
def takes (fl : Flags) (need : Slots) : Slots := { need with r := need.r && !fl.k }

/-- The instruction after a firing that takes the slots of take: the slots emptied, the firing counted under its thread, the stage taken in this fc. -/
def State.firedElem (s : State) (take : Slots) (thr : Nat) : Elem :=
  { s.here.consume take with fires := mset s.here.fires thr (mgetD s.here.fires thr 0 + 1), last := some s.fc, bpass := false }

/-- Two launches differ in nothing but the rounds they count as active (06 R160). -/
def sameButActive (x y : Option Launch) : Prop :=
  x.map (fun (l : Launch) => { l with active := [] }) = y.map (fun (l : Launch) => { l with active := [] })

/-- FRAME OF A FIRING: outside the instruction at the current site nothing changes, but for the flags its block stages, the round of the block's last
firing, and the rounds that its launch counts as active. -/
structure Within (s t : State) : Prop where
  rest : t = { s with banks := t.banks, parts := t.parts }
  banks : ∀ k, k ≠ siteKey s.cur → t.bank k = s.bank k
  bank : ∃ es ns, t.bank (siteKey s.cur) = { s.bank (siteKey s.cur) with elems := es, lastFire := some s.here.fwd, nstage := ns }
  elems : ∀ i, i ≠ s.cur.idx → (t.bank (siteKey s.cur)).elem i = (s.bank (siteKey s.cur)).elem i
  launches : ∀ lk, sameButActive (t.launch lk) (s.launch lk)
  parts : ∀ n, t.part n = { s.part n with launches := (t.part n).launches, handler := (t.part n).handler }

/-- A firing of a pure producer or a router operator: the instruction becomes el, the flags are staged in the round of the firing (04 R83), and nothing else
changes. -/
structure Fires (s : State) (el : Elem) (flags : Nat) (t : State) : Prop where
  elem : t.elem s.cur = el
  flags : (t.bank (siteKey s.cur)).nstage =
    (s.bank (siteKey s.cur)).nstage ++ (if flags = 0 then [] else [(s.here.fwd, BitVec.ofNat 5 flags)])
  frame : Within s t

/-- The instruction's output 0 holds one more result. -/
def Elem.plus (x : Elem) (r : Flight) : Elem := { x with q0 := x.q0 ++ [r] }

/-- The instruction's output 1 holds one more result. -/
def Elem.plus1 (x : Elem) (r : Flight) : Elem := { x with q1 := x.q1 ++ [r] }

/-- AN EXECUTED FIRING: it can fire, no operand is poison (03 R66), and PM lets it run on the lanes of pr (05 R106). -/
structure State.Runs (s : State) (fl : Flags) (vecP : Bool) (need : Slots) (pr : Predicate) : Prop where
  can : s.CanFire fl (withPm fl need)
  clean : (s.operands (withPm fl need)).poison = none
  run : ∃ all bits, pr = .run all bits ∧ predicate fl.pm vecP (s.operands (withPm fl need)).p = .run all bits

/-- The instruction completes: it takes its operands, emits outs at latency lat, stages its flags, and changes nothing else. -/
def Emits (s : State) (answer : Host.Outcome State Fault Refusal) (take : Slots) (lat : Nat) (outs : List (Nat × Token)) (flags : Nat) : Prop :=
  ∃ t, answer = .next t ∧ Fires s ((s.firedElem take s.firing.thr).plus (s.resultOf lat s.firing.thr outs)) flags t

/-- THE START OF A FIRING: the instruction has taken its operands and is counted; NV is staged where an operand of nums, read as a number, has the reserved
scale (04 R74); the effect is still to come. -/
def Taken (s : State) (take nums : Slots) (u : State) : Prop := Fires s (s.firedElem take s.firing.thr) (readFlags (s.operands take) nums) u

/-- THE INSTRUCTION COMPLETES WITH AN EFFECT: it takes its operands, and the answer is the effect on that state and nothing else; nums are the operands that it
reads as numbers. -/
def Does (s : State) (answer : Host.Outcome State Fault Refusal) (take : Slots) (effect : State → State) (nums : Slots := { l := true, r := true }) : Prop :=
  ∃ u, Taken s take nums u ∧ answer = .next (effect u)

/-- The firing becomes el and stages its flags, and nothing else changes. -/
def Becomes (s : State) (answer : Host.Outcome State Fault Refusal) (el : Elem) (flags : Nat := 0) : Prop := ∃ t, answer = .next t ∧ Fires s el flags t

/-! ### Effects -/

/-- A result joins output 0 of the present instruction. -/
def State.emitting (s u : State) (lat : Nat) (outs : List (Nat × Token)) : State :=
  u.setElem s.cur ((u.elem s.cur).plus (s.resultOf lat s.firing.thr outs))

/-- A result joins output 1. -/
def State.emitting1 (s u : State) (lat : Nat) (outs : List (Nat × Token)) : State :=
  u.setElem s.cur ((u.elem s.cur).plus1 (s.resultOf lat s.firing.thr outs))

/-- A result that an agent fills later (02 R22 R25, 08 R215): owed tells whether the round of the firing owes it; its identity is id. -/
def State.awaited (s : State) (owed : Bool) (id : Nat) : Flight :=
  { s.resultOf 1 s.firing.thr [] with outs := none, round := if owed then some s.here.fwd else none, id := id }

/-- An awaited result joins output 0. -/
def State.awaiting (s u : State) (owed : Bool) (id : Nat) : State := u.setElem s.cur ((u.elem s.cur).plus (s.awaited owed id))

/-- The launch of the present firing stages an effect (06 R146 R155-R158), in the round of the firing and under its key (12 R269). -/
def State.staging (s u : State) (need : Slots) (k : EffKind) : State :=
  { u.mapLaunch s.firing.lk (fun l => { l with staged := l.staged ++ [
      { round := s.here.fwd, key := s.firing.effKey, seq := s.nid, kind := k, core := s.cur.core,
        qex := isQex s.firing.b, org := { s.firing with ops := s.operands need }.origin }] }) with nid := s.nid + 1 }

/-! ### Faults -/

/-- THE PARTITION'S FAULTS ARE DIVERTED (18 R313 R323): EN is set, the instruction stands in a region, and the core's port has room. -/
structure State.Diverts (s : State) : Prop where
  en : (s.part s.firing.part).en = true
  region : isSysBank (siteKey s.cur) = false
  room : s.portRoom s.cur.core = true

/-- The record of a fault of the present firing (18 R321, 21 R374). -/
def State.faultRecord (s : State) (ops : Operands) (kind code need info aux : Nat) : FRec :=
  ⟨siteWord code (lkLid s.firing.lk) s.cur.core (siteTile s.firing) s.cur.bank s.cur.idx kind need false, recordWords ops info aux, s.nid⟩

/-- TAKING A FAULT (18 R321-R323, 21 R373-R375): the record is at the core's port, a site is open and keeps the operands that need names, which have left the
instruction; a held firing keeps the instruction from firing, and a slot whose operand alone was removed waits for REINJ; nothing else changes, and no firing is
counted. -/
structure Traps (s : State) (ops : Operands) (kind code need info aux : Nat) (t : State) : Prop where
  record : t.core s.cur.core = { s.core s.cur.core with frecs := (s.core s.cur.core).frecs ++ [s.faultRecord ops kind code need info aux] }
  site : ∃ x : OpenSite, t.part s.firing.part = { s.part s.firing.part with sites := (s.part s.firing.part).sites ++ [x] } ∧
    x.word0 = (s.faultRecord ops kind code need info aux).word0 ∧ x.fser = none ∧ x.site = s.cur ∧ x.lk = s.firing.lk ∧ x.round = s.here.fwd ∧
    x.need = BitVec.ofNat 3 need ∧ x.refilled = 0 ∧
    x.ops = [if bitAt need 0 then ops.l else none, if bitAt need 1 then ops.r else none, if bitAt need 2 then ops.p else none]
  elem : t.elem s.cur =
    let el := s.here.consume { l := bitAt need 0, r := bitAt need 1, p := bitAt need 2 }
    let el := if kind = kindOperand then el.awaitSlots (bitAt need 0) (bitAt need 1) (bitAt need 2) else el
    { el with held := kind == kindHeld || s.here.held }
  rest : t = { s with nid := s.nid + 1, banks := t.banks, parts := t.parts, cores := t.cores }
  cores : ∀ n, n ≠ s.cur.core → t.core n = s.core n
  parts : ∀ n, n ≠ s.firing.part → t.part n = s.part n
  banks : ∀ k, k ≠ siteKey s.cur → t.bank k = s.bank k
  elems : ∀ i, i ≠ s.cur.idx → (t.bank (siteKey s.cur)).elem i = (s.bank (siteKey s.cur)).elem i

/-- THE ANCHOR HOLDS ITS FIRING (03 R58, 08 R214): a fault at firing takes every present operand. -/
def Holds (s : State) (answer : Host.Outcome State Fault Refusal) (ops : Operands) (code info aux : Nat) : Prop :=
  ∃ t, answer = .next t ∧ Traps s ops kindHeld code (presentMask ops) info aux t

/-- TAKING A CALL (18 R323 R325): the firing has taken its operands and awaits, on output 0 and as a debt of its round, the result that REINJ supplies; the call record is at
the core's port and its site is open, with no operand to come; nothing else changes. -/
structure Calls (s : State) (take : Slots) (code : Nat) (words : List Word64) (t : State) : Prop where
  record : t.core s.cur.core = { s.core s.cur.core with frecs := (s.core s.cur.core).frecs ++
    [⟨siteWord code (lkLid s.firing.lk) s.cur.core (siteTile s.firing) s.cur.bank s.cur.idx kindCall 0 false, words, s.nid + 1⟩] }
  site : ∃ x : OpenSite, (t.part s.firing.part).sites = (s.part s.firing.part).sites ++ [x] ∧ x.id = s.nid + 1 ∧
    x.word0 = siteWord code (lkLid s.firing.lk) s.cur.core (siteTile s.firing) s.cur.bank s.cur.idx kindCall 0 false ∧ x.fser = none ∧ x.call = some s.nid ∧
    x.need = 0 ∧ x.site = s.cur ∧ x.lk = s.firing.lk ∧ x.round = s.here.fwd
  elem : t.elem s.cur = (s.firedElem take s.firing.thr).plus (s.awaited true s.nid)
  rest : t = { s with nid := s.nid + 2, banks := t.banks, parts := t.parts, cores := t.cores }
  cores : ∀ n, n ≠ s.cur.core → t.core n = s.core n
  banks : ∀ k, k ≠ siteKey s.cur → t.bank k = s.bank k
  elems : ∀ i, i ≠ s.cur.idx → (t.bank (siteKey s.cur)).elem i = (s.bank (siteKey s.cur)).elem i
  parts : ∀ n, ∃ xs, t.part n = { s.part n with launches := (t.part n).launches, handler := (t.part n).handler, sites := xs } ∧
    (n ≠ s.firing.part → xs = (s.part n).sites)
  launches : ∀ lk, sameButActive (t.launch lk) (s.launch lk)

/-! ### Accesses (08 R193-R200, 20 R354) -/

/-- AN ACCESS CAN GO OUT: its slots, P among them where P has a source, hold tokens, none is poison, and P is an order token. -/
structure State.Accesses (s : State) (fl : Flags) (need : Slots) : Prop where
  can : s.CanFire fl (orderNeed s.firing.b s.cur.idx need)
  clean : (s.operands (orderNeed s.firing.b s.cur.idx need)).poison = none
  order : orderOk (s.operands (orderNeed s.firing.b s.cur.idx need)).p = true

/-- The slots an access takes. -/
def State.accessNeed (s : State) (need : Slots) : Slots := orderNeed s.firing.b s.cur.idx need

/-- The firing of an access with the operands of its slots. -/
def State.accessFiring (s : State) (need : Slots) : Firing := { s.firing with ops := s.operands (s.accessNeed need) }

/-- A GLOBAL ACCESS IS TRANSLATED (20 R354, 08 R195): every part lies in one line of one range that allows it, and the parts are ps. -/
structure State.Translated (s : State) (rd wr : Bool) (as : List (Nat × Nat × Nat)) (ps : List Part) : Prop where
  parts : s.translateAll s.cur.core s.firing.part (!isPriv s.firing.b) rd wr as = .ok ps
  views : s.viewFull s.firing.lk ps = false

/-- The state once a translated access has made its table entries the latest used (20 R355) and has opened its views (13 R285). -/
def State.touched (s : State) (ps : List Part) : State := (s.touch s.cur.core ps).viewTouch s.cur.core s.firing.lk ps

/-- What a write stages for one part (08 R197, 12 R269 R270): its bytes at their address, in the round of the firing, under the write's key. -/
def State.stagedPart (s : State) (need : Slots) (bs : List Byte) (p : Part) : Arrival :=
  { lk := s.firing.lk, core := s.cur.core, round := s.here.fwd, key := (s.accessFiring need).writeKey, seq := 0, space := p.space, addr := p.addr,
    op := .write ((bs.drop p.off).take p.size), req := 0, osh := p.osh, org := (s.accessFiring need).origin, user := !isPriv s.firing.b }

/-- A load in flight (08 R196): its parts, those that the fetch cache answers (08 R202), and what it returns. -/
def State.loadReq (s u : State) (need : Slots) (ps : List Part) (kind : ReqKind) (fresh cancel : Bool) : Req :=
  let hits := u.fetchHits s.cur.core fresh ps
  { id := s.nid, site := s.cur, lk := s.firing.lk, round := s.here.fwd, due := s.fc + u.loadLatency s.cur.core (siteTile s.firing) hits ps - 1, kind := kind,
    fresh := fresh, chain := (s.accessFiring need).chain, parts := ps, thr := s.firing.thr, hits := hits, cancel := cancel && !toRegister s.firing.b s.cur.idx,
    ops := [(s.accessFiring need).ops.l, (s.accessFiring need).ops.r, (s.accessFiring need).ops.p] }

/-- A LOAD IS ISSUED: its value is awaited on output 0, its request stands in the table, and its order token is on output 1 (08 R196). -/
def State.loading (s u : State) (need : Slots) (ps : List Part) (kind : ReqKind) (fresh cancel : Bool) : State :=
  let v := { u with nid := s.nid + 1, tick := s.tick + 1, reqs := s.reqs ++ [s.loadReq u need ps kind fresh cancel] }
  s.emitting1 (s.awaiting v true s.nid) 1 [(1, orderTok (s.accessFiring need).chain)]

/-- Stage writes. -/
def stagingAll (u : State) (as : List Arrival) : State := as.foldl State.stage u

/-! ### Rounds taken back, commands of the host -/

/-- THE REGION HAS RETURNED TO ITS LAST COMPLETE CUT (21 R382 R384): its next round is the one after the cut, no operand slot of a resident block of it holds a token in its latch, every instruction stands where the cut left it, no site of it is open, the rollback is counted, and, where no operation performed on arrival is still logged (log 72), memory is as it was. -/
structure RolledBack (s : State) (lk : Nat) (l : Launch) (t : State) : Prop where
  launch : ∃ n, t.launch lk = some n ∧ n.round = l.cut ∧ n.cut = l.cut ∧ n.since = 0 ∧ n.rbcnt = l.rbcnt + 1 ∧ n.rbCut = l.rbCut + 1
  elems : ∀ x ∈ t.banks, x.2.lk = lk → x.2.st = 1 → x.2.upper = none → ∀ y ∈ x.2.elems, y.2.fwd = l.cut ∧ y.2.l.latch = none ∧ y.2.r.latch = none ∧ y.2.p.latch = none ∧ y.2.held = false
  sites : ∀ x ∈ (t.part (lkPart lk)).sites, x.lk ≠ lk
  reqs : ∀ r ∈ t.reqs, r.lk = lk → r.round < l.cut
  mem : s.overlay = [] → s.abase = [] → s.waiters = [] → (∀ x ∈ s.mtiles, x.2.overlay = []) → t.mem = s.mem ∧ t.hostMem = s.hostMem ∧ t.peerMem = s.peerMem

/-- A command of the host has been journalled with a status and is DONE (23 R404 R406). -/
def Journalled (s t : State) (c : HostCommand) (op st : Nat) : Prop :=
  t.hub.jrnSeq = s.hub.jrnSeq + 1 ∧ t.hub.journal.getLast? =
    some { seq := s.hub.jrnSeq + 1, op := op, part := c.part, src := 0x1FF, status := st, done := true, arg0 := c.words.getD 1 0, arg1 := c.words.getD 2 0 }

/-! ### Lanes (07 R162-R166) -/

/-- L and R, or the immediate under I, as an instruction of two typed operands reads them (07 R162, 05 R109). -/
structure Pair (s : State) (o : OpA) (u : Bool) (cls : List Ty) (f : Fmt) (l r : Token) : Prop where
  left : (s.operands (withPm o.fl { l := true, r := !o.i })).l = some l
  fmt : formatOf o u cls l = some f
  right : secondOf o (u || (o.ty == .tf && !f.signed)) f (s.operands (withPm o.fl { l := true, r := !o.i })).r = some r
  typeL : typed o l o.v l = true
  typeR : (o.i || typed o l o.v r) = true

/-- L as an instruction of one typed operand reads it. -/
structure Single (s : State) (o : OpA) (u : Bool) (cls : List Ty) (f : Fmt) (l : Token) : Prop where
  left : (s.operands (withPm o.fl needL)).l = some l
  fmt : formatOf o u cls l = some f
  typeL : typed o l o.v l = true

/-- The lanes of a result in which a lane that PM switches off keeps L's lane (07 R166). -/
def keptLanes (f : Fmt) (v : Bool) (pr : Predicate) (l : Token) (val : Nat → Lane) : List Lane :=
  (List.range (lanesOf f v)).map (fun j => if pr.lane j then val j else ⟨laneOf l.pay f.width j, 0⟩)

/-- The lanes of a result in which a lane that PM switches off is 0. -/
def zeroLanes (f : Fmt) (v : Bool) (pr : Predicate) (val : Nat → Lane) : List Lane :=
  (List.range (lanesOf f v)).map (fun j => if pr.lane j then val j else ⟨0, 0⟩)

/-- The two copies of a result of format f at scale 127. -/
def copies (f : Fmt) (v : Bool) (ls : List Lane) : List (Nat × Token) := fork (mkTok f v 127 (ls.map Lane.code))

/-- Lane j of two integer operands under g: operands read by the format's sign, a lane of scale 255 as 0 with NV (04 R74). -/
def intLane (f : Fmt) (l r : Token) (g : Int → Int → Nat) (j : Nat) : Lane :=
  ⟨g (intOf f (codeAt f l j).1) (intOf f (codeAt f r j).1), (codeAt f l j).2 ||| (codeAt f r j).2⟩

/-- Lane j of two operands under g on their codes. -/
def codeLane (f : Fmt) (l r : Token) (g : Nat → Nat → Nat) (j : Nat) : Lane :=
  ⟨g ((codeAt f l j).1 % 2 ^ f.width) ((codeAt f r j).1 % 2 ^ f.width), (codeAt f l j).2 ||| (codeAt f r j).2⟩


/-- The lanes of an exact operation on effective values (04 R74 R82): the value of each lane rounded once by ENCODE at scale 127 (04 R85), the flags of the
operands and of the operation. -/
def exactLane (f : Fmt) (mode : Nat) (g : Exact → Exact → Exact × Nat) (l r : Token) (j : Nat) : Lane :=
  let a := valueAt f l j
  let b := valueAt f r j
  encLane (g a.1 b.1).1 f mode ((g a.1 b.1).2 ||| (a.2 ||| b.2))

/-- A z32 scalar. -/
def z32 (n : Nat) : Token := mkTok .z32 false 127 [n]

/-- A vector operand L of a lane instruction (07 R183): its own format f, which the type accepts. -/
structure VecL (s : State) (o : OpA) (need : Slots) (cls : List Ty) (f : Fmt) (l : Token) : Prop where
  left : (s.operands (withPm o.fl need)).l = some l
  cls : (formatOf o false cls l).isSome = true
  fmt : l.fmt = some f
  typeL : typed o l true l = true

/-- A lane-moving result: L's tag and scale (07 R184). -/
def movedTok (f : Fmt) (v : Bool) (l : Token) (val : Nat → Nat) : Token := mkTok f v l.scale ((List.range (lanesOf f v)).map val)

end Sys2Proof.Machine
end

