-- ==== Sys2Proof/Certificates/Slice0/Obligations.lean ====
section
/-! DEFINITION. The statements about the machine. -/

open Sys2Proof Sys2Proof.Machine

/-- ADD, SUB, ADDS, SUBS, MIN, MAX, MUL and MULH (07 R170): the result per lane of width w, its latency (07 R168), and that nothing else changes.
DIV and REM (07 R171): quotient and remainder of every pair of lanes, with the corners and their flags; 12 fc, 20 at 64 bits (07 R168). -/
def Obligations.IntegerArithmeticResults : Prop :=
  (∀ (s : State) (o : OpA) (f : Fmt) (l r : Token) (pr : Predicate),
    s.Runs o.fl o.v { l := true, r := !o.i } pr → Pair s o o.u intCls f l r →
    ∀ x ∈ ([(.add, 1, fun a b => ofInt f.width (a + b)),
        (.sub, 1, fun a b => ofInt f.width (a - b)),
        (.adds, 1, fun a b => ofInt f.width (max f.lo (min f.hi (a + b)))),
        (.subs, 1, fun a b => ofInt f.width (max f.lo (min f.hi (a - b)))),
        (.min, 1, fun a b => ofInt f.width (min a b)),
        (.max, 1, fun a b => ofInt f.width (max a b)),
        (.mul, 3, fun a b => ofInt f.width (a * b)),
        (.mulh, 3, fun a b => ofInt f.width ((a * b) / 2 ^ f.width))] : List ((OpA → Instr) × Nat × (Int → Int → Nat))),
      let ls := keptLanes f o.v pr l (intLane f l r x.2.2)
      Emits s (exec (x.1 o) s) (takes o.fl (withPm o.fl { l := true, r := !o.i })) x.2.1 (copies f o.v ls) (foldFlags ls)) ∧
  (∀ (s : State) (o : OpA) (f : Fmt) (l r : Token) (pr : Predicate),
    s.Runs o.fl o.v { l := true, r := !o.i } pr → Pair s o o.u intCls f l r →
    let corner (a b : Int) : Bool := f.signed && a == f.lo && b == -1
    let q (a b : Int) : Int := if b = 0 then 0 else if corner a b then f.lo else Int.tdiv a b
    let m (a b : Int) : Int := if b = 0 then a else if corner a b then 0 else a - Int.tdiv a b * b
    let flag (a b : Int) : Nat := if b = 0 then (if a = 0 then flagNV else flagDZ) else 0
    let lane (g : Int → Int → Int) (j : Nat) : Lane :=
      let a := intOf f (codeAt f l j).1
      let b := intOf f (codeAt f r j).1
      ⟨ofInt f.width (g a b), flag a b ||| (codeAt f l j).2 ||| (codeAt f r j).2⟩
    ∀ x ∈ ([(.div, q), (.rem, m)] : List ((OpA → Instr) × (Int → Int → Int))),
      let ls := keptLanes f o.v pr l (lane x.2)
      Emits s (exec (x.1 o) s) (takes o.fl (withPm o.fl { l := true, r := !o.i })) (if f.width = 64 then 20 else 12) (copies f o.v ls) (foldFlags ls))

/-- AND, OR, XOR, ANDN and NOT (07 R170), SHL, SHR, SAR and ROTL by the count on R (07 R172), NEG and ABS (07 R170): the result per lane of width w.
CLZ, CTZ and POPC count within the width, CLZ and CTZ giving w for 0 (07 R172); BSWAP reverses the bytes (07 R170). -/
def Obligations.LogicShiftAndBitResults : Prop :=
  (∀ (s : State) (o : OpA) (f : Fmt) (l : Token) (pr : Predicate),
      (∀ r : Token, s.Runs o.fl o.v { l := true, r := !o.i } pr →
        (∀ x ∈ ([(.and, fun a b => a &&& b), (.or, fun a b => a ||| b), (.xor, fun a b => a ^^^ b),
            (.andn, fun a b => a &&& (2 ^ f.width - 1 - b))] : List ((OpA → Instr) × (Nat → Nat → Nat))),
          Pair s o o.u bitsCls f l r →
          let ls := keptLanes f o.v pr l (codeLane f l r x.2)
          Emits s (exec (x.1 o) s) (takes o.fl (withPm o.fl { l := true, r := !o.i })) 1 (copies f o.v ls) (foldFlags ls)) ∧
        (∀ x ∈ ([(.shl, fun a c => if c < f.width then a * 2 ^ c % 2 ^ f.width else 0),
            (.shr, fun a c => if c < f.width then a / 2 ^ c else 0),
            (.sar, fun a c => ofInt f.width (toSigned f.width a / 2 ^ min c f.width)),
            (.rotl, fun a c => (a <<< (c % f.width) ||| a >>> (f.width - c % f.width)) % 2 ^ f.width)] : List ((OpA → Instr) × (Nat → Nat → Nat))),
          Pair s o false intCls f l r →
          let ls := keptLanes f o.v pr l (codeLane f l r x.2)
          Emits s (exec (x.1 o) s) (takes o.fl (withPm o.fl { l := true, r := !o.i })) 1 (copies f o.v ls) (foldFlags ls))) ∧
      (s.Runs o.fl o.v needL pr →
        (∀ x ∈ ([(.neg, fun a => -a), (.abs, fun a => if a < 0 then -a else a)] : List ((OpA → Instr) × (Int → Int))),
          Single s o false intCls f l →
          let ls := keptLanes f o.v pr l (fun j => ⟨ofInt f.width (x.2 (intOf f (codeAt f l j).1)), (codeAt f l j).2⟩)
          Emits s (exec (x.1 o) s) (takes o.fl (withPm o.fl needL)) 1 (copies f o.v ls) (foldFlags ls)) ∧
        (Single s o o.u bitsCls f l →
          let ls := keptLanes f o.v pr l (fun j => ⟨2 ^ f.width - 1 - (codeAt f l j).1 % 2 ^ f.width, (codeAt f l j).2⟩)
          Emits s (exec (.not o) s) (takes o.fl (withPm o.fl needL)) 1 (copies f o.v ls) (foldFlags ls)))) ∧
  (∀ f : Fmt, intCls.contains f.ty = true →
      ∃ clz ctz popc bswap : Nat → Nat,
        (∀ a, a < 2 ^ f.width →
          (clz a ≤ f.width ∧ (∀ k, f.width - clz a ≤ k → a.testBit k = false) ∧ (a ≠ 0 → a.testBit (f.width - 1 - clz a) = true) ∧ (a = 0 → clz a = f.width)) ∧
          ((∀ k, k < ctz a → a.testBit k = false) ∧ (a ≠ 0 → a.testBit (ctz a) = true) ∧ (a = 0 → ctz a = f.width)) ∧
          popc a = ((List.range f.width).filter (fun k => a.testBit k)).length ∧
          (f.width % 8 = 0 → ∀ i, i < f.width / 8 → bswap a / 256 ^ i % 256 = a / 256 ^ (f.width / 8 - 1 - i) % 256)) ∧
        ∀ (s : State) (o : OpA) (l : Token) (pr : Predicate), s.Runs o.fl o.v needL pr → Single s o false intCls f l →
          ∀ x ∈ ([(.clz, clz), (.ctz, ctz), (.popc, popc), (.bswap, bswap)] : List ((OpA → Instr) × (Nat → Nat))),
            let ls := keptLanes f o.v pr l (fun j => ⟨x.2 ((codeAt f l j).1 % 2 ^ f.width), (codeAt f l j).2⟩)
            Emits s (exec (x.1 o) s) (takes o.fl (withPm o.fl needL)) 1 (copies f o.v ls) (foldFlags ls))

/-- CMP (07 R173) emits a pred: each lane that PM leaves on holds the condition that fn bits 3:1 name, the others are false; the two values that name none are
ill-formed, a block-load fault. SEL (07 R174) emits L where a scalar P is true and R where it is false, whole but for RV, which every producer sets (04 R73); a vector P takes
each lane from L or from R. -/
def Obligations.ComparisonAndSelection : Prop :=
  (∀ (s : State) (o : OpA) (f : Fmt) (l r : Token) (pr : Predicate),
    s.Runs o.fl o.v { l := true, r := !o.i } pr → Pair s o o.u intCls f l r →
    ∀ x ∈ ([(0, fun a b => decide (a = b)), (1, fun a b => decide (a ≠ b)), (2, fun a b => decide (a < b)), (3, fun a b => decide (a ≤ b)), (4, fun a b => decide (b < a)),
        (5, fun a b => decide (b ≤ a))] : List (Nat × (Int → Int → Bool))), o.fn.toNat / 2 % 8 = x.1 →
      let ls := zeroLanes f o.v pr (fun j => ⟨if x.2 (intOf f (codeAt f l j).1) (intOf f (codeAt f r j).1) then 1 else 0, (codeAt f l j).2 ||| (codeAt f r j).2⟩)
      Emits s (exec (.cmp o) s) (takes o.fl (withPm o.fl { l := true, r := !o.i })) 1 (copies .pred o.v ls) (foldFlags ls)) ∧
  (∀ o : OpA, 6 ≤ o.fn.toNat / 2 % 8 → (Instr.cmp o).wf = false) ∧
  (∀ (s : State) (o : OpA) (l r p : Token),
    let need : Slots := { l := true, r := !o.i, p := true }
    o.fl.pm = .none → s.Runs o.fl o.v need (.run true 0) →
    (s.operands need).l = some l → selSecond o (some l) (s.operands need).r = some r → (s.operands need).p = some p →
    isPred p = true → selOk o l l = true → (o.i || selOk o l r) = true →
    (p.v = false → Emits s (exec (.sel o) s) (takes o.fl need) 1 (fork { (if p.truth then l else r) with chain := none, rv := true }) 0) ∧
    (∀ f, p.v = true → o.v = true → l.tag = r.tag → l.scale = r.scale → l.fmt = some f →
      Emits s (exec (.sel o) s) (takes o.fl need) 1
        (fork (movedTok f true l (fun j => laneOf (if bitAt p.pay.toNat j then l.pay else r.pay) f.width j))) 0))

/-- TRUNC keeps the low bits at the narrower width and sets no flag, BFX and BFI move the field of imm18 (07 R175), ADDR adds L and R times its scale and sets no flag (07 R176), IMAD
multiplies and adds P (07 R170, latency 3 by R168). -/
def Obligations.FieldAndAddressResults : Prop :=
  ∀ (s : State) (o : OpA) (f : Fmt) (l r p : Token) (pr : Predicate),
    let pos := o.imm.toNat % 64
    let len := o.imm.toNat / 64 % 64 + 1
    (s.Runs o.fl o.v needL pr → Single s o o.u [.i64, .i32, .i16, .i8, .int4] f l →
      ∀ g : Fmt, fmtOf (match o.rm with
          | 0 => .i32
          | 1 => .i16
          | 2 => .i8
          | _ => .int4) (if o.ty = .tf then !f.signed else o.u) = some g → g.width < f.width →
        let ls := (List.range (lanesOf g o.v)).map (fun j => if pr.lane j ∧ j < lanesOf f o.v
          then ⟨(codeAt f l j).1 % 2 ^ g.width, 0⟩ else (⟨0, 0⟩ : Lane))
        Emits s (exec (.trunc o) s) (takes o.fl (withPm o.fl needL)) 1 (copies g o.v ls) 0) ∧
    (s.Runs o.fl o.v needL pr → Single s o o.u intCls f l → pos + len ≤ f.width →
      let ls := keptLanes f o.v pr l (fun j =>
        let c := bitsAt (codeAt f l j).1 pos len
        ⟨if (if o.ty = .tf then f.signed else !o.u) then ofInt f.width (toSigned len c) else c, (codeAt f l j).2⟩)
      Emits s (exec (.bfx o) s) (takes o.fl (withPm o.fl needL)) 1 (copies f o.v ls) (foldFlags ls)) ∧
    (s.Runs o.fl o.v needLR pr → Pair s o false intCls f l r → o.i = false → pos + len ≤ f.width →
      let ls := keptLanes f o.v pr l (fun j =>
        let a := (codeAt f l j).1
        ⟨a - bitsAt a pos len * 2 ^ pos + (codeAt f r j).1 % 2 ^ len * 2 ^ pos, (codeAt f l j).2 ||| (codeAt f r j).2⟩)
      Emits s (exec (.bfi o) s) (takes o.fl (withPm o.fl needLR)) 1 (copies f o.v ls) (foldFlags ls)) ∧
    (s.Runs o.fl o.v { l := true, r := !o.i } pr → Pair s o o.u [.i64] f l r → o.ty = .i64 →
      ∀ sc g, l.fmt = some g → (o.rm = 0 ∧ sc = 1 ∨ o.rm = 1 ∧ sc = 4 ∨ o.rm = 2 ∧ sc = 8 ∨ o.rm = 3 ∧ sc = 64) →
        let ls := keptLanes g o.v pr l (fun j =>
          let b := (codeAt g r j).1
          ⟨ofInt 64 ((codeAt g l j).1 + (if o.u then (b : Int) else toSigned 64 b) * sc), 0⟩)
        Emits s (exec (.addr o) s) (takes o.fl (withPm o.fl { l := true, r := !o.i })) 1 (copies g o.v ls) 0) ∧
    (∀ need : Slots, need = { l := true, r := !o.i, p := true } → o.fl.pm = .none → s.Runs o.fl o.v need (.run true 0) → Pair s o o.u intCls f l r →
      (s.operands need).p = some p → p.tag = l.tag → p.v = o.v → scaleOk p = true →
      let ls := keptLanes f o.v (.run true 0) l (fun j =>
        ⟨ofInt f.width (intOf f (codeAt f l j).1 * intOf f (codeAt f r j).1 + intOf f (codeAt f p j).1),
          (codeAt f l j).2 ||| (codeAt f r j).2 ||| (codeAt f p j).2⟩)
      Emits s (exec (.imad o) s) (takes o.fl need) 3 (copies f o.v ls) (foldFlags ls))

/-- FADD, FSUB, FMUL and FDIV give the exact result of the effective values rounded once in mode RM (07 R177), FMA the exact product plus P rounded once
(07 R178), FSQRT the root and FRINT the integer; their latencies are those of R168. -/
def Obligations.FloatArithmeticResults : Prop :=
  ∀ (s : State) (o : OpA) (f : Fmt) (l r p : Token) (pr : Predicate),
    (∀ x ∈ ([(.fadd, 4, fun a b => a.add o.rm b), (.fsub, 4, fun a b => a.add o.rm b.neg), (.fmul, 4, Exact.mul), (.fdiv, 12, Exact.div)] :
        List ((OpA → Instr) × Nat × (Exact → Exact → Exact × Nat))),
      s.Runs o.fl o.v { l := true, r := !o.i } pr → Pair s o false fltCls f l r →
      let ls := keptLanes f o.v pr l (exactLane f o.rm x.2.2 l r)
      Emits s (exec (x.1 o) s) (takes o.fl (withPm o.fl { l := true, r := !o.i })) x.2.1 (copies f o.v ls) (foldFlags ls)) ∧
    (∀ need : Slots, need = { l := true, r := !o.i, p := true } → o.fl.pm = .none → s.Runs o.fl o.v need (.run true 0) → Pair s o false fltCls f l r →
      (s.operands need).p = some p → p.tag = l.tag → p.v = o.v →
      let ls := keptLanes f o.v (.run true 0) l (fun j =>
        let m := (valueAt f l j).1.mul (valueAt f r j).1
        let t := m.1.add o.rm (valueAt f p j).1
        encLane t.1 f o.rm (m.2 ||| t.2 ||| (valueAt f l j).2 ||| (valueAt f r j).2 ||| (valueAt f p j).2))
      Emits s (exec (.fma o) s) (takes o.fl need) 4 (copies f o.v ls) (foldFlags ls)) ∧
    (s.Runs o.fl o.v needL pr → Single s o false fltCls f l →
      (let ls := keptLanes f o.v pr l (fun j => encLane (valueAt f l j).1.sqrt.1 f o.rm ((valueAt f l j).1.sqrt.2 ||| (valueAt f l j).2))
       Emits s (exec (.fsqrt o) s) (takes o.fl (withPm o.fl needL)) 12 (copies f o.v ls) (foldFlags ls)) ∧
      ∃ ls : List Lane,
        (∀ j, j < lanesOf f o.v → pr.lane j = true → ∀ n m e b, (valueAt f l j).1 = .fin n m e b →
          ls.getD j ⟨0, 0⟩ = encLane (.fin n (roundMag o.rm n m (-e) b).1 0 false) f o.rm
            ((if (roundMag o.rm n m (-e) b).2 then flagNX else 0) ||| (valueAt f l j).2)) ∧
        Emits s (exec (.frint o) s) (takes o.fl (withPm o.fl needL)) 2 (copies f o.v ls) (foldFlags ls)) ∧
    (∀ g : Fmt, g = (if f = .f32 then .i32 else .i16) → s.Runs o.fl o.v { l := true, r := !o.i } pr →
      (s.operands (withPm o.fl { l := true, r := !o.i })).l = some l → formatOf o false fltCls l = some f → typed o l o.v l = true →
      (if o.i then some (immTok g false o.v o.imm) else (s.operands (withPm o.fl { l := true, r := !o.i })).r) = some r →
      (o.i || dataOk g.ty o.v r) = true →
      let ls := keptLanes f o.v pr l (fun j =>
        encLane ((valueAt f l j).1.scale (if o.i then o.imm.toInt else toSigned g.width (codeAt g r j).1)) f o.rm ((valueAt f l j).2 ||| (codeAt g r j).2))
      Emits s (exec (.fscalb o) s) (takes o.fl (withPm o.fl { l := true, r := !o.i })) 4 (copies f o.v ls) (foldFlags ls))

/-- FMIN and FMAX give the number where one lane is a NaN and the smaller or larger otherwise, FABS, FNEG and FCPYS change the sign bit alone and keep L's
scale (07 R179), FCMP tests, FCLASS names the class (07 R180); each takes one fc. -/
def Obligations.FloatSignAndOrderResults : Prop :=
  ∀ (s : State) (o : OpA) (f : Fmt) (l r : Token) (pr : Predicate),
    (s.Runs o.fl o.v { l := true, r := !o.i } pr → Pair s o false fltCls f l r →
      (∀ x ∈ ([(.fmin, false), (.fmax, true)] : List ((OpA → Instr) × Bool)),
        let ls := keptLanes f o.v pr l (fun j =>
          let a := valueAt f l j
          let b := valueAt f r j
          if a.1.isNan ∧ b.1.isNan then ⟨f.params.nan, a.2 ||| b.2⟩
          else if a.1.isNan ∨ ¬ b.1.isNan ∧ a.1.lt true b.1 = x.2 then encLane b.1 f 0 (a.2 ||| b.2)
          else encLane a.1 f 0 (a.2 ||| b.2))
        Emits s (exec (x.1 o) s) (takes o.fl (withPm o.fl { l := true, r := !o.i })) 1 (copies f o.v ls) (foldFlags ls)) ∧
      (let ls := zeroLanes f o.v pr (fun j =>
          let a := valueAt f l j
          let b := valueAt f r j
          let nan := a.1.isNan || b.1.isNan
          let t : Bool := match o.sub with
            | 0 => !nan && !a.1.lt false b.1 && !b.1.lt false a.1
            | 1 => a.1.lt false b.1
            | 2 => !nan && !b.1.lt false a.1
            | _ => nan
          ⟨if t then 1 else 0, if nan && (o.sub == 1 || o.sub == 2) then a.2 ||| b.2 ||| flagNV else a.2 ||| b.2⟩)
       Emits s (exec (.fcmp o) s) (takes o.fl (withPm o.fl { l := true, r := !o.i })) 1 (copies .pred o.v ls) (foldFlags ls)) ∧
      (let ls := keptLanes f o.v pr l (fun j =>
          let c := laneOf l.pay f.width j
          if l.scale = 255 then ⟨f.params.nan, flagNV⟩
          else if (codeValue f c).1.isNan then ⟨f.params.nan, (codeValue f c).2⟩
          else ⟨c % 2 ^ (f.params.mb + f.params.eb) + (if bitAt (laneOf r.pay f.width j) (f.width - 1) then 2 ^ (f.params.mb + f.params.eb) else 0), 0⟩)
       Emits s (exec (.fcpys o) s) (takes o.fl (withPm o.fl { l := true, r := !o.i })) 1
          (fork (mkTok f o.v (if l.scale = 255 then 127 else l.scale) (ls.map Lane.code))) (foldFlags ls))) ∧
    (s.Runs o.fl o.v needL pr → Single s o false fltCls f l →
      (∀ x ∈ ([(.fabs, fun _ => false), (.fneg, fun c => !bitAt c (f.width - 1))] : List ((OpA → Instr) × (Nat → Bool))),
        let ls := keptLanes f o.v pr l (fun j =>
          let c := laneOf l.pay f.width j
          if l.scale = 255 then ⟨f.params.nan, flagNV⟩
          else if (codeValue f c).1.isNan then ⟨f.params.nan, (codeValue f c).2⟩
          else ⟨c % 2 ^ (f.params.mb + f.params.eb) + (if x.2 c then 2 ^ (f.params.mb + f.params.eb) else 0), 0⟩)
        Emits s (exec (x.1 o) s) (takes o.fl (withPm o.fl needL)) 1
          (fork (mkTok f o.v (if l.scale = 255 then 127 else l.scale) (ls.map Lane.code))) (foldFlags ls)) ∧
      (let g : Fmt := if f = .f32 then .z32 else .z16
       let ls := zeroLanes f o.v pr (fun j => fclassLane f l.scale.toNat (laneOf l.pay f.width j))
       Emits s (exec (.fclass o) s) (takes o.fl (withPm o.fl needL)) 1 (copies g o.v ls) (foldFlags ls)))

/-- THE APPROXIMATIONS (07 R182): each completes in 6 fc. A special operand gives in its lane what the table of R182 says, with its flag beside those of reading the operand: both zeros, both
infinities, what is less than 0 for FRSQ and FLOG2, and the exact results at 0 of FEXP2, FEXP, FTANH and FSIGM; a NaN gives the canonical NaN; a lane that PM switches off keeps L's. -/
def Obligations.ApproximationResults : Prop :=
  ∀ (s : State) (o : OpA) (f : Fmt) (l : Token) (pr : Predicate), s.Runs o.fl o.v needL pr → Single s o false fltCls f l →
    let zero (n : Bool) : Exact := .fin n 0 0 false
    let one (n : Bool) : Exact := .fin n 1 0 false
    let half : Exact := .fin false 1 (-1) false
    let none2 : Nat → Option (Exact × Nat) := fun _ => none
    -- of each instruction: its result at a zero of sign n, at an infinity of sign n, and at a finite number less than 0
    ∀ x ∈ ([(.frcp, fun n => (.inf n, flagDZ), fun n => (zero n, 0), none2),
        (.frsq, fun n => (.inf n, flagDZ), fun n => if n then (.nan, flagNV) else (zero false, 0), fun _ => some (.nan, flagNV)),
        (.fexp2, fun _ => (one false, 0), fun n => if n then (zero false, 0) else (.inf false, 0), none2),
        (.flog2, fun _ => (.inf true, flagDZ), fun n => if n then (.nan, flagNV) else (.inf false, 0), fun _ => some (.nan, flagNV)),
        (.fexp, fun _ => (one false, 0), fun n => if n then (zero false, 0) else (.inf false, 0), none2),
        (.ftanh, fun n => (zero n, 0), fun n => (one n, 0), none2),
        (.fsigm, fun _ => (half, 0), fun n => if n then (zero false, 0) else (one false, 0), none2)] :
        List ((OpA → Instr) × (Bool → Exact × Nat) × (Bool → Exact × Nat) × (Nat → Option (Exact × Nat)))),
      let gives (j : Nat) (ls : List Lane) (y : Exact × Nat) : Prop := ls.getD j ⟨0, 0⟩ = encLane y.1 f 0 (y.2 ||| (valueAt f l j).2)
      ∃ ls : List Lane, ls.length = lanesOf f o.v ∧
        (∀ j, j < lanesOf f o.v → pr.lane j = true →
          (∀ n e b, (valueAt f l j).1 = .fin n 0 e b → gives j ls (x.2.1 n)) ∧
          (∀ n, (valueAt f l j).1 = .inf n → gives j ls (x.2.2.1 n)) ∧
          (∀ m e b y, (valueAt f l j).1 = .fin true m e b → 0 < m → x.2.2.2 m = some y → gives j ls y) ∧
          ((valueAt f l j).1 = .nan → gives j ls (.nan, 0))) ∧
        (∀ j, j < lanesOf f o.v → pr.lane j = false → ls.getD j ⟨0, 0⟩ = ⟨laneOf l.pay f.width j, 0⟩) ∧
        Emits s (exec (x.1 o) s) (takes o.fl (withPm o.fl needL)) 6 (copies f o.v ls) (foldFlags ls)

/-- THE LANE MOVES (07 R183 R184): every result keeps L's tag and scale and takes one fc; lane j of it comes from the lane that R183 names, and a lane that PM
switches off keeps L's. An index or a count of the reserved scale reads as 0 and sets NV (04 R74). -/
def Obligations.LaneMoveResults : Prop :=
  ∀ (s : State) (o : OpA) (f : Fmt) (l r : Token) (pr : Predicate),
    let n := f.lanes
    let lane (t : Token) (j : Nat) : Nat := laneOf t.pay f.width j
    let pair (j : Nat) : Nat := if j < n then lane l j else lane r (j - n)
    let kept (g : Nat → Nat) (j : Nat) : Nat := if pr.lane j then g j else lane l j
    let two : Prop := r.tag = l.tag ∧ r.v = true ∧ scaleOk r = true ∧ l.scale = r.scale
    let gives (i : Instr) (need : Slots) (tok : Token) (fl : Nat) : Prop := Emits s (exec i s) (takes o.fl (withPm o.fl need)) 1 (fork tok) fl
    (s.Runs o.fl o.v needL pr → (s.operands (withPm o.fl needL)).l = some l → l.fmt = some f → typed o l false l = true →
      gives (.vbcast o) needL (movedTok f true l (fun j => if pr.lane j then lane l 0 else 0)) 0) ∧
    (s.Runs o.fl o.v { l := true, r := !o.i } pr → VecL s o { l := true, r := !o.i } anyCls f l →
      ∀ k fl, (o.i = true ∧ k = o.imm.toNat ∧ k < n ∧ fl = 0 ∨
          o.i = false ∧ (s.operands (withPm o.fl { l := true, r := !o.i })).r = some r ∧ isW32 r = true ∧ k = r.low32 % n ∧ fl = r.numFlags) →
        ((∀ bits, pr ≠ .run false bits) → gives (.vextr o) { l := true, r := !o.i } (mkTok f false l.scale [lane l k]) fl) ∧
        gives (.vrot o) { l := true, r := !o.i } (movedTok f true l (kept (fun j => lane l ((j + k) % n)))) fl) ∧
    (s.Runs o.fl o.v needLR pr → (s.operands (withPm o.fl needLR)).r = some r →
      (VecL s o needLR anyCls f l → (∀ bits, pr ≠ .run false bits) →
        (r.tag = l.tag → r.scale = l.scale → r.v = false → o.imm.toNat < n →
          gives (.vins o) needLR (movedTok f true l (fun j => if j = o.imm.toNat then lane r 0 else lane l j)) 0) ∧
        (isPred r = true → r.v = true →
          gives (.vcompr o) needLR (mkTok f true l.scale (((List.range n).filter (fun j => bitAt r.pay.toNat j)).map (lane l))) 0 ∧
          gives (.vexpnd o) needLR (movedTok f true l (fun j =>
            if bitAt r.pay.toNat j then lane l ((List.range j).filter (fun i => bitAt r.pay.toNat i)).length else 0)) 0)) ∧
      (VecL s o needLR permCls f l → isBytes r = true →
        gives (.vperm o) needLR (movedTok f true l (kept (fun j => lane l (laneOf r.num 8 j % n)))) r.numFlags) ∧
      (VecL s o needLR anyCls f l → two →
        (o.imm.toNat ≤ n → gives (.vslide o) needLR (movedTok f true l (kept (fun j => pair (j + o.imm.toNat)))) 0) ∧
        gives (.vzip o) needLR (movedTok f true l (kept (fun j => lane (if j % 2 = 0 then l else r) ((if o.bit 0 then n / 2 else 0) + j / 2)))) 0 ∧
        gives (.vunzip o) needLR (movedTok f true l (kept (fun j => pair (2 * j + (if o.bit 0 then 1 else 0))))) 0)) ∧
    (∀ p need, need = ({ l := true, r := true, p := true } : Slots) → o.fl.pm = .none → s.Runs o.fl o.v need (.run true 0) → VecL s o need permCls f l →
      (s.operands need).r = some r → (s.operands need).p = some p → two → isBytes p = true →
      gives (.vshuf o) need (movedTok f true l (fun j => pair (laneOf p.num 8 j % (2 * n)))) p.numFlags) ∧
    (s.Runs o.fl o.v needL pr → (∀ bits, pr ≠ .run false bits) → (s.operands (withPm o.fl needL)).l = some l →
      (isPred l = true → l.v = true →
        gives (.vpcnt o) needL (mkTok .z32 false 127 [((List.range 128).filter (fun j => bitAt l.pay.toNat j)).length]) 0) ∧
      (isW32 l = true → gives (.vmask o) needL (mkTok .pred true 127 (List.replicate (min l.low32 o.ty.lanes) 1)) l.numFlags))

/-- THE REDUCTIONS (07 R185): log2(n) + 1 fc; VRAND and VRIOR combine all lanes, and for integers VRADD is the sum mod 2^w, VRMIN and VRMAX the smallest and the
largest lane; lanes that PM switches off do not count; on floating-point lanes those three complete with one value of the type. -/
def Obligations.ReductionResults : Prop :=
  ∀ (s : State) (o : OpA) (f : Fmt) (l : Token) (pr : Predicate), s.Runs o.fl o.v needL pr →
    (s.operands (withPm o.fl needL)).l = some l → typed o l true l = true →
    let on : List Nat := (List.range f.lanes).filter (fun j => pr.lane j)
    let code (j : Nat) : Nat := (codeAt f l j).1
    let gives (i : Instr) (c fl : Nat) : Prop :=
      Emits s (exec i s) (takes o.fl (withPm o.fl needL)) (lg f.lanes + 1) (fork (mkTok f false 127 [c])) fl
    let nv := if f.isInt = true ∧ l.scale = 255 ∧ on ≠ [] then flagNV else 0
    (formatOf o false bitsCls l = some f → f.isFloat = false →
      gives (.vrand o) (on.foldl (fun a j => a &&& code j) (2 ^ f.width - 1)) nv ∧ gives (.vrior o) (on.foldl (fun a j => a ||| code j) 0) nv) ∧
    (formatOf o false (intCls ++ fltCls) l = some f → f.isInt = true →
      gives (.vradd o) (ofInt f.width ((on.map (fun j => intOf f (code j))).foldl (fun a b => a + b) 0)) nv ∧
      gives (.vrmin o) (ofInt f.width ((on.map (fun j => intOf f (code j))).foldl min f.hi)) nv ∧
      gives (.vrmax o) (ofInt f.width ((on.map (fun j => intOf f (code j))).foldl max f.lo)) nv) ∧
    (formatOf o false (intCls ++ fltCls) l = some f → f.isFloat = true →
      ∀ i ∈ ([.vradd, .vrmin, .vrmax] : List (OpA → Instr)), ∃ c fl, gives (i o) c fl)

/-- THE CONVERSIONS: CVT encodes each lane's effective value at the scale its mode names (07 R186) and CVTI rounds and saturates it (07 R187, 04 R86), in 2 fc. -/
def Obligations.ConversionResults : Prop :=
  ∀ (s : State) (o : OpA) (f g : Fmt) (l : Token) (pr : Predicate),
    (s.operands (withPm o.fl { l := true, r := o.sub == 2 })).l = some l → convOk o.v l = some f → (o.v = true → partOk f.lanes g.lanes o.part = true) →
    (fmtOf o.ty false = some g → s.Runs o.fl o.v { l := true, r := o.sub == 2 } pr →
      let src (j : Nat) : Option Nat := if pr.lane j then sourceLane o.v f.lanes g.lanes o.part j else none
      let xs := (List.range (lanesOf g o.v)).filterMap (fun j => (src j).map (fun i => (valueAt f l i).1))
      ∀ t : Nat, t ≤ 254 → (o.sub = 0 ∧ t = (if f.isInt || l.scale == 255 then 127 else l.scale.toNat) ∨ o.sub = 1 ∧ t = o.imm.toNat % 256 ∨
          (o.sub = 2 ∧ ∃ r, (s.operands (withPm o.fl { l := true, r := o.sub == 2 })).r = some r ∧ isW32 r = true ∧ t = r.low32) ∨
          o.sub = 3 ∧ t = autoScale g (streamOf o s.here.ost).2 xs) →
      ∃ u fl, exec (.cvt o) s = .next u ∧
        ((u.elem s.cur).q0 = s.here.q0 ++ [s.resultOf 2 s.firing.thr (fork (mkTok g o.v (BitVec.ofNat 8 t) ((List.range (lanesOf g o.v)).map (fun j =>
          if pr.lane j then
            match sourceLane o.v f.lanes g.lanes o.part j with
            | none => 0
            | some i => (encodeValue (valueAt f l i).1 g t o.rm).code
          else if f = g then laneOf l.pay f.width j else 0))))]) ∧
        (u.bank (siteKey s.cur)).nstage = (s.bank (siteKey s.cur)).nstage ++ fl ∧ Within s u) ∧
    (fmtOf o.ty o.u = some g → g.isInt = true → s.Runs o.fl o.v needL pr →
      let ls := (List.range (lanesOf g o.v)).map (fun j =>
        if pr.lane j then
          match sourceLane o.v f.lanes g.lanes o.part j with
          | none => ⟨0, 0⟩
          | some i => toIntLane g o.rm f.isFloat (valueAt f l i)
        else (⟨if f = g then laneOf l.pay f.width j else 0, 0⟩ : Lane))
      Emits s (exec (.cvti o) s) (takes o.fl (withPm o.fl needL)) 2 (copies g o.v ls) (foldFlags ls))

/-- SCALEG reads and SCALES sets the scale (07 R188), FMTCHK tests the format (07 R189), UFRD reads a conversion's committed state (07 R190), PACK and UNPACK move
groups of lanes (07 R191), RNG draws Cyzer-64 of the key and the position (07 R192). -/
def Obligations.FormatAndRandomResults : Prop :=
  ∀ (s : State) (o : OpA) (f : Fmt) (l r : Token) (pr : Predicate),
    (s.Runs o.fl false needL pr → (s.operands (withPm o.fl needL)).l = some l →
      (s.firing.round ≤ s.firing.b.mpass → Emits s (exec (.ufrd o) s) (takes o.fl (withPm o.fl needL)) 1
        (fork (z64Tok (committedStream (s.bank (siteKey s.cur)) (o.imm.toNat % 128)))) 0)) ∧
    (s.Runs o.fl o.v needL pr → (s.operands (withPm o.fl needL)).l = some l →
      let hit := l.tag.toNat == o.imm.toNat % 64 && (bitAt o.imm.toNat 7 || l.v == bitAt o.imm.toNat 6)
      (l.fmt = some f → (f.isInt || f.isFloat) = true → l.v = o.v → scaleOk l = true →
        Emits s (exec (.scaleg o) s) (takes o.fl (withPm o.fl needL)) 1 (fork (z32 l.scale.toNat)) 0) ∧
      (o.bit 0 = false → Emits s (exec (.fmtchk o) s) (takes o.fl (withPm o.fl needL)) 1 (fork (predTok hit)) 0) ∧
      (o.bit 0 = true → hit = true → Emits s (exec (.fmtchk o) s) (takes o.fl (withPm o.fl needL)) 1 (fork { l with rv := true }) 0) ∧
      (l.fmt = some f → typed o l o.v l = true →
        Emits s (exec (.unpack o) s) (takes o.fl (withPm o.fl needL)) 1 (fork (movedTok f o.v l (fun j =>
          let k := lanesOf f o.v / 2 ^ (o.sub + 1)
          if pr.lane j then (if j < k then laneOf l.pay f.width (o.part * k + j) else 0) else laneOf l.pay f.width j))) 0)) ∧
    (s.Runs o.fl o.v { l := true, r := !o.i } pr → (s.operands (withPm o.fl { l := true, r := !o.i })).l = some l →
      (∀ (k t : Int) (fl : Nat), l.fmt = some f → f.isFloat = true → l.v = o.v →
        (o.i = true ∧ k = o.imm.toInt ∧ fl = 0 ∨ o.i = false ∧ (s.operands (withPm o.fl { l := true, r := !o.i })).r = some r ∧ isW32 r = true ∧
          k = (if o.bit 0 then toSigned 32 r.low32 else r.low32) ∧ fl = r.numFlags) →
        (o.bit 0 = false ∧ t = k ∨ o.bit 0 = true ∧ l.scale ≠ 255 ∧ t = (l.scale.toNat : Int) + k) → 0 ≤ t → t ≤ 254 →
        Emits s (exec (.scales o) s) (takes o.fl (withPm o.fl { l := true, r := !o.i })) 1
          (fork { l with scale := BitVec.ofNat 8 t.toNat, rv := true }) fl) ∧
      (isAddr l = true → (if o.i then some (z64Tok o.imm.toNat) else (s.operands (withPm o.fl { l := true, r := !o.i })).r) = some r →
        isAddr r = true →
        let k := if l.scale = 255 then 0 else laneOf l.pay 64 0
        let n := if r.scale = 255 then 0 else laneOf r.pay 64 0
        Emits s (exec (.rng o) s) (takes o.fl (withPm o.fl { l := true, r := !o.i })) 6
          (if o.v then fork (mkTok .z64 true 127 ((List.range 8).map (fun j => if pr.lane j then cyzer k ((n + j) % 2 ^ 64) else 0)))
           else fork (z64Tok (cyzer k n))) 0)) ∧
    (s.Runs o.fl o.v needLR pr → (s.operands (withPm o.fl needLR)).l = some l → (s.operands (withPm o.fl needLR)).r = some r →
      l.fmt = some f → typed o l o.v l = true → r.tag = l.tag → r.scale = l.scale → r.v = o.v →
      let k := lanesOf f o.v / 2 ^ (o.sub + 1)
      Emits s (exec (.pack o) s) (takes o.fl (withPm o.fl needLR)) 1 (fork (movedTok f o.v l (fun j =>
        if pr.lane j ∧ o.part * k ≤ j ∧ j < o.part * k + k then laneOf r.pay f.width (j - o.part * k) else laneOf l.pay f.width j))) 0)

/-- POISON PASSES A PURE PRODUCER (03 R66): the instruction emits poison of the first poisoned operand in the order L, R, P, with the tag and V bit of its
result, and stages no flags; said of the integer instructions of two operands that decide nothing early (R48), where no target is a context register (R58).
PREDICATION (05 R106): where PM does not match a scalar P, the firing takes its operands, leaving R under K, and emits nothing; said of every integer instruction of two
operands of R170 and of STEER's fellow anchors QPUSH, CWR and TRIG. -/
def Obligations.PoisonAndPredication : Prop :=
  (∀ (s : State) (o : OpA) (f : Fmt) (t : Token), fmtOf o.ty o.u = some f →
      ∀ need : Slots, need = withPm o.fl { l := true, r := !o.i } → s.CanFire o.fl need → toRegister s.firing.b s.cur.idx = false →
        (∃ a b c, (s.operands need).l = a ∧ (s.operands need).r = b ∧ (s.operands need).p = c ∧
          ((∃ x, a = some x ∧ x.poison = true ∧ t = x) ∨
           (∃ x y, a = some x ∧ x.poison = false ∧ b = some y ∧ y.poison = true ∧ t = y) ∨
           (∃ x z, a = some x ∧ x.poison = false ∧ b.all (fun y => !y.poison) = true ∧ c = some z ∧ z.poison = true ∧ t = z))) →
        ∀ x ∈ ([(.add, 1), (.sub, 1), (.adds, 1), (.subs, 1), (.mulh, 3)] : List ((OpA → Instr) × Nat)),
          Emits s (exec (x.1 o) s) (takes o.fl need) x.2
            (fork { pay := t.pay, tag := BitVec.ofNat 6 f.tag, scale := 127, v := o.v, poison := true, rv := true, chain := none, thr := t.thr }) 0) ∧
  (∀ (s : State) (o : OpA) (p : Token), o.fl.pm ≠ .none → s.firing.ops.p = some p → isPred p = true → p.v = false → p.truth ≠ (o.fl.pm == .onTrue) →
      (∀ need : Slots, need = withPm o.fl { l := true, r := !o.i } → s.CanFire o.fl need → (s.operands need).poison = none →
        ∀ i ∈ ([.add, .sub, .adds, .subs, .min, .max, .mul, .mulh] : List (OpA → Instr)), Becomes s (exec (i o) s) (s.firedElem (takes o.fl need) s.firing.thr)) ∧
      (∀ need : Slots, need = withPm o.fl needL → s.CanFire o.fl need → (s.operands need).poison = none →
        ∀ i ∈ ([.qpush, .cwr, .trig] : List (OpA → Instr)), Becomes s (exec (i o) s) (s.firedElem need s.firing.thr)))

/-- EARLY FIRING (03 R48 R50): under E an AND or a MUL with no register target fires on an L that decides, one that reads as a zero of the type, with R empty, emits the zero, and sends
an anti-token of its round up R; the zero that the reserved scale makes sets NV (04 R74). -/
def Obligations.EarlyFiringSendsAnAntiToken : Prop :=
  ∀ (s : State) (o : OpA) (f : Fmt) (l : Token), o.fl.e = true → o.fl.b = false → o.fl.k = false → o.fl.pm = .none → o.i = false → o.v = false →
    s.here.held = false → stageFree s.here s.fc = true → s.firing.ops.l = some l → s.firing.ops.r = none → fmtOf o.ty o.u = some f →
    toRegister s.firing.b s.cur.idx = false → l.fmt = some f → l.v = false → l.poison = false → f.isInt = true → scaleOk l = true → (codeAt f l 0).1 = 0 → antiCanLeave s.firing.b s.cur.idx .r = true →
    ∀ x ∈ ([(.and, 1), (.mul, 3)] : List ((OpA → Instr) × Nat)),
      Becomes s (exec (x.1 o) s)
        ((((s.firedElem needL s.firing.thr).sendAnti .r)).plus (s.resultOf x.2 s.firing.thr (fork (mkTok f false 127 [0])))) l.numFlags

/-- STEER sends L to the target that P chooses (06 R129), MERGE passes the input that P chooses, and under E takes both (06 R130), FANOUT copies L to four targets, DROP
takes a token (06 R131), ORDF copies an order token and ORDJ gives L's when all have come (06 R132); one fc each. -/
def Obligations.SteeringAndCopying : Prop :=
  ∀ (s : State) (o : OpA) (l p : Token) (ob : OpB),
    (o.fl.pm = .none → s.Runs o.fl false needLP (.run true 0) → (s.operands needLP).l = some l → (s.operands needLP).p = some p →
      isScalarPred p = true → routeOk o.ty l = true →
      Emits s (exec (.steer o) s) (takes o.fl needLP) 1 [(if p.truth then 0 else 1, { l with rv := true })] 0) ∧
    (o.fl.pm = .none → s.firing.ops.p = some p → isScalarPred p = true →
      ∀ need : Slots, need = { l := o.fl.e || p.truth, r := o.fl.e || !p.truth, p := true } → s.Runs o.fl false need (.run true 0) →
        ∀ t, (if p.truth then (s.operands need).l else (s.operands need).r) = some t → routeOk o.ty t = true →
          Emits s (exec (.merge o) s) (takes o.fl need) 1 (fork { t with rv := true }) 0) ∧
    (ob.fl.pm = .none → s.Runs ob.fl false needL (.run true 0) → (s.operands needL).l = some l → tagNamed l = true → l.tag ≠ 0 → (l.fmt.isNone || scaleOk l) = true →
      Emits s (exec (.fanout ob) s) (takes ob.fl needL) 1 ([0, 1, 2, 3].map (fun k => (k, { l with rv := true }))) 0) ∧
    (o.fl.pm = .none → s.Runs o.fl false needL (.run true 0) → Becomes s (exec (.drop o) s) (s.firedElem (takes o.fl needL) s.firing.thr)) ∧
    (s.CanFire o.fl needL → (s.operands needL).l = some l → isOrder l = true → l.poison = false →
      Emits s (exec (.ordf o) s) needL 1 (fork { l with rv := true }) 0) ∧
    (∀ need : Slots, need = { l := true, r := true, p := o.bit 0 } → s.CanFire o.fl need → (s.operands need).l = some l →
      (∀ x ∈ [(s.operands need).l, (s.operands need).r, (s.operands need).p], x.all (fun t => isOrder t && !t.poison) = true) →
      Emits s (exec (.ordj o) s) need 1 [(0, { l with rv := true })] 0)

/-- CARRY (06 R134): idle it passes L and becomes active; active, with P true it passes R, with P false it takes P alone and becomes idle. INVAR (06 R135): empty it takes and
emits L; holding, with P true it emits the held value again, with P false it drops it. A poison token on L or R is data, one on P traps, and a block that is first loaded stands in
neither state but idle. -/
def Obligations.LoopOperators : Prop :=
  ∀ (s : State) (o : OpA) (l p : Token),
    (s.CanFire o.fl needL → (s.operands needL).l = some l → (l.poison || routeOk o.ty l) = true →
      (s.here.ost ≠ .carry true → Becomes s (exec (.carry o) s)
        ({ s.firedElem needL s.firing.thr with ost := .carry true }.plus (s.resultOf 1 s.firing.thr (fork { l with rv := true })))) ∧
      ((∀ v, s.here.ost ≠ .invar (some v)) → Becomes s (exec (.invar o) s)
        ({ s.firedElem needL s.firing.thr with ost := .invar (some { l with rv := true }) }.plus (s.resultOf 1 s.firing.thr (fork { l with rv := true }))))) ∧
    (∀ need : Slots, need = { r := p.truth, p := true } → s.CanFire o.fl need → s.firing.ops.p = some p → isScalarPred p = true → p.poison = false →
      s.here.ost = .carry true →
      (p.truth = true → ∀ r, (s.operands need).r = some r → (r.poison || routeOk o.ty r) = true →
        Becomes s (exec (.carry o) s) ((s.firedElem need s.firing.thr).plus (s.resultOf 1 s.firing.thr (fork { r with rv := true })))) ∧
      (p.truth = false → Becomes s (exec (.carry o) s) { s.firedElem need s.firing.thr with ost := .carry false })) ∧
    (∀ v, s.CanFire o.fl { p := true } → s.firing.ops.p = some p → isScalarPred p = true → p.poison = false → s.here.ost = .invar (some v) →
      (p.truth = true → Becomes s (exec (.invar o) s) ((s.firedElem { p := true } s.firing.thr).plus (s.resultOf 1 s.firing.thr (fork v)))) ∧
      (p.truth = false → Becomes s (exec (.invar o) s) { s.firedElem { p := true } s.firing.thr with ost := .invar none })) ∧
    (∀ x, s.Diverts → s.CanFire o.fl { p := true } → s.firing.ops.p = some x → x.poison = true →
      (s.here.ost = .carry true → ∃ t, exec (.carry o) s = .next t ∧ Traps s (s.operands { p := true }) kindOperand (x.word % 256) 4 0 x.word t) ∧
      ((∃ v, s.here.ost = .invar (some v)) → ∃ t, exec (.invar o) s = .next t ∧ Traps s (s.operands { p := true }) kindOperand (x.word % 256) 4 0 x.word t)) ∧
    (∀ (lk : Nat) (n : Launch) (rec : LoadRec) (num origin blk : Nat) (pin : Bool) (at' : Place') (round i : Nat), mget n.working (workKey origin blk) = none → at'.tile = at'.tile2 →
      (((s.install lk n rec num origin blk pin at' round).bank (bankKeyOf at'.core at'.tile at'.bank)).elem i).ost = .none)

/-- GATE (06 R136): a credit adds R's low 32 bits, up to 2^32 - 1, and uses no pipeline stage; a pass with P true takes a credit and sends L to target 0, with P false sends
L to target 1; without a credit a P true waits; the credits begin as imm18.
COUNT (06 R138): an L goes to target 0 and counts; the nth closes the group, takes the count and sends n to target 1; a P true closes a group early with its size, a P false
is taken alone; a P firing that is ready beside an L firing comes next. A group of 0 is a routing fault, which takes the count; under I, where none stands, it takes the operand of the firing,
the model's choice (log 79). -/
def Obligations.GateAndCount : Prop :=
  (∀ (s : State) (o : OpA) (l r p : Token) (c : Nat), (s.here.ost = .gate c ∨ (∀ k, s.here.ost ≠ .gate k) ∧ c = o.imm.toNat) →
    (s.here.held = false → (o.fl.b && !s.here.bpass) = false → s.firing.ops.r = some r → isW32 r = true → r.poison = false →
      Becomes s (exec (.gateCreditFiring o) s)
        { s.firedElem { r := true } s.firing.thr with ost := .gate (min (c + r.low32) 0xFFFFFFFF), last := s.here.last } r.numFlags) ∧
    (s.CanFire o.fl needLP → s.firing.ops.l = some l → (l.poison || routeOk o.ty l) = true → s.firing.ops.p = some p → isScalarPred p = true → p.poison = false →
      (p.truth = true → 0 < c → Becomes s (exec (.gatePassFiring o) s)
        ({ s.firedElem needLP s.firing.thr with ost := .gate (c - 1) }.plus (s.resultOf 1 s.firing.thr [(0, { l with rv := true })]))) ∧
      (p.truth = true → c = 0 → exec (.gatePassFiring o) s = .next s) ∧
      (p.truth = false → Becomes s (exec (.gatePassFiring o) s)
        ((s.firedElem needLP s.firing.thr).plus (s.resultOf 1 s.firing.thr [(1, { l with rv := true })]))))) ∧
  (∀ (s : State) (o : OpA) (l p : Token) (n c fl : Nat), (s.here.ost = .count c ∨ (∀ k, s.here.ost ≠ .count k) ∧ c = 0) →
    (o.i = true ∧ n = o.imm.toNat ∧ fl = 0 ∨ o.i = false ∧ ∃ r, s.firing.ops.r = some r ∧ isW32 r = true ∧ r.poison = false ∧ n = r.low32 ∧ fl = r.numFlags) →
    (∀ need : Slots, need = { l := true, r := !o.i } → s.CanFire o.fl need → s.firing.ops.l = some l → (l.poison || routeOk o.ty l) = true →
      (0 < n → c + 1 = n → Becomes s (exec (.countLFiring o) s)
        ({ s.firedElem need s.firing.thr with ost := .count 0, pturn := countP o s.firing.ops }.plus
          (s.resultOf 1 s.firing.thr [(0, { l with rv := true }), (1, z32 n)])) fl) ∧
      (0 < n → c + 1 ≠ n → Becomes s (exec (.countLFiring o) s)
        ({ s.firedElem needL s.firing.thr with ost := .count (c + 1), pturn := countP o s.firing.ops }.plus
          (s.resultOf 1 s.firing.thr [(0, { l with rv := true })])) fl) ∧
      (n = 0 → s.Diverts → ∃ t, exec (.countLFiring o) s = .next t ∧ Traps s (s.operands need) kindOperand fRouting (if o.i then 1 else 2) 0 0 t)) ∧
    (s.firing.ops.p = some p → isScalarPred p = true → p.poison = false →
      (∀ need : Slots, need = { r := !o.i, p := true } → p.truth = true → s.CanFire o.fl need →
        (0 < n → Becomes s (exec (.countPFiring o) s)
          ({ s.firedElem need s.firing.thr with ost := .count 0, pturn := false }.plus (s.resultOf 1 s.firing.thr [(1, z32 c)])) fl) ∧
        (n = 0 → s.Diverts → ∃ t, exec (.countPFiring o) s = .next t ∧ Traps s (s.operands need) kindOperand fRouting (if o.i then 4 else 2) 0 0 t)) ∧
      (p.truth = false → s.CanFire o.fl { p := true } →
        Becomes s (exec (.countPFiring o) s) { s.firedElem { p := true } s.firing.thr with pturn := false })))

/-- REPEAT (06 R137): a firing begins with the first copy of L and goes on with one copy in each fc, as long as the instruction is not held and its stage is free; P is true beside every copy but the last,
with which the operands leave; a count of 0 takes them and emits nothing.
CONST (06 R133, 05 R112): with a source on L it emits its imm35 once per trigger; with none it emits whenever its stage is free, its output is empty, its target accepts and holds
no pending cancel, and that emission is owed to no round. -/
def Obligations.RepeatsAndConstants : Prop :=
  (∀ (s : State) (o : OpA) (l : Token) (n fl : Nat) (need : Slots), need = { l := true, r := !o.i } → s.firing.ops.l = some l →
      (o.i = true ∧ n = o.imm.toNat ∧ fl = 0 ∨ o.i = false ∧ ∃ r, s.firing.ops.r = some r ∧ isW32 r = true ∧ r.poison = false ∧ n = r.low32 ∧ fl = r.numFlags) →
      let copy (more : Bool) : List (Nat × Token) := [(0, { l with rv := true }), (1, predTok more)]
      ((∀ j, s.here.ost ≠ .copies j) → s.CanFire o.fl need → (l.poison || routeOk o.ty l) = true →
        (n = 0 → Becomes s (exec (.repeatCopies o) s) (s.firedElem need s.firing.thr) fl) ∧
        (n = 1 → Becomes s (exec (.repeatCopies o) s) ({ s.firedElem need s.firing.thr with ost := .none }.plus (s.resultOf 1 s.firing.thr (copy false))) fl) ∧
        (1 < n → Becomes s (exec (.repeatCopies o) s) ({ s.firedElem {} s.firing.thr with ost := .copies 1 }.plus (s.resultOf 1 s.firing.thr (copy true))) fl)) ∧
      (∀ k, 0 < k → s.here.ost = .copies k → s.here.held = false → stageFree s.here s.fc = true →
        let next (more : Bool) : Flight := { s.resultOf 1 s.firing.thr (copy more) with k := s.firing.k - 1 }
        (k + 1 < n → exec (.repeatCopies o) s = .next (s.setElem s.cur ({ s.here with ost := .copies (k + 1), last := some s.fc }.plus (next true)))) ∧
        (k + 1 = n → exec (.repeatCopies o) s = .next (s.setElem s.cur ({ s.here.consume need with ost := .none, last := some s.fc }.plus (next false)))))) ∧
  (∀ (s : State) (o : OpC) (f : Fmt), fmtOf o.ty false = some f → o.fl.pm = .none →
      ∀ c : Token, c = mkTok f false 127 [if f.signed then ofInt 64 o.imm.toInt else o.imm.toNat] →
      (hasSource s.firing.b s.cur.idx .l = true → s.Runs o.fl false needL (.run true 0) → Emits s (exec (.const o) s) (takes o.fl needL) 1 [(0, c)] 0) ∧
      (hasSource s.firing.b s.cur.idx .l = false → s.CanFire o.fl {} → s.here.q0 = [] → s.here.pend.getD 0 [] = [] → s.targetAccepts (siteKey s.cur) s.cur.idx 0 o.t0 = true →
        Becomes s (exec (.const o) s) ((s.firedElem {} s.firing.thr).plus { due := s.fc, outs := some [(0, c)], round := none, after := none, id := 0 })))

/-- FAULTS OF ROUTER OPERATORS (06 R127, 03 R67): a poisoned operand traps with its own code, a wrong tag with format, and the faulting operand alone leaves its latch; said of the P of
STEER, MERGE, CARRY and INVAR, the L of ORDF and INVAR and the R of GATE. -/
def Obligations.RouterFaultsTakeTheFaultingOperand : Prop :=
  ∀ (s : State) (o : OpA) (x : Token) (code aux : Nat), s.Diverts →
    (∀ good : Token → Bool, (x.poison = true ∧ code = x.word % 256 ∧ aux = x.word ∨ x.poison = false ∧ good x = false ∧ code = fFormat ∧ aux = 0) →
      (good = isScalarPred → s.firing.ops.p = some x → x.poison = true → s.CanFire o.fl needLP →
        ∃ t, exec (.steer o) s = .next t ∧ Traps s (s.operands needLP) kindOperand code 4 0 aux t) ∧
      (good = isScalarPred → s.firing.ops.p = some x → x.poison = true → o.fl.e = false → s.CanFire o.fl { p := true } →
        ∃ t, exec (.merge o) s = .next t ∧ Traps s (s.operands { p := true }) kindOperand code 4 0 aux t) ∧
      (good = isScalarPred → s.firing.ops.p = some x → s.CanFire o.fl { p := true } → s.here.ost = .carry true →
        ∃ t, exec (.carry o) s = .next t ∧ Traps s (s.operands { p := true }) kindOperand code 4 0 aux t) ∧
      (good = isScalarPred → s.firing.ops.p = some x → s.CanFire o.fl { p := true } → (∃ v, s.here.ost = .invar (some v)) →
        ∃ t, exec (.invar o) s = .next t ∧ Traps s (s.operands { p := true }) kindOperand code 4 0 aux t) ∧
      (good = isOrder → s.firing.ops.l = some x → s.CanFire o.fl needL →
        ∃ t, exec (.ordf o) s = .next t ∧ Traps s (s.operands needL) kindOperand code 1 0 aux t) ∧
      (good = isW32 → s.firing.ops.r = some x → s.CanFire o.fl { r := true } →
        ∃ t, exec (.gateCreditFiring o) s = .next t ∧ Traps s (s.operands { r := true }) kindOperand code 2 0 aux t))

/-- EXIT, EXITP and EXITQ push the record that BUILD makes of L's thread, NLIVE, the successor and the live vector R (06 R143 R144): EXIT to the successor's entry queue, for the copy of the block in
the firing's region core (05 R122), EXITP so where P is true and L on target 0 where it is false, EXITQ to the queue that bits 34:27 name; SPAWN stages the child and emits L (06 R146); RETIRE takes L
(06 R147). -/
def Obligations.LeavingABlock : Prop :=
  ∀ (s : State) (o : OpC) (oa : OpA) (pr : Predicate) (l : Token) (r : Option Token) (line : Stored) (ln : Launch),
    let nlive := bitsAt o.imm.toNat 24 3
    let succ := bitsAt o.imm.toNat 0 24
    let w0 := bitsAt l.word 59 5 * 2 ^ 59 + nlive * 2 ^ 56 + bitsAt l.word 24 32 * 2 ^ 24 + succ
    (nlive = 0 ∧ r = none ∧ line = { pay := vecPay 64 [w0], v := true } ∨
      0 < nlive ∧ ∃ x, r = some x ∧ x.v = true ∧ routeOk .tf x = true ∧
        line = { pay := vecPay 64 (w0 :: (List.range nlive).map (laneOf x.pay 64)), tag := x.tag, scale := x.scale, v := true, chain := x.chain }) →
    isThread l = true → s.launchOf s.firing = some ln →
    let pushed (k : Nat) (copy : Option Nat) : Flight := { s.resultOf 1 s.firing.thr [] with push := some (k, line), copy := copy }
    let origin := (s.bank (siteKey s.cur)).origin
    let out : Slots := { l := true, r := decide (0 < nlive) }
    (s.Runs o.fl false out pr → (s.operands (withPm o.fl out)).l = some l → (s.operands (withPm o.fl out)).r = r →
      (∀ k, s.entryQueue ln succ = some k → Becomes s (exec (.exit o) s) ((s.firedElem (withPm o.fl out) s.firing.thr).plus (pushed k (some origin)))) ∧
      (∀ k, s.queueTile ln (bitsAt o.imm.toNat 27 8) = some k → Becomes s (exec (.exitq o) s) ((s.firedElem (withPm o.fl out) s.firing.thr).plus (pushed k none))) ∧
      Does s (exec (.spawn o) s) (withPm o.fl out) (fun u =>
        s.emitting (s.staging u (withPm o.fl out) (.spawn succ nlive line origin)) 1 [(0, { l with rv := true })]) {}) ∧
    (∀ p, o.fl.pm = .none → s.Runs o.fl false { out with p := true } pr → (s.operands { out with p := true }).l = some l → (s.operands { out with p := true }).r = r →
      (s.operands { out with p := true }).p = some p → isScalarPred p = true →
      (∀ k, p.truth = true → s.entryQueue ln succ = some k →
        Becomes s (exec (.exitp o) s) ((s.firedElem { out with p := true } s.firing.thr).plus (pushed k (some origin)))) ∧
      (p.truth = false → Becomes s (exec (.exitp o) s)
        ((s.firedElem { out with p := true } s.firing.thr).plus (s.resultOf 1 s.firing.thr [(0, { l with rv := true })])))) ∧
    (s.Runs oa.fl false needL pr → (s.operands (withPm oa.fl needL)).l = some l → Becomes s (exec (.retire oa) s) (s.firedElem (withPm oa.fl needL) s.firing.thr))

/-- LAUNCH stages the launch of a packet (06 R155), PATCH the patch of an argument slot (06 R156), TRIG a trigger (06 R158), and each emits L on both targets; QUIET begins a countdown of imm18 rounds
after its own and awaits its pred (06 R160).
RMARK (06 R159): a launch that has no marker requested gets one within 16 fc, one that has keeps it, and L is emitted on both targets. -/
def Obligations.GraphEffectsAndMarkerRequests : Prop :=
  (∀ (s : State) (o : OpA) (pr : Predicate) (l : Token),
      (∀ need : Slots, need = withPm o.fl needL → s.Runs o.fl false needL pr → (s.operands need).l = some l →
        (∀ ps, isAddr l = true → l.word % 128 = 0 → s.translate s.cur.core s.firing.part (!isPriv s.firing.b) true false l.word 128 = .ok ps →
          Does s (exec (.launch o) s) need (fun u =>
            (s.emitting (s.staging u need (.launch (o.imm.toNat % 64) l.word ps)) 1 (fork { l with rv := true })).touch s.cur.core ps)) ∧
        Does s (exec (.trig o) s) need (fun u => s.emitting (s.staging u need .trig) 1 (fork { l with rv := true })) {} ∧
        Does s (exec (.quiet o) s) need (fun u =>
          s.awaiting { u.mapLaunch s.firing.lk (fun n => { n with quiets := n.quiets ++ [{ site := s.cur, flight := s.nid, n := o.imm.toNat, count := 0, start := s.here.fwd }] })
            with nid := s.nid + 1 } false s.nid) {}) ∧
      (∀ (need : Slots) (r : Token), need = withPm o.fl needLR → s.Runs o.fl false needLR pr → (s.operands need).l = some l → (s.operands need).r = some r → isAddr l = true → isAddr r = true →
        Does s (exec (.patch o) s) need (fun u =>
          s.emitting (s.staging u need (.patch l.word (o.imm.toNat % 4) (BitVec.ofNat 64 r.word))) 1 (fork { l with rv := true })))) ∧
  (∀ (s : State) (o : OpA) (pr : Predicate) (l : Token) (ln : Launch), s.Runs o.fl false needL pr → (s.operands (withPm o.fl needL)).l = some l →
      lkLid s.firing.lk ≠ 0 → s.launch s.firing.lk = some ln →
      ∃ t, exec (.rmark o) s = .next t ∧ t.elem s.cur = (s.firedElem (withPm o.fl needL) s.firing.thr).plus (s.resultOf 1 s.firing.thr (fork { l with rv := true })) ∧
        (∃ n d, t.launch s.firing.lk = some n ∧ n.rmark = some d ∧ (ln.rmark = some d ∨ ln.rmark = none ∧ s.fc ≤ d ∧ d ≤ s.fc + 16)) ∧
        (∀ k, k ≠ siteKey s.cur → t.bank k = s.bank k) ∧ t.mem = s.mem ∧ t.cores = s.cores)

/-- QPUSH pushes the record of L (06 R149), QPOP takes the head record of the queue and waits where there is none (06 R150), CRD emits what the marker before its round committed and waits for it
(06 R153), CWR stages the write of a context register and emits L (06 R154). -/
def Obligations.QueuesAndContextRegisters : Prop :=
  ∀ (s : State) (o : OpA) (pr : Predicate) (l : Token) (ln : Launch) (k : Nat) (need : Slots), need = withPm o.fl needL →
    s.Runs o.fl false needL pr → (s.operands need).l = some l → s.launchOf s.firing = some ln →
    (s.queueTile ln (o.imm.toNat % 2048) = some k →
      (l.v = o.v → routeOk o.ty l = true → Becomes s (exec (.qpush o) s) ((s.firedElem need s.firing.thr).plus
        { s.resultOf 1 s.firing.thr [] with push := some (k,
          { pay := if l.v then l.pay else BitVec.ofNat 512 (bitsAt l.pay.toNat 0 64), tag := l.tag, scale := l.scale, v := l.v, poison := l.poison, chain := l.chain }) })) ∧
      (∀ (h : QRec) (rest : List QRec), (s.mtile k).recs = h :: rest → h.key = none → h.val.v = o.v → (h.val.poison || routeOk o.ty h.val.token) = true →
        ∃ kept, Does s (exec (.qpop o) s) need (fun u => s.emitting (u.setMtile k { s.mtile k with recs := rest, popped := (s.here.fwd, h) :: kept }) 1 (fork h.val.token)) {}) ∧
      ((s.mtile k).recs = [] → exec (.qpop o) s = .next s)) ∧
    (∀ reg : Stored, reg = mgetD s.firing.b.regs o.imm.toNat { v := decide (16 ≤ o.imm.toNat) } → reg.poison = false → routeOk o.ty reg.token = true →
      (s.here.fwd ≤ s.firing.b.mpass → Emits s (exec (.crd o) s) (takes o.fl need) 1 (fork reg.token) 0) ∧
      (s.firing.b.mpass < s.here.fwd → exec (.crd o) s = .next s)) ∧
    (l.v = decide (16 ≤ o.imm.toNat) → routeOk o.ty l = true →
      Does s (exec (.cwr o) s) need (fun u =>
        s.emitting ({ u.setBank (siteKey s.cur) { u.bank (siteKey s.cur) with rstage := (u.bank (siteKey s.cur)).rstage ++ [(s.here.fwd,
          { key := s.firing.effKey, seq := s.nid, reg := o.imm.toNat, val := { pay := l.pay, tag := l.tag, scale := l.scale, v := l.v, poison := l.poison } })] }
          with nid := s.nid + 1 }) 1 (fork { l with rv := true })) {})

/-- A global access inside one line that hits the core's table becomes one part at the address plus OFFSET modulo 2^64, where the entry allows it: user mode needs USR, a load RD and a store
WR, else permission; bytes outside RLO to RHI are a residency fault (20 R354).
THE PLACE OF A MEMORY-TILE ACCESS (08 R194 R203): bits 22:19 of L name the tile and bits 18:0 plus imm18 the byte; a FIFO or line buffer, a byte past the tile and an address past 2^23 are
tile faults. -/
def Obligations.WhereAnAccessGoes : Prop :=
  (∀ (s : State) (core part a n i : Nat) (user rd wr : Bool) (e : Rtt), 0 < n → a % 64 + n ≤ 64 → s.heldAt core part a = false →
    tableHit (s.core core) a = some (i, e) → a + n ≤ entLimit e.words →
    ((user && !entBit e.words atUSR || rd && !entBit e.words atRD || wr && !entBit e.words atWR) = true → s.translate core part user rd wr a n = .fault fPermission a) ∧
    ((user && !entBit e.words atUSR || rd && !entBit e.words atRD || wr && !entBit e.words atWR) = false →
      ((a < entRlo e.words ∨ entRhi e.words < a + n) → s.translate core part user rd wr a n = .fault fResidency a) ∧
      (entRlo e.words ≤ a → a + n ≤ entRhi e.words → entRdev e.words = 0 → entBit e.words atHOST = false → inShare (s.part part) ((a + entOffset e.words) % 2 ^ 64) n = true →
        ∃ p, s.translate core part user rd wr a n = .ok [p] ∧ p.space = .dev ∧ p.addr = (a + entOffset e.words) % 2 ^ 64 ∧ p.size = n ∧ p.off = 0 ∧
          p.osh = entBit e.words atOSH ∧ p.hostBias = entBit e.words atBIAS))) ∧
  (∀ (s : State) (f : Firing) (l : Token) (d : Int) (n b : Nat), f.ops.l = some l → 0 < n → n ≤ 64 →
    let tile := bitsAt l.word 19 4
    (∀ w, 2 ^ 23 ≤ l.word → w = l.word → tilePlace s f d n = .err fTile w) ∧
    (l.word < 2 ^ 23 → (b : Int) = ((bitsAt l.word 0 19 : Int) + d) % 2 ^ 19 →
      (b + n ≤ 2 ^ 19 → (∃ k, (s.mtile (tileKey f.e.core tile)).cfg = .store k) →
        ∃ ps, tilePlace s f d n = .tile ps ∧ (ps.map Part.size).sum = n ∧ (∀ p ∈ ps, p.space = .tile f.e.core tile ∧ p.addr = b + p.off ∧ p.addr / 64 = (p.addr + p.size - 1) / 64)) ∧
      (2 ^ 19 < b + n ∨ (∀ k, (s.mtile (tileKey f.e.core tile)).cfg ≠ .store k) → tilePlace s f d n = .err fTile l.word)))

/-- LD, LDV, MTLD and GATH issue their load (08 R196 R198 R199 R203 R204): the value is awaited, of the type and the scale that R gives under SC, and the order token goes out at once. -/
def Obligations.LoadsAreIssued : Prop :=
  ∀ (s : State) (o : OpA) (f : Fmt) (l : Token) (ps : List Part) (sc : Nat) (need : Slots), need = { l := true, r := o.bit 2 } → s.Accesses o.fl need →
    fmtOf o.ty (o.bit 3) = some f → (s.operands (s.accessNeed need)).l = some l →
    (o.bit 2 = false ∧ sc = 127 ∨ o.bit 2 = true ∧ ∃ r, (s.operands (s.accessNeed need)).r = some r ∧ isW32 r = true ∧ r.low32 ≤ 254 ∧ sc = r.low32) →
    let addr := ofInt 64 ((l.word : Int) + o.imm.toInt)
    let t := s.touched ps
    let size := if o.ty = .pred then 1 else (o.ty.width + 7) / 8
    let free (u : State) : Prop := u.chainBusy u.firing.lk (u.accessFiring need).chain ps = false ∧ u.dieOff ps = false
    (isAddr l = true → free t →
      (s.Translated true false [(addr, size, 0)] ps →
        Does t (exec (.ld o) s) (s.accessNeed need) (fun u => t.loading u need ps (.load f.tag false sc) (o.bit 0 || o.bit 1) (!o.bit 1))) ∧
      (s.Translated true false [(addr, 64, 0)] ps →
        Does t (exec (.ldv o) s) (s.accessNeed need) (fun u => t.loading u need ps (.load f.tag true sc) (o.bit 0 || o.bit 1) (!o.bit 1)))) ∧
    (isAddr l = true → free s → tilePlace s (s.accessFiring need) o.imm.toInt (if o.v then 64 else size) = .tile ps →
      Does s (exec (.mtld o) s) (s.accessNeed need) (fun u => s.loading u need ps (.load f.tag o.v sc) true true)) ∧
    (isVec64 l = true → free t →
      ∀ as, as = (((List.range 8).map (fun j => (laneOf l.num 64 j, size, size * j))).filter (fun x => x.1 ≠ 2 ^ 64 - 1)) → (∀ x ∈ as, x.1 % size = 0) →
        s.Translated true false as ps →
        Does t (exec (.gath o) s) (s.accessNeed need) (fun u => t.loading u need ps (.gather f.tag sc) (o.bit 0) true))

/-- ST, STV, MTST and SCAT stage their bytes, little-endian, at the address that L and imm18 give, or that each lane of L gives (08 R194 R197 R200 R203 R204), in the round of the firing, and emit on both
targets the order token whose POS is one more; no byte of any memory changes before the commit (12 R270). -/
def Obligations.StoresAreStaged : Prop :=
  ∀ (s : State) (o : OpA) (l r : Token) (ps : List Part), s.Accesses o.fl needLR → (s.operands (s.accessNeed needLR)).l = some l → (s.operands (s.accessNeed needLR)).r = some r →
    let addr := ofInt 64 ((l.word : Int) + o.imm.toInt)
    let t := s.touched ps
    let size := if o.ty = .pred then 1 else (o.ty.width + 7) / 8
    let free (u : State) : Prop := u.chainBusy u.firing.lk (u.accessFiring needLR).writeChain ps = false ∧ u.stageRoom u.cur.core ps = true
    let done (v : State) (bs : List Byte) : State → State := fun u => v.emitting (stagingAll u (ps.map (v.stagedPart needLR bs))) 1
      (fork (orderTok { (s.accessFiring needLR).writeChain with pos := (s.accessFiring needLR).writeChain.pos + 1 }))
    let scalar : List Byte := if o.ty = .pred then [if r.truth then 1 else 0] else leBytes size r.pay.toNat
    let line : List Byte := leBytes 64 (if o.ty = .kf6 then r.pay.toNat % 2 ^ 384 else r.pay.toNat)
    (isAddr l = true → tyAccepts o.ty r = true → (isPred r || scaleOk r) = true →
      (r.v = false → free t → s.Translated false true [(addr, size, 0)] ps → Does t (exec (.st o) s) (s.accessNeed needLR) (done t scalar) { l := true }) ∧
      (r.v = true → free t → s.Translated false true [(addr, 64, 0)] ps → Does t (exec (.stv o) s) (s.accessNeed needLR) (done t line) { l := true }) ∧
      (r.v = o.v → free s → tilePlace s (s.accessFiring needLR) o.imm.toInt (if o.v then 64 else size) = .tile ps →
        Does s (exec (.mtst o) s) (s.accessNeed needLR) (done s (if o.v then line else scalar)) { l := true })) ∧
    (isVec64 l = true → dataOk o.ty true r = true → free t →
      ∀ as, as = (((List.range 8).map (fun j => (laneOf l.num 64 j, size, size * j))).filter (fun x => x.1 ≠ 2 ^ 64 - 1)) → (∀ x ∈ as, x.1 % size = 0) →
        s.Translated false true as ps →
        Does t (exec (.scat o) s) (s.accessNeed needLR) (done t ((List.range 8).flatMap (fun j => leBytes size (laneOf r.pay o.ty.width (o.part * 8 + j))))) { l := true })

/-- WHAT A COMMITTED WRITE DOES (12 R270): at a home where no operation performed on arrival is still logged (log 72), each of its bytes is in place, and every other byte of every memory is as it was.
A LOAD IS SERVED (12 R273 R274, 08 R196): once it is due, its unit may answer and no earlier fresh load of its chain waits, the value of a load of one part is the bytes at the part's address, with the latest earlier write of its own chain
over each; the request leaves the table and the flight that waits for it gets the token. A line with an error that ECC cannot correct gives poison with the data ECC fault (21 R388). -/
def Obligations.WritesAndLoadsAtTheirHomes : Prop :=
  (∀ (s : State) (a : Arrival) (bs : List Byte) (commit : Bool), s.memOk = true → a.op = .write bs → (s.homeLog a.space).log = [] → (∀ c m, a.space = .tile c m → m < 16) →
      ∀ (sp : Space) (x : Nat), (∀ c m, sp = .tile c m → m < 16) → (s.performOp commit a).homeByte sp x =
        (if sp = a.space ∧ a.addr ≤ x ∧ x < a.addr + bs.length then bs.getD (x - a.addr) 0 else s.homeByte sp x)) ∧
  (∀ (s : State) (r : Req) (p : Part) (f : Fmt) (tag : Nat) (v : Bool) (scale : Nat),
      s.reqs.find? (fun x => x.id == r.id && x.op.isNone) = some r → s.reqs.find? (fun x => x.id == r.id) = some r → r.ofHost = false → r.due ≤ s.fc → r.parts = [p] →
      s.servable r p = true → s.freshAhead r = false → r.kind = .load tag v scale → Fmt.ofTag tag = some f → f ≠ .pred → p.off = 0 → p.size = (if v then 64 else (f.width + 7) / 8) → f.width % 8 = 0 →
      (p.cach && !r.fresh && !p.osh) = false → (p.hostBias && p.space == .dev) = false → p.osh = false → s.spoilt p.space p.addr p.size = false →
      ∀ bs : List Byte, bs = (List.range p.size).map (fun i => (forwardByte (s.aheadAt r.lk p.space) p.space r.chain (p.addr + i)).getD (s.homeByte p.space (p.addr + i))) →
        ∃ tok : Token, exec (.memoryAccessServe r.id) s = .next (({ s with reqs := s.reqs.filter (fun x => x.id ≠ r.id) }).fill r.site r.id s.fc none [(0, tok)]) ∧
          tok.tag = BitVec.ofNat 6 tag ∧ tok.scale = BitVec.ofNat 8 scale ∧ tok.v = v ∧ tok.poison = false ∧
          (v = true → tok.pay = BitVec.ofNat 512 (leNat bs)) ∧ (v = false → tok.pay = scalarPay f (leNat bs))) ∧
  (∀ (s : State) (r : Req) (p : Part) (tag : Nat) (v : Bool) (scale : Nat),
      s.reqs.find? (fun x => x.id == r.id && x.op.isNone) = some r → s.reqs.find? (fun x => x.id == r.id) = some r → r.ofHost = false → r.due ≤ s.fc → r.parts = [p] →
      s.servable r p = true → s.freshAhead r = false → r.kind = .load tag v scale → (p.cach && !r.fresh && !p.osh) = false → r.cancel = true → s.spoilt p.space p.addr p.size = true →
        ∃ tok : Token, exec (.memoryAccessServe r.id) s = .next (({ s with reqs := s.reqs.filter (fun x => x.id ≠ r.id) }).fill r.site r.id s.fc none [(0, tok)]) ∧
          tok.poison = true ∧ tok.tag = BitVec.ofNat 6 tag ∧ tok.v = v ∧ tok.word % 256 = 0x0B)

/-- STRCFG stages a descriptor word (08 R206); STRGO makes the streamer busy, takes the descriptor's count of elements, and its stream follows; with .w it takes L, and then a token of R for each element, which
is staged at the element's line and of which the last frees the streamer and releases the order token. PREF emits its order token whatever its address does (08 R208). -/
def Obligations.StreamersAndPrefetch : Prop :=
  (∀ (s : State) (o : OpA) (l : Token), s.Accesses o.fl needL → (s.operands (s.accessNeed needL)).l = some l →
    let k := tileKey s.cur.core (o.imm.toNat / 16)
    let i := o.imm.toNat / 4 % 4
    let x := (s.mtile k).streamer i
    let count := bitsAt (x.words.getD 0 0) 48 16 * bitsAt (x.words.getD 1 0) 16 16 * bitsAt (x.words.getD 1 0) 48 16
    let c := (s.accessFiring needL).chain
    let w := (s.accessFiring needL).writeChain
    let r : Req := {
      id := s.nid, site := s.cur, lk := s.firing.lk, round := s.here.fwd,
      due := s.fc + (4 + 2 * (gridHops (computeXY (siteTile s.firing)) (memoryXY (k % 16)) - 1)) - 1, kind := .answer (strTag x.words), fresh := true, chain := c,
      parts := [{ space := .tile s.cur.core (k % 16), addr := i, size := 0, off := 0 }], thr := s.firing.thr }
    (isAddr l = true → (strWindow (s.mtile k).cfg).isSome = true → x.busy = none →
      Does s (exec (.strcfg o) s) (s.accessNeed needL) (fun u =>
        s.emitting (u.setStreamer k i { x with stage := x.stage ++ [
          { lk := s.firing.lk, bank := siteKey s.cur, round := s.here.fwd, word := o.imm.toNat % 4, val := l.word }] }) 1 (fork (orderTok c)))) ∧
    (x.busy = none → strFault (s.mtile k) x.words = false →
      (strBusy o s (s.accessFiring needL) c = false → Does s (exec (.strgo o) s) (s.accessNeed needL) (fun u =>
        let v := ({ u with nid := s.nid + 1 }.setStreamer k i { x with busy := some (s.cur, 0) }).setOst s.cur (.stream 0 count none s.nid c s.firing.thr)
        let w := { v with reqs := s.reqs ++ [r] }
        w.setElem s.cur { w.elem s.cur with q1 := (w.elem s.cur).q1 ++ [s.awaited true s.nid] }) {}) ∧
      ((∀ n t e f ch th, s.here.ost ≠ .stream n t e f ch th) → strBusy o s (s.accessFiring needL) w = false →
        Does s (exec (.strgoWrite o) s) (s.accessNeed needL) (fun u =>
          s.awaiting (({ u with nid := s.nid + 1 }.setStreamer k i { x with busy := some (s.cur, 0) }).setOst s.cur
            (.stream 0 count none s.nid w s.firing.thr)) false s.nid) {})) ∧
    (∀ t, isAddr l = true → s.translate s.cur.core s.firing.part (!isPriv s.firing.b) true false (ofInt 64 ((l.word : Int) + o.imm.toInt)) 1 = t →
      (∀ p ps, t = .ok (p :: ps) → Does s (exec (.pref o) s) (s.accessNeed needL) (fun u =>
        let v := s.emitting u 1 (fork (orderTok c))
        if p.space = .dev ∧ p.cach = true ∧ o.bit 0 = false then v.fillLine s.cur.core s.firing.lk p.prog p.addr else v) needL) ∧
      (∀ code a, t = .fault code a → Does s (exec (.pref o) s) (s.accessNeed needL) (fun u =>
        (s.emitting u 1 (fork (orderTok c))).dropWalk s.cur.core a) needL)) ∧
    (isAddr l = false → Emits s (exec (.pref o) s) (s.accessNeed needL) 1 (fork (orderTok c)) l.numFlags)) ∧
  (∀ (s : State) (o : OpA) (n total flight line : Nat) (po : Option Payload) (ch : Chain) (th : Nat) (r : Token),
    let k := tileKey s.cur.core (o.imm.toNat / 16)
    let i := o.imm.toNat / 4 % 4
    let ws := ((s.mtile k).streamer i).words
    let sp : Space := .tile s.cur.core (k % 16)
    s.here.ost = .stream n total po flight ch th → s.here.held = false → s.here.last ≠ some s.fc → s.firing.ops.r = some r → r.poison = false → r.v = true →
    r.tag.toNat = strTag ws → r.scale.toNat = strScale ws → strLine ws ((strWindow (s.mtile k).cfg).getD 1) n = some line →
    s.stageRoom s.cur.core [{ space := sp, addr := 64 * line, size := 64, off := 0 }] = true →
    let u := (s.setElem s.cur (s.here.consume { r := true })).stage {
      lk := s.firing.lk, core := s.cur.core, round := s.here.fwd,
      key := ⟨ch.hgsp, ch.thr, ch.k, ch.pos, gsp s.firing.b s.cur.idx⟩, seq := 0, space := sp, addr := 64 * line, op := .write (leBytes 64 r.pay.toNat), req := 0 }
    (n + 1 < total → exec (.strgoWrite o) s = .next (u.setElem s.cur { u.elem s.cur with last := some s.fc, ost := .stream (n + 1) total none flight ch th })) ∧
    (total = n + 1 → exec (.strgoWrite o) s = .next (((u.setElem s.cur { u.elem s.cur with last := some s.fc, ost := .none }).setStreamer k i
      { (u.mtile k).streamer i with busy := none }).fill s.cur flight s.fc none (fork (orderTok { ch with pos := ch.pos + 1 })))))

/-- THE ATOMICS ARE ISSUED (08 R209-R213): to a location of their type in device memory or, under bit 0, in a memory tile, with R or imm18 as their operand; in ordered mode, and on ordered-shared lines,
the operation is staged for the marker and the order token goes out at once, and in free mode both results wait for the unit. -/
def Obligations.AtomicsAreIssued : Prop :=
  ∀ (s : State) (o : OpA) (l : Token) (need : Slots) (ps : List Part), need = { l := true, r := !o.i } → s.Accesses o.fl need →
    (s.operands (s.accessNeed need)).l = some l → isAddr l = true →
    ∀ x ∈ ([(.aadd, 0xA0), (.afadd, 0xA1), (.amin, 0xA2), (.amax, 0xA3), (.aand, 0xA4), (.aor, 0xA5), (.axor, 0xA6), (.axchg, 0xA7), (.acas, 0xA8), (.atas, 0xA9), (.atopk, 0xAA),
        (.aincb, 0xAB)] : List ((OpA → Instr) × Nat)),
      let f := s.accessFiring need
      let n := if x.2 = 0xAA then 64 else if o.ty = .pred then 1 else (o.ty.width + 7) / 8
      (o.i = true ∨ ∃ r, f.ops.r = some r ∧ atomicOperandOk x.2 o r = true) → l.word % n = 0 →
      ∀ t : State, (o.bit 0 = true ∧ t = s ∧ tilePlace s f 0 n = .tile ps ∨ o.bit 0 = false ∧ t = s.touched ps ∧ s.Translated true true [(l.word, n, 0)] ps) →
        atomicAttrs x.2 ps = none → t.chainBusy t.firing.lk f.writeChain ps = false → (t.dieOff ps && !t.stagedOp t.firing.lk ps) = false →
        let op : HomeOp := .atomic x.2 (atomicFmt x.2 o).tag (o.bit 3) (atomicOperand x.2 o f) (o.imm.toNat % 16)
        let c : Chain := { f.writeChain with pos := f.writeChain.pos + 1 }
        Does t (exec (x.1 o) s) (s.accessNeed need) (fun u =>
          let v := { u with nid := s.nid + 2 }.sendOp f ps op s.nid c
          if t.stagedOp s.firing.lk ps then t.emitting1 (t.awaiting v false s.nid) 1 [(1, orderTok c)]
          else
            let w := t.awaiting v true s.nid
            w.setElem s.cur ((w.elem s.cur).plus1 (t.awaited true (s.nid + 1))))

/-- AN ATOMIC AT ITS UNIT (08 R209): the location gets the sum, the smaller or larger value, the conjunction, disjunction or difference of bits, R itself, lane 1 of R where lane 0 is the old value, the old value with
bit R set, or the old value and one where it is below R; the instruction gets the old value, ATAS a pred of the old bit.
ATOMIC_PERFORM (08 R212): an operation that has reached its unit is performed there, on what the operations before it have left and the earlier writes of its own chain; an integer add in free mode enters the
unit's log with the sum, which atomics see at once and plain accesses once its round commits (log 72), answers the old value and lets its order token go. -/
def Obligations.AtomicsUpdateTheirLocation : Prop :=
  (∀ (f : Fmt) (u : Bool) (m : Nat) (r : Token), f.isInt = true → f.width = 32 ∨ f.width = 64 → m < 2 ^ f.width →
    let c := laneOf r.pay f.width 0
    let sg (a : Nat) : Int := if u then (a : Int) else toSigned f.width a
    (∀ x ∈ ([(0xA0, (m + c) % 2 ^ f.width), (0xA2, if sg m ≤ sg c then m else c), (0xA3, if sg m ≤ sg c then c else m), (0xA4, m &&& c), (0xA5, m ||| c), (0xA6, m ^^^ c), (0xA7, c),
        (0xA8, if m = c then laneOf r.pay f.width 1 else m), (0xAB, if m < c then m + 1 else m)] : List (Nat × Nat)),
      (atomicValue x.1 f u m r).1 = x.2 ∧ (atomicValue x.1 f u m r).2.1 = scalarTok f m) ∧
    (f = .z64 → r.low32 < 64 → (atomicValue 0xA9 f u m r).1.testBit r.low32 = true ∧ (∀ k, k ≠ r.low32 → (atomicValue 0xA9 f u m r).1.testBit k = m.testBit k) ∧
      (atomicValue 0xA9 f u m r).2.1 = predTok (m.testBit r.low32))) ∧
  (∀ (s : State) (r : Req) (p : Part) (val : Token) (k tag : Nat) (f : Fmt), s.reqs.find? (fun x => x.id == r.id && !x.arrived) = some r →
    (∀ x ∈ s.reqs, x.id = r.id → x = r) → r.op = some (.atomic 0xA0 tag false val k) → Fmt.ofTag tag = some f → f.isInt = true → f.width = 32 ∨ f.width = 64 →
    r.parts = [p] → p.space = .dev → r.due ≤ s.fc → (r.admitted = true ∨ s.dieOff r.parts = false) →
    s.portHolds r.site.core = false → s.spoilt .dev p.addr p.size = false →
    ∀ (a : Arrival) (u : State) (m : Nat), a = r.arrival (.atomic 0xA0 tag false val k) → u = s.logOwn a → m = leNat (u.atomicBytes a (f.width / 8)) →
      ∃ t, exec (.atomicPerform r.id) s = .next t ∧ t.mem = s.mem ∧ t.reqs = s.reqs.filter (fun x => x.id ≠ r.id) ∧
        t.overlay = u.overlay ++ [{ a with seq := s.nid, res := leBytes (f.width / 8) ((m + laneOf val.pay f.width 0) % 2 ^ f.width), done := false }] ∧
        t.elem r.site = (let el := s.elem r.site
          let one := fillFlight (r.id + 1) s.fc none [(1, orderTok r.chain)] 0
          let two := fillFlight r.id s.fc none [(0, scalarTok f m)] 0
          { el with q0 := two (one el.q0), q1 := two (one el.q1) }))

/-- FENCE emits its order token at once where every earlier access of its chain has reached its scope, and otherwise waits in the table (08 R215 R216); BAR, PERMIT, FUTREG, FUTRES and FUTWAIT go to their word, aligned to 8
bytes: the waiting ones await an answer of a later round, the others emit their order token at once (08 R217-R220). -/
def Obligations.SynchronisationIsIssued : Prop :=
  ∀ (s : State) (o : OpA) (l : Token),
    (∀ (need : Slots) (pr : Predicate) (c : Chain), need = withPm o.fl { l := true, r := hasSource s.firing.b s.cur.idx .r } →
      s.Runs o.fl false { l := true, r := hasSource s.firing.b s.cur.idx .r } pr → (s.operands need).l = some l → isOrder l = true → l.chain = some c →
      (s.operands need).r.all tagNamed = true →
      (s.fenceDone s.firing.lk (o.imm.toNat % 8) c = true →
        Becomes s (exec (.fence o) s) ((s.firedElem need s.firing.thr).plus (s.resultOf 1 s.firing.thr
          ((0, orderTok c) :: ((s.operands need).r.map (fun t => (1, { t with rv := true }))).toList)))) ∧
      (s.fenceDone s.firing.lk (o.imm.toNat % 8) c = false →
        ∃ r : Req, r.id = s.nid ∧ r.chain = c ∧ r.op = some (.fence (o.imm.toNat % 8) (s.operands need).r) ∧
          Does s (exec (.fence o) s) need (fun u => s.awaiting { u with nid := s.nid + 1, reqs := s.reqs ++ [r] } false s.nid) {})) ∧
    (∀ (need : Slots) (t : State) (ps : List Part), s.Accesses o.fl need → (s.operands (s.accessNeed need)).l = some l → isAddr l = true → l.word % 8 = 0 →
      t.chainBusy s.firing.lk (s.accessFiring need).writeChain ps = false → (∀ p ∈ ps, p.space = .dev ∨ ∃ c m, p.space = .tile c m) →
      let f := s.accessFiring need
      let c : Chain := { f.writeChain with pos := f.writeChain.pos + 1 }
      let word := (f.ops.r.map Token.word).getD 0
      let inDev (rd wr : Bool) : Prop := t = s.touched ps ∧ s.Translated rd wr [(l.word, 8, 0)] ps
      let inTile : Prop := t = s ∧ o.imm.toNat ≤ 2 ∧ tilePlace s f 0 8 = .tile ps
      let sent (op : HomeOp) (ch : Chain) (u : State) : State := { u with nid := s.nid + 1 }.sendOp f ps op s.nid ch
      let waits (i : Instr) (op : HomeOp) (ch : Chain) : Prop := Does t (exec i s) (s.accessNeed need) (fun u => t.awaiting (sent op ch u) false s.nid)
      let goes (i : Instr) (op : HomeOp) (nums : Slots) : Prop := Does t (exec i s) (s.accessNeed need) (fun u => t.emitting (sent op c u) 1 (fork (orderTok c))) nums
      (need = needL → (inTile ∨ 2 < o.imm.toNat ∧ inDev true true) → waits (.bar o) (.bar false) c) ∧
      (need = needLR → (inTile ∨ 2 < o.imm.toNat ∧ inDev true true) → f.ops.r.all tagNamed = true → goes (.barCopy o) (.bar true) needL) ∧
      (need = needL → inDev true true → waits (.permitTake o) (.permit false) c ∧ goes (.permitGive o) (.permit true) needLR) ∧
      (need = needL → inDev true false → waits (.futwait o) .futwait f.chain) ∧
      (need = needLR → inDev true true → (∃ r, f.ops.r = some r ∧ isAddr r = true) → word % 128 = 0 →
        goes (.futreg o) (.futreg word (o.imm.toNat % 64) (o.imm.toNat / 64 % 256)) needLR) ∧
      (need = needLR → inDev true true → ∀ r, f.ops.r = some r → isW32 r = true → goes (.futres o) (.futres r.low32) needLR))

/-- MXLDB (09 R229): an acceptable header first requests a marker and stays in its slot; when the cut of that marker is complete the header leaves, opens the weight slot, whose old contents no cut brings back, and LEN
payload lines follow; each line is kept at the next position, and the last one makes the slot VALID and emits the header word. -/
def Obligations.WeightLoads : Prop :=
  ∀ (s : State) (o : OpA) (l : Token) (lk key : Nat), lk = s.firing.lk → key = nodeKey s.firing → s.here.fwd ≤ mgetD (s.ctile key).pass lk 0 → l.v = true → l.poison = false →
    let w := (s.ctile key).slot (o.imm.toNat % 8)
    (s.here.held = false → breaks o.fl s.here = false → s.firing.ops.l = some l → mxHeaderOk l.pay = true → w.state ≠ 1 → (∀ m, s.here.ost ≠ .mxwait m) →
      ∃ t, exec (.mxldbHeaderFiring o) s = .next t ∧ t.elem s.cur = { s.here with ost := .mxwait (s.injOf lk s.cur.core) } ∧
        (∀ n, lkLid lk ≠ 0 → s.launch lk = some n → ∃ n' d, t.launch lk = some n' ∧ n'.rmark = some d) ∧ t.ctiles = s.ctiles ∧ t.mem = s.mem) ∧
    (∀ pr m, s.Runs o.fl false needL pr → (s.operands (withPm o.fl needL)).l = some l → mxHeaderOk l.pay = true → w.state ≠ 1 → s.here.ost = .mxwait m → m < s.cutOf lk s.cur.core →
      let h := bitsAt l.pay.toNat 0 64
      let opened : WSlot := {
        state := 1, tag := bitsAt h 0 6, scale := bitsAt h 8 8, dens := bitsAt h 6 2, seed := bitsAt h 32 32, len := bitsAt h 16 7 + 1, pos := 0,
        head := BitVec.ofNat 64 h, lines := [], owner := some s.cur }
      Does s (exec (.mxldbHeaderFiring o) s) (withPm o.fl needL) (fun u =>
        ((u.setCtile key { s.ctile key with
          slots := mset (s.ctile key).slots (o.imm.toNat % 8) opened
          snaps := (s.ctile key).snaps.map (fun (x : NodeCut) => { x with slots := mset x.slots (o.imm.toNat % 8) opened }) }).useNode s.cur.core (siteTile s.firing)).setOst s.cur
          (.mxldb (bitsAt h 16 7 + 1))) {}) ∧
    (∀ pr, s.Runs o.fl false needL pr → (s.operands (withPm o.fl needL)).l = some l →
      let lines := mset w.lines w.pos l.pay
      (w.pos + 1 < w.len → Does s (exec (.mxldbPayloadFiring o) s) (withPm o.fl needL) (fun u =>
        (u.setCtile key { s.ctile key with slots := mset (s.ctile key).slots (o.imm.toNat % 8) { w with lines := lines, pos := w.pos + 1 } }).setOst s.cur
          (.mxldb (w.len - (w.pos + 1)))) {}) ∧
      (w.len ≤ w.pos + 1 → Does s (exec (.mxldbPayloadFiring o) s) (withPm o.fl needL) (fun u =>
        s.emitting ((u.setCtile key { s.ctile key with slots := mset (s.ctile key).slots (o.imm.toNat % 8) { w with lines := lines, pos := w.pos + 1, state := 2, owner := none } }).setOst
          s.cur .none) 1 (fork (z64Tok w.head.toNat))) {}))

/-- MXROW and MXROWS (09 R230): on a VALID slot of its class and an accumulator of its kind, with none draining and no other row in this fc, an A row takes effect on row m of the accumulator, m being the row pointer, which
then advances modulo 64, or R; the row goes on to both targets; a row with RV = 0 accumulates nothing. The node remembers the last six rows with the fc they count from (09 R235). -/
def Obligations.MatrixRows : Prop :=
  ∀ (s : State) (o : OpA) (l : Token) (pr : Predicate) (key m : Nat) (nd : CTile), key = nodeKey s.firing → nd = s.ctile key → s.here.fwd ≤ mgetD nd.pass s.firing.lk 0 →
    dataOk o.ty true l = true → (nd.slot (o.imm.toNat % 8)).state = 2 → rowPairOk nd (o.imm.toNat % 8) (o.imm.toNat / 8 % 4) l = true → rowHold o s s.firing = false →
    let a := o.imm.toNat / 8 % 4
    let r := nd.row (o.imm.toNat % 8) a m l
    let all := r.1.kept ++ [(o.imm.toNat % 8, a, m, l, r.1.rowFc s.fc)]
    let kept := all.drop (all.length - 6)
    (l.rv = false → r = (nd, 0)) ∧
    (s.Runs o.fl false needL pr → (s.operands (withPm o.fl needL)).l = some l → m = (nd.accOf a).rowp →
      Does s (exec (.mxrow o) s) (withPm o.fl needL) (fun u =>
        s.emitting ((u.setCtile key { r.1 with kept := kept, acc := r.1.acc.set a { r.1.accOf a with rowp := (m + 1) % 64 } }).stageFlags s.firing r.2) 1 (fork l)) {}) ∧
    (∀ x, s.Runs o.fl false needLR pr → (s.operands (withPm o.fl needLR)).l = some l → (s.operands (withPm o.fl needLR)).r = some x → isW32 x = true → x.low32 = m → m ≤ 63 →
      Does s (exec (.mxrows o) s) (withPm o.fl needLR) (fun u => s.emitting ((u.setCtile key { r.1 with kept := kept }).stageFlags s.firing r.2) 1 (fork l)) { r := true })

/-- MXDRAIN emits four tokens of 16 lanes for each of its c rows, one an fc from the second fc on, and after them pred true on target 1, and clears the rows where bit 0 is set (09 R231); MXCLR zeroes an accumulator and
sets its kind (09 R232); MXCFG gives the node's status and under bit 0 sets the row pointer (09 R233). -/
def Obligations.MatrixDrainsAndStatus : Prop :=
  ∀ (s : State) (o : OpA) (l : Token) (pr : Predicate) (key a : Nat) (nd : CTile), key = nodeKey s.firing → nd = s.ctile key → a = o.imm.toNat % 4 →
    s.here.fwd ≤ mgetD nd.pass s.firing.lk 0 → s.Runs o.fl false needL pr → (s.operands (withPm o.fl needL)).l = some l →
    let m0 := o.imm.toNat / 4 % 64
    let c := o.imm.toNat / 256 % 64 + 1
    (s.draining s.cur.core (siteTile s.firing) a = false → nd.rowUnderway a s.fc = false →
      Does s (exec (.mxdrain o) s) (withPm o.fl needL) (fun u =>
        let v := u.setElem s.cur { u.elem s.cur with
          q0 := (u.elem s.cur).q0 ++ (List.range (4 * c)).map (fun i => s.resultOf (3 + i) s.firing.thr [(0,
            { pay := vecPay 32 ((List.range 16).map (fun j => (nd.accOf a).lane (m0 + i / 4) (16 * (i % 4) + j))), tag := if (nd.accOf a).i32 then 2 else 0x10, v := true })]),
          q1 := (u.elem s.cur).q1 ++ [s.resultOf (3 + 4 * c) s.firing.thr [(1, predTok true)]] }
        if o.bit 0 then v.setCtile key { nd with acc := nd.acc.set a ((List.range (64 * c)).foldl (fun x i => x.setLane (m0 + i / 64) (i % 64) 0) (nd.accOf a)) } else v) {}) ∧
    (nd.kept.any (fun x => x.2.2.2.2 == s.fc) = false → nd.shut s.fc = false →
      Does s (exec (.mxclr o) s) (withPm o.fl needL) (fun u =>
        s.emitting (u.setCtile key { nd with acc := nd.acc.set a { i32 := o.ty == .i32, lanes := [], rowp := 0 }, busyTill := max nd.busyTill s.fc }) 1 (fork { l with rv := true })) {}) ∧
    (o.bit 0 = false → Does s (exec (.mxcfg o) s) (withPm o.fl needL) (fun u => s.emitting (u.setCtile key nd) 1 (fork (z64Tok (nd.status a)))) {}) ∧
    (o.bit 0 = true → isAddr l = true → l.word < 64 → ∀ n : CTile, n = { nd with acc := nd.acc.set a { nd.accOf a with rowp := l.word } } →
      Does s (exec (.mxcfg o) s) (withPm o.fl needL) (fun u => s.emitting (u.setCtile key n) 1 (fork (z64Tok (n.status a)))) needL)

/-- XCOPY, XFILL, XGATHER and XCOLL are accepted when their descriptor passes its checks and the port has room: the command joins the core's list, its order token goes out at once and its completion token is awaited (09 R236
R239 R241); RSPLIT, RMERGE, RCOMPACT and BIASFLIP likewise join the partition's list (20 R366). -/
def Obligations.EngineCommandsAreAccepted : Prop :=
  ∀ (s : State) (o : OpA) (l : Token), s.portCommands s.cur.core s.firing.part < 16 →
    let cmd (need : Slots) (op : Nat) (ws : List Nat) (user : Bool) : Cmd :=
      { id := s.nid, site := s.cur, lk := s.firing.lk, core := s.cur.core, round := s.here.fwd, thr := s.firing.thr, op := op, words := ws, key := (s.accessFiring need).writeKey,
        user := user, org := (s.accessFiring need).origin }
    let next (need : Slots) : Chain := { (s.accessFiring need).writeChain with pos := (s.accessFiring need).writeChain.pos + 1 }
    let accepted (need : Slots) (v : State) : State := s.emitting1 (s.awaiting v false s.nid) 1 [(1, orderTok (next need))]
    (s.Accesses o.fl needL → (s.operands (s.accessNeed needL)).l = some l → isVec64 l = true →
      ∀ x ∈ ([(.xcopy, 0xB8), (.xfill, 0xB9), (.xgather, 0xBA), (.xcoll, 0xBB)] : List ((OpA → Instr) × Nat)),
        ∀ far, s.descCheck s.cur.core s.firing.part (!isPriv s.firing.b) x.2 l.words = .ok far →
          Does s (exec (x.1 o) s) (s.accessNeed needL) (fun u => accepted needL
            ({ u with nid := s.nid + 1 }.setCore s.cur.core { s.core s.cur.core with
              cmds := (s.core s.cur.core).cmds ++ [cmd needL x.2 l.words (!isPriv s.firing.b)] }))) ∧
    (isZ64 l = true →
      let ranged (need : Slots) (op w1 : Nat) (u : State) : State := accepted need
        ({ u with nid := s.nid + 1 }.setPart s.firing.part { u.part s.firing.part with rcmds := (u.part s.firing.part).rcmds ++ [RCmd.mk (cmd need op [l.word, w1] false) 0 l.word] })
      (s.Accesses o.fl needL → (s.operands (s.accessNeed needL)).l = some l →
        Does s (exec (.rsplit o) s) (s.accessNeed needL) (ranged needL 0xBC 0) ∧ Does s (exec (.rmerge o) s) (s.accessNeed needL) (ranged needL 0xBD 0)) ∧
      (∀ r, s.Accesses o.fl needLR → (s.operands (s.accessNeed needLR)).l = some l → (s.operands (s.accessNeed needLR)).r = some r →
        (r.tag = 1 → r.v = false → scaleOk r = true → Does s (exec (.rcompact o) s) (s.accessNeed needLR) (ranged needLR 0xBE r.word)) ∧
        (isZ64 r = true → Does s (exec (.biasflip o) s) (s.accessNeed needLR) (ranged needLR 0xBF r.word))))

/-- THE WORK OF AN ENGINE (09 R240 R241): a copy that has read its sources stages its next part, which ends at a line boundary of the destination, in the round that is open at its core; a fill stages the bytes of its pattern by
address modulo 8; once every byte has committed the command emits STATUS and DONE. -/
def Obligations.EngineCommandsRun : Prop :=
  ∀ (s : State) (x : Cmd), s.cmdOf x.id = some (x.core, x) → (s.part (lkPart x.lk)).halted = false →
    (x.finished = false → s.roundFar x.lk x.core x.round = true → s.portHolds x.core = false → s.underOld x.core x = false → x.loaded = true → x.prog < x.total → (x.op = 0xB8 ∨ x.op = 0xB9) →
      let dst := (x.words.getD 2 0 + x.prog) % 2 ^ 64
      let n := min (x.total - x.prog) (64 - dst % 64)
      let bs : List Byte := (List.range n).map (fun i => if x.op = 0xB8 then memRead x.buf (x.prog + i) else BitVec.ofNat 8 (x.words.getD 1 0 / 2 ^ (8 * ((dst + i) % 8))))
      ∀ ps, s.translate x.core (lkPart x.lk) x.user false true dst n = .ok ps → s.viewFull x.lk ps = false → s.stageRoom x.core ps = true →
        let round := mgetD (s.core x.core).pass x.lk 0
        exec (.engineWriteStage x.id) s = .next ((stagingAll ((s.viewTouch x.core x.lk ps).touch x.core ps) (ps.map (fun p =>
          { lk := x.lk, core := x.core, round := round, key := x.key, seq := 0, space := p.space, addr := p.addr, op := .write ((bs.drop p.off).take p.size), req := 0, osh := p.osh }))).setCmd
            x.core { x with prog := x.prog + n, hist := (round, x.prog) :: x.hist })) ∧
    (x.finished = true → x.emitted = none → s.portHolds x.core = false → s.cmdCommitted x = true → dFut x.words = false → 0xB8 ≤ x.op → x.op ≤ 0xBB →
      exec (.engineCompletion x.id) s = .next
        (((s.setCmd x.core { x with emitted := some (mgetD (s.core x.core).pass x.lk 0) }).fill x.site x.id s.fc none [(0, z64Tok (x.status * 2 ^ 32 + x.done % 2 ^ 32))]).wake))

/-- A RANGE COMMAND AT ITS TURN (20 R366 R367): RSPLIT makes two entries of the one that holds its address, below and above it, each with its part of the resident window; RMERGE makes one of two that meet at its address and
agree; the completion token carries STATUS 0 and DONE 1; an address off 64 bytes gives status range and DONE 2. -/
def Obligations.RangeCommandsRun : Prop :=
  ∀ (s : State) (part : Nat) (r : RCmd) (rest : List RCmd), (s.part part).rcmds = r :: rest → (s.part part).halted = false →
    let es := dirEntries s (s.part part)
    let done (t : State) (status n : Nat) : State :=
      (t.setPart part { t.part part with rcmds := (t.part part).rcmds.filter (fun x => x.cmd.id ≠ r.cmd.id), busy := false }).fill r.cmd.site r.cmd.id s.fc none
        [(0, z64Tok (status * 2 ^ 32 + n % 2 ^ 32))]
    (r.phase = 0 → (r.cmd.op = 0xBC ∨ r.cmd.op = 0xBD) → exec (.rangeCommandComplete part) s = .next (s.setPart part { s.part part with
      rcmds := (s.part part).rcmds.map (fun x => if x.cmd.id = r.cmd.id then { x with phase := 2 } else x), busy := true })) ∧
    (r.phase = 2 → (r.cmd.op = 0xBC ∨ r.cmd.op = 0xBD) → r.base % 64 ≠ 0 → exec (.rangeCommandComplete part) s = .next (done s fRange 2)) ∧
    (r.phase = 2 → r.cmd.op = 0xBC → r.base % 64 = 0 → ∀ i w, es.findIdx? (fun w => decide (entBase w < r.base ∧ r.base < entLimit w)) = some i → es.getD i [] = w →
      (s.part part).rdirCnt ≠ (s.part part).rdirCap →
      exec (.rangeCommandComplete part) s = .next (done (s.dirStore part i
        ([((w.set 1 r.base).set 3 (min (entRlo w) r.base)).set 4 (min (entRhi w) r.base), ((w.set 0 r.base).set 3 (max (entRlo w) r.base)).set 4 (max (entRhi w) r.base)] ++ es.drop (i + 1))
        ((s.part part).rdirCnt + 1)) 0 1)) ∧
    (r.phase = 2 → r.cmd.op = 0xBD → r.base % 64 = 0 → ∀ i a b, es.findIdx? (fun w => entLimit w == r.base) = some i → es.findIdx? (fun w => entBase w == r.base) = some (i + 1) →
      es.getD i [] = a → es.getD (i + 1) [] = b → entOffset a = entOffset b → entAttr a = entAttr b → entRhi a = r.base → entRlo b = r.base → entRlo a ≠ entRhi a → entRlo b ≠ entRhi b →
      exec (.rangeCommandComplete part) s = .next (done (s.dirStore part i (((a.set 1 (entLimit b)).set 3 (entRlo a)).set 4 (entRhi b) :: es.drop (i + 2)) ((s.part part).rdirCnt - 1)) 0 1))

/-- RLOOP takes a free slot of its engine, stages 0xFFFF_FFFF into every cell and gives HANDLE and an order token (10 R245 R246); RSV logs its cell and sends the reservation (10 R248); RSV.done notes and reports, and the last
report requests the closing marker (10 R249); RCHK tells whether the cell, as it was committed when the reserve phase closed, equals OFFSET (10 R249). -/
def Obligations.LoopsReserve : Prop :=
  ∀ (s : State) (o : OpA) (l : Token), s.effReady s.firing = true →
    let core := s.cur.core
    (∀ i p, s.Accesses o.fl needL → (s.operands (s.accessNeed needL)).l = some l → isVec64 l = true → rloopBad s (s.accessFiring needL) = none →
      let x := loopOfDesc l.words (s.accessFiring needL)
      s.cellsOk core s.firing.part x ≠ .wait → s.futureOk core s.firing.part x.user x.fut x.faddr ≠ .wait → s.freeLoop core s.firing.b.origin = some i → s.cellHome core x x.cellbase = some p →
      Does s (exec (.rloop o) s) (s.accessNeed needL) (fun u =>
        s.emitting1 (s.emitting ((stagingAll u ((linesOf (x.cellcnt + 1) p.addr (4 * x.cellcnt)).map (fun y =>
            { lk := s.firing.lk, core := core, round := s.here.fwd, key := (s.accessFiring needL).writeKey, seq := 0, space := p.space, addr := y.1, op := .write (List.replicate y.2 0xFF), req := 0,
              osh := p.osh, org := (s.accessFiring needL).origin, user := !isPriv s.firing.b }))).setLoop core (loopKey s.firing.b.origin i) x)
          1 [(0, z64Tok (s.firing.b.origin * 2 ^ 34 + i * 2 ^ 32 + (2 ^ 32 - 1)))])
          1 [(1, orderTok { (s.accessFiring needL).writeChain with pos := (s.accessFiring needL).writeChain.pos + 1 })])) ∧
    (∀ r k lp, s.Accesses o.fl needLR → (s.operands (s.accessNeed needLR)).l = some l → (s.operands (s.accessNeed needLR)).r = some r → isAddr l = true → isAddr r = true →
      let f := s.accessFiring needLR
      let off := r.word % 2 ^ 32
      (s.loopOf f r.word = some (k, lp) → lp.win.contains off = true → l.word % 4 = 0 → lp.cellbase ≤ l.word → l.word < lp.cellbase + 4 * lp.cellcnt → lp.mt = o.bit 0 →
        (lp.phase = 1 → lp.log.length < 65536 → ∀ (t : State) ps,
          (o.bit 0 = true ∧ t = s ∧ tilePlace s f 0 4 = .tile ps ∨ o.bit 0 = false ∧ t = s.touched ps ∧ s.Translated true true [(l.word, 4, 0)] ps) →
          t.chainBusy s.firing.lk f.writeChain ps = false → t.loopOf f r.word = some (k, lp) →
          Does t (exec (.rsv o) s) (s.accessNeed needLR) (fun u =>
            let v := u.setLoop core k { lp with log := lp.log ++ [(l.word, off)] }
            t.emitting ({ v with nid := s.nid + 1 }.sendOp f ps (.rsv off) s.nid f.writeChain.next) 1 (fork (orderTok f.writeChain.next)))) ∧
        (lp.phase = 2 → ∀ (t : State) ps,
          (o.bit 0 = true ∧ t = s ∧ tilePlace s f 0 4 = .tile ps ∨ o.bit 0 = false ∧ t = s.touched ps ∧ s.Translated true false [(l.word, 4, 0)] ps) →
          ∃ lat, Does t (exec (.rchk o) s) (s.accessNeed needLR) (fun u =>
            (t.emitting1 (t.emitting u lat [(0, predTok (lp.cell l.word == off))]) 1 [(1, orderTok f.chain)]).tickUp))) ∧
      (s.loopOf f l.word = some (k, lp) → lp.phase = 1 → lp.win.contains (l.word % 2 ^ 32) = true → mget lp.reports (l.word % 2 ^ 32) = none →
        Does s (exec (.rsvDone o) s) (s.accessNeed needLR) (fun u =>
          let y : Loop := { lp with notes := mset lp.notes (l.word % 2 ^ 32) r.word, reports := mset lp.reports (l.word % 2 ^ 32) true }
          let v := s.emitting (u.setLoop core k y) 1 (fork (orderTok f.chain))
          if y.win.all (fun i => (mget y.reports i).isSome) then v.requestMarker s.firing.lk core else v)))

/-- RCOMMIT and RRETRY report in the commit phase, RCOMMIT only of an iteration that HOLDS (10 R249); RLDONE awaits the loop's end (10 R250). The reserve phase closes with the HOLDS of the iterations all of whose cells hold their OFFSET;
the commit phase closes by freeing every logged cell, in the cuts of its memory tile behind that marker too, and opens the next window, or completes a loop whose indices are all done (10 R247 R249 R250). -/
def Obligations.LoopsCommit : Prop :=
  (∀ (s : State) (o : OpA) (l : Token) (k : Nat) (lp : Loop), s.effReady s.firing = true → s.Accesses o.fl needL → (s.operands (s.accessNeed needL)).l = some l → isAddr l = true →
    s.loopOf (s.accessFiring needL) l.word = some (k, lp) →
    let off := l.word % 2 ^ 32
    let reported (b : Bool) (u : State) : State :=
      s.emitting (u.setLoop s.cur.core k { lp with reports := mset lp.reports off b }) 1 (fork (orderTok (s.accessFiring needL).chain))
    (lp.phase = 2 → lp.win.contains off = true → mget lp.reports off = none →
      (lp.holds.contains off = true → Does s (exec (.rcommit o) s) (s.accessNeed needL) (reported true)) ∧ Does s (exec (.rretry o) s) (s.accessNeed needL) (reported false)) ∧
    (off = 2 ^ 32 - 1 → lp.rldone = none → lp.phase ≠ 3 →
      Does s (exec (.rldone o) s) (s.accessNeed needL) (fun u =>
        s.emitting1 (s.awaiting ({ u with nid := s.nid + 1 }.setLoop s.cur.core k { lp with rldone := some (s.cur, s.nid) }) false s.nid) 1 [(1, orderTok (s.accessFiring needL).chain)]))) ∧
  (∀ (s : State) (core k : Nat) (lp : Loop), mget (s.core core).loops k = some lp →
    let eff := s.effOf lp.lk core
    let kept : Loop := { lp with cells := s.cellsNow core lp }
    (s.closeDue core k 1 = true → exec (.reservePhaseClose core k) s = .next (s.setLoop core k { kept with
      phase := 2, openAt := eff + 1, reports := [], holds := lp.win.filter (fun i => (lp.log.filter (fun y => y.2 == i)).all (fun y => kept.cell y.1 == i)) })) ∧
    (s.closeDue core k 2 = true →
      let freed := lp.log.foldl (fun t y => match t.cellHome core lp y.1 with
        | some p => t.freeCell lp.lk eff p
        | none => t) s
      let retried : List Nat := (lp.reports.filter (fun r => !r.2)).map Prod.fst
      ((retried ≠ [] ∨ lp.next < lp.hi - lp.lo) →
        ∃ y : Loop, exec (.commitPhaseClose core k) s = .next (freed.setLoop core k y) ∧ y.phase = 1 ∧ y.openAt = eff + 1 ∧ y.windows = lp.windows + 1 ∧ y.reports = [] ∧ y.notes = [] ∧ y.holds = [] ∧ y.cells = [] ∧ y.log = [] ∧
          (∃ r n, y.win = r ++ (List.range n).map (fun i => lp.next + i) ∧ (∀ i, i ∈ r ↔ i ∈ retried) ∧ n = min (lp.w - r.length) (lp.hi - lp.lo - lp.next) ∧ y.next = lp.next + n)) ∧
      (retried = [] → lp.hi - lp.lo ≤ lp.next → lp.fut = false → lp.rldone = none →
        exec (.commitPhaseClose core k) s = .next (freed.setLoop core k { lp with windows := lp.windows + 1, phase := 3, win := [], log := [] }))))

/-- BTASK takes a free slot and awaits its completion token (10 R254); BCOMMIT makes a running task READY and awaits its pred, or answers false to an aborting one (10 R259); BABORT and BUNDO are staged for the marker (10 R260); BSTAT
gives the committed status on both targets (10 R262); CTQ the entry of the Garnet table (10 R256 R257). -/
def Obligations.TasksOfTheBoostUnit : Prop :=
  ∀ (s : State) (o : OpA) (l : Token) (need : Slots), need = s.accessNeed needL → s.effReady s.firing = true → (s.operands need).l = some l →
    let f := s.accessFiring needL
    let order : List (Nat × Token) := [(1, orderTok f.chain)]
    (∀ i, s.Accesses o.fl needL → isVec64 l = true → btaskBad s f = none → s.freeTask s.cur.core s.firing.b.origin = some i → (s.part s.firing.part).ctloads = [] →
      let w (j : Nat) : Nat := l.words.getD j 0
      s.undoOk s.cur.core s.firing.part (!isPriv s.firing.b) (w 1) (w 2) ≠ .wait → s.futureOk s.cur.core s.firing.part (!isPriv s.firing.b) (bitAt (w 0) 32) (w 4) ≠ .wait →
      Does s (exec (.btask o) s) need (fun u =>
        s.emitting1 (s.awaiting ({ u with nid := s.nid + 1 }.setTask s.cur.core (s.firing.b.origin * 1024 + i)
          { lk := s.firing.lk, origin := s.firing.b.origin, slot := i, key := f.effKey, seq := s.nid, user := !isPriv s.firing.b, eblk := w 0 % 2 ^ 24, fut := bitAt (w 0) 32, ubase := w 1, ulen := w 2,
            arg := w 3, faddr := w 4, fval := w 5, site := s.cur, flight := s.nid, org := f.origin }) false s.nid) 1 order)) ∧
    (∀ k t, s.Accesses o.fl needL → isAddr l = true → s.taskOf f l.word = some (k, t) →
      (t.state = 1 → Does s (exec (.bcommit o) s) need (fun u =>
        let v := s.emitting1 (s.awaiting { u with nid := s.nid + 1 } false s.nid) 1 order
        v.setTask s.cur.core k { t with state := 5, commitFl := some (s.cur, s.nid) })) ∧
      (t.state = 2 → Does s (exec (.bcommit o) s) need (fun u =>
        (s.emitting1 (s.awaiting { u with nid := s.nid + 1 } false s.nid) 1 order).fill s.cur s.nid s.fc (some s.here.fwd) [(0, predTok false)])) ∧
      (t.state = 1 ∨ t.state = 2 → Does s (exec (.babort o) s) need (fun u =>
        s.emitting (s.staging u need (.babort (t.tseq.getD 0) s.cur)) 1 (fork (orderTok f.chain)))) ∧
      (t.state = 3 → t.undoOut = true → Does s (exec (.bundo o) s) need (fun u =>
        s.emitting (s.staging (u.setTask s.cur.core k { t with undoOut := false }) need (.bundo (t.tseq.getD 0))) 1 (fork (orderTok f.chain))))) ∧
    (∀ pr n, n = withPm o.fl needL → s.Runs o.fl false needL pr → (s.operands n).l = some l →
      (isAddr l = true → l.word < 2 ^ 58 → Does s (exec (.bstat o) s) n (fun u =>
        s.emitting1 (s.emitting u 1 [(0, z64Tok (s.taskStatus s.firing.lk l.word))]) 1 [(1, z64Tok (s.taskStatus s.firing.lk l.word))])) ∧
      (let p := s.part s.firing.part
       let a := o.imm.toNat % 64
       let b := o.imm.toNat / 64 % 64
       Does s (exec (.ctq o) s) n (fun u => s.emitting u 1 (fork (z32 (mgetD p.garnet (64 * a + b) 3 + (if p.nkind ≤ a ∨ p.nkind ≤ b then 4 else 0)))))))

/-- BOP stages an undo record of 32 bytes at the top of the task's stack, the registration of its object with the marker, and awaits its pred (10 R258); CTLOAD waits for the marker that installs its table (10 R257); a host packet's table is
installed at a marker, once the packet waits for nothing else and no installed packet still waits for its dispatch, while no task is in flight, and a bad one removes the packet with a notice (17 R305). -/
def Obligations.RegistrationsAndTables : Prop :=
  ∀ (s : State) (o : OpA) (l : Token),
    (∀ r k t ps us p (v : State), s.effReady s.firing = true → s.Accesses o.fl needLR → (s.operands (s.accessNeed needLR)).l = some l → (s.operands (s.accessNeed needLR)).r = some r →
      isAddr l = true → isVec64 r = true →
      let f := s.accessFiring needLR
      let w (j : Nat) : Nat := laneOf r.num 64 j
      bopBad s f = none → s.taskOf f (w 0) = some (k, t) → t.state = 1 → s.Translated false false [(l.word, 8, 0)] ps → ps = [p] → p.space = .dev → v = s.touched ps →
      v.taskOf f (w 0) = some (k, t) → (s.translate s.cur.core s.firing.part (!isPriv s.firing.b) false true (t.ubase + 32 * t.udepth) 32 = .ok us ∧
        v.translate s.cur.core s.firing.part (!isPriv s.firing.b) false true (t.ubase + 32 * t.udepth) 32 = .ok us) →
      v.stageRoom s.cur.core us = true → v.chainBusy s.firing.lk f.writeChain ps = false →
      let bs : List Byte := if w 2 = 0 then List.replicate 32 0 else leBytes 8 (w 2 + o.imm.toNat % 64 * 2 ^ 24) ++ leBytes 8 (w 3) ++ leBytes 8 (w 4) ++ leBytes 8 (w 5)
      Does v (exec (.bop o) s) (s.accessNeed needLR) (fun u =>
        let x := (stagingAll { u with nid := s.nid + 1 } (us.map (v.stagedPart needLR bs))).setTask s.cur.core k { t with udepth := t.udepth + 1 }
        let e : Eff := {
          round := s.here.fwd, key := f.writeKey, seq := x.nid, core := s.cur.core, org := f.origin,
          kind := .bop p.addr (t.tseq.getD 0) (o.imm.toNat % 64) (w 1) (t.ubase + 32 * t.udepth) s.cur s.nid }
        let y : State := { x.mapLaunch s.firing.lk (fun n => { n with staged := n.staged ++ [e] }) with nid := x.nid + 1 }
        v.emitting1 (v.awaiting y false s.nid) 1 [(1, orderTok f.writeChain.next)])) ∧
    (s.Accesses o.fl needL → (s.operands (s.accessNeed needL)).l = some l → isAddr l = true → l.word % 64 = 0 →
      Does s (exec (.ctload o) s) (s.accessNeed needL) (fun u =>
        s.awaiting ({ u with nid := s.nid + 1 }.setPart s.firing.part { u.part s.firing.part with
          ctloads := (u.part s.firing.part).ctloads ++ [(
            ⟨l.word, s.cur, s.nid, (s.accessFiring needL).origin, s.firing.lk, s.here.fwd, (s.accessFiring needL).chain⟩ : CtLoad)] }) false s.nid)) ∧
    (∀ part q, (s.part part).queue.find? (fun x => x.aseq == q.aseq) = some q → q.words.getD 6 0 ≠ 0 → s.packetReady' part { q with ctabDone := true } = true → (s.part part).queue.any Packet.ctabDone = false →
      s.tasksLive part = false → s.atMarker part = true →
      s.tableHeld part ((s.part part).cores.headD 0) (q.words.getD 6 0) = false →
      ∀ t ok, s.installTable part ((s.part part).cores.headD 0) (q.words.getD 6 0) = (t, ok) →
        (ok = true → exec (.ctabInstall part q.aseq) s = .next (t.setPart part { t.part part with
          queue := (t.part part).queue.map (fun x => if x.aseq = q.aseq then { x with ctabDone := true } else x) })) ∧
        (ok = false → ∃ u, exec (.ctabInstall part q.aseq) s = .next u ∧ (u.part part).queue = (t.part part).queue.filter (fun x => x.aseq ≠ q.aseq)))

/-- SVC and BRK call the handler with their argument, its sideband and imm18 (18 R325), and an extension opcode with its operands and its word (05 R114); where faults are not diverted the partition
halts (18 R313, 21 R376). A poisoned operand, or one of the wrong format, of an anchor is a held firing with the code that the poison carries, or format (03 R58, 08 R214, 21 R374). -/
def Obligations.CallsAndHeldFirings : Prop :=
  (∀ (s : State) (o : OpA) (l : Token) (pr : Predicate) (need : Slots), need = withPm o.fl needL → s.Runs o.fl false needL pr → (s.operands need).l = some l → l.v = false → tagNamed l = true →
    ∀ x ∈ ([(.svc, 0x40), (.brk, 0x41)] : List ((OpA → Instr) × Nat)),
      (s.Diverts → ∃ t, exec (x.1 o) s = .next t ∧
        Calls s need x.2 [BitVec.ofNat 64 l.word, BitVec.ofNat 64 (sideband l + 2 ^ 16 * (o.imm.toNat % 2 ^ 16)), 0, 0, 0, 0] t) ∧
      ((s.part s.firing.part).en = false ∨ isSysBank (siteKey s.cur) = true → Does s (exec (x.1 o) s) need (fun u => u.halt s.firing.part) {})) ∧
  (∀ (s : State) (i : BitVec 5) (o : OpA) (pr : Predicate) (w : Word64) (k need : Slots), k = extNeed s.firing.b s.cur.idx o → need = withPm o.fl k → s.Runs o.fl false k pr →
    mget s.firing.b.words s.cur.idx = some w → s.Diverts →
      ∃ t, exec (.extensionOpcode i o) s = .next t ∧ Calls s need 0x43 (recordWords (s.operands need) w.toNat 0) t) ∧
  (∀ (s : State) (o : OpA) (t : Token), s.Diverts → (s.operands (withPm o.fl needL)).poison = some t → s.CanFire o.fl (withPm o.fl needL) →
    ∀ i ∈ ([.svc, .brk, .halt, .tkill, .idle, .csrr, .csrw, .tfetch, .quiet] : List (OpA → Instr)),
      Holds s (exec (i o) s) (s.operands (withPm o.fl needL)) (t.word % 256) 0 t.word) ∧
  (∀ (s : State) (o : OpA) (l : Token) (pr : Predicate), s.Diverts → s.Runs o.fl false needL pr → (s.operands (withPm o.fl needL)).l = some l →
    (l.v = true ∨ tagNamed l = false → ∀ i ∈ ([.svc, .brk] : List (OpA → Instr)), Holds s (exec (i o) s) (s.operands (withPm o.fl needL)) fFormat 0 0) ∧
    (isZ64 l = false → Holds s (exec (.tkill o) s) (s.operands (withPm o.fl needL)) fFormat 0 0) ∧
    (isAddr l = false → Holds s (exec (.csrw o) s) (s.operands (withPm o.fl needL)) fFormat 0 0)) ∧
  (∀ (s : State) (o : OpA) (t : Token), s.Diverts → (s.operands (s.accessNeed needLR)).poison = some t → s.CanFire o.fl (s.accessNeed needLR) →
    ∀ i ∈ ([.st, .stv, .futreg, .futres] : List (OpA → Instr)),
      Holds s (exec (i o) s) (s.operands (s.accessNeed needLR)) (t.word % 256) 0 t.word)

/-- HALT halts the partition (18 R334), TKILL ends the launch of its word and says whether one ran (18 R328), IDLE waits for its events (18 R333), TFETCH takes the oldest queued fault record (18 R326). REINJ delivers a token to
the open site of a serial number and SITE word: the result of a call, or an operand that NEED names and that has not come, a token of tag 0x00 standing for the retained one; the site closes with the last of them, and the answer tells
whether the token was taken (18 R327, 21 R375). -/
def Obligations.FaultHandlingInstructions : Prop :=
  ∀ (s : State) (o : OpA) (l : Token) (pr : Predicate),
    (∀ need : Slots, need = withPm o.fl needL → s.Runs o.fl false needL pr → (s.operands need).l = some l →
      Does s (exec (.halt o) s) need (fun u => u.halt s.firing.part) {} ∧
      (isZ64 l = true → ∀ lk, lk = s.firing.part * 65536 + bitsAt l.word 40 16 →
        (lkLid lk ≠ 0 → (s.launch lk).isSome = true → Does s (exec (.tkill o) s) need (fun u => s.emitting (u.finish lk 1) 1 (fork (predTok true)))) ∧
        (lkLid lk = 0 ∨ s.launch lk = none → Emits s (exec (.tkill o) s) need 1 (fork (predTok false)) l.numFlags)) ∧
      ((∀ x ∈ (s.core s.cur.core).idles, x.1 ≠ s.cur) → Does s (exec (.idle o) s) need (fun u =>
        s.awaiting ({ u with nid := s.nid + 1 }.setCore s.cur.core { s.core s.cur.core with
          idles := (s.core s.cur.core).idles ++ [(s.cur, s.nid, o.imm.toNat % 2 ^ 16, o.imm.toNat % 2 ^ 16)] }) false s.nid) {}) ∧
      (∀ q rest, (s.part s.firing.part).fq = q :: rest → s.targetsFree s.firing o = true → Does s (exec (.tfetch o) s) need (fun u =>
        s.emitting (u.setPart s.firing.part { u.part s.firing.part with fq := rest }) 1 (fork (vecTok (q.record.word0.toNat :: q.fser :: q.record.rest.map BitVec.toNat)))) {})) ∧
    (∀ (r : Token) (need : Slots), need = withPm o.fl needLR → s.Runs o.fl false needLR pr → (s.operands need).l = some l → (s.operands need).r = some r → isVec64 l = true →
      let part := s.firing.part
      let k := o.fn.toNat % 4
      let found := (s.part part).sites.find? (fun x => x.fser == some (laneOf l.num 64 1) && x.word0 == BitVec.ofNat 64 (laneOf l.num 64 0))
      (found = none → Emits s (exec (.reinj o) s) need 1 (fork (predTok false)) l.numFlags) ∧
      (∀ x fl, found = some x → x.call = some fl → Does s (exec (.reinj o) s) need (fun u =>
        s.emitting ((u.fill x.site fl s.fc none (fork { r with rv := true })).closeSite part x) 1 (fork (predTok true))) { l := true }) ∧
      (∀ x, found = some x → x.call = none →
        (x.need.getLsbD k = false ∨ x.refilled.getLsbD k = true → Emits s (exec (.reinj o) s) need 1 (fork (predTok false)) l.numFlags) ∧
        (x.need.getLsbD k = true → x.refilled.getLsbD k = false → Does s (exec (.reinj o) s) need (fun u =>
          let own := x.ops.getD k none
          let tok := if r.tag = 0 ∨ (k = 2 ∧ own.any isOrder = true) then own.getD r else r
          let slot : Slot := if k = 0 then .l else if k = 1 then .r else .p
          let el := u.elem x.site
          let y : OpenSite := { x with refilled := x.refilled ||| BitVec.ofNat 3 (2 ^ k) }
          let v := u.setElem x.site (el.setSlot slot { el.slot slot with rein := tok :: (el.slot slot).rein, waits := false })
          let w := v.setPart part { v.part part with sites := (v.part part).sites.map (fun z => if z.id = x.id then y else z) }
          s.emitting (if y.refilled = y.need then w.closeSite part y else w) 1 (fork (predTok true))) { l := true })))

/-- CSRR reads the register of its index (18 R315-R320, 20 R356, 21 R377 R379): those of its bank once marker r - 1 has passed it, and those of its place, its launch and its partition; CSRW stages the write for the marker that closes its
round, and passes L on (18 R316). CTXSAVE and CTXLOAD join the core's commands, end at once with status context on a selector or an address that is wrong, and CTXLOAD reserves an empty bank (18 R329 R331). SHRINK answers false where the
request or the image forbids it, and otherwise awaits the fold (18 R332). -/
def Obligations.RegistersAndContexts : Prop :=
  ∀ (s : State) (o : OpA) (l : Token) (pr : Predicate),
    (∀ need : Slots, need = withPm o.fl needL → s.Runs o.fl false needL pr → (s.operands need).l = some l →
      let b := s.bank (siteKey s.cur)
      let p := s.part (lkPart b.lk)
      let bit (x : Bool) (k : Nat) : Nat := if x then 2 ^ k else 0
      (∀ x ∈ ([(0x002, s.here.fwd % 2 ^ 48), (0x004, lkPart b.lk * 2 ^ 13 + s.cur.bank * 2 ^ 11 + siteTile s.firing * 2 ^ 7 + s.cur.core),
          (0x020, p.fqlog * 2 ^ 20 + bit p.en 7 + p.hcore), (0x021, p.fqBase.toNat), (0x023, p.hndMsg.toNat), (0x100, p.rdirBase), (0x101, p.rdirCnt), (0x102, p.rdirCap),
          (0x103, bit p.dlock 0 + bit p.busy 1), (0x181, p.rbmax), (0x182, bit p.exact 0 + (s.core s.cur.core).step * 2 + p.tlim * 2 ^ 4), (0x184, p.shrBase.toNat),
          (0x185, p.shrLen.toNat), (0x200, p.trcMode), (0x201, p.trcBase.toNat), (0x202, p.trcLen.toNat),
          (0x203, p.trcPos % 2 ^ 32 + bit p.trcOvf 32 + bit p.trcDiv 33 + bit p.trcErr 34), (0x282, s.hub.jrnSeq)] : List (Nat × Nat)),
        o.imm.toNat % 2 ^ 12 = x.1 → Emits s (exec (.csrr o) s) need 1 (fork (z64Tok x.2)) 0) ∧
      (s.here.fwd ≤ b.mpass → ∀ x ∈ ([(0x000, b.numf.toNat), (0x001, b.blk * 2 ^ 40 + lkLid b.lk * 2 ^ 24 + bit (isSysBank (siteKey s.cur)) 7 + bit (isPriv b) 6 +
          bit b.heldC 5 + bit b.pin 4 + b.st % 4)] : List (Nat × Nat)),
        o.imm.toNat % 2 ^ 12 = x.1 → Emits s (exec (.csrr o) s) need 1 (fork (z64Tok x.2)) 0) ∧
      (isAddr l = true → Does s (exec (.csrw o) s) need (fun u =>
        let w : CsrWrite := {
          key := s.firing.effKey, seq := s.nid, bank := siteKey s.cur, round := s.here.fwd, index := o.imm.toNat % 2 ^ 12, mode := o.fn.toNat % 4, val := BitVec.ofNat 64 l.word }
        s.emitting ({ u with nid := s.nid + 1 }.setCore s.cur.core { s.core s.cur.core with csrStage := (s.core s.cur.core).csrStage ++ [w] }) 1
          (fork { l with rv := true })))) ∧
    (∀ r, s.Accesses o.fl needLR → (s.operands (s.accessNeed needLR)).l = some l → (s.operands (s.accessNeed needLR)).r = some r → isAddr l = true → isZ64 r = true →
      let f := s.accessFiring needLR
      let a := l.word
      let sel := r.word
      let k := bankKeyOf (sel % 2 ^ 7) (sel / 2 ^ 7 % 2 ^ 4) (sel / 2 ^ 11 % 2 ^ 2)
      let port := ((s.core (sel % 2 ^ 7)).lk).getD (s.firing.part * 65536)
      let wrong : Prop := sel % 2 ^ 7 ∉ (s.part s.firing.part).cores ∨ 2 ^ 13 ≤ sel ∨ a % 64 ≠ 0
      let accepted (op : Nat) (bad : Bool) (u : State) : State :=
        let x : Cmd := {
          id := s.nid, site := s.cur, lk := s.firing.lk, core := s.cur.core, round := s.here.fwd, thr := s.firing.thr, op := op,
          words := [a, sel, port, mgetD (s.core (sel % 2 ^ 7)).pass port 0], key := f.writeKey, user := false, org := f.origin,
          finished := bad, status := if bad then fContext else 0 }
        s.emitting1 (s.awaiting ({ u with nid := s.nid + 1 }.setCore s.cur.core { s.core s.cur.core with cmds := (s.core s.cur.core).cmds ++ [x] }) false s.nid) 1
          [(1, orderTok f.writeChain.next)]
      (wrong → Does s (exec (.ctxsave o) s) (s.accessNeed needLR) (accepted 0xD7 true) ∧ Does s (exec (.ctxload o) s) (s.accessNeed needLR) (accepted 0xD8 true)) ∧
      (¬ wrong → Does s (exec (.ctxsave o) s) (s.accessNeed needLR) (accepted 0xD7 false) ∧
        ((s.bank k).st ≠ 0 → Does s (exec (.ctxload o) s) (s.accessNeed needLR) (accepted 0xD8 true)) ∧
        ((s.bank k).st = 0 → Does s (exec (.ctxload o) s) (s.accessNeed needLR) (fun u => (accepted 0xD8 false u).setBank k { st := 2, lk := s.firing.lk })))) ∧
    (∀ (r : Token) (need : Slots), need = withPm o.fl needLR → s.Runs o.fl false needLR pr → (s.operands need).l = some l → (s.operands need).r = some r →
      isZ64 l = true → isZ64 r = true →
      let lid := bitsAt l.word 40 16
      s.shrinking s.firing.part lid = false →
      (s.shrinkRefused s.firing.part lid r.word = true → Emits s (exec (.shrink o) s) need 1 (fork (predTok false)) (readFlags (s.operands need) { l := true, r := true })) ∧
      (s.shrinkRefused s.firing.part lid r.word = false → Does s (exec (.shrink o) s) need (fun u =>
        s.awaiting ({ u with nid := s.nid + 1 }.mapLaunch (s.firing.part * 65536 + lid) (fun n => { n with shrink := some (r.word, n.round, some (s.cur, s.nid)) })) false s.nid)))

/-- RTTW stages its entry for the selected core's next marker and awaits pred true, or answers false at once; the marker installs or clears the entry. RTTR gives the entry's image, zeros for a selector that names none (20 R365). RINV awaits
its chain and then goes to every core of the partition, whose invalidation marker drops each entry that overlaps the range; RFENCE waits for the RINVs of its chain (20 R363 R364). -/
def Obligations.RangeTableInstructions : Prop :=
  (∀ (s : State) (o : OpA) (l r : Token) (pr : Predicate) (need : Slots), need = withPm o.fl needLR → s.Runs o.fl false needLR pr → (s.operands need).l = some l →
    (s.operands need).r = some r → isZ64 r = true →
    let part := s.firing.part
    let core := r.word % 128
    let i := r.word / 128 % 32
    let ws := l.words
    let w := ws.take 7 ++ [0]
    let v := bitAt (ws.getD 7 0) 0
    let apart : Prop := ∀ x ∈ (s.core core).rtt, x.1 = i ∨ entLimit x.2.words ≤ entBase w ∨ entLimit w ≤ entBase x.2.words
    let staged : RttWrite := { site := s.cur, flight := s.nid, entry := i, words := w, v := v, lock := bitAt r.word 12, lk := s.firing.lk, round := s.here.fwd }
    ((∀ x ∈ (s.core core).rtt, entBase x.2.words < entLimit x.2.words) → l.tag = 5 → l.v = true → scaleOk l = true →
      (core ∉ (s.part part).cores ∨ 2 ^ 13 ≤ r.word ∨ v = true ∧ (entOk w = false ∨ entState w ≠ 0 ∨ ¬ apart) →
        Emits s (exec (.rttw o) s) need 1 (fork (predTok false)) (readFlags (s.operands need) { l := true, r := true })) ∧
      (core ∈ (s.part part).cores → r.word < 2 ^ 13 → v = false ∨ entOk w = true ∧ entState w = 0 ∧ apart → Does s (exec (.rttw o) s) need (fun u =>
        s.awaiting ({ u with nid := s.nid + 1 }.setCore core { s.core core with rttStage := (s.core core).rttStage ++ [staged] }) false s.nid))) ∧
    ((r.word < 2 ^ 12 → core ∈ (s.part part).cores → Emits s (exec (.rttr o) s) need 1 (fork (vecTok (match mget (s.core core).rtt i with
        | none => List.replicate 8 0
        | some x => x.words.take 7 ++ [1 + (if x.lock then 2 else 0)]))) r.numFlags) ∧
      (2 ^ 12 ≤ r.word ∨ core ∉ (s.part part).cores → Emits s (exec (.rttr o) s) need 1 (fork (vecTok (List.replicate 8 0))) r.numFlags))) ∧
  (∀ (s : State) (core lk round : Nat) (x : RttWrite), (s.core core).rttStage = [x] →
    ((s.rttCommit core lk round).core core).rttStage = [] ∧
    ((s.rttCommit core lk round).core core).rtt =
      (if x.v then mset (s.core core).rtt x.entry { words := x.words, lock := x.lock, used := s.fc } else mdel (s.core core).rtt x.entry)) ∧
  (∀ (s : State) (o : OpA) (all : Bool) (need : Slots) (lo hi : Nat), all = o.bit 0 → need = (if all then {} else needLR) → s.Accesses o.fl need →
    (all = true ∧ lo = 0 ∧ hi = 0 ∨ all = false ∧ ∃ l r, (s.operands (s.accessNeed need)).l = some l ∧ (s.operands (s.accessNeed need)).r = some r ∧ isZ64 l = true ∧ isZ64 r = true ∧
      l.word % 64 = 0 ∧ r.word % 64 = 0 ∧ r.word ≠ 0 ∧ lo = l.word ∧ hi = l.word + r.word) →
    let v : RInv := {
      id := s.nid, site := s.cur, flight := s.nid, chain := (s.accessFiring need).chain, all := all, lo := lo, hi := hi, sent := false, left := (s.part s.firing.part).cores }
    Does s (exec (.rinv o) s) (s.accessNeed need) (fun u =>
      (s.awaiting ({ u with nid := s.nid + 1 }.setPart s.firing.part { u.part s.firing.part with rinvs := (u.part s.firing.part).rinvs ++ [v] }) false s.nid).sendRinvs
        s.firing.part)) ∧
  (∀ (s : State) (core part lk r : Nat), ∀ x ∈ ((s.invalMarker core part lk r).core core).rtt, x ∈ (s.core core).rtt ∧
    ∀ v ∈ (s.core core).invals, v.marker = none → v.all = false ∧ ¬ (entBase x.2.words < v.hi ∧ v.lo < entLimit x.2.words ∧ v.lo < v.hi ∧ entBase x.2.words < entLimit x.2.words)) ∧
  (∀ (s : State) (o : OpA) (l : Token) (pr : Predicate) (c : Chain) (need : Slots), need = withPm o.fl needL → s.Runs o.fl false needL pr → (s.operands need).l = some l → isOrder l = true →
    l.chain = some c →
    let mine (v : RInv) : Bool := v.chain.hgsp == c.hgsp && v.chain.thr == c.thr && v.chain.k == c.k
    ((s.part s.firing.part).rinvs.any mine = false → Emits s (exec (.rfence o) s) need 1 (fork (orderTok c)) 0) ∧
    ((s.part s.firing.part).rinvs.any mine = true → ∃ r : Req, r.id = s.nid ∧ r.chain = c ∧ r.op = some .rfence ∧ r.arrived = true ∧
      Does s (exec (.rfence o) s) need (fun u => s.awaiting { u with nid := s.nid + 1, reqs := s.reqs ++ [r] } false s.nid) {}))

/-- A WALK (20 R353 R355-R358): in a directory in order it finds the entry that contains the address and installs it in the lowest invalid entry of the core's table; an entry that is not well-formed is a directory fault, an empty directory
a translation fault, kept for the access; while DLOCK or BUSY is set the walk waits. -/
def Obligations.WalksFindTheirEntry : Prop :=
  ∀ (s : State) (core lk : Nat) (w : Walk) (p : Partition), (s.core core).lk = some lk → p = s.part (lkPart lk) → (s.core core).walks.find? (fun x => x.fault.isNone) = some w →
    let d (i : Nat) : List Nat := dirEntry s p i
    let failed (code : Nat) : Prop := exec (.rangeWalk core) s = .next (s.setCore core { s.core core with
      walks := (s.core core).walks.map (fun x => if x = w then { x with fault := some code } else x) })
    (p.dlock = true ∨ p.busy = true → exec (.rangeWalk core) s = .next s) ∧
    (p.dlock = false → p.busy = false →
      (p.rdirCnt = 0 → failed 0x03) ∧
      ((∀ i j, i < j → j < p.rdirCnt → entBase (d i) ≤ entLimit (d i) ∧ entLimit (d i) ≤ entBase (d j)) → p.rdirCnt ≤ 2 ^ 20 →
        ((∀ i, i < p.rdirCnt → entHas (d i) w.addr = false) → 0 < p.rdirCnt → failed 0x03) ∧
        ∀ j, j < p.rdirCnt → entHas (d j) w.addr = true →
          (entOk (d j) = false → failed 0x06) ∧
          (entOk (d j) = true → ∀ k, k < 32 → mget (s.core core).rtt k = none → (∀ i, i < k → (mget (s.core core).rtt i).isSome = true) →
            ∃ t, exec (.rangeWalk core) s = .next t ∧ (t.core core).rtt = mset (s.core core).rtt k { words := d j, lock := false, used := s.fc } ∧
              (∀ x ∈ (t.core core).walks, x ∈ (s.core core).walks ∧ (x.fault = none → entHas (d j) x.addr = false)) ∧
              t = { s with cores := t.cores } ∧ ∀ n, n ≠ core → t.core n = s.core n)))

/-- RESULTS AND HOPS (02 R20 R22 R23, 03 R54 R55): a result that is due enters the latch of its target, or the staged registers; a pending cancel takes it instead; where the target does not accept, the pipeline holds. A token moves one hop where
the next place is free, meets an anti-token there, or stays; a marker moves behind it. -/
def Obligations.TokensMove : Prop :=
  (∀ (s : State) (e : Site) (b : Bank) (i : Instr) (x : Flight) (rest : List Flight) (tok : Token) (t0 : Target) (ts : List Target),
    b = s.bank (siteKey e) → isSysBank (siteKey e) = false ∨ (s.part (lkPart b.lk)).halted = false → (∀ x ∈ (s.core e.core).idles, x.1 ≠ e) → b.instr e.idx = some i → i.targets = t0 :: ts → (s.elem e).q0 = x :: rest → (s.elem e).q1 = [] →
    x.outs = some [(0, tok)] → x.due ≤ s.fc → x.after = none → x.push = none → (x.round.isSome = true ∨ (s.elem e).fwd ≤ x.issued) →
    (∀ c cs, (s.elem e).pend.getD 0 [] = c :: cs → ∃ t, exec (.resultEmit e) s = .next t ∧ t.elem e = { s.elem e with q0 := rest, pend := (s.elem e).pend.set 0 cs } ∧
      (∀ j, j ≠ e.idx → (t.bank (siteKey e)).elem j = b.elem j) ∧ (∀ k, k ≠ siteKey e → t.bank k = s.bank k)) ∧
    ((s.elem e).pend.getD 0 [] = [] →
      (∀ j k, t0 = .slot j k → arcsOf b e.idx 0 t0 = [] → ((b.elem j.toNat).slot k).anti = [] → j.toNat ≠ e.idx →
        (((b.elem j.toNat).slot k).latch = none → ((b.elem j.toNat).slot k).marks ≤ (b.elem j.toNat).fwd → ∃ t, exec (.resultEmit e) s = .next t ∧
          t.elem e = { s.elem e with q0 := rest } ∧ ((t.bank (siteKey e)).elem j.toNat).slot k = { (b.elem j.toNat).slot k with latch := some tok } ∧
          (∀ n, n ≠ e.idx → n ≠ j.toNat → (t.bank (siteKey e)).elem n = b.elem n) ∧ (∀ n, n ≠ siteKey e → t.bank n = s.bank n) ∧ t.mem = s.mem ∧ t.mtiles = s.mtiles) ∧
        (((b.elem j.toNat).slot k).latch.isSome = true → ∃ t, exec (.resultEmit e) s = .next t ∧
          t.elem e = { s.elem e with q0 := (x :: rest).map (fun y => if y.outs.isSome ∧ s.fc ≤ y.due then { y with due := y.due + 1 } else y) } ∧
          (∀ n, n ≠ e.idx → (t.bank (siteKey e)).elem n = b.elem n))) ∧
      (∀ r, t0 = .creg r → ∃ t g, exec (.resultEmit e) s = .next t ∧ t.elem e = { s.elem e with q0 := rest } ∧ g = gsp b e.idx ∧
        (t.bank (siteKey e)).rstage = b.rstage ++ [(x.round.getD (s.elem e).fwd,
          { key := ⟨g, x.thr, x.k, 0, g⟩, seq := s.nid, reg := r.toNat, val := { tok.stored with chain := none } })]))) ∧
  (∀ (s : State) (bk j h : Nat) (b : Bank) (a : Arc) (x y : Hop), b = s.bank bk → b.arcs[j]? = some a → a.hops[h]? = some x → a.hops[h + 1]? = some y →
    let moved (x y : Hop) : Host.Outcome State Fault Refusal := .next (s.setBank bk { b with arcs := b.arcs.set j { a with hops := (a.hops.set h x).set (h + 1) y } })
    (∀ t, x.fwd = some t →
      (y.rev = none → y.fwd = none → y.marks = 0 → exec (.tokenHop bk j h) s = moved { x with fwd := none } { y with fwd := some t }) ∧
      (y.rev.isSome = true → exec (.tokenHop bk j h) s = moved { x with fwd := none } { y with rev := none }) ∧
      (y.rev = none → y.fwd.isSome = true ∨ 0 < y.marks → exec (.tokenHop bk j h) s = .next s)) ∧
    (x.fwd = none → 0 < x.marks → exec (.tokenHop bk j h) s = moved { x with marks := x.marks - 1 } { y with marks := y.marks + 1 }))

/-- ANTI-TOKENS, CANCELLED FIRINGS, READERS (03 R53-R59 R63, 02 R31, 06 R160): an anti-token at a latch vanishes with the token there, becomes a pending cancel at the producer in the tile, whose output of order tokens absorbs it, or meets the marker of its round, which stops the launch
with a balance notice; a firing whose every output holds a pending cancel starts without its operands, and a cancelled load emits its order token; an entry reader pops the oldest record for its copy of the block and delivers its words, or holds it with a notice; a countdown
of QUIET that has ended emits pred true. -/
def Obligations.CancellationAndReaders : Prop :=
  (∀ (s : State) (bk idx n r : Nat) (k : Slot) (as : List Nat) (b : Bank), b = s.bank bk → n = b.arcs.length + 3 * idx + (match k with
      | .l => 0
      | .r => 1
      | .p => 2) → ((b.elem idx).slot k).anti = r :: as → (∀ port, idx = 32 + port → mget b.rev port = none) →
    let x := (b.elem idx).slot k
    let left (y : InSlot) : State := s.setBank bk (b.setElem idx ((b.elem idx).setSlot k y))
    (x.latch.isSome = true → exec (.antiTokenHop bk n) s = .next (left { x with anti := as, latch := none })) ∧
    (x.latch = none → ¬ (backEdge (b.instr idx) k = false ∧ r < x.marks) → portFed b idx k = false → arcTo b idx k = none → ∀ j m ps, producers b idx k = (j, m) :: ps → j ≠ idx →
      ((b.elem j).pend.getD m []).length < 7 → (b.elem j).fwd ≤ r → ∃ t, exec (.antiTokenHop bk n) s = .next t ∧
        ((t.bank bk).elem idx).slot k = { x with anti := as } ∧
        (t.bank bk).elem j = (if (b.instr j).any (fun i => orderOut i m) then b.elem j else { b.elem j with pend := (b.elem j).pend.modify m (fun q => q ++ [r]) }) ∧
        (∀ i, i ≠ idx → i ≠ j → (t.bank bk).elem i = b.elem i) ∧ t = { s with banks := t.banks }) ∧
    (x.latch = none → backEdge (b.instr idx) k = false → r < x.marks → (s.part (lkPart b.lk)).en = true → isSysBank bk = false → s.portRoom (bankCore bk) = true →
      ∀ l, s.launch b.lk = some l →
      ∃ t, exec (.antiTokenHop bk n) s = .next t ∧ t.launch b.lk = some { l with doomed := true } ∧ (t.core (bankCore bk)).frecs = (s.core (bankCore bk)).frecs ++
        [⟨siteWord 0x12 (lkLid b.lk) (bankCore bk) (if 64 ≤ idx then b.tile2.getD (bankTile bk) else bankTile bk) (bk % 4) idx kindNotice 0 false, [0, 0, 0, 0, 0, 0], 0⟩])) ∧
  (∀ (s : State) (e : Site) (o : OpA) (b : Bank) (el : Elem) (c : Nat) (cs : List Nat) (f : Firing), b = s.bank (siteKey e) → el = b.elem e.idx → f = { s with cur := e }.firing → o.fl.b = false →
    el.held = false → el.q0 = [] → el.last ≠ some s.fc → el.pend = [c :: cs, [], [], []] → o.t0 ≠ .none → o.t1 = .none → el.l.rein = [] → el.r.rein = [] → el.l.latch.isSome = true →
    hasSource b e.idx .l = true → hasSource b e.idx .p = false → el.l.waits = false → toRegister b e.idx = false →
    (b.instr e.idx = some (.add o) → o.fl.k = false → el.q1 = [] → hasSource b e.idx .r = true → el.r.latch = none → antiCanLeave b e.idx .r = true → ∃ t, exec (.cancelledFiring e) s = .next t ∧
      t.elem e = {
        el with
        l := { el.l with latch := none }, r := { el.r with anti := el.r.anti ++ [el.fwd] }, pend := [cs, [], [], []], last := some s.fc, bpass := false,
        fires := mset el.fires f.thr (mgetD el.fires f.thr 0 + 1) }) ∧
    (b.instr e.idx = some (.ld o) → o.bit 1 = false → hasSource b e.idx .r = false → ∃ t x, exec (.cancelledFiring e) s = .next t ∧
      t.elem e = { el with l := { el.l with latch := none }, pend := [cs, [], [], []], last := some s.fc, bpass := false, fires := mset el.fires f.thr (mgetD el.fires f.thr 0 + 1), q1 := el.q1 ++ [x] } ∧
      x.due = s.fc ∧ x.round = some el.fwd ∧ x.outs = some [(1, { orderTok f.chain with thr := some f.thr })])) ∧
  (∀ (s : State) (bk k i : Nat) (b : Bank) (l : Launch) (v : Stored), b = s.bank bk → s.launchOfBank b = some l → s.queueTile l (eqix b) = some k → s.readerHead l b k = some (i, v) → b.st = 1 → b.upper = none →
    eqv b = true → b.blocked = false →
    let w0 := laneOf v.pay 64 0
    let n := bitsAt w0 56 3
    (readerFault s.mem l.img b w0 = true → (s.part (lkPart b.lk)).en = true → s.portRoom (bankCore bk) = true → ∃ t, exec (.entryReaderPop bk) s = .next t ∧ t.bank bk = { b with blocked := true } ∧ t.mtiles = s.mtiles ∧
      (t.core (bankCore bk)).frecs.length = (s.core (bankCore bk)).frecs.length + 1) ∧
    (readerFault s.mem l.img b w0 = false → (∀ j, j ≤ n → mgetD b.drops j [] = [] ∧ (b.elem (32 + j)).l.anti = [] ∧ (b.elem (32 + j)).l.latch = none ∧ (b.elem (32 + j)).l.marks ≤ (b.elem (32 + j)).fwd) →
      ∃ t, exec (.entryReaderPop bk) s = .next t ∧ (t.mtile k).recs = (s.mtile k).recs.eraseIdx i ∧
        ((t.bank bk).elem 32).l.latch = some { pay := BitVec.ofNat 512 w0, tag := 0x21, thr := some (bitsAt w0 24 32) } ∧
        (∀ j, 1 ≤ j → j ≤ n → ∃ tok, ((t.bank bk).elem (32 + j)).l.latch = some tok ∧ tok.tag = v.tag ∧ tok.scale = v.scale ∧ tok.v = false ∧ tok.poison = false ∧
          (Fmt.ofTag v.tag.toNat = some .z64 → tok.word = laneOf v.pay 64 j)))) ∧
  (∀ (s : State) (e : Site) (l : Launch) (q : Quiet), s.launch (s.bank (siteKey e)).lk = some l → l.quiets.find? (fun x => x.site == e && decide (x.n ≤ x.count)) = some q →
    ∃ t, exec (.quietEmit e) s = .next t ∧ t.launch (s.bank (siteKey e)).lk = some { l with quiets := l.quiets.filter (fun x => x.flight ≠ q.flight) } ∧
      (t.elem e).q0 = fillFlight q.flight s.fc (some (s.cutOf (s.bank (siteKey e)).lk e.core - 1)) (fork (predTok true)) 0 (s.elem e).q0)

/-- MARKERS (02 R25, 12 R271, 18 R312 R316): Chafer gives one to the sources of a region when it is due and opens the next round; an instruction forwards it once it has arrived on every aligned input and the round is owed nothing, and releases a
sticky R; the marker that passes a block commits its staged registers and flags, the one that passes a memory tile its staged writes, the one that passes a node the working copies, and the one that passes a core's port sends the round's
writes to their homes, and completes the cut where the region has no other core. -/
def Obligations.MarkersPass : Prop :=
  (∀ (s : State) (lk core : Nat) (l : Launch), s.launch lk = some l → lkLid lk ≠ 0 → s.markerDue lk l = true → l.cores = [core] → mgetD (s.core core).inj lk 0 = l.round →
    (∃ t, exec (.markerInject lk core) s = .next t ∧ t.launch lk = some { l with round := l.round + 1, since := 0, rmark := none } ∧ mgetD (t.core core).inj lk 0 = l.round + 1 ∧
      t.mem = s.mem ∧ t.mtiles = s.mtiles) ∧
    (∀ k b, s.banks = [(k, b)] → bankCore k = core → b.lk = lk → b.st = 1 → b.upper = none → (b.words.map Prod.fst).Nodup → ∃ t, exec (.markerInject lk core) s = .next t ∧
      ∀ i ∈ b.words.map Prod.fst, ((t.bank k).elem i).fwd = (b.elem i).fwd ∧ ((t.bank k).elem i).chafer = (b.elem i).chafer + (if s.aligned b i = [] then 1 else 0) ∧
        ((t.bank k).elem i).l.marks = (b.elem i).l.marks + (if 32 ≤ i ∧ i < 48 ∧ s.portOfChafer b (i - 32) = true then 1 else 0))) ∧
  (∀ (s : State) (lk core : Nat) (l : Launch), s.launch lk = some l → lkLid lk ≠ 0 → s.markerDue lk l = false → exec (.markerInject lk core) s = .next s) ∧
  (∀ (s : State) (e : Site) (b : Bank) (i : Instr), b = s.bank (siteKey e) → b.instr e.idx = some i → b.st = 1 → freeConst b e.idx = false → deadInstr b e.idx i = false →
    (s.markersIn b e.idx = false ∨ s.owes e i = true → exec (.markerForward (.elem e)) s = .next s) ∧
    (s.markersIn b e.idx = true → s.owes e i = false → ∃ t, exec (.markerForward (.elem e)) s = .next t ∧ (t.elem e).fwd = (s.elem e).fwd + 1 ∧ (t.elem e).ost = (s.elem e).ost ∧
      (t.elem e).q0 = (s.elem e).q0 ∧ (t.elem e).q1 = (s.elem e).q1 ∧ (t.elem e).l.latch = (s.elem e).l.latch ∧ (t.elem e).p.latch = (s.elem e).p.latch ∧
      (t.elem e).r.latch = (if hasSticky i then none else (s.elem e).r.latch) ∧ (t.elem e).r.rein = (if hasSticky i then [] else (s.elem e).r.rein) ∧
      ∀ j k, i.targets = [.slot j k, .none] → arcsOf b e.idx 0 (.slot j k) = [] → j.toNat ≠ e.idx →
        ((t.elem { e with idx := j.toNat }).slot k).marks = ((s.elem { e with idx := j.toNat }).slot k).marks + 1)) ∧
  (∀ (s : State) (bk : Nat) (b : Bank), b = s.bank bk → b.st = 1 → b.upper = none → b.tile2 = none → b.mpass < s.injOf b.lk (bankCore bk) →
    (∀ i ∈ s.liveInstrs b, b.mpass < (b.elem i).fwd) → (∀ d ∈ b.drops, ∀ x ∈ d.2, b.mpass < x) → (∀ d ∈ b.rev, b.mpass < d.2) → (s.core (bankCore bk)).csrStage = [] →
    ∃ t, exec (.markerForward (.bank bk)) s = .next t ∧ (t.bank bk).mpass = b.mpass + 1 ∧ t.mem = s.mem ∧
      (∀ r w, b.rstage = [(r, w)] → r ≤ b.mpass → (t.bank bk).regs = mset b.regs w.reg w.val ∧ (t.bank bk).rstage = []) ∧
      (b.rstage = [] → (t.bank bk).regs = b.regs) ∧
      ((∀ x ∈ b.nstage, x.1 ≤ b.mpass) → (t.bank bk).nstage = [] ∧ (t.bank bk).numf = (b.nstage.map Prod.snd).foldl (fun a f => a ||| f) b.numf)) ∧
  (∀ (s : State) (lk core m r : Nat) (t0 : MTile), t0 = s.mtile (tileKey core m) → m < 16 → r = mgetD t0.pass lk 0 → r < s.injOf lk core → s.banksPast lk core r = true →
    s.opUnderway lk core r (fun x => x == .tile core m) = false → t0.overlay = [] → ∀ a bs, t0.stage = [a] → a.lk = lk → a.round ≤ r → a.space = .tile core m → a.op = .write bs →
    ∃ t, exec (.markerForward (.memoryTile lk core m)) s = .next t ∧ (t.mtile (tileKey core m)).bytes = writeBytes t0.bytes a.addr bs ∧ (t.mtile (tileKey core m)).stage = [] ∧
      mgetD (t.mtile (tileKey core m)).pass lk 0 = r + 1 ∧ t.mem = s.mem) ∧
  (∀ (s : State) (lk core m r : Nat) (n : CTile), n = s.ctile (tileKey core m) → r = mgetD n.pass lk 0 → r < s.injOf lk core → s.banksPast lk core r = true → lkLid lk ≠ 0 →
    ∃ t, exec (.markerForward (.node lk core m)) s = .next t ∧ mgetD (t.ctile (tileKey core m)).pass lk 0 = r + 1 ∧ (t.ctile (tileKey core m)).slots = n.slots ∧
      (t.ctile (tileKey core m)).acc = n.acc ∧ { lk := lk, round := r + 1, slots := n.slots, acc := n.acc } ∈ (t.ctile (tileKey core m)).snaps) ∧
  (∀ (s : State) (lk core r : Nat) (l : Launch), r = mgetD (s.core core).pass lk 0 → r < s.injOf lk core → s.banksPast lk core r = true →
    (∀ m, m < 16 → r < mgetD (s.mtile (tileKey core m)).pass lk 0 ∧ r < mgetD (s.ctile (tileKey core m)).pass lk 0) → s.opUnderway lk core r (fun _ => true) = false →
    s.launch lk = some l → lkLid lk ≠ 0 → l.cores = [core] → (s.core core).csrStage = [] →
    ∃ u : State, exec (.markerForward (.corePort lk core)) s = .next (u.tryEffects lk core) ∧ mgetD (u.core core).pass lk 0 = r + 1 ∧ (u.launch lk).map Launch.cut = some (r + 1) ∧ u.mem = s.mem ∧
      (∀ a ∈ (s.core core).gstage, a.lk = lk → a.round ≤ r → a.space = .dev → a ∈ u.units ∧ a ∉ (u.core core).gstage))

/-- UNITS, THE PEERS AND THE HOST (13 R283 R285 R288 R291): a slice applies the writes of a unit to device memory and counts the round; under a bound trace an ordered-shared slice waits for the unit its interleave names; a peer applies the oldest
remote unit of a core; the host takes the device's writes into its memory, keeps a line of a host-biased range in its own cache, writes a device-biased one at once, and has no effect on a die that is not online. -/
def Obligations.UnitsReachTheirHomes : Prop :=
  (∀ (s : State) (lk core slice : Nat) (l : Launch), s.launch lk = some l → lkLid lk ≠ 0 → s.portHolds core = false → (∀ d, s.dies[slice / 64]? = some d → d.st = 0) →
    (∀ a bs, s.units = [a] → s.overlay = [] → s.waiters = [] → s.hostLines = [] → a.lk = lk → a.space = .dev → s.sliceOf (lkPart lk) a.addr = slice → a.round < s.cutOf lk core → a.op = .write bs →
      s.hasView lk slice = false → ∃ u : State, exec (.unitApply lk core slice) s = .next (u.tryEffects lk core) ∧ u.mem = writeBytes s.mem a.addr bs ∧ u.units = [] ∧
        u.appliedRounds lk core slice = a.round + 1 ∧ u.hostMem = s.hostMem ∧ u.peerMem = s.peerMem ∧ (s.spoilt .dev a.addr bs.length = true → (u.part (lkPart lk)).halted = true)) ∧
    (∀ r i tag r', s.nextUnit lk core slice = some r → (s.part (lkPart lk)).trcMode = 2 → (s.part (lkPart lk)).trcDiv = false → l.trk = true → l.ord = true → s.hasView lk slice = true →
      s.boundUnit (lkPart lk) slice = some (i, tag, r') → ¬ (tag = l.ltag ∧ r' = r) → s.canArrive (lkPart lk) slice tag r' = true → exec (.unitApply lk core slice) s = .next s)) ∧
  (∀ (s : State) (x : RemoteUnit) (a : Arrival) (bs : List Byte), s.remoteUnits.find? (fun y => y.peer == x.peer && y.core == x.core) = some x →
    s.units.filter (fun a => a.space == .peer x.peer && a.lk == x.lk && a.core == x.core && a.round == x.round) = [a] → a.op = .write bs →
    ∃ t, exec (.remoteUnitApply x.peer x.core) s = .next t ∧ t.peerMem = mset s.peerMem x.peer (writeBytes (mgetD s.peerMem x.peer []) a.addr bs) ∧ t.mem = s.mem ∧ a ∉ t.units ∧
      x ∉ t.remoteUnits) ∧
  (∀ (s : State) (a : HostAccess), 1 ≤ a.size → a.addr % 64 + a.size ≤ 64 → a.addr < 2 ^ 40 → a.addr % 2 ^ 38 < 192 * 2 ^ 30 →
    ((∃ d, s.dies[dieOfAddr a.addr]? = some d ∧ d.st ≠ 0) → exec (.hostCxlAccess a) s = .next s) ∧
    ((∀ d, s.dies[dieOfAddr a.addr]? = some d → d.st = 0) →
    let line := a.addr / 64 * 64
    (∀ x, s.rangeAt a.addr = some x → s.flipping x.1 x.2 = true → exec (.hostCxlAccess a) s = .next s) ∧
    (∀ x, s.rangeAt a.addr = some x → s.flipping x.1 x.2 = false → entBit x.2 atBIAS = true → a.caches = true → mget s.hostLines line = none →
      (a.write = false → exec (.hostCxlAccess a) s = .next { s with hostLines := mset s.hostLines line (lineAt s.mem line) }) ∧
      (a.write = true → ∃ v, exec (.hostCxlAccess a) s = .next { s with hostLines := mset s.hostLines line v } ∧
        ∀ i, i < 64 → bitsAt v.toNat (8 * i) 8 = if a.addr % 64 ≤ i ∧ i < a.addr % 64 + a.size then bitsAt a.data.toNat (8 * (i - a.addr % 64)) 8 else (memRead s.mem (line + i)).toNat)) ∧
    (s.rangeAt a.addr = none → a.write = true → mget s.hostLines line = none → s.overlay = [] →
      exec (.hostCxlAccess a) s = .next { s with mem := writeBytes s.mem a.addr (leBytes a.size a.data.toNat) }.wake) ∧
    (s.rangeAt a.addr = none → a.write = false → exec (.hostCxlAccess a) s = .next s))) ∧
  (∀ (s : State) (id : Nat) (a : Arrival) (bs : List Byte), s.hostReqs = [(id, a)] → a.space = .host → a.op = .write bs →
    ∃ t, exec (.hostCxlReply id) s = .next t ∧ t.hostMem = writeBytes s.hostMem a.addr bs ∧ t.hostReqs = [] ∧ t.mem = s.mem)

/-- DISPATCH AND RETIREMENT (19 R341, 02 R38 R39 R44): a decision takes the ready packet of the greatest EP and, on equal EP, the lowest ASEQ, gives it the first free cores that the largest variant takes, and ages the other ready packets up to
96; a halted partition decides nothing. A graph with nothing left retires: its cores are free and its banks empty. A load closes with a marker at once, and the reconfiguration token, once that marker's cut is complete (log 71), passes the units that have no work of the old
load left; behind the last of them the launch is in its next load. -/
def Obligations.LaunchesStartAndEnd : Prop :=
  (∀ (s : State) (part : Nat), ((s.launchLate part).part part).halted = true → exec (.decide part) s = .next (s.launchLate part)) ∧
  (∀ (s : State) (part : Nat) (x : Packet), s.launchLate part = s → (s.part part).halted = false → (s.part part).trcMode ≠ 2 → x ∈ (s.part part).queue → s.packetReady part x = true →
    let p := s.part part
    let ep (q : Packet) : Nat := ((p.priorities.find? (fun y => y.1 == 2 * q.aseq)).map (fun y => y.2.2)).getD 0
    let cores (q : Packet) : List Nat := (s.freeCores part).take (variantFor s.mem (pkImg q.words) (s.freeCores part).length (pkMaxc q.words))
    cores x ≠ [] → s.argsHeld part x = false → p.cfuts = [] →
    (∀ y ∈ p.queue, s.packetReady part y = true → cores y ≠ [] → y = x ∨ ep y < ep x ∨ ep y = ep x ∧ x.aseq < y.aseq) →
    ∃ u : State, exec (.decide part) s = .next (u.dispatch part x (ep x) (cores x)) ∧ u.mem = s.mem ∧
      (u.part part).queue = p.queue.map (fun q => if (p.queue.filter (s.packetReady part)).any (fun y => y.aseq == q.aseq) && q.aseq != x.aseq then { q with age := min 96 (q.age + 1) } else q)) ∧
  (∀ (s : State) (lk : Nat) (l : Launch), s.launch lk = some l → lkLid lk ≠ 0 → s.mayChange lk l = true → s.underway lk l = false → s.recordsLeft lk l = false → s.allCommitted lk l = true →
    l.cfut = 0 → l.trk = false → l.staged = [] → ((s.part (lkPart lk)).launches.map Prod.fst).Nodup → ∃ t, exec (.graphRetire lk) s = .next t ∧ t.launch lk = none ∧ (∀ x ∈ t.cores, x.2.lk ≠ some lk) ∧ (∀ x ∈ t.banks, x.2.lk = lk → x.2.st = 0) ∧
      (s.overlay = [] → s.abase = [] → s.waiters = [] → (∀ x ∈ s.mtiles, x.2.overlay = []) → t.mem = s.mem)) ∧
  (∀ (s : State) (lk : Nat) (l : Launch), s.launch lk = some l → lkLid lk ≠ 0 → l.load + 1 < loadCount s.mem l.img l.size → s.mayChange lk l = true → s.underway lk l = false → l.pushes = [] →
    (∀ x ∈ blockTable s.mem l.img (s.loadOf l), ∀ k, s.entryQueue l x.2.blk = some k → (s.mtile k).recs = []) → l.round ≤ l.cut + 1 →
    ∃ t, exec (.loadClose lk) s = .next t ∧ t.launch lk = some { l with round := l.round + 1, since := 0, rmark := none, reconf := some [] } ∧ t.mem = s.mem ∧
      ∀ core, l.cores = [core] → mgetD (t.core core).inj lk 0 = mgetD (s.core core).inj lk 0 + 1) ∧
  (∀ (s : State) (lk core : Nat) (l : Launch) (ks : List Nat), s.launch lk = some l → l.reconf = some ks → l.cores = [core] →
    (l.cut < l.round ∨ (s.part (lkPart lk)).halted = true → exec (.reconfigToken lk core) s = .next s) ∧
    (l.round ≤ l.cut → (s.part (lkPart lk)).halted = false →
      let us := (List.range 96).filter (fun u => !ks.contains (core * 128 + u) && s.tokenAt lk l core u)
      ((∀ u, u < 96 → core * 128 + u ∈ ks ∨ s.tokenAt lk l core u = true) → l.round ≤ l.eff →
        ∃ t, exec (.reconfigToken lk core) s = .next t ∧ (t.launch lk).map (fun n => (n.load, n.reconf, n.round)) = some (l.load + 1, none, l.round)) ∧
      ((∃ u, u < 96 ∧ core * 128 + u ∉ ks ∧ s.tokenAt lk l core u = false) →
        ∃ t, exec (.reconfigToken lk core) s = .next t ∧
          (t.launch lk).map (fun n => (n.load, n.reconf, n.round)) = some (l.load, some (ks ++ us.map (fun u => core * 128 + u)), l.round))))

/-- SCARAB AND THE SHRINK (02 R37, 19 R344, 21 R385 R386): of the waiting blocks whose banks are free the one of the greatest age of 64 or more is loaded, or else the one with the most records; at the cut of its marker a shrink whose masks meet or
whose save area does not serve answers false and leaves the region, one whose save area has an error that ECC cannot correct halts the partition (21 R388 R389), and any other folds it. -/
def Obligations.BlocksAndFolds : Prop :=
  (∀ (s : State) (core tile lk : Nat) (l : Launch), (s.core core).lk = some lk → s.launch lk = some l → s.mayChange lk l = true → s.trBound (lkPart lk) l.trk = false →
    let here := (blockTable s.mem l.img (s.loadOf l)).filter (fun x => l.coreOf x.2.core == core && (x.2.tile == tile || x.2.tile2 == tile) && !x.2.pinned)
    let ws := here.filter (fun x => s.waits lk l x.1 x.2)
    let n : Launch := { l with ages := l.ages.filter (fun y => !here.any (fun x => x.1 == y.1) || ws.any (fun x => x.1 == y.1)) }
    let v := s.setLaunch lk n
    let free := ws.filter (fun x => (v.freeSpan core x.2).isSome)
    (ws = [] → exec (.scarabDecide core tile) s = .next v) ∧
    (free ≠ [] → ∃ x k, x ∈ free ∧ v.freeSpan core x.2 = some k ∧ exec (.scarabDecide core tile) s = .next (v.scarabLoad lk core tile n ws x.1 x.2 k none) ∧
      ((∃ y ∈ free, 64 ≤ mgetD n.ages y.1 0) → ∀ y ∈ free, mgetD n.ages y.1 0 ≤ mgetD n.ages x.1 0) ∧
      ((∀ y ∈ free, mgetD n.ages y.1 0 < 64) → ∀ y ∈ free, v.queueCountAt n y.2.blk y.2.core ≤ v.queueCountAt n x.2.blk x.2.core))) ∧
  (∀ (s v : State) (lk m mk : Nat) (l : Launch) (asked : Option (Site × Nat)), v = s.releaseLeft lk → v.launch lk = some l → l.shrink = some (m, mk, asked) →
    (l.cut ≤ mk → exec (.shrinkCut lk) s = .next v) ∧
    (mk < l.cut → l.cut ≤ l.eff → (v.part (lkPart lk)).halted = false →
      let left := v.setLaunch lk { l with shrink := none }
      (v.saveArea (lkPart lk) (l.cores.length - m) = none ∨ v.masksMeet l m = true → exec (.shrinkCut lk) s = .next (match asked with
        | some (e, id) => left.fill e id v.fc none (fork (predTok false))
        | none => left)) ∧
      (∀ a, v.saveArea (lkPart lk) (l.cores.length - m) = some a → v.masksMeet l m = false →
        (v.spoilt .dev a ((l.cores.length - m) * saveSize) = true → exec (.shrinkCut lk) s = .next (v.halt (lkPart lk))) ∧
        (v.spoilt .dev a ((l.cores.length - m) * saveSize) = false → l.trk = false → exec (.shrinkCut lk) s = .next ((v.fold lk m l a).shrinkAnswer asked true)))))

/-- ERRORS OF THE HARDWARE (09 R235, 21 R377-R384 R391-R393): a first residue mismatch re-issues the rows four fc after they were accepted, a second rolls the region back, a third stops it with the core fenced and a notice; a parity error of a register read and a late result under trim
replay the firing, or roll back where they repeat; a region that has rolled back RBMAX times since its cut stops instead. The trim step stays within TLIM, and at 0 in exact mode. The debug port changes a B flag alone. A scrub changes nothing. -/
def Obligations.ErrorsAreRecovered : Prop :=
  (∀ (s : State) (core tile lk : Nat) (l : Launch) (n : CTile), n = s.ctile (tileKey core tile) → (s.core core).lk = some lk → s.launch lk = some l → lkLid lk ≠ 0 →
    (∃ x ∈ n.kept, x.2.2.2.1.rv = true ∧ x.2.2.2.2 + 3 = s.fc) →
    (n.resx = 0 → ∃ t, exec (.residueMismatch core tile) s = .next t ∧ t.launch lk = some { l with l1cnt := l.l1cnt + 1 } ∧
      t.ctile (tileKey core tile) = {
        n with
        resx := 1, rplc := n.rplc + 1, mism := true, busyTill := s.fc + 4,
        kept := n.kept.map (fun x => (x.1, x.2.1, x.2.2.1, x.2.2.2.1, if s.fc ≤ x.2.2.2.2 + 3 then x.2.2.2.2 + 4 else x.2.2.2.2)) } ∧ t.banks = s.banks) ∧
    (n.resx = 1 → l.swaps = [] → l.rbCut < (s.part (lkPart lk)).rbmax → ∃ t, exec (.residueMismatch core tile) s = .next t ∧ RolledBack s lk l t ∧ (t.ctile (tileKey core tile)).resx = 2) ∧
    (2 ≤ n.resx → (s.part (lkPart lk)).en = true → s.portRoom core = true → ∃ t, exec (.residueMismatch core tile) s = .next t ∧ t.launch lk = some { l with l3 := true, fcore := core } ∧ (t.core core).fenced = true ∧
      (t.core core).frecs = (s.core core).frecs ++ [⟨siteWord 0x1A (lkLid lk) core 0 0 0 kindNotice 0 false, [0, 0, 0, 0, 0, 0], 0⟩])) ∧
  (∀ (s : State) (e : Site) (b : Bank) (l : Launch) (o : OpA) (i : Instr), b = s.bank (siteKey e) → b.st = 1 → s.launch b.lk = some l → lkLid b.lk ≠ 0 → b.instr e.idx = some i →
    let replayed (t : State) : Prop := (t.elem e).last = some s.fc ∧ (t.elem e).q0.length = (s.elem e).q0.length ∧ (∀ x ∈ (t.elem e).q0, x.outs.isSome = true → s.fc < x.due) ∧
      t.mem = s.mem ∧ (t.elem e).l = (s.elem e).l ∧ (t.elem e).r = (s.elem e).r ∧ (t.elem e).p = (s.elem e).p ∧ (t.elem e).fires = (s.elem e).fires
    (i = .crd o → ∃ t, exec (.contextParityError e false) s = .next t ∧ replayed t ∧ t.launch b.lk = some { l with l1cnt := l.l1cnt + 1 }) ∧
    (i = .crd o → l.swaps = [] → l.rbCut < (s.part (lkPart b.lk)).rbmax → ∃ t, exec (.contextParityError e true) s = .next t ∧ RolledBack s b.lk l t) ∧
    (i = .crd o → (s.part (lkPart b.lk)).rbmax ≤ l.rbCut → (s.part (lkPart b.lk)).en = true → ∃ t, exec (.contextParityError e true) s = .next t ∧
      t.launch b.lk = some { l with l3 := true, fcore := e.core } ∧ (t.core e.core).fenced = true) ∧
    ((s.core e.core).step ≠ 0 → (s.part (lkPart b.lk)).exact = false →
      (∃ t, exec (.timingErrorDetect e false) s = .next t ∧ replayed t ∧ t.launch b.lk = some { l with tcnt := l.tcnt + 1, l1cnt := l.l1cnt + 1 } ∧
        (t.core e.core).replays = (s.core e.core).replays + 1) ∧
      (l.swaps = [] → l.rbCut < (s.part (lkPart b.lk)).rbmax → ∃ t, exec (.timingErrorDetect e true) s = .next t ∧ RolledBack s b.lk l t)) ∧
    ((s.core e.core).step = 0 ∨ (s.part (lkPart b.lk)).exact = true → ∀ second, exec (.timingErrorDetect e second) s = .next s)) ∧
  (∀ (s : State) (core step part : Nat), s.partOfCore core = some part →
    ((s.part part).exact = false → step ≤ (s.part part).tlim → ((s.part part).handler = none ∨ (s.core core).sysSince = 0) →
      exec (.marginTrimStep core step) s = .next (s.setCore core { s.core core with step := step })) ∧
    ((s.part part).exact = true ∨ (s.part part).tlim < step → exec (.marginTrimStep core step) s = .next s)) ∧
  (∀ (s : State) (e : Site) (b : Bool),
    (∀ a, ∃ (w w' : Word64) (k : Nat), w = BitVec.ofNat 64 (word64 s.mem (a + 16 + 8 * e.idx)) ∧ k = (if w.toNat / 2 ^ 56 = 5 then 54 else 44) ∧
      (∀ j, j < 64 → w'.getLsbD j = if j = k then b else w.getLsbD j) ∧ exec (.debugSetBreakpoint e (some a) b) s = .next { s with mem := writeBytes s.mem (a + 16 + 8 * e.idx) (leBytes 8 w'.toNat) }) ∧
    ((s.bank (siteKey e)).st = 1 → (mget (s.bank (siteKey e)).words e.idx).isSome = true → exec (.debugSetBreakpoint e none b) s =
      .next (s.setBank (siteKey e) { s.bank (siteKey e) with dbgStage := mset (s.bank (siteKey e)).dbgStage e.idx b }))) ∧
  (∀ (s : State) (a core tile line : Nat), s.memOk = true → (∃ t, exec (.patrolScrub (.slice a)) s = .next t ∧ ∀ x, memRead t.mem x = memRead s.mem x) ∧
    ∃ t, exec (.patrolScrub (.memoryTile core tile line)) s = .next t ∧ ∀ k x, memRead (t.mtile k).bytes x = memRead (s.mtile k).bytes x)

/-- THE FAULT QUEUE AND ERROR REPLIES (18 R323, 23 R402 R408 R409): the oldest record at a core's port enters the queue, takes the next serial number, stands in the ring and names its site, and
the next record that waits for the port comes to it; a full queue keeps it waiting. An access that its die does not admit
ends with a poisoned value where it is a load that may be cancelled, or in a held site with the code die offline; a unit for such a die is refused whole. -/
def Obligations.RecordsAndErrorReplies : Prop :=
  (∀ (s : State) (core part : Nat) (r : FRec) (rest : List FRec), s.partOfCore core = some part → (s.core core).frecs = r :: rest → 4 ≤ (s.part part).fqlog →
    let p := s.part part
    (2 ^ p.fqlog ≤ p.fq.length → exec (.faultRecordEnqueue core) s = .next s) ∧
    (p.fq.length < 2 ^ p.fqlog → ∀ a, s.pinned part (p.fqBase.toNat + 64 * (p.fser % 2 ^ p.fqlog)) 64 true = some a → ∃ t, exec (.faultRecordEnqueue core) s = .next t ∧
      (t.core core).frecs = rest ++ (s.core core).fwait.take 1 ∧ (t.core core).fwait = (s.core core).fwait.drop 1 ∧ (t.part part).fq = p.fq ++ [{ fser := p.fser, record := r }] ∧ (t.part part).fser = p.fser + 1 ∧
      t.mem = writeBytes s.mem a ((r.word0.toNat :: p.fser :: r.rest.map BitVec.toNat).flatMap (leBytes 8)) ∧
      (r.siteId ≠ 0 → ∀ x ∈ (t.part part).sites, x.id = r.siteId → x.fser = some p.fser) ∧
      (p.fq = [] → ∀ v ∈ s.hub.vfs, v.2 = part → (v.1, 1) ∈ t.hub.msix)) ∧
    (p.fq.length < 2 ^ p.fqlog → s.pinned part (p.fqBase.toNat + 64 * (p.fser % 2 ^ p.fqlog)) 64 true = none → exec (.faultRecordEnqueue core) s = .next (s.halt part))) ∧
  (∀ (s : State) (r : Req) (p : Part), s.reqs.find? (fun x => x.id == r.id && !x.arrived) = some r → r.parts.find? (fun x => s.partLost r.admitted x.space x.addr) = some p → r.op = none →
    (r.cancel = true → ∀ tag v scale, r.kind = .load tag v scale → ∃ tok : Token, tok.poison = true ∧ tok.tag = BitVec.ofNat 6 tag ∧ tok.v = v ∧ tok.word % 256 = 0x0A ∧
      exec (.errorReply r.id) s = .next (s.answer r.id none [(0, tok)])) ∧
    (r.cancel = false → s.portRoom r.site.core = true → (s.part (lkPart (s.bank (siteKey r.site)).lk)).en = true → isSysBank (siteKey r.site) = false → ∃ t x, exec (.errorReply r.id) s = .next t ∧ (t.elem r.site).held = true ∧
      t.reqs = s.reqs.filter (fun y => y.id ≠ r.id) ∧ (t.core r.site.core).frecs.length = (s.core r.site.core).frecs.length + 1 ∧
      (t.part (lkPart (s.bank (siteKey r.site)).lk)).sites = (s.part (lkPart (s.bank (siteKey r.site)).lk)).sites ++ [x] ∧ x.site = r.site ∧ x.ops = r.ops ∧ x.call = none ∧
      ∃ lid core tile bank idx need, x.word0 = siteWord 0x0A lid core tile bank idx kindHeld need false)) ∧
  (∀ (s : State) (a : Arrival) (bs : List Byte), s.reqs = [] → s.units = [a] → s.overlay = [] → a.round < s.cutOf a.lk a.core → a.space = .dev → a.op = .write bs →
    (∃ d, s.dies[dieOfAddr a.addr]? = some d ∧ d.st ≠ 0) → ∃ t, exec (.errorReply a.seq) s = .next t ∧ t.units = [] ∧ t.mem = s.mem)

/-- THE REGISTERS THAT THE HOST AND THE MARKERS WRITE (18 R316, 19 R346, 20 R370, 21 R379 R392): the trace modes, refused with ERR while a tracked launch is queued or runs; the period within 128 to 65,536; exact mode; the directory's lock and its count,
which takes a value only under the lock; and the plain registers, whose reserved bits are discarded. -/
def Obligations.RegisterWrites : Prop :=
  (∀ (s : State) (part : Nat) (p : Partition), p = s.part part →
    (p.tracked = true → ∀ i ∈ ([.traceModeOff part, .traceModeRecord part, .traceModeBind part] : List Instr), exec i s = .next (s.setPart part { p with trcErr := true })) ∧
    (p.tracked = false →
      exec (.traceModeRecord part) s = .next (s.setPart part { p with trcMode := 1, trcPos := 0, trcOvf := false, trcDiv := false }) ∧
      (p.trcMode ≠ 1 → exec (.traceModeOff part) s = .next (s.setPart part { p with trcMode := 0 })) ∧
      (p.trcMode = 1 → p.trcPos < p.trcLen.toNat → ∀ a, s.pinned part (p.trcBase.toNat + 16 * p.trcPos) 16 true = some a → ∃ t, exec (.traceModeOff part) s = .next t ∧
        t.mem = writeBytes s.mem a (leBytes 8 ((if p.trcOvf then 1 else 0) * 2 ^ 20 + 15) ++ leBytes 8 p.trcPos) ∧ t.part part = { p with trcMode := 0, trcPos := p.trcPos + 1, trcRec := p.trcPos + 1 }) ∧
      (p.trcMode ≠ 1 → ∀ a b, s.trRead part (p.trcRec - 1) = some (a, b) →
        (0 < p.trcRec → p.trcOvf = false → a % 2 ^ 4 = 15 → a.testBit 20 = false →
          exec (.traceModeBind part) s = .next (s.setPart part { p with trcMode := 2, trcEnd := p.trcRec - 1, trcPos := 0, trcUsed := [] })) ∧
        (p.trcRec = 0 ∨ p.trcOvf = true ∨ a % 2 ^ 4 ≠ 15 ∨ a.testBit 20 = true → exec (.traceModeBind part) s = .next (s.setPart part { p with trcErr := true })))) ∧
    (∀ t, exec (.exactModeSet part) s = .next t → t.part part = { p with exact := true, tlim := p.tlim % 8 } ∧ ∀ k ∈ p.cores, (t.core k).step = 0) ∧ (∃ t, exec (.exactModeSet part) s = .next t) ∧
    exec (.directoryLock part) s = .next (s.setPart part { p with dlock := true }) ∧
    (∀ v, (p.dlock = true → exec (.rdirCntWrite part v) s = .next (s.setPart part { p with rdirCnt := v % 2 ^ 32 })) ∧ (p.dlock = false → exec (.rdirCntWrite part v) s = .next s)) ∧
    (∀ v : BitVec 64,
      exec (.registerWrite part 0x023 v) s = .next (s.setPart part { p with hndMsg := v }) ∧
      exec (.registerWrite part 0x103 v) s = .next (s.setPart part { p with dlock := v.getLsbD 0 }) ∧
      exec (.registerWrite part 0x181 v) s = .next (if v.toNat % 16 = 0 then s else s.setPart part { p with rbmax := v.toNat % 16 }) ∧
      exec (.registerWrite part 0x184 v) s = .next (s.setPart part { p with shrBase := v }) ∧
      exec (.registerWrite part 0x185 v) s = .next (s.setPart part { p with shrLen := v.setWidth 40 }) ∧
      exec (.registerWrite part 0x201 v) s = .next (s.setPart part (if p.tracked then { p with trcErr := true } else { p with trcBase := v })) ∧
      exec (.registerWrite part 0x202 v) s = .next (s.setPart part (if p.tracked then { p with trcErr := true } else { p with trcLen := v.setWidth 32 })) ∧
      ∀ i, i ∉ [0x023, 0x103, 0x181, 0x184, 0x185, 0x201, 0x202] → exec (.registerWrite part i v) s = .next s)) ∧
  (∀ (s : State) (lk v : Nat) (l : Launch), s.launch lk = some l →
    (128 ≤ v → v ≤ 65536 → ∃ t, exec (.rndPeriodWrite lk v) s = .next t ∧ t.launch lk = some { l with period := v }) ∧ (v < 128 ∨ 65536 < v → exec (.rndPeriodWrite lk v) s = .next s))

/-- THE COMMANDS OF THE HOST (23 R398-R406 R410 R412 R413, 18 R334): a command with a reserved bit set is journalled with status 1, one for a partition above 95 with status 3, and neither does anything else; an accepted one is journalled with status 0 and has
its effect: the cores and shares of a partition, its end, its registers, the handler launch, a DMA window, a peer, a group, a fence, a halt and the way back, a binding, a rate. -/
def Obligations.HostCommandsTakeEffect : Prop :=
  ∀ (s : State) (c : HostCommand),
    (∀ x ∈ ([(.partCores, 0x01), (.partMem, 0x02), (.partClr, 0x03), (.partReg, 0x04), (.hndStart, 0x05), (.dmaWin, 0x06), (.peerSet, 0x07), (.grpSet, 0x08), (.fenceClr, 0x09), (.resume, 0x0A),
        (.dieReset, 0x0B), (.vfBind, 0x0C), (.rateSet, 0x0D), (.hostHalt, 0x0E)] : List ((HostCommand → Instr) × Nat)),
      let refused (st : Nat) : Prop := exec (x.1 c) s = .next (s.journal x.2 c.part 0x1FF st true (c.words.getD 1 0) (c.words.getD 2 0))
      (2 ^ 16 ≤ c.w 0 → refused 1) ∧ (c.w 0 < 2 ^ 16 → (∀ i, 1 ≤ i → i ≤ 7 → c.w i = 0) → 95 < c.part → refused 3)) ∧
    (c.w 0 < 2 ^ 16 → c.part ≤ 95 →
      let p := s.part c.part
      let zeroFrom (n : Nat) : Prop := ∀ i, n ≤ i → i ≤ 7 → c.w i = 0
      let takes (i : Instr) (op : Nat) (effect : State → Prop) : Prop := ∃ t : State, exec i s = .next t ∧ Journalled s t c op 0 ∧ effect t
      (zeroFrom 4 → c.w 2 < 2 ^ 32 → c.w 3 &&& (2 ^ 64 - 1 - 511 * (1 + 2 ^ 16 + 2 ^ 32 + 2 ^ 48)) = 0 → (∀ k ∈ p.cores, k ∈ maskCores (c.w 1) (c.w 2) ∨ (s.core k).lk = none) →
        p.runs = false ∨ p.bw = fields16 (c.w 3) → (∀ k ∈ maskCores (c.w 1) (c.w 2), ∀ y ∈ s.parts, y.1 ≠ c.part → k ∉ y.2.cores) →
        (∀ d, d < 4 → (fields16 (c.w 3)).getD d 0 + ((s.others c.part).map (fun q => q.bw.getD d 0)).sum ≤ 256) →
        takes (.partCores c) 0x01 (fun t => t.part c.part = {
          p with
          cores := maskCores (c.w 1) (c.w 2), bw := fields16 (c.w 3),
          sites := p.sites.filter (fun x => ! (p.cores.contains x.site.core && ! (maskCores (c.w 1) (c.w 2)).contains x.site.core)) })) ∧
      (c.w 7 = 0 → p.runs = false → (∀ d, d < 4 → c.w 6 / 2 ^ (16 * d) % 2 ^ 16 + c.w 5 / 2 ^ (16 * d) % 2 ^ 16 ≤ 192 ∧ (c.w 5 / 2 ^ (16 * d) % 2 ^ 16 = 0 ∨ c.w (d + 1) ≠ 0)) →
        (∀ q ∈ s.others c.part, ∀ d, d < 4 → overlap (d * 2 ^ 38 + c.w 6 / 2 ^ (16 * d) % 2 ^ 16 * 2 ^ 30) (c.w 5 / 2 ^ (16 * d) % 2 ^ 16 * 2 ^ 30) (q.shareB.getD d 0) (q.shareS.getD d 0) = false ∧
          c.w (d + 1) &&& q.slices.getD d 0 = 0) →
        takes (.partMem c) 0x02 (fun t => t.part c.part = {
          p with
          slices := [c.w 1, c.w 2, c.w 3, c.w 4], shareB := (List.range 4).map (fun d => d * 2 ^ 38 + c.w 6 / 2 ^ (16 * d) % 2 ^ 16 * 2 ^ 30),
          shareS := (List.range 4).map (fun d => c.w 5 / 2 ^ (16 * d) % 2 ^ 16 * 2 ^ 30) })) ∧
      (zeroFrom 1 → p.launches = [] → p.handler = none → (s.parts.map Prod.fst).Nodup → takes (.partClr c) 0x03 (fun t => (p.fq = [] → mget t.parts c.part = none) ∧ (p.fq ≠ [] → mget t.parts c.part = some { fq := p.fq }) ∧ t.mem = s.mem ∧ ∀ k ∈ p.cores, (t.core k).frecs = [] ∧ (t.core k).fwait = [])) ∧
      (zeroFrom 3 → ∀ x ∈ ([(0x020, { p with fqlog := c.w 2 / 2 ^ 20 % 16, hcore := c.w 2 % 128 }), (0x021, { p with fqBase := BitVec.ofNat 64 (c.w 2) }), (0x023, { p with hndMsg := BitVec.ofNat 64 (c.w 2) }),
          (0x100, { p with rdirBase := c.w 2 }), (0x102, { p with rdirCap := c.w 2 % 2 ^ 32 })] : List (Nat × Partition)), c.w 1 = x.1 →
        (x.1 = 0x020 → 4 ≤ c.w 2 / 2 ^ 20 % 16 ∧ c.w 2 / 2 ^ 20 % 16 ≤ 12) → takes (.partReg c) 0x04 (fun t => t.part c.part = x.2)) ∧
      (zeroFrom 2 → p.handler = none → 4 ≤ p.fqlog → p.fqlog ≤ 12 → p.fqBase.toNat % (64 * 2 ^ p.fqlog) = 0 → handlerImageOk s.mem p (c.w 1) = true →
        takes (.hndStart c) 0x05 (fun t => (t.part c.part).en = true ∧ (t.part c.part).fser = 0 ∧ ((t.part c.part).handler.map Launch.img) = some (c.w 1))) ∧
      (zeroFrom 5 → c.w 1 ≤ 15 → c.w 4 ≤ 3 →
        takes (.dmaWin c) 0x06 (fun t => t.part c.part = { p with dma := mset p.dma (c.w 1) (c.w 2, c.w 3, (c.w 4).testBit 0, (c.w 4).testBit 1) })) ∧
      (zeroFrom 3 → 1 ≤ c.w 1 → c.w 1 ≤ 255 → c.w 2 < 2 ^ 39 → (∀ q ∈ s.others c.part, q.ports &&& BitVec.ofNat 16 (c.w 2) = 0) → takes (.peerSet c) 0x07 (fun t =>
        (t.part c.part).ports = p.ports ||| BitVec.ofNat 16 (c.w 2) ∧ mget t.hub.peers (c.w 1) = some (c.w 2 % 2 ^ 16, c.w 2 / 2 ^ 16 % 2 ^ 16, c.w 2 / 2 ^ 32 % 2 ^ 7))) ∧
      (zeroFrom 3 → c.w 1 ≤ 255 → s.groupOk (c.w 2) = true → takes (.grpSet c) 0x08 (fun t => mget t.hub.groups (c.w 1) = some (memberList s.mem (c.w 2)))) ∧
      (zeroFrom 2 → c.w 1 ≤ 95 → takes (.fenceClr c) 0x09 (fun t => t.core (c.w 1) = { s.core (c.w 1) with fenced := false })) ∧
      (zeroFrom 1 → takes (.resume c) 0x0A (fun t => t.part c.part = { p with halted := false, haltAt := [] }) ∧
        takes (.hostHalt c) 0x0E (fun t => (t.part c.part).halted = true ∧ (p.halted = false → (t.part c.part).haltAt = p.launches.map (fun x => (x.1, x.2.round))))) ∧
      (zeroFrom 3 → c.w 1 ≤ 383 → (c.w 2 ≤ 95 → takes (.vfBind c) 0x0C (fun t => mget t.hub.vfs (c.w 1) = some (c.w 2))) ∧
        (c.w 2 = 0xFF → takes (.vfBind c) 0x0C (fun t => t.hub.vfs = mdel s.hub.vfs (c.w 1)))) ∧
      (zeroFrom 3 → c.w 1 ≤ 15 → 1 ≤ c.w 2 → c.w 2 ≤ 224 → takes (.rateSet c) 0x0D (fun t => mgetD t.hub.ports (c.w 1) {} = { mgetD s.hub.ports (c.w 1) {} with rate := c.w 2 })))

/-- DIES, PUSHES, FLITS, POWER (23 R402 R408 R411 R414): a die goes from ONLINE through QUIESCE, OFFLINE and RETRAIN back to ONLINE, and its command is DONE at the end; the last die that is ONLINE cannot be reset. A push by a virtual function that is
bound goes into the queue or is refused, and is journalled. A flit whose CRC fails is negatively acknowledged, the next in order is acknowledged and taken where its partition stands on the port and owns every byte that it touches; the eighth replay in a row takes the port down. At the limit every
partition halts. After a reset of the management core the ring is read again from the first command that is not DONE. -/
def Obligations.DiesPushesAndFlits : Prop :=
  (∀ (s : State) (c : HostCommand), c.w 0 < 2 ^ 16 → c.part ≤ 95 → (∀ i, 2 ≤ i → i ≤ 7 → c.w i = 0) →
    ((s.dies.filter (fun x => x.st == 0)).length ≤ 1 → exec (.dieReset c) s = .next (s.journal 0x0B c.part 0x1FF 6 true (c.words.getD 1 0) (c.words.getD 2 0))) ∧
    (∀ d, s.dies[c.w 1]? = some d → d.st = 0 → 1 < (s.dies.filter (fun x => x.st == 0)).length → (∀ x ∈ s.parts, x.2.launches = []) → ∃ t x, exec (.dieReset c) s = .next t ∧
      t.dies[c.w 1]? = some x ∧ x.st = 1 ∧ x.onl = false ∧ x.since = s.fc ∧ x.jrn = s.hub.jrnSeq + 1 ∧ (∀ n, n ≠ c.w 1 → t.dies[n]? = s.dies[n]?) ∧
      (∀ y ∈ t.parts, y.2.cores ≠ [] → dieOfCore y.2.hcore = c.w 1 → mget t.parts y.1 = some y.2 → y.2.halted = true))) ∧
  (∀ (s : State) (n : Nat) (d : Die), s.dies[n]? = some d →
    (d.st = 1 → (∀ r ∈ s.reqs, r.admitted = true → r.onDie n = true → r.arrived = true) → exec (.dieWritebackDone n) s =
      .next { s with dies := s.dies.set n { d with st := 2, since := s.fc } }) ∧
    (d.st = 2 → d.since + 850000 ≤ s.fc → ∃ t, exec (.dieRetrainStart n) s = .next t ∧ t.dies = s.dies.set n { d with st := 3, since := s.fc } ∧ (∀ x ∈ t.banks, dieOfCore (bankCore x.1) ≠ n) ∧
      t.mem = s.mem) ∧
    (d.st = 3 → ∃ t, exec (.dieRetrainDone n) s = .next t ∧ (t.dies[n]?).map Die.st = some 0 ∧ (∀ e ∈ t.hub.journal, e.seq = d.jrn → e.done = true) ∧ t.hub.journal.length = s.hub.journal.length)) ∧
  (∀ (s : State) (vf queue addr part : Nat), vf < 384 → queue < 64 →
    let logged (t : State) (part st : Nat) : State := t.journal 0x80 part vf st true (BitVec.ofNat 64 addr) (BitVec.ofNat 64 queue)
    (mget s.hub.vfs vf = none → exec (.vfLaunchDoorbell vf queue addr) s = .next (logged s 0xFF 6)) ∧
    (mget s.hub.vfs vf = some part → (addr % 128 ≠ 0 ∨ inShare (s.part part) addr 128 = false → exec (.vfLaunchDoorbell vf queue addr) s = .next (logged s part 6)) ∧
      (addr % 128 = 0 → inShare (s.part part) addr 128 = true →
        (32 ≤ ((s.part part).queue.filter (fun q => q.queue == queue)).length → exec (.vfLaunchDoorbell vf queue addr) s = .next (logged s part 5)) ∧
        (((s.part part).queue.filter (fun q => q.queue == queue)).length < 32 → ∀ ws, ws = packetWords (readBytes s.mem addr 128) → s.packetOk part ws false = true →
          ∃ (t : State) (q : Packet), exec (.vfLaunchDoorbell vf queue addr) s = .next (logged t part 0) ∧ t = s.setPart part { s.part part with
            queue := (s.part part).queue ++ [q], aseq := ((s.part part).aseq + 1) % 2 ^ 64 } ∧ q.words = ws ∧ q.addr = some addr ∧ q.queue = queue ∧ q.aseq = (s.part part).aseq ∧ q.age = 0 ∧ q.vf = some vf)))) ∧
  (∀ (s : State) (n : Nat) (f : Flit) (p : Port), n < 16 → p = mgetD s.hub.ports n {} → p.down = false →
    let port (y : Port) : State := { s with hub := { s.hub with ports := mset s.hub.ports n y } }
    (f.crcOk = false → exec (.flitReceive n f) s = .next (port { p with acks := p.acks ++ [(p.rxSeq, false)] })) ∧
    (f.crcOk = true → f.seq = p.rxSeq → exec (.flitReceive n f) s = .next (port {
      p with rxSeq := (p.rxSeq + 1) % 4096, acks := p.acks ++ [(f.seq, true)], rx := if s.takesFlit n f then p.rx ++ [f] else p.rx })) ∧
    (p.fails < 8 → exec (.flitReplay n) s = .next (port { p with fails := p.fails + 1 })) ∧ (8 ≤ p.fails → exec (.flitReplay n) s = .next (port { p with down := true }))) ∧
  (∀ s : State,
    (∀ v ∈ [ThermalLevel.normal, .clamp], exec (.thermalClamp v) s = .next { s with hub := { s.hub with thermal := v } }) ∧
    (∃ t, exec (.thermalClamp .limit) s = .next t ∧ t.hub.thermal = .limit ∧ ∀ n p, mget s.parts n = some p → (t.part n).halted = true) ∧
    (∃ t, exec .mgmtCoreReset s = .next t ∧ t = { s with hub := { s.hub with head := t.hub.head } } ∧
      ((∀ e ∈ s.hub.journal, e.src = 0x1FF → e.done = true) → t.hub.head % 64 = s.hub.head % 64)))

/-- BOOT (23 R403 R415-R417): GO starts the verification of the image; one that fails the first check it does not pass is refused with that check's reason, 1 to 4; one that passes them all runs, and the ring is ready; the measurements are those of ROM,
image, SVN and configuration, signed. A cold boot leaves the state of reset. AFTER RESET nothing runs and nothing is resident, the hub waits for an image, every die is ONLINE, memory is in canonical form and lists nothing, and the registers that R318-R320,
R346, R356 and R377 give a reset value have it. -/
def Obligations.BootAndReset : Prop :=
  (∀ (s : State) (v : BitVec 64), v.getLsbD 63 = true → (s.hub.bstate = 0 ∨ s.hub.bstate = 3) →
    exec (.bootGo v) s = .next { s with hub := { s.hub with bstate := 1, len := v.toNat % 2 ^ 22, reason := 0 } }) ∧
  (∀ (s : State) (v : BitVec 64), (s.hub.bstate = 1 ∨ s.hub.bstate = 2 ∨ v.getLsbD 63 = false) → exec (.bootGo v) s = .next s) ∧
  (∀ s : State, s.hub.bstate = 1 →
    let h := s.hub
    let refused (r : Nat) : Prop := exec .bootVerifyDone s = .next { s with hub := { h with bstate := 3, reason := r } }
    let header := bootHeaderOk h.bootWin h.len
    let signature := Config.signatureOk h.bootWin h.len
    let certificate := Config.certificateOk h.bootWin h.len
    let record := Config.configRecordOk h.bootWin h.len
    (header = false → refused 1) ∧ (header = true → signature = false → refused 2) ∧ (header = true → signature = true → certificate = false → refused 3) ∧
    (header = true → signature = true → certificate = true → record = false → refused 4) ∧
    (header = true → signature = true → certificate = true → record = true → ∃ t, exec .bootVerifyDone s = .next t ∧ t.hub.bstate = 2 ∧ t.hub.ready = true ∧ t.hub.image = h.bootWin ∧
      t = { s with hub := t.hub })) ∧
  (∀ s : State, s.hub.bstate = 2 → ∃ t, exec .getMeasurements s = .next t ∧ t = { s with hub := { s.hub with measured := t.hub.measured } } ∧ t.hub.measured.length = 5 ∧
    t.hub.measured.getD 2 0 = BitVec.ofNat 512 (leNat (readBytes s.hub.image 4 4))) ∧
  (∀ s : State, exec .coldBoot s = .next { State.reset with hostMem := s.hostMem, peerMem := s.peerMem, tick := s.tick, nid := s.nid }) ∧
  State.reset.memOk = true ∧ (∀ a, memRead State.reset.mem a = 0) ∧ (∀ k, (State.reset.bank k).st = 0 ∧ (State.reset.bank k).numf = 0) ∧ (∀ lk, State.reset.launch lk = none) ∧
  State.reset.dies = [{}, {}, {}, {}] ∧ (∀ d ∈ State.reset.dies, d.st = 0 ∧ d.onl = true) ∧ State.reset.hub.bstate = 0 ∧ State.reset.hub.ready = false ∧ State.reset.hub.head = 0 ∧ State.reset.hub.tail = 0 ∧
  State.reset.hub.jrnSeq = 0 ∧ (∀ n, let p := State.reset.part n
    p.cores = [] ∧ p.halted = false ∧ p.en = false ∧ p.fqBase = 0 ∧ p.hndMsg = 0 ∧ p.rdirBase = 0 ∧ p.rdirCnt = 0 ∧ p.rdirCap = 0 ∧ p.dlock = false ∧ p.busy = false ∧ p.rbmax = 3 ∧ p.exact = false ∧
      p.tlim = 0 ∧ p.shrBase = 0 ∧ p.shrLen = 0 ∧ p.trcMode = 0 ∧ p.trcBase = 0 ∧ p.trcLen = 0 ∧ p.trcPos = 0 ∧ p.trcOvf = false ∧ p.trcDiv = false ∧ p.trcErr = false)

/-- A STEP RUNS THE DECODED INSTRUCTION (02 R21, 05 R104, log 1): at the head of the agenda the word of a site runs as the instruction it decodes to, as the row that fires there; a step of a unit runs as it is; a choice picks the bank of every tile (02 R26); an empty agenda opens the next fc; and a word placed by
withFetchWord is what the next step runs. -/
def Obligations.StepsRunDecodedInstructions : Prop :=
  (∀ (s : State) (e : Site) (rest : List Action) (w : Word64) (i : Instr), s.agenda = .fire e :: rest → mget (s.bank (siteKey e)).words e.idx = some w → decodeWord w = .ok i →
    let t : State := { s with agenda := rest, cur := e }
    step s = exec (rowOf t.firing i) t ∧ (rowOf t.firing i).canon = i.canon) ∧
  (∀ (s : State) (i : Instr) (rest : List Action), s.agenda = .ev i :: rest → step s = exec i { s with agenda := rest }) ∧
  (∀ (s : State) (rest : List Action), s.agenda = .choose :: rest → step s = .next ({ s with agenda := rest }).chooseBanks) ∧
  (∀ s : State, s.agenda = [] → ∃ t, step s = .next t ∧ t.fc = s.fc + 1 ∧ t.mem = s.mem) ∧
  (∀ (s : State) (w : Nat) (i : Instr), decodeTableWord 64 w = some i → ∃ t : State, step (s.withFetchWord 64 w) = exec (rowOf t.firing i) t ∧ t.cur = ⟨0, 0, 0, 0⟩ ∧ t.agenda = s.agenda)

/-- The worked encodings of 05, 06, 07, 08 and 09 decode to the instructions they stand for; words with the opcode 0, a reserved type, reserved flags or a target outside the table of R107 are refused by name (05 R106-R108 R113). -/
def Obligations.WordsDecodeAsTheSpecSays : Prop :=
  decodeWord 0x2000404480000000 = .ok (.add { ty := .i32, t0 := .slot 9 .l }) ∧
  decodeWord 0x20404044A003FFFD = .ok (.add { fn := 0x10, ty := .i32, t0 := .slot 9 .r, imm := 0x3FFFD }) ∧
  decodeWord 0x40A1004700000000 = .ok (.fadd { fn := 0x28, ty := .f32, t0 := .slot 14 .l }) ∧
  decodeWord 0x010040460A840000 = .ok (.steer { ty := .i32, t0 := .slot 12 .l, t1 := .slot 40 .r }) ∧
  decodeWord 0x05010A2258198500 = .ok (.fanout { t0 := .slot 5 .l, t1 := .slot 9 .r, t2 := .port 3, t3 := .creg 5 }) ∧
  decodeWord 0x0CFC4044BFFFFFFE = .ok (.const { ty := .i32, t0 := .slot 9 .r, imm := 0x7FFFFFFFE }) ∧
  decodeWord 0x1204000009000040 = .ok (.exitq { imm := 0x29000040 }) ∧
  decodeWord 0x1880000000000005 = .ok (.qpush { fn := 0x20, imm := 5 }) ∧
  decodeWord 0x38144041C0000000 = .ok (.cmp { fn := 0x05, ty := .i32, t0 := .slot 14 .p }) ∧
  decodeWord 0x788DC04A00000001 = .ok (.cvt { fn := 0x23, ty := .kf8e, t0 := .slot 80 .l, imm := 1 }) ∧
  (∀ w : Word64, w.extractLsb' 56 8 = 0 → decodeWord w = .error .opcode) ∧
  (∀ w ∈ [0x2003804480000000, 0x2003C04480000000], decodeWord w = .error .reservedType) ∧
  (∀ w ∈ [0x2000414480000000, 0x20004C4480000000], decodeWord w = .error .reservedFlags) ∧
  (∀ w ∈ [0x20004044E0000000, 0x2000408800000000, 0x200040CC00000000, 0x2000400080000000], decodeWord w = .error .target)

/-- THE DECODER UNDOES THE ENCODER (05 R104-R111): the word of every well-formed instruction, with every operand at every value its fields admit, decodes to the instruction, or to the row that stands for the rows of its word; the bytes after it are left. -/
def Obligations.DecodingUndoesEncoding : Prop :=
  ∀ (i : Instr) (w : Word64), i.wf = true → encode i = some w →
    decodeWord w = .ok i.canon ∧ ∀ rest : List Byte, decode (bytesOfWord w ++ rest) = .ok (i.canon, rest)

/-- EVERY STEP KEEPS THE CANONICAL FORM of device memory, of the memories of the host and the peers, and of the memory tiles with their committed copies: addresses ascend and no byte listed is 0. -/
def Obligations.EveryStepKeepsTheFormOfMemory : Prop :=
  ∀ s t : State, s.memOk = true → step s = .next t → t.memOk = true
end

