-- ==== Sys2Proof/Laws/State.lean ====
section
/-! SUPPORT. The updates of the state, field by field: each writes one field and leaves every other as it is. -/

namespace Sys2Proof.Machine

@[simp] theorem State.setBank_fc (s : State) (k : Nat) (b : Bank) : (s.setBank k b).fc = s.fc := rfl
@[simp] theorem State.setBank_agenda (s : State) (k : Nat) (b : Bank) : (s.setBank k b).agenda = s.agenda := rfl
@[simp] theorem State.setBank_cur (s : State) (k : Nat) (b : Bank) : (s.setBank k b).cur = s.cur := rfl
@[simp] theorem State.setBank_tick (s : State) (k : Nat) (b : Bank) : (s.setBank k b).tick = s.tick := rfl
@[simp] theorem State.setBank_nid (s : State) (k : Nat) (b : Bank) : (s.setBank k b).nid = s.nid := rfl
@[simp] theorem State.setBank_mem (s : State) (k : Nat) (b : Bank) : (s.setBank k b).mem = s.mem := rfl
@[simp] theorem State.setBank_hostMem (s : State) (k : Nat) (b : Bank) : (s.setBank k b).hostMem = s.hostMem := rfl
@[simp] theorem State.setBank_peerMem (s : State) (k : Nat) (b : Bank) : (s.setBank k b).peerMem = s.peerMem := rfl
@[simp] theorem State.setBank_ctiles (s : State) (k : Nat) (b : Bank) : (s.setBank k b).ctiles = s.ctiles := rfl
@[simp] theorem State.setBank_mtiles (s : State) (k : Nat) (b : Bank) : (s.setBank k b).mtiles = s.mtiles := rfl
@[simp] theorem State.setBank_cores (s : State) (k : Nat) (b : Bank) : (s.setBank k b).cores = s.cores := rfl
@[simp] theorem State.setBank_parts (s : State) (k : Nat) (b : Bank) : (s.setBank k b).parts = s.parts := rfl
@[simp] theorem State.setBank_dies (s : State) (k : Nat) (b : Bank) : (s.setBank k b).dies = s.dies := rfl
@[simp] theorem State.setBank_reqs (s : State) (k : Nat) (b : Bank) : (s.setBank k b).reqs = s.reqs := rfl
@[simp] theorem State.setBank_units (s : State) (k : Nat) (b : Bank) : (s.setBank k b).units = s.units := rfl
@[simp] theorem State.setBank_applied (s : State) (k : Nat) (b : Bank) : (s.setBank k b).applied = s.applied := rfl
@[simp] theorem State.setBank_overlay (s : State) (k : Nat) (b : Bank) : (s.setBank k b).overlay = s.overlay := rfl
@[simp] theorem State.setBank_abase (s : State) (k : Nat) (b : Bank) : (s.setBank k b).abase = s.abase := rfl
@[simp] theorem State.setBank_waiters (s : State) (k : Nat) (b : Bank) : (s.setBank k b).waiters = s.waiters := rfl
@[simp] theorem State.setBank_regs (s : State) (k : Nat) (b : Bank) : (s.setBank k b).regs = s.regs := rfl
@[simp] theorem State.setBank_views (s : State) (k : Nat) (b : Bank) : (s.setBank k b).views = s.views := rfl
@[simp] theorem State.setBank_interleave (s : State) (k : Nat) (b : Bank) : (s.setBank k b).interleave = s.interleave := rfl
@[simp] theorem State.setBank_hostLines (s : State) (k : Nat) (b : Bank) : (s.setBank k b).hostLines = s.hostLines := rfl
@[simp] theorem State.setBank_hostReqs (s : State) (k : Nat) (b : Bank) : (s.setBank k b).hostReqs = s.hostReqs := rfl
@[simp] theorem State.setBank_remoteUnits (s : State) (k : Nat) (b : Bank) : (s.setBank k b).remoteUnits = s.remoteUnits := rfl
@[simp] theorem State.setBank_ecc (s : State) (k : Nat) (b : Bank) : (s.setBank k b).ecc = s.ecc := rfl
@[simp] theorem State.setBank_hub (s : State) (k : Nat) (b : Bank) : (s.setBank k b).hub = s.hub := rfl

@[simp] theorem State.setCtile_fc (s : State) (k : Nat) (x : CTile) : (s.setCtile k x).fc = s.fc := rfl
@[simp] theorem State.setCtile_agenda (s : State) (k : Nat) (x : CTile) : (s.setCtile k x).agenda = s.agenda := rfl
@[simp] theorem State.setCtile_cur (s : State) (k : Nat) (x : CTile) : (s.setCtile k x).cur = s.cur := rfl
@[simp] theorem State.setCtile_tick (s : State) (k : Nat) (x : CTile) : (s.setCtile k x).tick = s.tick := rfl
@[simp] theorem State.setCtile_nid (s : State) (k : Nat) (x : CTile) : (s.setCtile k x).nid = s.nid := rfl
@[simp] theorem State.setCtile_mem (s : State) (k : Nat) (x : CTile) : (s.setCtile k x).mem = s.mem := rfl
@[simp] theorem State.setCtile_hostMem (s : State) (k : Nat) (x : CTile) : (s.setCtile k x).hostMem = s.hostMem := rfl
@[simp] theorem State.setCtile_peerMem (s : State) (k : Nat) (x : CTile) : (s.setCtile k x).peerMem = s.peerMem := rfl
@[simp] theorem State.setCtile_banks (s : State) (k : Nat) (x : CTile) : (s.setCtile k x).banks = s.banks := rfl
@[simp] theorem State.setCtile_mtiles (s : State) (k : Nat) (x : CTile) : (s.setCtile k x).mtiles = s.mtiles := rfl
@[simp] theorem State.setCtile_cores (s : State) (k : Nat) (x : CTile) : (s.setCtile k x).cores = s.cores := rfl
@[simp] theorem State.setCtile_parts (s : State) (k : Nat) (x : CTile) : (s.setCtile k x).parts = s.parts := rfl
@[simp] theorem State.setCtile_dies (s : State) (k : Nat) (x : CTile) : (s.setCtile k x).dies = s.dies := rfl
@[simp] theorem State.setCtile_reqs (s : State) (k : Nat) (x : CTile) : (s.setCtile k x).reqs = s.reqs := rfl
@[simp] theorem State.setCtile_units (s : State) (k : Nat) (x : CTile) : (s.setCtile k x).units = s.units := rfl
@[simp] theorem State.setCtile_applied (s : State) (k : Nat) (x : CTile) : (s.setCtile k x).applied = s.applied := rfl
@[simp] theorem State.setCtile_overlay (s : State) (k : Nat) (x : CTile) : (s.setCtile k x).overlay = s.overlay := rfl
@[simp] theorem State.setCtile_abase (s : State) (k : Nat) (x : CTile) : (s.setCtile k x).abase = s.abase := rfl
@[simp] theorem State.setCtile_waiters (s : State) (k : Nat) (x : CTile) : (s.setCtile k x).waiters = s.waiters := rfl
@[simp] theorem State.setCtile_regs (s : State) (k : Nat) (x : CTile) : (s.setCtile k x).regs = s.regs := rfl
@[simp] theorem State.setCtile_views (s : State) (k : Nat) (x : CTile) : (s.setCtile k x).views = s.views := rfl
@[simp] theorem State.setCtile_interleave (s : State) (k : Nat) (x : CTile) : (s.setCtile k x).interleave = s.interleave := rfl
@[simp] theorem State.setCtile_hostLines (s : State) (k : Nat) (x : CTile) : (s.setCtile k x).hostLines = s.hostLines := rfl
@[simp] theorem State.setCtile_hostReqs (s : State) (k : Nat) (x : CTile) : (s.setCtile k x).hostReqs = s.hostReqs := rfl
@[simp] theorem State.setCtile_remoteUnits (s : State) (k : Nat) (x : CTile) : (s.setCtile k x).remoteUnits = s.remoteUnits := rfl
@[simp] theorem State.setCtile_ecc (s : State) (k : Nat) (x : CTile) : (s.setCtile k x).ecc = s.ecc := rfl
@[simp] theorem State.setCtile_hub (s : State) (k : Nat) (x : CTile) : (s.setCtile k x).hub = s.hub := rfl

@[simp] theorem State.setMtile_fc (s : State) (k : Nat) (x : MTile) : (s.setMtile k x).fc = s.fc := rfl
@[simp] theorem State.setMtile_agenda (s : State) (k : Nat) (x : MTile) : (s.setMtile k x).agenda = s.agenda := rfl
@[simp] theorem State.setMtile_cur (s : State) (k : Nat) (x : MTile) : (s.setMtile k x).cur = s.cur := rfl
@[simp] theorem State.setMtile_tick (s : State) (k : Nat) (x : MTile) : (s.setMtile k x).tick = s.tick := rfl
@[simp] theorem State.setMtile_nid (s : State) (k : Nat) (x : MTile) : (s.setMtile k x).nid = s.nid := rfl
@[simp] theorem State.setMtile_mem (s : State) (k : Nat) (x : MTile) : (s.setMtile k x).mem = s.mem := rfl
@[simp] theorem State.setMtile_hostMem (s : State) (k : Nat) (x : MTile) : (s.setMtile k x).hostMem = s.hostMem := rfl
@[simp] theorem State.setMtile_peerMem (s : State) (k : Nat) (x : MTile) : (s.setMtile k x).peerMem = s.peerMem := rfl
@[simp] theorem State.setMtile_banks (s : State) (k : Nat) (x : MTile) : (s.setMtile k x).banks = s.banks := rfl
@[simp] theorem State.setMtile_ctiles (s : State) (k : Nat) (x : MTile) : (s.setMtile k x).ctiles = s.ctiles := rfl
@[simp] theorem State.setMtile_cores (s : State) (k : Nat) (x : MTile) : (s.setMtile k x).cores = s.cores := rfl
@[simp] theorem State.setMtile_parts (s : State) (k : Nat) (x : MTile) : (s.setMtile k x).parts = s.parts := rfl
@[simp] theorem State.setMtile_dies (s : State) (k : Nat) (x : MTile) : (s.setMtile k x).dies = s.dies := rfl
@[simp] theorem State.setMtile_reqs (s : State) (k : Nat) (x : MTile) : (s.setMtile k x).reqs = s.reqs := rfl
@[simp] theorem State.setMtile_units (s : State) (k : Nat) (x : MTile) : (s.setMtile k x).units = s.units := rfl
@[simp] theorem State.setMtile_applied (s : State) (k : Nat) (x : MTile) : (s.setMtile k x).applied = s.applied := rfl
@[simp] theorem State.setMtile_overlay (s : State) (k : Nat) (x : MTile) : (s.setMtile k x).overlay = s.overlay := rfl
@[simp] theorem State.setMtile_abase (s : State) (k : Nat) (x : MTile) : (s.setMtile k x).abase = s.abase := rfl
@[simp] theorem State.setMtile_waiters (s : State) (k : Nat) (x : MTile) : (s.setMtile k x).waiters = s.waiters := rfl
@[simp] theorem State.setMtile_regs (s : State) (k : Nat) (x : MTile) : (s.setMtile k x).regs = s.regs := rfl
@[simp] theorem State.setMtile_views (s : State) (k : Nat) (x : MTile) : (s.setMtile k x).views = s.views := rfl
@[simp] theorem State.setMtile_interleave (s : State) (k : Nat) (x : MTile) : (s.setMtile k x).interleave = s.interleave := rfl
@[simp] theorem State.setMtile_hostLines (s : State) (k : Nat) (x : MTile) : (s.setMtile k x).hostLines = s.hostLines := rfl
@[simp] theorem State.setMtile_hostReqs (s : State) (k : Nat) (x : MTile) : (s.setMtile k x).hostReqs = s.hostReqs := rfl
@[simp] theorem State.setMtile_remoteUnits (s : State) (k : Nat) (x : MTile) : (s.setMtile k x).remoteUnits = s.remoteUnits := rfl
@[simp] theorem State.setMtile_ecc (s : State) (k : Nat) (x : MTile) : (s.setMtile k x).ecc = s.ecc := rfl
@[simp] theorem State.setMtile_hub (s : State) (k : Nat) (x : MTile) : (s.setMtile k x).hub = s.hub := rfl

@[simp] theorem State.setCore_fc (s : State) (k : Nat) (c : Core) : (s.setCore k c).fc = s.fc := rfl
@[simp] theorem State.setCore_agenda (s : State) (k : Nat) (c : Core) : (s.setCore k c).agenda = s.agenda := rfl
@[simp] theorem State.setCore_cur (s : State) (k : Nat) (c : Core) : (s.setCore k c).cur = s.cur := rfl
@[simp] theorem State.setCore_tick (s : State) (k : Nat) (c : Core) : (s.setCore k c).tick = s.tick := rfl
@[simp] theorem State.setCore_nid (s : State) (k : Nat) (c : Core) : (s.setCore k c).nid = s.nid := rfl
@[simp] theorem State.setCore_mem (s : State) (k : Nat) (c : Core) : (s.setCore k c).mem = s.mem := rfl
@[simp] theorem State.setCore_hostMem (s : State) (k : Nat) (c : Core) : (s.setCore k c).hostMem = s.hostMem := rfl
@[simp] theorem State.setCore_peerMem (s : State) (k : Nat) (c : Core) : (s.setCore k c).peerMem = s.peerMem := rfl
@[simp] theorem State.setCore_banks (s : State) (k : Nat) (c : Core) : (s.setCore k c).banks = s.banks := rfl
@[simp] theorem State.setCore_ctiles (s : State) (k : Nat) (c : Core) : (s.setCore k c).ctiles = s.ctiles := rfl
@[simp] theorem State.setCore_mtiles (s : State) (k : Nat) (c : Core) : (s.setCore k c).mtiles = s.mtiles := rfl
@[simp] theorem State.setCore_parts (s : State) (k : Nat) (c : Core) : (s.setCore k c).parts = s.parts := rfl
@[simp] theorem State.setCore_dies (s : State) (k : Nat) (c : Core) : (s.setCore k c).dies = s.dies := rfl
@[simp] theorem State.setCore_reqs (s : State) (k : Nat) (c : Core) : (s.setCore k c).reqs = s.reqs := rfl
@[simp] theorem State.setCore_units (s : State) (k : Nat) (c : Core) : (s.setCore k c).units = s.units := rfl
@[simp] theorem State.setCore_applied (s : State) (k : Nat) (c : Core) : (s.setCore k c).applied = s.applied := rfl
@[simp] theorem State.setCore_overlay (s : State) (k : Nat) (c : Core) : (s.setCore k c).overlay = s.overlay := rfl
@[simp] theorem State.setCore_abase (s : State) (k : Nat) (c : Core) : (s.setCore k c).abase = s.abase := rfl
@[simp] theorem State.setCore_waiters (s : State) (k : Nat) (c : Core) : (s.setCore k c).waiters = s.waiters := rfl
@[simp] theorem State.setCore_regs (s : State) (k : Nat) (c : Core) : (s.setCore k c).regs = s.regs := rfl
@[simp] theorem State.setCore_views (s : State) (k : Nat) (c : Core) : (s.setCore k c).views = s.views := rfl
@[simp] theorem State.setCore_interleave (s : State) (k : Nat) (c : Core) : (s.setCore k c).interleave = s.interleave := rfl
@[simp] theorem State.setCore_hostLines (s : State) (k : Nat) (c : Core) : (s.setCore k c).hostLines = s.hostLines := rfl
@[simp] theorem State.setCore_hostReqs (s : State) (k : Nat) (c : Core) : (s.setCore k c).hostReqs = s.hostReqs := rfl
@[simp] theorem State.setCore_remoteUnits (s : State) (k : Nat) (c : Core) : (s.setCore k c).remoteUnits = s.remoteUnits := rfl
@[simp] theorem State.setCore_ecc (s : State) (k : Nat) (c : Core) : (s.setCore k c).ecc = s.ecc := rfl
@[simp] theorem State.setCore_hub (s : State) (k : Nat) (c : Core) : (s.setCore k c).hub = s.hub := rfl

@[simp] theorem State.setPart_fc (s : State) (k : Nat) (p : Partition) : (s.setPart k p).fc = s.fc := rfl
@[simp] theorem State.setPart_agenda (s : State) (k : Nat) (p : Partition) : (s.setPart k p).agenda = s.agenda := rfl
@[simp] theorem State.setPart_cur (s : State) (k : Nat) (p : Partition) : (s.setPart k p).cur = s.cur := rfl
@[simp] theorem State.setPart_tick (s : State) (k : Nat) (p : Partition) : (s.setPart k p).tick = s.tick := rfl
@[simp] theorem State.setPart_nid (s : State) (k : Nat) (p : Partition) : (s.setPart k p).nid = s.nid := rfl
@[simp] theorem State.setPart_mem (s : State) (k : Nat) (p : Partition) : (s.setPart k p).mem = s.mem := rfl
@[simp] theorem State.setPart_hostMem (s : State) (k : Nat) (p : Partition) : (s.setPart k p).hostMem = s.hostMem := rfl
@[simp] theorem State.setPart_peerMem (s : State) (k : Nat) (p : Partition) : (s.setPart k p).peerMem = s.peerMem := rfl
@[simp] theorem State.setPart_banks (s : State) (k : Nat) (p : Partition) : (s.setPart k p).banks = s.banks := rfl
@[simp] theorem State.setPart_ctiles (s : State) (k : Nat) (p : Partition) : (s.setPart k p).ctiles = s.ctiles := rfl
@[simp] theorem State.setPart_mtiles (s : State) (k : Nat) (p : Partition) : (s.setPart k p).mtiles = s.mtiles := rfl
@[simp] theorem State.setPart_cores (s : State) (k : Nat) (p : Partition) : (s.setPart k p).cores = s.cores := rfl
@[simp] theorem State.setPart_dies (s : State) (k : Nat) (p : Partition) : (s.setPart k p).dies = s.dies := rfl
@[simp] theorem State.setPart_reqs (s : State) (k : Nat) (p : Partition) : (s.setPart k p).reqs = s.reqs := rfl
@[simp] theorem State.setPart_units (s : State) (k : Nat) (p : Partition) : (s.setPart k p).units = s.units := rfl
@[simp] theorem State.setPart_applied (s : State) (k : Nat) (p : Partition) : (s.setPart k p).applied = s.applied := rfl
@[simp] theorem State.setPart_overlay (s : State) (k : Nat) (p : Partition) : (s.setPart k p).overlay = s.overlay := rfl
@[simp] theorem State.setPart_abase (s : State) (k : Nat) (p : Partition) : (s.setPart k p).abase = s.abase := rfl
@[simp] theorem State.setPart_waiters (s : State) (k : Nat) (p : Partition) : (s.setPart k p).waiters = s.waiters := rfl
@[simp] theorem State.setPart_regs (s : State) (k : Nat) (p : Partition) : (s.setPart k p).regs = s.regs := rfl
@[simp] theorem State.setPart_views (s : State) (k : Nat) (p : Partition) : (s.setPart k p).views = s.views := rfl
@[simp] theorem State.setPart_interleave (s : State) (k : Nat) (p : Partition) : (s.setPart k p).interleave = s.interleave := rfl
@[simp] theorem State.setPart_hostLines (s : State) (k : Nat) (p : Partition) : (s.setPart k p).hostLines = s.hostLines := rfl
@[simp] theorem State.setPart_hostReqs (s : State) (k : Nat) (p : Partition) : (s.setPart k p).hostReqs = s.hostReqs := rfl
@[simp] theorem State.setPart_remoteUnits (s : State) (k : Nat) (p : Partition) : (s.setPart k p).remoteUnits = s.remoteUnits := rfl
@[simp] theorem State.setPart_ecc (s : State) (k : Nat) (p : Partition) : (s.setPart k p).ecc = s.ecc := rfl
@[simp] theorem State.setPart_hub (s : State) (k : Nat) (p : Partition) : (s.setPart k p).hub = s.hub := rfl

@[simp] theorem State.tickUp_fc (s : State)  : (s.tickUp).fc = s.fc := rfl
@[simp] theorem State.tickUp_agenda (s : State)  : (s.tickUp).agenda = s.agenda := rfl
@[simp] theorem State.tickUp_cur (s : State)  : (s.tickUp).cur = s.cur := rfl
@[simp] theorem State.tickUp_nid (s : State)  : (s.tickUp).nid = s.nid := rfl
@[simp] theorem State.tickUp_mem (s : State)  : (s.tickUp).mem = s.mem := rfl
@[simp] theorem State.tickUp_hostMem (s : State)  : (s.tickUp).hostMem = s.hostMem := rfl
@[simp] theorem State.tickUp_peerMem (s : State)  : (s.tickUp).peerMem = s.peerMem := rfl
@[simp] theorem State.tickUp_banks (s : State)  : (s.tickUp).banks = s.banks := rfl
@[simp] theorem State.tickUp_ctiles (s : State)  : (s.tickUp).ctiles = s.ctiles := rfl
@[simp] theorem State.tickUp_mtiles (s : State)  : (s.tickUp).mtiles = s.mtiles := rfl
@[simp] theorem State.tickUp_cores (s : State)  : (s.tickUp).cores = s.cores := rfl
@[simp] theorem State.tickUp_parts (s : State)  : (s.tickUp).parts = s.parts := rfl
@[simp] theorem State.tickUp_dies (s : State)  : (s.tickUp).dies = s.dies := rfl
@[simp] theorem State.tickUp_reqs (s : State)  : (s.tickUp).reqs = s.reqs := rfl
@[simp] theorem State.tickUp_units (s : State)  : (s.tickUp).units = s.units := rfl
@[simp] theorem State.tickUp_applied (s : State)  : (s.tickUp).applied = s.applied := rfl
@[simp] theorem State.tickUp_overlay (s : State)  : (s.tickUp).overlay = s.overlay := rfl
@[simp] theorem State.tickUp_abase (s : State)  : (s.tickUp).abase = s.abase := rfl
@[simp] theorem State.tickUp_waiters (s : State)  : (s.tickUp).waiters = s.waiters := rfl
@[simp] theorem State.tickUp_regs (s : State)  : (s.tickUp).regs = s.regs := rfl
@[simp] theorem State.tickUp_views (s : State)  : (s.tickUp).views = s.views := rfl
@[simp] theorem State.tickUp_interleave (s : State)  : (s.tickUp).interleave = s.interleave := rfl
@[simp] theorem State.tickUp_hostLines (s : State)  : (s.tickUp).hostLines = s.hostLines := rfl
@[simp] theorem State.tickUp_hostReqs (s : State)  : (s.tickUp).hostReqs = s.hostReqs := rfl
@[simp] theorem State.tickUp_remoteUnits (s : State)  : (s.tickUp).remoteUnits = s.remoteUnits := rfl
@[simp] theorem State.tickUp_ecc (s : State)  : (s.tickUp).ecc = s.ecc := rfl
@[simp] theorem State.tickUp_hub (s : State)  : (s.tickUp).hub = s.hub := rfl

@[simp] theorem State.setElem_fc (s : State) (e : Site) (x : Elem) : (s.setElem e x).fc = s.fc := rfl
@[simp] theorem State.setElem_agenda (s : State) (e : Site) (x : Elem) : (s.setElem e x).agenda = s.agenda := rfl
@[simp] theorem State.setElem_cur (s : State) (e : Site) (x : Elem) : (s.setElem e x).cur = s.cur := rfl
@[simp] theorem State.setElem_tick (s : State) (e : Site) (x : Elem) : (s.setElem e x).tick = s.tick := rfl
@[simp] theorem State.setElem_nid (s : State) (e : Site) (x : Elem) : (s.setElem e x).nid = s.nid := rfl
@[simp] theorem State.setElem_mem (s : State) (e : Site) (x : Elem) : (s.setElem e x).mem = s.mem := rfl
@[simp] theorem State.setElem_hostMem (s : State) (e : Site) (x : Elem) : (s.setElem e x).hostMem = s.hostMem := rfl
@[simp] theorem State.setElem_peerMem (s : State) (e : Site) (x : Elem) : (s.setElem e x).peerMem = s.peerMem := rfl
@[simp] theorem State.setElem_ctiles (s : State) (e : Site) (x : Elem) : (s.setElem e x).ctiles = s.ctiles := rfl
@[simp] theorem State.setElem_mtiles (s : State) (e : Site) (x : Elem) : (s.setElem e x).mtiles = s.mtiles := rfl
@[simp] theorem State.setElem_cores (s : State) (e : Site) (x : Elem) : (s.setElem e x).cores = s.cores := rfl
@[simp] theorem State.setElem_parts (s : State) (e : Site) (x : Elem) : (s.setElem e x).parts = s.parts := rfl
@[simp] theorem State.setElem_dies (s : State) (e : Site) (x : Elem) : (s.setElem e x).dies = s.dies := rfl
@[simp] theorem State.setElem_reqs (s : State) (e : Site) (x : Elem) : (s.setElem e x).reqs = s.reqs := rfl
@[simp] theorem State.setElem_units (s : State) (e : Site) (x : Elem) : (s.setElem e x).units = s.units := rfl
@[simp] theorem State.setElem_applied (s : State) (e : Site) (x : Elem) : (s.setElem e x).applied = s.applied := rfl
@[simp] theorem State.setElem_overlay (s : State) (e : Site) (x : Elem) : (s.setElem e x).overlay = s.overlay := rfl
@[simp] theorem State.setElem_abase (s : State) (e : Site) (x : Elem) : (s.setElem e x).abase = s.abase := rfl
@[simp] theorem State.setElem_waiters (s : State) (e : Site) (x : Elem) : (s.setElem e x).waiters = s.waiters := rfl
@[simp] theorem State.setElem_regs (s : State) (e : Site) (x : Elem) : (s.setElem e x).regs = s.regs := rfl
@[simp] theorem State.setElem_views (s : State) (e : Site) (x : Elem) : (s.setElem e x).views = s.views := rfl
@[simp] theorem State.setElem_interleave (s : State) (e : Site) (x : Elem) : (s.setElem e x).interleave = s.interleave := rfl
@[simp] theorem State.setElem_hostLines (s : State) (e : Site) (x : Elem) : (s.setElem e x).hostLines = s.hostLines := rfl
@[simp] theorem State.setElem_hostReqs (s : State) (e : Site) (x : Elem) : (s.setElem e x).hostReqs = s.hostReqs := rfl
@[simp] theorem State.setElem_remoteUnits (s : State) (e : Site) (x : Elem) : (s.setElem e x).remoteUnits = s.remoteUnits := rfl
@[simp] theorem State.setElem_ecc (s : State) (e : Site) (x : Elem) : (s.setElem e x).ecc = s.ecc := rfl
@[simp] theorem State.setElem_hub (s : State) (e : Site) (x : Elem) : (s.setElem e x).hub = s.hub := rfl

end Sys2Proof.Machine
end

