-- ==== Sys2Proof/Laws/Tables.lean ====
section
/-! SUPPORT. Sparse tables, and reading back what an update of the state wrote. -/

namespace Sys2Proof.Machine

/-! ### Tables -/

@[simp] theorem mget_mset_same {α : Type} (m : Map α) (i : Nat) (x : α) : mget (mset m i x) i = some x := by
  induction m with
  | nil => simp [mset, mget]
  | cons y m ih =>
    obtain ⟨k, v⟩ := y
    by_cases h : i < k
    · simp [mset, mget, h]
    · by_cases h' : i = k
      · simp [mset, mget, h']
      · have : ¬ k = i := fun e => h' e.symm
        simp [mset, mget, h, h', this, ih]

theorem mget_mset_other {α : Type} (m : Map α) (i j : Nat) (x : α) (h : j ≠ i) : mget (mset m i x) j = mget m j := by
  induction m with
  | nil => simp [mset, mget, Ne.symm h]
  | cons y m ih =>
    obtain ⟨k, v⟩ := y
    by_cases h1 : i < k
    · simp only [mset, h1, if_true, mget]
      by_cases h2 : i = j
      · omega
      · by_cases h3 : j < i
        · have : ¬ k = j := by omega
          have : j < k := by omega
          simp [*]
        · simp [h2, h3]
    · by_cases h2 : i = k
      · subst h2
        simp only [mset, h1, if_true, if_false, mget]
        by_cases h3 : i = j
        · omega
        · simp [h3]
      · simp only [mset, h1, h2, if_false, mget, ih]

@[simp] theorem mgetD_mset_same {α : Type} (m : Map α) (i : Nat) (x d : α) : mgetD (mset m i x) i d = x := by simp [mgetD]

theorem mgetD_mset_other {α : Type} (m : Map α) (i j : Nat) (x d : α) (h : j ≠ i) : mgetD (mset m i x) j d = mgetD m j d := by
  simp [mgetD, mget_mset_other m i j x h]

@[simp] theorem mset_mset_same {α : Type} (m : Map α) (i : Nat) (x y : α) : mset (mset m i x) i y = mset m i y := by
  induction m with
  | nil => simp [mset]
  | cons z m ih =>
    obtain ⟨k, v⟩ := z
    by_cases h1 : i < k
    · simp [mset, h1]
    · by_cases h2 : i = k
      · simp [mset, h2]
      · simp [mset, h1, h2, ih]

/-! ### Banks, elements and the other places -/

@[simp] theorem State.bank_setBank_same (s : State) (k : Nat) (b : Bank) : (s.setBank k b).bank k = b := by simp [State.setBank, State.bank]

theorem State.bank_setBank_other (s : State) (k j : Nat) (b : Bank) (h : j ≠ k) : (s.setBank k b).bank j = s.bank j := by
  simp [State.setBank, State.bank, mgetD_mset_other _ _ _ _ _ h]

@[simp] theorem State.setBank_setBank (s : State) (k : Nat) (a b : Bank) : (s.setBank k a).setBank k b = s.setBank k b := by
  simp [State.setBank]

@[simp] theorem Bank.elem_setElem_same (b : Bank) (i : Nat) (x : Elem) : (b.setElem i x).elem i = x := by simp [Bank.setElem, Bank.elem]

theorem Bank.elem_setElem_other (b : Bank) (i j : Nat) (x : Elem) (h : j ≠ i) : (b.setElem i x).elem j = b.elem j := by
  simp [Bank.setElem, Bank.elem, mgetD_mset_other _ _ _ _ _ h]

@[simp] theorem Bank.setElem_setElem (b : Bank) (i : Nat) (x y : Elem) : (b.setElem i x).setElem i y = b.setElem i y := by simp [Bank.setElem]

@[simp] theorem State.elem_setElem_same (s : State) (e : Site) (x : Elem) : (s.setElem e x).elem e = x := by simp [State.setElem, State.elem]

@[simp] theorem State.setElem_setElem (s : State) (e : Site) (x y : Elem) : (s.setElem e x).setElem e y = s.setElem e y := by
  simp [State.setElem]

@[simp] theorem State.bank_setElem_same (s : State) (e : Site) (x : Elem) : (s.setElem e x).bank (siteKey e) = (s.bank (siteKey e)).setElem e.idx x := by
  simp [State.setElem]

theorem State.bank_setElem_other (s : State) (e : Site) (x : Elem) (k : Nat) (h : k ≠ siteKey e) : (s.setElem e x).bank k = s.bank k := by
  simp [State.setElem, State.bank_setBank_other _ _ _ _ h]

@[simp] theorem State.part_setPart_same (s : State) (n : Nat) (p : Partition) : (s.setPart n p).part n = p := by simp [State.setPart, State.part]

theorem State.part_setPart_other (s : State) (n m : Nat) (p : Partition) (h : m ≠ n) : (s.setPart n p).part m = s.part m := by
  simp [State.setPart, State.part, mgetD_mset_other _ _ _ _ _ h]

@[simp] theorem State.core_setCore_same (s : State) (n : Nat) (c : Core) : (s.setCore n c).core n = c := by simp [State.setCore, State.core]

theorem State.core_setCore_other (s : State) (n m : Nat) (c : Core) (h : m ≠ n) : (s.setCore n c).core m = s.core m := by
  simp [State.setCore, State.core, mgetD_mset_other _ _ _ _ _ h]

@[simp] theorem State.ctile_setCtile_same (s : State) (n : Nat) (c : CTile) : (s.setCtile n c).ctile n = c := by simp [State.setCtile, State.ctile]

theorem State.ctile_setCtile_other (s : State) (n m : Nat) (c : CTile) (h : m ≠ n) : (s.setCtile n c).ctile m = s.ctile m := by
  simp [State.setCtile, State.ctile, mgetD_mset_other _ _ _ _ _ h]

@[simp] theorem State.mtile_setMtile_same (s : State) (n : Nat) (c : MTile) : (s.setMtile n c).mtile n = c := by simp [State.setMtile, State.mtile]

theorem State.mtile_setMtile_other (s : State) (n m : Nat) (c : MTile) (h : m ≠ n) : (s.setMtile n c).mtile m = s.mtile m := by
  simp [State.setMtile, State.mtile, mgetD_mset_other _ _ _ _ _ h]

/-- An accessor of one place does not see an update of another. -/
@[simp] theorem State.bank_setPart (s : State) (n k : Nat) (p : Partition) : (s.setPart n p).bank k = s.bank k := rfl
@[simp] theorem State.bank_setCore (s : State) (n k : Nat) (c : Core) : (s.setCore n c).bank k = s.bank k := rfl
@[simp] theorem State.bank_setCtile (s : State) (n k : Nat) (c : CTile) : (s.setCtile n c).bank k = s.bank k := rfl
@[simp] theorem State.bank_setMtile (s : State) (n k : Nat) (c : MTile) : (s.setMtile n c).bank k = s.bank k := rfl
@[simp] theorem State.part_setBank (s : State) (n k : Nat) (b : Bank) : (s.setBank n b).part k = s.part k := rfl
@[simp] theorem State.part_setElem (s : State) (e : Site) (k : Nat) (x : Elem) : (s.setElem e x).part k = s.part k := rfl
@[simp] theorem State.part_setCore (s : State) (n k : Nat) (c : Core) : (s.setCore n c).part k = s.part k := rfl
@[simp] theorem State.core_setBank (s : State) (n k : Nat) (b : Bank) : (s.setBank n b).core k = s.core k := rfl
@[simp] theorem State.core_setElem (s : State) (e : Site) (k : Nat) (x : Elem) : (s.setElem e x).core k = s.core k := rfl
@[simp] theorem State.core_setPart (s : State) (n k : Nat) (p : Partition) : (s.setPart n p).core k = s.core k := rfl
@[simp] theorem State.launch_setBank (s : State) (n lk : Nat) (b : Bank) : (s.setBank n b).launch lk = s.launch lk := rfl
@[simp] theorem State.launch_setElem (s : State) (e : Site) (lk : Nat) (x : Elem) : (s.setElem e x).launch lk = s.launch lk := rfl

end Sys2Proof.Machine
end

