-- ==== Sys2Proof/Laws/Firing.lean ====
section
/-! SUPPORT. What the shared firing schemes do: counting a firing, its result and flags, and the schemes of pure producers, router operators and anchors on
the path where the instruction executes. -/

namespace Sys2Proof.Machine

/-- A description of the firing at the current site, whatever operands it is given. -/
structure IsFiring (s : State) (f : Firing) : Prop where
  e : f.e = s.cur
  bk : f.bk = siteKey s.cur
  b : f.b = s.bank (siteKey s.cur)
  el : f.el = s.here
  lk : f.lk = (s.bank (siteKey s.cur)).lk
  round : f.round = s.here.fwd
  thr : f.thr = s.firing.thr
  k : f.k = s.firing.k

theorem isFiring_firing (s : State) : IsFiring s s.firing := ⟨rfl, rfl, rfl, rfl, rfl, rfl, rfl, rfl⟩
theorem isFiring_mask (s : State) (o : Operands) : IsFiring s { s.firing with ops := o } := ⟨rfl, rfl, rfl, rfl, rfl, rfl, rfl, rfl⟩

/-! ### Launches under an update of one of them -/

theorem sameButActive_refl (x : Option Launch) : sameButActive x x := rfl

theorem launch_setLaunch_same (s : State) (lk : Nat) (l : Launch) : (s.setLaunch lk l).launch lk = some l := by
  unfold State.setLaunch State.launch
  by_cases h : lkLid lk = 0 <;> simp [h]

theorem lk_of (a b : Nat) (h1 : lkPart a = lkPart b) (h2 : lkLid a = lkLid b) : a = b := by
  unfold lkPart at h1
  unfold lkLid at h2
  omega

theorem launch_setLaunch_other (s : State) (lk j : Nat) (l : Launch) (h : j ≠ lk) : (s.setLaunch lk l).launch j = s.launch j := by
  unfold State.setLaunch State.launch
  by_cases hp : lkPart j = lkPart lk
  · have hl : lkLid j ≠ lkLid lk := fun e => h (lk_of _ _ hp e)
    by_cases h0 : lkLid lk = 0
    · have : lkLid j ≠ 0 := by omega
      simp [h0, this, hp]
    · simp only [h0, if_false, hp, State.part_setPart_same]
      split
      · rfl
      · simp [mget_mset_other _ _ _ _ hl]
  · by_cases h0 : lkLid lk = 0 <;> simp only [h0, if_true, if_false, State.part_setPart_other _ _ _ _ hp]

theorem part_setLaunch (s : State) (lk n : Nat) (l : Launch) :
    (s.setLaunch lk l).part n = { s.part n with launches := ((s.setLaunch lk l).part n).launches, handler := ((s.setLaunch lk l).part n).handler } := by
  by_cases h : n = lkPart lk
  · subst h
    unfold State.setLaunch
    split <;> simp
  · unfold State.setLaunch
    split <;> simp only [State.part_setPart_other _ _ _ _ h]

/-- A change of a launch that leaves everything but its active rounds. -/
theorem mapLaunch_active (s : State) (lk : Nat) (g : Launch → Launch) (hg : ∀ l, { g l with active := [] } = { l with active := [] }) (j : Nat) :
    sameButActive ((s.mapLaunch lk g).launch j) (s.launch j) := by
  unfold State.mapLaunch
  cases hl : s.launch lk with
  | none => rfl
  | some l =>
    by_cases hj : j = lk
    · subst hj; simp [launch_setLaunch_same, sameButActive, hl, hg]
    · simp only [launch_setLaunch_other _ _ _ _ hj]; rfl

theorem part_mapLaunch (s : State) (lk n : Nat) (g : Launch → Launch) :
    (s.mapLaunch lk g).part n = { s.part n with launches := ((s.mapLaunch lk g).part n).launches, handler := ((s.mapLaunch lk g).part n).handler } := by
  unfold State.mapLaunch
  cases s.launch lk with
  | none => rfl
  | some l => exact part_setLaunch s lk n (g l)

theorem setLaunch_parts (s : State) (lk : Nat) (l : Launch) : s.setLaunch lk l = { s with parts := (s.setLaunch lk l).parts } := by
  unfold State.setLaunch
  by_cases h : lkLid lk = 0 <;> simp only [h, if_true, if_false] <;> rfl

theorem mapLaunch_banks (s : State) (lk : Nat) (g : Launch → Launch) : s.mapLaunch lk g = { s with parts := (s.mapLaunch lk g).parts } := by
  unfold State.mapLaunch
  cases s.launch lk with
  | none => rfl
  | some l => exact setLaunch_parts s lk (g l)

/-! ### Counting -/

/-- The instruction once its firing is counted. -/
def countedElem (s : State) : Elem :=
  { s.here with fires := mset s.here.fires s.firing.thr (mgetD s.here.fires s.firing.thr 0 + 1), last := some s.fc, bpass := false }

/-- The block of the current site once the firing is counted. -/
def countedBank (s : State) : Bank := { (s.bank (siteKey s.cur)).setElem s.cur.idx (countedElem s) with lastFire := some s.here.fwd }

theorem countedBank_elem (s : State) : (countedBank s).elem s.cur.idx = countedElem s := Bank.elem_setElem_same (s.bank (siteKey s.cur)) s.cur.idx (countedElem s)
theorem countedBank_other (s : State) (i : Nat) (h : i ≠ s.cur.idx) : (countedBank s).elem i = (s.bank (siteKey s.cur)).elem i :=
  Bank.elem_setElem_other (s.bank (siteKey s.cur)) s.cur.idx i (countedElem s) h

/-- The state once the block counts the firing, before its launch does. -/
def countedState (s : State) : State := s.setBank (siteKey s.cur) (countedBank s)

theorem countFiring_eq (s : State) (f : Firing) (h : IsFiring s f) :
    s.countFiring f = if isQex f.b then countedState s else (countedState s).active f.lk s.cur.core f.round := by
  obtain ⟨he, hbk, hb, hel, hlk, hr, ht, -⟩ := h
  unfold State.countFiring
  simp only [he, hbk, hr, ht, State.bank_setElem_same]
  rw [show ((s.setElem s.cur { s.elem s.cur with
        fires := mset (s.elem s.cur).fires s.firing.thr (mgetD (s.elem s.cur).fires s.firing.thr 0 + 1), last := some s.fc, bpass := false }).setBank (siteKey s.cur)
        { (s.bank (siteKey s.cur)).setElem s.cur.idx { s.elem s.cur with
        fires := mset (s.elem s.cur).fires s.firing.thr (mgetD (s.elem s.cur).fires s.firing.thr 0 + 1), last := some s.fc, bpass := false } with
          lastFire := some s.here.fwd }) = countedState s from State.setBank_setBank _ _ _ _]

/-- A state whose banks are those of the counted state, and whose launches differ from s's in their active rounds. -/
theorem counted_within (s t : State) (hb : ∀ k, t.bank k = (countedState s).bank k) (hr : t = { s with banks := t.banks, parts := t.parts })
    (hl : ∀ lk, sameButActive (t.launch lk) (s.launch lk))
    (hp : ∀ n, t.part n = { s.part n with launches := (t.part n).launches, handler := (t.part n).handler }) :
    t.elem s.cur = countedElem s ∧ Within s t ∧ (t.bank (siteKey s.cur)).nstage = (s.bank (siteKey s.cur)).nstage := by
  have h0 : t.bank (siteKey s.cur) = countedBank s := (hb _).trans (State.bank_setBank_same _ _ _)
  refine ⟨?_, ⟨hr, ?_, ?_, ?_, hl, hp⟩, ?_⟩
  · unfold State.elem; rw [h0, countedBank_elem]
  · intro k hk; rw [hb]; exact State.bank_setBank_other _ _ _ _ hk
  · exact ⟨_, _, h0.trans rfl⟩
  · intro i hi; rw [h0]; exact countedBank_other s i hi
  · rw [h0]; rfl

/-- What counting a firing does. -/
theorem countFiring_spec (s : State) (f : Firing) (h : IsFiring s f) :
    (s.countFiring f).elem s.cur = countedElem s ∧ Within s (s.countFiring f) ∧
      ((s.countFiring f).bank (siteKey s.cur)).nstage = (s.bank (siteKey s.cur)).nstage := by
  rw [countFiring_eq s f h]
  unfold State.active
  split
  · exact counted_within s _ (fun _ => rfl) rfl (fun _ => rfl) (fun _ => rfl)
  · refine counted_within s _ (fun k => ?_) ?_ (fun j => ?_) (fun n => ?_)
    · rw [mapLaunch_banks]; rfl
    · rw [mapLaunch_banks]; rfl
    · exact mapLaunch_active (countedState s) _ _ (fun l => by dsimp only; split <;> rfl) j
    · exact part_mapLaunch (countedState s) _ n _

/-! ### Updates that stay within a firing -/

theorem Within.setElem {s t : State} (h : Within s t) (x : Elem) : Within s (t.setElem s.cur x) := by
  obtain ⟨h1, h2, ⟨es, ns, h3⟩, h4, h5, h6⟩ := h
  refine ⟨?_, ?_, ?_, ?_, h5, h6⟩
  · rw [h1]; rfl
  · intro k hk; rw [State.bank_setElem_other _ _ _ _ hk]; exact h2 k hk
  · refine ⟨mset es s.cur.idx x, ns, ?_⟩
    rw [State.bank_setElem_same, h3]; rfl
  · intro i hi; rw [State.bank_setElem_same, Bank.elem_setElem_other _ _ _ _ hi]; exact h4 i hi

theorem Within.stage {s t : State} (h : Within s t) (ns : List (Nat × BitVec 5)) :
    Within s (t.setBank (siteKey s.cur) { t.bank (siteKey s.cur) with nstage := ns }) := by
  obtain ⟨h1, h2, ⟨es, ns', h3⟩, h4, h5, h6⟩ := h
  refine ⟨?_, ?_, ?_, ?_, h5, h6⟩
  · rw [h1]; rfl
  · intro k hk; rw [State.bank_setBank_other _ _ _ _ hk]; exact h2 k hk
  · exact ⟨es, ns, by rw [State.bank_setBank_same, h3]⟩
  · intro i hi; rw [State.bank_setBank_same]; exact h4 i hi

/-- Taking operands. -/
theorem consume_elem (s t : State) (f : Firing) (he : f.e = s.cur) (k : Slots) : (t.consume f k).elem s.cur = (t.elem s.cur).consume k := by
  unfold State.consume; rw [he]; exact State.elem_setElem_same _ _ _

theorem consume_nstage (s t : State) (f : Firing) (he : f.e = s.cur) (k : Slots) :
    ((t.consume f k).bank (siteKey s.cur)).nstage = (t.bank (siteKey s.cur)).nstage := by
  unfold State.consume; rw [he, State.bank_setElem_same]; rfl

theorem Within.consume {s t : State} (h : Within s t) (f : Firing) (he : f.e = s.cur) (k : Slots) : Within s (t.consume f k) := by
  unfold State.consume; rw [he]; exact h.setElem _

/-- THE START OF EVERY FIRING: counted, its operands taken. -/
theorem start_spec (s : State) (f : Firing) (h : IsFiring s f) (k : Slots) :
    ((s.countFiring f).consume f k).elem s.cur = s.firedElem k s.firing.thr ∧ Within s ((s.countFiring f).consume f k) ∧
      (((s.countFiring f).consume f k).bank (siteKey s.cur)).nstage = (s.bank (siteKey s.cur)).nstage := by
  obtain ⟨h1, h2, h3⟩ := countFiring_spec s f h
  refine ⟨?_, h2.consume f h.e k, ?_⟩
  · rw [consume_elem s _ f h.e, h1]; rfl
  · rw [consume_nstage s _ f h.e, h3]

theorem stageFlags_spec {s t : State} (f : Firing) (h : IsFiring s f) (fl : Nat) (hw : Within s t) :
    (t.stageFlags f fl).elem s.cur = t.elem s.cur ∧ Within s (t.stageFlags f fl) ∧
      ((t.stageFlags f fl).bank (siteKey s.cur)).nstage =
        (t.bank (siteKey s.cur)).nstage ++ (if fl = 0 then [] else [(s.here.fwd, BitVec.ofNat 5 fl)]) := by
  unfold State.stageFlags
  by_cases h0 : fl = 0
  · simp [h0, hw]
  · simp only [h0, if_false, h.bk, h.round]
    refine ⟨?_, hw.stage _, ?_⟩
    · unfold State.elem; rw [State.bank_setBank_same]; rfl
    · rw [State.bank_setBank_same]

theorem result_elem (s t : State) (f : Firing) (h : IsFiring s f) (hfc : t.fc = s.fc) (lat : Nat) (outs : List (Nat × Token)) :
    (t.result f false lat outs).elem s.cur = (t.elem s.cur).plus (s.resultOf lat s.firing.thr outs) := by
  unfold State.result State.pushFlight
  rw [h.e, State.elem_setElem_same, h.round, h.thr, h.k, hfc]
  rfl

theorem result_nstage (s t : State) (f : Firing) (h : IsFiring s f) (lat : Nat) (outs : List (Nat × Token)) :
    ((t.result f false lat outs).bank (siteKey s.cur)).nstage = (t.bank (siteKey s.cur)).nstage := by
  unfold State.result State.pushFlight
  rw [h.e, State.bank_setElem_same]; rfl

theorem Within.result {s t : State} (hw : Within s t) (f : Firing) (h : IsFiring s f) (lat : Nat) (outs : List (Nat × Token)) :
    Within s (t.result f false lat outs) := by
  unfold State.result State.pushFlight
  rw [h.e]; exact hw.setElem _

theorem Within.fc {s t : State} (h : Within s t) : t.fc = s.fc := by rw [h.rest]

theorem setOst_elem (s t : State) (o : OpState) : (t.setOst s.cur o).elem s.cur = { t.elem s.cur with ost := o } := State.elem_setElem_same _ _ _
theorem setOst_nstage (s t : State) (o : OpState) : ((t.setOst s.cur o).bank (siteKey s.cur)).nstage = (t.bank (siteKey s.cur)).nstage := by
  unfold State.setOst; rw [State.bank_setElem_same]; rfl
theorem Within.setOst {s t : State} (h : Within s t) (o : OpState) : Within s (t.setOst s.cur o) := h.setElem _

/-! ### The schemes where the instruction executes -/

/-- A PURE PRODUCER THAT EXECUTES emits its value (02 R22, 03 R64). -/
theorem pureFire_value (s : State) (p : PureFiring) (all : Bool) (bits : Nat) (outs : List (Nat × Token)) (fl : Nat)
    (hc : s.CanFire p.fl (withPm p.fl p.need)) (hp : (s.operands (withPm p.fl p.need)).poison = none)
    (hr : predicate p.fl.pm p.vecP (s.operands (withPm p.fl p.need)).p = .run all bits)
    (hv : p.eval (s.operands (withPm p.fl p.need)) (.run all bits) = .ok (outs, fl))
    (hno : outs ≠ []) (hclean : p.fl.e = false ∨ outs.any (fun x => x.2.poison) = false) (hpost : p.post = fun s _ _ _ => s) :
    Fires s ((s.firedElem (takes p.fl (withPm p.fl p.need)) s.firing.thr).plus (s.resultOf p.lat s.firing.thr outs)) fl (s.pureFire p) := by
  obtain ⟨h1, h2, h3, h4⟩ := hc
  have hout : decided p s.firing (s.operands (withPm p.fl p.need)) = (outs, fl) := by
    unfold decided pureOutcome
    simp only [hp, hr, hv]
    rcases hclean with hc | hc <;> simp [hc]
  have hanchor : (if toRegister s.firing.b s.firing.e.idx then anchorOutcome p (s.operands (withPm p.fl p.need)) else none) = none := by
    unfold anchorOutcome
    simp [hp, hr, hv]
  have hI := isFiring_firing s
  obtain ⟨a1, a2, a3⟩ := start_spec s s.firing hI (takes p.fl (withPm p.fl p.need))
  obtain ⟨b1, b2, b3⟩ := stageFlags_spec s.firing hI fl a2
  have key : s.pureFire p = ((((s.countFiring s.firing).consume s.firing (takes p.fl (withPm p.fl p.need))).stageFlags s.firing fl).result s.firing false p.lat outs) := by
    unfold State.pureFire
    simp only [h1, h2, Bool.not_true, Bool.or_self, Bool.false_eq_true, if_false]
    unfold State.operands at h3 hout hanchor
    simp only [h3, h4, Bool.false_eq_true, if_true, if_false, hanchor, hout, hno, hpost, ite_self]
    rfl
  rw [key]
  refine ⟨?_, ?_, b2.result _ hI _ _⟩
  · rw [result_elem s _ _ hI b2.fc, b1, a1]
  · rw [result_nstage s _ _ hI, b3, a3]

/-- A ROUTER OPERATOR THAT EXECUTES (06 R127): its operands taken, its own action done. -/
theorem routeFire_runs (s : State) (fl : Flags) (need take : Slots) (check : Firing → OperandFault) (act : State → Firing → State)
    (hc : s.CanFire fl need) (hk : check { s.firing with ops := s.operands need } = none) :
    s.routeFire fl need take check act =
      act ((s.countFiring { s.firing with ops := s.operands need }).consume { s.firing with ops := s.operands need } take) { s.firing with ops := s.operands need } := by
  obtain ⟨h1, h2, h3, h4⟩ := hc
  unfold State.routeFire
  simp only [h1, h2, Bool.not_true, Bool.or_self]
  unfold State.operands at h3 hk
  simp only [h3, h4, Bool.not_true, Bool.false_eq_true, if_false, hk]
  rfl

/-- The start of a firing: counted, its operands taken, the flags of the operands that it reads as numbers staged (04 R74). -/
def State.starting (s : State) (f : Firing) (k nums : Slots) : State := ((s.countFiring f).consume f k).stageFlags f (readFlags f.ops nums)

/-- AN ANCHOR THAT EXECUTES (03 R58): its operands taken, the flags of the numbers it reads staged, its own action done. -/
theorem anchorFire_runs (s : State) (a : AnchorFiring) (all : Bool) (bits : Nat)
    (hc : s.CanFire a.fl (withPm a.fl a.need)) (hp : (s.operands (withPm a.fl a.need)).poison = none)
    (hr : predicate a.fl.pm false (s.operands (withPm a.fl a.need)).p = .run all bits)
    (hk : a.check s { s.firing with ops := s.operands (withPm a.fl a.need) } = none)
    (hh : a.hold s { s.firing with ops := s.operands (withPm a.fl a.need) } = false) :
    s.anchorFire a = a.act (s.starting { s.firing with ops := s.operands (withPm a.fl a.need) } (withPm a.fl a.need) a.nums) { s.firing with ops := s.operands (withPm a.fl a.need) } := by
  obtain ⟨h1, h2, h3, h4⟩ := hc
  unfold State.anchorFire State.starting
  simp only [h1, h2, Bool.not_true, Bool.or_self]
  unfold State.operands at h3 hp hr hk hh ⊢
  simp only [h3, h4, Bool.not_true, Bool.or_self, Bool.false_eq_true, if_false, hp, hr, hk, hh]

end Sys2Proof.Machine
end

