-- ==== Sys2Proof/Laws/Access.lean ====
section
/-! SUPPORT. What the schemes of accesses and anchors do where they go ahead: the firing is taken (Taken), and the meaning's own part runs on the state after
it (Does, Becomes). A prover cites these instead of unfolding a scheme. -/

namespace Sys2Proof.Machine

/-- What the firing of an access knows of its place. -/
theorem isFiring_access (s : State) (need : Slots) : IsFiring s (s.accessFiring need) := ⟨rfl, rfl, rfl, rfl, rfl, rfl, rfl, rfl⟩

/-- The start of a firing, as the statements say it. -/
theorem taken_start (s : State) (f : Firing) (h : IsFiring s f) (k nums : Slots) (hops : f.ops = s.operands k) : Taken s k nums (s.starting f k nums) := by
  obtain ⟨h1, h2, h3⟩ := start_spec s f h k
  obtain ⟨g1, g2, g3⟩ := stageFlags_spec f h (readFlags f.ops nums) h2
  unfold State.starting
  exact ⟨g1.trans h1, by rw [g3, h3, hops], g2⟩

/-- A result that joins output 0. -/
theorem result_emitting (s u : State) (f : Firing) (h : IsFiring s f) (hfc : u.fc = s.fc) (lat : Nat) (outs : List (Nat × Token)) :
    u.result f false lat outs = s.emitting u lat outs := by
  unfold State.result State.pushFlight State.emitting
  simp only [h.e, h.round, h.thr, h.k, hfc, Bool.false_eq_true, if_false]
  rfl

/-- A result that joins output 1. -/
theorem result_emitting1 (s u : State) (f : Firing) (h : IsFiring s f) (hfc : u.fc = s.fc) (lat : Nat) (outs : List (Nat × Token)) :
    u.result f true lat outs = s.emitting1 u lat outs := by
  unfold State.result State.pushFlight State.emitting1
  simp only [h.e, h.round, h.thr, h.k, hfc, if_true]
  rfl

/-- An awaited result that joins output 0. -/
theorem await_awaiting (s u : State) (f : Firing) (h : IsFiring s f) (hfc : u.fc = s.fc) (owed : Bool) (id : Nat) :
    u.await f false owed id = s.awaiting u owed id := by
  unfold State.await State.pushFlight State.awaiting State.awaited
  simp only [h.e, h.round, h.thr, h.k, hfc, Bool.false_eq_true, if_false]
  rfl

theorem firing_idx (s : State) : s.firing.e.idx = s.cur.idx := rfl
theorem firing_core (s : State) : s.firing.e.core = s.cur.core := rfl

/-- AN ACCESS TO A MEMORY TILE, OR TO NO MEMORY, THAT GOES OUT (08 R194 R203). -/
theorem accessFire_tile (s : State) (a : AccessFiring) (ps : List Part) (h : s.Accesses a.fl a.need)
    (hh : a.hold s (s.accessFiring a.need) = false) (hk : a.check s (s.accessFiring a.need) = none) (hp : a.place s (s.accessFiring a.need) = .tile ps) (ha : a.attrs ps = none)
    (ho : a.offline s (s.accessFiring a.need) ps = false) (hs : a.stall s (s.accessFiring a.need) ps = none) :
    s.accessFire a = a.act (s.starting (s.accessFiring a.need) (s.accessNeed a.need) a.nums) (s.accessFiring a.need) ps := by
  obtain ⟨⟨h1, h2, h3, h4⟩, hc, hord⟩ := h
  unfold State.accessFire State.starting
  unfold State.accessFiring State.accessNeed at *
  unfold State.operands at *
  simp only [firing_idx, h1, h2, h3, h4, hc, hord, Bool.not_true, Bool.or_self, Bool.false_eq_true, if_false, hh, hk, hp, ha, ho, hs]

/-- A GLOBAL ACCESS THAT GOES OUT (08 R195, 20 R354). -/
theorem accessFire_global (s : State) (a : AccessFiring) (as : List (Nat × Nat × Nat)) (ps : List Part) (h : s.Accesses a.fl a.need)
    (hh : a.hold s (s.accessFiring a.need) = false) (hk : a.check s (s.accessFiring a.need) = none) (hp : a.place s (s.accessFiring a.need) = .global as) (ht : s.Translated a.rd a.wr as ps)
    (ha : a.attrs ps = none) (ho : a.offline (s.touched ps) (s.accessFiring a.need) ps = false) (hs : a.stall (s.touched ps) (s.accessFiring a.need) ps = none) :
    s.accessFire a = a.act ((s.touched ps).starting (s.accessFiring a.need) (s.accessNeed a.need) a.nums) (s.accessFiring a.need) ps := by
  obtain ⟨⟨h1, h2, h3, h4⟩, hc, hord⟩ := h
  obtain ⟨ht1, ht2⟩ := ht
  have ht1' : s.translateAll s.cur.core (Firing.part { s.firing with ops := s.firing.ops.mask (orderNeed s.firing.b s.cur.idx a.need) }) (!isPriv s.firing.b) a.rd a.wr as = .ok ps := ht1
  unfold State.accessFire State.starting
  unfold State.accessFiring State.accessNeed State.touched at *
  unfold State.operands at *
  simp only [firing_idx, firing_core, h1, h2, h3, h4, hc, hord, Bool.not_true, Bool.or_self, Bool.false_eq_true, if_false, hh, hk, hp, ht1', ht2, ha, ho, hs]

theorem viewTouch_eq (s : State) (core lk : Nat) (ps : List Part) :
    s.viewTouch core lk ps = { s with views := (s.viewTouch core lk ps).views, applied := (s.viewTouch core lk ps).applied } := by
  unfold State.viewTouch
  generalize ps.filterMap (s.oshSlice lk) = xs
  induction xs generalizing s with
  | nil => rfl
  | cons x xs ih =>
    simp only [List.foldl_cons]
    split
    · exact ih s
    · rw [ih]

/-- A touched state differs from s in its table entries' use and in its views. -/
theorem touched_eq (s : State) (ps : List Part) :
    s.touched ps = { s with cores := (s.touched ps).cores, views := (s.touched ps).views, applied := (s.touched ps).applied } := by
  unfold State.touched
  rw [viewTouch_eq]
  rfl

theorem touched_firing (s : State) (ps : List Part) : (s.touched ps).firing = s.firing := by rw [touched_eq]; rfl
theorem touched_operands (s : State) (ps : List Part) (k : Slots) : (s.touched ps).operands k = s.operands k := by unfold State.operands; rw [touched_firing]
theorem touched_cur (s : State) (ps : List Part) : (s.touched ps).cur = s.cur := by rw [touched_eq]
theorem touched_fc (s : State) (ps : List Part) : (s.touched ps).fc = s.fc := by rw [touched_eq]
theorem touched_here (s : State) (ps : List Part) : (s.touched ps).here = s.here := by rw [touched_eq]; rfl
theorem touched_nid (s : State) (ps : List Part) : (s.touched ps).nid = s.nid := by rw [touched_eq]
theorem touched_accessFiring (s : State) (ps : List Part) (need : Slots) : (s.touched ps).accessFiring need = s.accessFiring need := by rw [touched_eq]; rfl
theorem isFiring_touched (s : State) (need : Slots) (ps : List Part) : IsFiring (s.touched ps) (s.accessFiring need) := by
  rw [← touched_accessFiring s ps]; exact isFiring_access _ _

/-- The start of a firing leaves all but banks and launches. -/
theorem start_rest (s : State) (f : Firing) (h : IsFiring s f) (k nums : Slots) :
    s.starting f k nums = { s with banks := (s.starting f k nums).banks, parts := (s.starting f k nums).parts } :=
  (stageFlags_spec f h _ (start_spec s f h k).2.1).2.1.rest

theorem issueLoad_loading (s u : State) (need : Slots) (h1 : u.fc = s.fc) (h2 : u.nid = s.nid) (h3 : u.reqs = s.reqs) (h4 : u.tick = s.tick) (ps kind fresh cancel) :
    u.issueLoad (s.accessFiring need) ps kind fresh cancel = s.loading u need ps kind fresh cancel := by
  unfold State.issueLoad State.loading
  simp only [State.fresh, State.tickUp]
  rw [await_awaiting s _ _ (isFiring_access s need) (by simpa using h1), result_emitting1 s _ _ (isFiring_access s need) (by simpa [State.awaiting, State.setElem, State.setBank] using h1)]
  unfold State.loadReq
  rw [← h1, ← h2, ← h3, ← h4]
  rfl

theorem start_fields (s : State) (f : Firing) (h : IsFiring s f) (k nums : Slots) :
    let u := s.starting f k nums
    u.fc = s.fc ∧ u.nid = s.nid ∧ u.reqs = s.reqs ∧ u.tick = s.tick ∧ u.cores = s.cores ∧ u.mtiles = s.mtiles ∧ u.ctiles = s.ctiles := by
  intro u
  have : u = _ := start_rest s f h k nums
  rw [this]; exact ⟨rfl, rfl, rfl, rfl, rfl, rfl, rfl⟩

theorem chainStall_none (s : State) (f : Firing) (ps : List Part) (h : s.chainBusy f.lk f.chain ps = false) : chainStall s f ps = none := by
  unfold chainStall; simp [h]


theorem stage_fc (s : State) (a : Arrival) : (s.stage a).fc = s.fc := by
  unfold State.stage
  cases a.space <;> rfl

theorem stagingAll_fc (u : State) (as : List Arrival) : (stagingAll u as).fc = u.fc := by
  unfold stagingAll
  induction as generalizing u with
  | nil => rfl
  | cons a as ih => rw [List.foldl_cons, ih, stage_fc]

theorem stageParts_stagingAll (s u : State) (need : Slots) (ps : List Part) (bs : List Byte) :
    u.stageParts (s.accessFiring need) ps bs = stagingAll u (ps.map (s.stagedPart need bs)) := by
  unfold State.stageParts stagingAll
  rw [List.foldl_map]
  rfl

theorem writeStall_none (s : State) (f : Firing) (ps : List Part) (h : s.chainBusy f.lk f.writeChain ps = false) (h' : s.stageRoom f.e.core ps = true) :
    writeStall s f ps = none := by
  unfold writeStall; simp [h, h']

theorem opStall_none (s : State) (f : Firing) (ps : List Part) (h : s.chainBusy f.lk f.writeChain ps = false) : opStall s f ps = none := by
  unfold opStall; simp [h]

theorem start_ord (s : State) (f : Firing) (h : IsFiring s f) (k nums : Slots) (lk : Nat) :
    ((s.starting f k nums).launch lk).map Launch.ord = (s.launch lk).map Launch.ord := by
  have := (stageFlags_spec f h (readFlags f.ops nums) (start_spec s f h k).2.1).2.1.launches lk
  change sameButActive ((s.starting f k nums).launch lk) (s.launch lk) at this
  unfold sameButActive at this
  cases h1 : (s.starting f k nums).launch lk with
  | none => cases h2 : s.launch lk with
    | none => rfl
    | some y => rw [h1, h2] at this; simp at this
  | some x => cases h2 : s.launch lk with
    | none => rw [h1, h2] at this; simp at this
    | some y =>
      rw [h1, h2] at this
      simp only [Option.map_some, Option.some.injEq] at this ⊢
      have := congrArg Launch.ord this
      exact this

theorem start_stagedOp (s : State) (f : Firing) (h : IsFiring s f) (k nums : Slots) (lk : Nat) (ps : List Part) :
    (s.starting f k nums).stagedOp lk ps = s.stagedOp lk ps := by
  unfold State.stagedOp
  have h1 : ∀ x : Option Launch, x.any Launch.ord = (x.map Launch.ord).any id := by intro x; cases x <;> rfl
  rw [h1, start_ord s f h k nums, ← h1]

theorem sendOp_fc (s : State) (f : Firing) (ps : List Part) (op : HomeOp) (id : Nat) (c : Chain) : (s.sendOp f ps op id c).fc = s.fc := by
  unfold State.sendOp
  dsimp only
  split
  · rw [stage_fc]; rfl
  · rfl

theorem touched_stagedOp (s : State) (ps : List Part) (lk : Nat) (qs : List Part) : (s.touched ps).stagedOp lk qs = s.stagedOp lk qs := by rw [touched_eq]; rfl
theorem await1_awaiting1 (s u : State) (f : Firing) (h : IsFiring s f) (hfc : u.fc = s.fc) (owed : Bool) (id : Nat) :
    u.await f true owed id = u.setElem s.cur ((u.elem s.cur).plus1 (s.awaited owed id)) := by
  unfold State.await State.pushFlight State.awaited
  simp only [h.e, h.round, h.thr, h.k, hfc, if_true]
  rfl


theorem touched_stage_lk (s : State) (ps : List Part) : (s.touched ps).firing.lk = s.firing.lk := by rw [touched_firing]

/-- An anchor's firing is Taken. -/
theorem anchor_does (s : State) (a : AnchorFiring) (pr : Predicate) (eff : State → State)
    (hr : s.Runs a.fl false a.need pr)
    (hk : a.check s { s.firing with ops := s.operands (withPm a.fl a.need) } = none)
    (hh : a.hold s { s.firing with ops := s.operands (withPm a.fl a.need) } = false)
    (he : ∀ u, Taken s (withPm a.fl a.need) a.nums u → a.act u { s.firing with ops := s.operands (withPm a.fl a.need) } = eff u) :
    Does s (.next (s.anchorFire a)) (withPm a.fl a.need) eff a.nums := by
  obtain ⟨hcan, hclean, all, bits, rfl, hp⟩ := hr
  have hT := taken_start s _ (isFiring_mask s (s.operands (withPm a.fl a.need))) (withPm a.fl a.need) a.nums rfl
  exact ⟨_, hT, by rw [anchorFire_runs s a all bits hcan hclean hp hk hh]; exact congrArg _ (he _ hT)⟩

theorem anchor_emits (s : State) (a : AnchorFiring) (pr : Predicate) (lat outs)
    (hr : s.Runs a.fl false a.need pr)
    (hk : a.check s { s.firing with ops := s.operands (withPm a.fl a.need) } = none)
    (hh : a.hold s { s.firing with ops := s.operands (withPm a.fl a.need) } = false)
    (he : ∀ u, Taken s (withPm a.fl a.need) a.nums u → a.act u { s.firing with ops := s.operands (withPm a.fl a.need) } = u.result { s.firing with ops := s.operands (withPm a.fl a.need) } false lat outs) :
    Becomes s (.next (s.anchorFire a)) ((s.firedElem (withPm a.fl a.need) s.firing.thr).plus (s.resultOf lat s.firing.thr outs)) (readFlags (s.operands (withPm a.fl a.need)) a.nums) := by
  obtain ⟨hcan, hclean, all, bits, rfl, hp⟩ := hr
  have hI := isFiring_mask s (s.operands (withPm a.fl a.need))
  have hT := taken_start s _ hI (withPm a.fl a.need) a.nums rfl
  have h0 := anchorFire_runs s a all bits hcan hclean hp hk hh
  refine ⟨_, congrArg _ (h0.trans (he _ hT)), ?_, ?_, hT.frame.result _ hI _ _⟩
  · rw [result_elem s _ _ hI hT.frame.fc, hT.elem]
  · rw [result_nstage s _ _ hI, hT.flags]

/-- What stands where a firing has been taken. -/
theorem Taken.fc {s u : State} {k n : Slots} (h : Taken s k n u) : u.fc = s.fc := by rw [h.frame.rest]
theorem Taken.shape {s u : State} {k n : Slots} (h : Taken s k n u) : ∃ B P, u = { s with banks := B, parts := P } := ⟨_, _, h.frame.rest⟩
theorem Taken.nid {s u : State} {k n : Slots} (h : Taken s k n u) : u.nid = s.nid := by rw [h.frame.rest]
theorem Taken.reqs {s u : State} {k n : Slots} (h : Taken s k n u) : u.reqs = s.reqs := by rw [h.frame.rest]
theorem Taken.cores {s u : State} {k n : Slots} (h : Taken s k n u) : u.cores = s.cores := by rw [h.frame.rest]
theorem Taken.mtiles {s u : State} {k n : Slots} (h : Taken s k n u) : u.mtiles = s.mtiles := by rw [h.frame.rest]
theorem Taken.ctiles {s u : State} {k n : Slots} (h : Taken s k n u) : u.ctiles = s.ctiles := by rw [h.frame.rest]
theorem Taken.tick {s u : State} {k n : Slots} (h : Taken s k n u) : u.tick = s.tick := by rw [h.frame.rest]

/-- An access through a tile place. -/
theorem tile_does (s : State) (a : AccessFiring) (ps : List Part) (eff : State → State) (h : s.Accesses a.fl a.need)
    (hh : a.hold s (s.accessFiring a.need) = false) (hk : a.check s (s.accessFiring a.need) = none) (hp : a.place s (s.accessFiring a.need) = .tile ps) (ha : a.attrs ps = none)
    (ho : a.offline s (s.accessFiring a.need) ps = false) (hs : a.stall s (s.accessFiring a.need) ps = none)
    (he : ∀ u, Taken s (s.accessNeed a.need) a.nums u → a.act u (s.accessFiring a.need) ps = eff u) :
    Does s (.next (s.accessFire a)) (s.accessNeed a.need) eff a.nums := by
  have hT := taken_start s _ (isFiring_access s a.need) (s.accessNeed a.need) a.nums rfl
  exact ⟨_, hT, congrArg _ ((accessFire_tile s a ps h hh hk hp ha ho hs).trans (he _ hT))⟩

theorem global_does (s : State) (a : AccessFiring) (as : List (Nat × Nat × Nat)) (ps : List Part) (eff : State → State) (h : s.Accesses a.fl a.need)
    (hh : a.hold s (s.accessFiring a.need) = false) (hk : a.check s (s.accessFiring a.need) = none) (hp : a.place s (s.accessFiring a.need) = .global as) (ht : s.Translated a.rd a.wr as ps)
    (ha : a.attrs ps = none) (ho : a.offline (s.touched ps) (s.accessFiring a.need) ps = false) (hs : a.stall (s.touched ps) (s.accessFiring a.need) ps = none)
    (he : ∀ u, Taken (s.touched ps) (s.accessNeed a.need) a.nums u → a.act u (s.accessFiring a.need) ps = eff u) :
    Does (s.touched ps) (.next (s.accessFire a)) (s.accessNeed a.need) eff a.nums := by
  have hT := taken_start (s.touched ps) _ (isFiring_touched s a.need ps) (s.accessNeed a.need) a.nums (touched_operands s ps _).symm
  exact ⟨_, hT, congrArg _ ((accessFire_global s a as ps h hh hk hp ht ha ho hs).trans (he _ hT))⟩

/-- A word firing's acceptance. -/
theorem word_does (s : State) (o : OpA) (need : Slots) (fmt bad stall act) (eff : State → State) (h : s.Accesses o.fl need)
    (hf : fmt (s.accessFiring need) = true) (hb : bad s (s.accessFiring need) = none) (hs : stall s (s.accessFiring need) = false)
    (he : ∀ u, Taken s (s.accessNeed need) { l := true, r := true } u → act u (s.accessFiring need) = eff u) :
    Does s (.next (s.accessFire (wordFire o need fmt bad stall act))) (s.accessNeed need) eff := by
  refine tile_does s (wordFire o need fmt bad stall act) [] eff h rfl ?_ ?_ rfl rfl ?_ he
  · show (if fmt (s.accessFiring need) then _ else _) = _; rw [hf]; rfl
  · show (match bad s (s.accessFiring need) with | some (c, a) => Place.err c a | none => .tile []) = _; rw [hb]
  · show (if stall s (s.accessFiring need) then some s else none) = _; rw [hs]; rfl


theorem taken_launch {s u : State} {k n : Slots} (h : Taken s k n u) (lk : Nat) : (u.launch lk).map (fun l => { l with active := [] }) = (s.launch lk).map (fun l => { l with active := [] }) := h.frame.launches lk

theorem mapLaunch_fc (s : State) (lk : Nat) (g) : (s.mapLaunch lk g).fc = s.fc := by rw [mapLaunch_banks]

theorem stageEff_staging (s u : State) (need : Slots) (k : EffKind) (h : u.nid = s.nid) :
    u.stageEff { s.firing with ops := s.operands need } k = s.staging u need k := by
  unfold State.stageEff State.staging
  rw [h]
  rfl

theorem staging_fc (s u : State) (need : Slots) (k : EffKind) : (s.staging u need k).fc = u.fc := by
  unfold State.staging; exact mapLaunch_fc _ _ _

end Sys2Proof.Machine
end

