-- ==== Sys2Proof/Laws/Arith.lean ====
section
/-! SUPPORT. What the computing instructions share: a firing that executes emits its value, and the values of lane-wise instructions on typed operands. -/

namespace Sys2Proof.Machine

/-- A COMPUTING INSTRUCTION THAT EXECUTES emits its value. -/
theorem arith_emits (s : State) (o : OpA) (u : Bool) (lat : Nat) (r p vres : Bool) (eval : Operands → Predicate → Value) (early) (pr : Predicate) (outs fl)
    (hr : s.Runs o.fl o.v { l := true, r := r, p := p } pr)
    (hv : eval (s.operands (withPm o.fl { l := true, r := r, p := p })) pr = .ok (outs, fl)) (hno : outs ≠ []) (hc : outs.any (fun x => x.2.poison) = false) :
    Emits s (.next (s.arith o u lat r p vres eval early)) (takes o.fl (withPm o.fl { l := true, r := r, p := p })) lat outs fl := by
  obtain ⟨hcan, hclean, all, bits, rfl, hp⟩ := hr
  exact ⟨_, rfl, pureFire_value s { fl := o.fl, vecP := o.v, lat := lat, need := { l := true, r := r, p := p }, tag := _, v := vres, eval := eval, early := early } all bits outs fl hcan hclean hp hv hno (Or.inr hc) rfl⟩

/-- The value of a lane-wise instruction of two typed operands. -/
theorem bin_value (s : State) (o : OpA) (u : Bool) (cls) (f l r pr) (hp : Pair s o u cls f l r) (fOut : Fmt → Fmt) (val) (hf : (fOut f).width = f.width) :
    bin o u cls (s.operands (withPm o.fl { l := true, r := !o.i })) pr fOut val =
      .ok (copies (fOut f) o.v (keptLanes f o.v pr l (val f l r)), foldFlags (keptLanes f o.v pr l (val f l r))) := by
  obtain ⟨h1, h2, h3, h4, h5⟩ := hp
  unfold bin
  simp only [h1, h2, h3, h4, h5, Bool.and_self, if_true, hf]
  rfl

/-- The value of an integer instruction of two typed operands, from its operation on two integers. -/
theorem intBin_value (s : State) (o : OpA) (u cls f l r pr) (hp : Pair s o u cls f l r) (op : Nat) (g : Int → Int → Nat)
    (hg : ∀ a b, intBin op f a b = ⟨g (intOf f a) (intOf f b), 0⟩) :
    intBinValue op u cls o (s.operands (withPm o.fl { l := true, r := !o.i })) pr =
      .ok (copies f o.v (keptLanes f o.v pr l (intLane f l r g)), foldFlags (keptLanes f o.v pr l (intLane f l r g))) := by
  unfold intBinValue
  rw [bin_value s o u cls f l r pr hp id _ rfl]
  have e : (fun (f : Fmt) (l r : Token) (j : Nat) => (⟨(intBin op f (codeAt f l j).1 (codeAt f r j).1).code,
    (intBin op f (codeAt f l j).1 (codeAt f r j).1).flags ||| (codeAt f l j).2 ||| (codeAt f r j).2⟩ : Lane)) f l r = intLane f l r g := by
    funext j; simp [intLane, hg]
  simp only [id] at e ⊢
  rw [e]


end Sys2Proof.Machine
end

