-- ==== Sys2Proof/Laws/PerInstr.lean ====
section
/-! SUPPORT. One lemma per instruction: its opcode, its format, and the row that its opcode and fields give back. -/

namespace Sys2Proof.Laws

/-- What the encoding of an instruction rests on: an opcode of its format (05 R104 R111 R112) whose row, with the same fields, is the instruction or the row that stands
for it, well-formed with it; a step has no word. -/
def Opcodes.Statement (i : Instr) : Prop :=
  match i.form with
  | .a op o => op < 256 ∧ op ≠ 0x05 ∧ isFormatC op = false ∧ (ofOpcodeA op {}).isNone = false ∧ (fnSplitOk i = true → ofOpcodeA op o = some i.canon) ∧ i.canon.wf = i.wf
  | .b o => i = .fanout o
  | .c op o => op < 256 ∧ op ≠ 0x05 ∧ isFormatC op = true ∧ ofOpcodeC op o = some i
  | .event _ => encode i = none

theorem Opcodes.steer (o : OpA) : Opcodes.Statement (.steer o) := ⟨by decide, by decide, rfl, rfl, fun _ => rfl, rfl⟩
theorem Opcodes.merge (o : OpA) : Opcodes.Statement (.merge o) := ⟨by decide, by decide, rfl, rfl, fun _ => rfl, rfl⟩
theorem Opcodes.carry (o : OpA) : Opcodes.Statement (.carry o) := ⟨by decide, by decide, rfl, rfl, fun _ => rfl, rfl⟩
theorem Opcodes.invar (o : OpA) : Opcodes.Statement (.invar o) := ⟨by decide, by decide, rfl, rfl, fun _ => rfl, rfl⟩
theorem Opcodes.fanout (o : OpB) : Opcodes.Statement (.fanout o) := rfl
theorem Opcodes.drop (o : OpA) : Opcodes.Statement (.drop o) := ⟨by decide, by decide, rfl, rfl, fun _ => rfl, rfl⟩
theorem Opcodes.ordf (o : OpA) : Opcodes.Statement (.ordf o) := ⟨by decide, by decide, rfl, rfl, fun _ => rfl, rfl⟩
theorem Opcodes.ordj (o : OpA) : Opcodes.Statement (.ordj o) := ⟨by decide, by decide, rfl, rfl, fun _ => rfl, rfl⟩
theorem Opcodes.gateCreditFiring (o : OpA) : Opcodes.Statement (.gateCreditFiring o) := ⟨by decide, by decide, rfl, rfl, fun _ => rfl, rfl⟩
theorem Opcodes.gatePassFiring (o : OpA) : Opcodes.Statement (.gatePassFiring o) := ⟨by decide, by decide, rfl, rfl, fun _ => rfl, rfl⟩
theorem Opcodes.countLFiring (o : OpA) : Opcodes.Statement (.countLFiring o) := ⟨by decide, by decide, rfl, rfl, fun _ => rfl, rfl⟩
theorem Opcodes.countPFiring (o : OpA) : Opcodes.Statement (.countPFiring o) := ⟨by decide, by decide, rfl, rfl, fun _ => rfl, rfl⟩
theorem Opcodes.repeatCopies (o : OpA) : Opcodes.Statement (.repeatCopies o) := ⟨by decide, by decide, rfl, rfl, fun _ => rfl, rfl⟩
theorem Opcodes.const (o : OpC) : Opcodes.Statement (.const o) := ⟨by decide, by decide, rfl, rfl⟩
theorem Opcodes.exit (o : OpC) : Opcodes.Statement (.exit o) := ⟨by decide, by decide, rfl, rfl⟩
theorem Opcodes.exitp (o : OpC) : Opcodes.Statement (.exitp o) := ⟨by decide, by decide, rfl, rfl⟩
theorem Opcodes.exitq (o : OpC) : Opcodes.Statement (.exitq o) := ⟨by decide, by decide, rfl, rfl⟩
theorem Opcodes.spawn (o : OpC) : Opcodes.Statement (.spawn o) := ⟨by decide, by decide, rfl, rfl⟩
theorem Opcodes.retire (o : OpA) : Opcodes.Statement (.retire o) := ⟨by decide, by decide, rfl, rfl, fun _ => rfl, rfl⟩
theorem Opcodes.launch (o : OpA) : Opcodes.Statement (.launch o) := ⟨by decide, by decide, rfl, rfl, fun _ => rfl, rfl⟩
theorem Opcodes.patch (o : OpA) : Opcodes.Statement (.patch o) := ⟨by decide, by decide, rfl, rfl, fun _ => rfl, rfl⟩
theorem Opcodes.trig (o : OpA) : Opcodes.Statement (.trig o) := ⟨by decide, by decide, rfl, rfl, fun _ => rfl, rfl⟩
theorem Opcodes.qpush (o : OpA) : Opcodes.Statement (.qpush o) := ⟨by decide, by decide, rfl, rfl, fun _ => rfl, rfl⟩
theorem Opcodes.qpop (o : OpA) : Opcodes.Statement (.qpop o) := ⟨by decide, by decide, rfl, rfl, fun _ => rfl, rfl⟩
theorem Opcodes.crd (o : OpA) : Opcodes.Statement (.crd o) := ⟨by decide, by decide, rfl, rfl, fun _ => rfl, rfl⟩
theorem Opcodes.cwr (o : OpA) : Opcodes.Statement (.cwr o) := ⟨by decide, by decide, rfl, rfl, fun _ => rfl, rfl⟩
theorem Opcodes.rmark (o : OpA) : Opcodes.Statement (.rmark o) := ⟨by decide, by decide, rfl, rfl, fun _ => rfl, rfl⟩
theorem Opcodes.quiet (o : OpA) : Opcodes.Statement (.quiet o) := ⟨by decide, by decide, rfl, rfl, fun _ => rfl, rfl⟩
theorem Opcodes.quietEmit (e : Site) : Opcodes.Statement (.quietEmit e) := rfl
theorem Opcodes.add (o : OpA) : Opcodes.Statement (.add o) := ⟨by decide, by decide, rfl, rfl, fun _ => rfl, rfl⟩
theorem Opcodes.sub (o : OpA) : Opcodes.Statement (.sub o) := ⟨by decide, by decide, rfl, rfl, fun _ => rfl, rfl⟩
theorem Opcodes.adds (o : OpA) : Opcodes.Statement (.adds o) := ⟨by decide, by decide, rfl, rfl, fun _ => rfl, rfl⟩
theorem Opcodes.subs (o : OpA) : Opcodes.Statement (.subs o) := ⟨by decide, by decide, rfl, rfl, fun _ => rfl, rfl⟩
theorem Opcodes.neg (o : OpA) : Opcodes.Statement (.neg o) := ⟨by decide, by decide, rfl, rfl, fun _ => rfl, rfl⟩
theorem Opcodes.abs (o : OpA) : Opcodes.Statement (.abs o) := ⟨by decide, by decide, rfl, rfl, fun _ => rfl, rfl⟩
theorem Opcodes.mul (o : OpA) : Opcodes.Statement (.mul o) := ⟨by decide, by decide, rfl, rfl, fun _ => rfl, rfl⟩
theorem Opcodes.mulh (o : OpA) : Opcodes.Statement (.mulh o) := ⟨by decide, by decide, rfl, rfl, fun _ => rfl, rfl⟩
theorem Opcodes.div (o : OpA) : Opcodes.Statement (.div o) := ⟨by decide, by decide, rfl, rfl, fun _ => rfl, rfl⟩
theorem Opcodes.rem (o : OpA) : Opcodes.Statement (.rem o) := ⟨by decide, by decide, rfl, rfl, fun _ => rfl, rfl⟩
theorem Opcodes.min (o : OpA) : Opcodes.Statement (.min o) := ⟨by decide, by decide, rfl, rfl, fun _ => rfl, rfl⟩
theorem Opcodes.max (o : OpA) : Opcodes.Statement (.max o) := ⟨by decide, by decide, rfl, rfl, fun _ => rfl, rfl⟩
theorem Opcodes.and (o : OpA) : Opcodes.Statement (.and o) := ⟨by decide, by decide, rfl, rfl, fun _ => rfl, rfl⟩
theorem Opcodes.or (o : OpA) : Opcodes.Statement (.or o) := ⟨by decide, by decide, rfl, rfl, fun _ => rfl, rfl⟩
theorem Opcodes.xor (o : OpA) : Opcodes.Statement (.xor o) := ⟨by decide, by decide, rfl, rfl, fun _ => rfl, rfl⟩
theorem Opcodes.andn (o : OpA) : Opcodes.Statement (.andn o) := ⟨by decide, by decide, rfl, rfl, fun _ => rfl, rfl⟩
theorem Opcodes.not (o : OpA) : Opcodes.Statement (.not o) := ⟨by decide, by decide, rfl, rfl, fun _ => rfl, rfl⟩
theorem Opcodes.shl (o : OpA) : Opcodes.Statement (.shl o) := ⟨by decide, by decide, rfl, rfl, fun _ => rfl, rfl⟩
theorem Opcodes.shr (o : OpA) : Opcodes.Statement (.shr o) := ⟨by decide, by decide, rfl, rfl, fun _ => rfl, rfl⟩
theorem Opcodes.sar (o : OpA) : Opcodes.Statement (.sar o) := ⟨by decide, by decide, rfl, rfl, fun _ => rfl, rfl⟩
theorem Opcodes.rotl (o : OpA) : Opcodes.Statement (.rotl o) := ⟨by decide, by decide, rfl, rfl, fun _ => rfl, rfl⟩
theorem Opcodes.clz (o : OpA) : Opcodes.Statement (.clz o) := ⟨by decide, by decide, rfl, rfl, fun _ => rfl, rfl⟩
theorem Opcodes.ctz (o : OpA) : Opcodes.Statement (.ctz o) := ⟨by decide, by decide, rfl, rfl, fun _ => rfl, rfl⟩
theorem Opcodes.popc (o : OpA) : Opcodes.Statement (.popc o) := ⟨by decide, by decide, rfl, rfl, fun _ => rfl, rfl⟩
theorem Opcodes.cmp (o : OpA) : Opcodes.Statement (.cmp o) := ⟨by decide, by decide, rfl, rfl, fun _ => rfl, rfl⟩
theorem Opcodes.sel (o : OpA) : Opcodes.Statement (.sel o) := ⟨by decide, by decide, rfl, rfl, fun _ => rfl, rfl⟩
theorem Opcodes.trunc (o : OpA) : Opcodes.Statement (.trunc o) := ⟨by decide, by decide, rfl, rfl, fun _ => rfl, rfl⟩
theorem Opcodes.bfx (o : OpA) : Opcodes.Statement (.bfx o) := ⟨by decide, by decide, rfl, rfl, fun _ => rfl, rfl⟩
theorem Opcodes.bfi (o : OpA) : Opcodes.Statement (.bfi o) := ⟨by decide, by decide, rfl, rfl, fun _ => rfl, rfl⟩
theorem Opcodes.addr (o : OpA) : Opcodes.Statement (.addr o) := ⟨by decide, by decide, rfl, rfl, fun _ => rfl, rfl⟩
theorem Opcodes.imad (o : OpA) : Opcodes.Statement (.imad o) := ⟨by decide, by decide, rfl, rfl, fun _ => rfl, rfl⟩
theorem Opcodes.bswap (o : OpA) : Opcodes.Statement (.bswap o) := ⟨by decide, by decide, rfl, rfl, fun _ => rfl, rfl⟩
theorem Opcodes.fadd (o : OpA) : Opcodes.Statement (.fadd o) := ⟨by decide, by decide, rfl, rfl, fun _ => rfl, rfl⟩
theorem Opcodes.fsub (o : OpA) : Opcodes.Statement (.fsub o) := ⟨by decide, by decide, rfl, rfl, fun _ => rfl, rfl⟩
theorem Opcodes.fmul (o : OpA) : Opcodes.Statement (.fmul o) := ⟨by decide, by decide, rfl, rfl, fun _ => rfl, rfl⟩
theorem Opcodes.fma (o : OpA) : Opcodes.Statement (.fma o) := ⟨by decide, by decide, rfl, rfl, fun _ => rfl, rfl⟩
theorem Opcodes.fdiv (o : OpA) : Opcodes.Statement (.fdiv o) := ⟨by decide, by decide, rfl, rfl, fun _ => rfl, rfl⟩
theorem Opcodes.fsqrt (o : OpA) : Opcodes.Statement (.fsqrt o) := ⟨by decide, by decide, rfl, rfl, fun _ => rfl, rfl⟩
theorem Opcodes.frcp (o : OpA) : Opcodes.Statement (.frcp o) := ⟨by decide, by decide, rfl, rfl, fun _ => rfl, rfl⟩
theorem Opcodes.frsq (o : OpA) : Opcodes.Statement (.frsq o) := ⟨by decide, by decide, rfl, rfl, fun _ => rfl, rfl⟩
theorem Opcodes.fexp2 (o : OpA) : Opcodes.Statement (.fexp2 o) := ⟨by decide, by decide, rfl, rfl, fun _ => rfl, rfl⟩
theorem Opcodes.flog2 (o : OpA) : Opcodes.Statement (.flog2 o) := ⟨by decide, by decide, rfl, rfl, fun _ => rfl, rfl⟩
theorem Opcodes.fexp (o : OpA) : Opcodes.Statement (.fexp o) := ⟨by decide, by decide, rfl, rfl, fun _ => rfl, rfl⟩
theorem Opcodes.fmin (o : OpA) : Opcodes.Statement (.fmin o) := ⟨by decide, by decide, rfl, rfl, fun _ => rfl, rfl⟩
theorem Opcodes.fmax (o : OpA) : Opcodes.Statement (.fmax o) := ⟨by decide, by decide, rfl, rfl, fun _ => rfl, rfl⟩
theorem Opcodes.fabs (o : OpA) : Opcodes.Statement (.fabs o) := ⟨by decide, by decide, rfl, rfl, fun _ => rfl, rfl⟩
theorem Opcodes.fneg (o : OpA) : Opcodes.Statement (.fneg o) := ⟨by decide, by decide, rfl, rfl, fun _ => rfl, rfl⟩
theorem Opcodes.fcpys (o : OpA) : Opcodes.Statement (.fcpys o) := ⟨by decide, by decide, rfl, rfl, fun _ => rfl, rfl⟩
theorem Opcodes.fcmp (o : OpA) : Opcodes.Statement (.fcmp o) := ⟨by decide, by decide, rfl, rfl, fun _ => rfl, rfl⟩
theorem Opcodes.fclass (o : OpA) : Opcodes.Statement (.fclass o) := ⟨by decide, by decide, rfl, rfl, fun _ => rfl, rfl⟩
theorem Opcodes.frint (o : OpA) : Opcodes.Statement (.frint o) := ⟨by decide, by decide, rfl, rfl, fun _ => rfl, rfl⟩
theorem Opcodes.fscalb (o : OpA) : Opcodes.Statement (.fscalb o) := ⟨by decide, by decide, rfl, rfl, fun _ => rfl, rfl⟩
theorem Opcodes.ftanh (o : OpA) : Opcodes.Statement (.ftanh o) := ⟨by decide, by decide, rfl, rfl, fun _ => rfl, rfl⟩
theorem Opcodes.fsigm (o : OpA) : Opcodes.Statement (.fsigm o) := ⟨by decide, by decide, rfl, rfl, fun _ => rfl, rfl⟩
theorem Opcodes.vbcast (o : OpA) : Opcodes.Statement (.vbcast o) := ⟨by decide, by decide, rfl, rfl, fun _ => rfl, rfl⟩
theorem Opcodes.vextr (o : OpA) : Opcodes.Statement (.vextr o) := ⟨by decide, by decide, rfl, rfl, fun _ => rfl, rfl⟩
theorem Opcodes.vins (o : OpA) : Opcodes.Statement (.vins o) := ⟨by decide, by decide, rfl, rfl, fun _ => rfl, rfl⟩
theorem Opcodes.vperm (o : OpA) : Opcodes.Statement (.vperm o) := ⟨by decide, by decide, rfl, rfl, fun _ => rfl, rfl⟩
theorem Opcodes.vshuf (o : OpA) : Opcodes.Statement (.vshuf o) := ⟨by decide, by decide, rfl, rfl, fun _ => rfl, rfl⟩
theorem Opcodes.vrot (o : OpA) : Opcodes.Statement (.vrot o) := ⟨by decide, by decide, rfl, rfl, fun _ => rfl, rfl⟩
theorem Opcodes.vslide (o : OpA) : Opcodes.Statement (.vslide o) := ⟨by decide, by decide, rfl, rfl, fun _ => rfl, rfl⟩
theorem Opcodes.vzip (o : OpA) : Opcodes.Statement (.vzip o) := ⟨by decide, by decide, rfl, rfl, fun _ => rfl, rfl⟩
theorem Opcodes.vunzip (o : OpA) : Opcodes.Statement (.vunzip o) := ⟨by decide, by decide, rfl, rfl, fun _ => rfl, rfl⟩
theorem Opcodes.vradd (o : OpA) : Opcodes.Statement (.vradd o) := ⟨by decide, by decide, rfl, rfl, fun _ => rfl, rfl⟩
theorem Opcodes.vrmin (o : OpA) : Opcodes.Statement (.vrmin o) := ⟨by decide, by decide, rfl, rfl, fun _ => rfl, rfl⟩
theorem Opcodes.vrmax (o : OpA) : Opcodes.Statement (.vrmax o) := ⟨by decide, by decide, rfl, rfl, fun _ => rfl, rfl⟩
theorem Opcodes.vrand (o : OpA) : Opcodes.Statement (.vrand o) := ⟨by decide, by decide, rfl, rfl, fun _ => rfl, rfl⟩
theorem Opcodes.vrior (o : OpA) : Opcodes.Statement (.vrior o) := ⟨by decide, by decide, rfl, rfl, fun _ => rfl, rfl⟩
theorem Opcodes.vcompr (o : OpA) : Opcodes.Statement (.vcompr o) := ⟨by decide, by decide, rfl, rfl, fun _ => rfl, rfl⟩
theorem Opcodes.vexpnd (o : OpA) : Opcodes.Statement (.vexpnd o) := ⟨by decide, by decide, rfl, rfl, fun _ => rfl, rfl⟩
theorem Opcodes.vpcnt (o : OpA) : Opcodes.Statement (.vpcnt o) := ⟨by decide, by decide, rfl, rfl, fun _ => rfl, rfl⟩
theorem Opcodes.vmask (o : OpA) : Opcodes.Statement (.vmask o) := ⟨by decide, by decide, rfl, rfl, fun _ => rfl, rfl⟩
theorem Opcodes.cvt (o : OpA) : Opcodes.Statement (.cvt o) := ⟨by decide, by decide, rfl, rfl, fun _ => rfl, rfl⟩
theorem Opcodes.cvti (o : OpA) : Opcodes.Statement (.cvti o) := ⟨by decide, by decide, rfl, rfl, fun _ => rfl, rfl⟩
theorem Opcodes.scaleg (o : OpA) : Opcodes.Statement (.scaleg o) := ⟨by decide, by decide, rfl, rfl, fun _ => rfl, rfl⟩
theorem Opcodes.scales (o : OpA) : Opcodes.Statement (.scales o) := ⟨by decide, by decide, rfl, rfl, fun _ => rfl, rfl⟩
theorem Opcodes.fmtchk (o : OpA) : Opcodes.Statement (.fmtchk o) := ⟨by decide, by decide, rfl, rfl, fun _ => rfl, rfl⟩
theorem Opcodes.ufrd (o : OpA) : Opcodes.Statement (.ufrd o) := ⟨by decide, by decide, rfl, rfl, fun _ => rfl, rfl⟩
theorem Opcodes.pack (o : OpA) : Opcodes.Statement (.pack o) := ⟨by decide, by decide, rfl, rfl, fun _ => rfl, rfl⟩
theorem Opcodes.unpack (o : OpA) : Opcodes.Statement (.unpack o) := ⟨by decide, by decide, rfl, rfl, fun _ => rfl, rfl⟩
theorem Opcodes.rng (o : OpA) : Opcodes.Statement (.rng o) := ⟨by decide, by decide, rfl, rfl, fun _ => rfl, rfl⟩
theorem Opcodes.mxldbHeaderFiring (o : OpA) : Opcodes.Statement (.mxldbHeaderFiring o) := ⟨by decide, by decide, rfl, rfl, fun _ => rfl, rfl⟩
theorem Opcodes.mxldbPayloadFiring (o : OpA) : Opcodes.Statement (.mxldbPayloadFiring o) := ⟨by decide, by decide, rfl, rfl, fun _ => rfl, rfl⟩
theorem Opcodes.mxrow (o : OpA) : Opcodes.Statement (.mxrow o) := ⟨by decide, by decide, rfl, rfl, fun _ => rfl, rfl⟩
theorem Opcodes.mxrows (o : OpA) : Opcodes.Statement (.mxrows o) := ⟨by decide, by decide, rfl, rfl, fun _ => rfl, rfl⟩
theorem Opcodes.mxdrain (o : OpA) : Opcodes.Statement (.mxdrain o) := ⟨by decide, by decide, rfl, rfl, fun _ => rfl, rfl⟩
theorem Opcodes.mxclr (o : OpA) : Opcodes.Statement (.mxclr o) := ⟨by decide, by decide, rfl, rfl, fun _ => rfl, rfl⟩
theorem Opcodes.mxcfg (o : OpA) : Opcodes.Statement (.mxcfg o) := ⟨by decide, by decide, rfl, rfl, fun _ => rfl, rfl⟩
theorem Opcodes.residueMismatch (core tile : Nat) : Opcodes.Statement (.residueMismatch core tile) := rfl
theorem Opcodes.ld (o : OpA) : Opcodes.Statement (.ld o) := ⟨by decide, by decide, rfl, rfl, fun _ => rfl, rfl⟩
theorem Opcodes.st (o : OpA) : Opcodes.Statement (.st o) := ⟨by decide, by decide, rfl, rfl, fun _ => rfl, rfl⟩
theorem Opcodes.ldv (o : OpA) : Opcodes.Statement (.ldv o) := ⟨by decide, by decide, rfl, rfl, fun _ => rfl, rfl⟩
theorem Opcodes.stv (o : OpA) : Opcodes.Statement (.stv o) := ⟨by decide, by decide, rfl, rfl, fun _ => rfl, rfl⟩
theorem Opcodes.gath (o : OpA) : Opcodes.Statement (.gath o) := ⟨by decide, by decide, rfl, rfl, fun _ => rfl, rfl⟩
theorem Opcodes.scat (o : OpA) : Opcodes.Statement (.scat o) := ⟨by decide, by decide, rfl, rfl, fun _ => rfl, rfl⟩
theorem Opcodes.mtld (o : OpA) : Opcodes.Statement (.mtld o) := ⟨by decide, by decide, rfl, rfl, fun _ => rfl, rfl⟩
theorem Opcodes.mtst (o : OpA) : Opcodes.Statement (.mtst o) := ⟨by decide, by decide, rfl, rfl, fun _ => rfl, rfl⟩
theorem Opcodes.strcfg (o : OpA) : Opcodes.Statement (.strcfg o) := ⟨by decide, by decide, rfl, rfl, fun _ => rfl, rfl⟩
theorem Opcodes.strgo (o : OpA) : Opcodes.Statement (.strgo o) := ⟨by decide, by decide, rfl, rfl, fun h => (show some (if o.bit 0 then Instr.strgoWrite o else Instr.strgo o) = some (.strgo o) from by rw [show o.bit 0 = false from (by simpa [fnSplitOk] using h)]; rfl), rfl⟩
theorem Opcodes.strgoWrite (o : OpA) : Opcodes.Statement (.strgoWrite o) := ⟨by decide, by decide, rfl, rfl, fun h => (show some (if o.bit 0 then Instr.strgoWrite o else Instr.strgo o) = some (.strgoWrite o) from by rw [show o.bit 0 = true from h]; rfl), rfl⟩
theorem Opcodes.pref (o : OpA) : Opcodes.Statement (.pref o) := ⟨by decide, by decide, rfl, rfl, fun _ => rfl, rfl⟩
theorem Opcodes.aadd (o : OpA) : Opcodes.Statement (.aadd o) := ⟨by decide, by decide, rfl, rfl, fun _ => rfl, rfl⟩
theorem Opcodes.afadd (o : OpA) : Opcodes.Statement (.afadd o) := ⟨by decide, by decide, rfl, rfl, fun _ => rfl, rfl⟩
theorem Opcodes.amin (o : OpA) : Opcodes.Statement (.amin o) := ⟨by decide, by decide, rfl, rfl, fun _ => rfl, rfl⟩
theorem Opcodes.amax (o : OpA) : Opcodes.Statement (.amax o) := ⟨by decide, by decide, rfl, rfl, fun _ => rfl, rfl⟩
theorem Opcodes.aand (o : OpA) : Opcodes.Statement (.aand o) := ⟨by decide, by decide, rfl, rfl, fun _ => rfl, rfl⟩
theorem Opcodes.aor (o : OpA) : Opcodes.Statement (.aor o) := ⟨by decide, by decide, rfl, rfl, fun _ => rfl, rfl⟩
theorem Opcodes.axor (o : OpA) : Opcodes.Statement (.axor o) := ⟨by decide, by decide, rfl, rfl, fun _ => rfl, rfl⟩
theorem Opcodes.axchg (o : OpA) : Opcodes.Statement (.axchg o) := ⟨by decide, by decide, rfl, rfl, fun _ => rfl, rfl⟩
theorem Opcodes.acas (o : OpA) : Opcodes.Statement (.acas o) := ⟨by decide, by decide, rfl, rfl, fun _ => rfl, rfl⟩
theorem Opcodes.atas (o : OpA) : Opcodes.Statement (.atas o) := ⟨by decide, by decide, rfl, rfl, fun _ => rfl, rfl⟩
theorem Opcodes.atopk (o : OpA) : Opcodes.Statement (.atopk o) := ⟨by decide, by decide, rfl, rfl, fun _ => rfl, rfl⟩
theorem Opcodes.aincb (o : OpA) : Opcodes.Statement (.aincb o) := ⟨by decide, by decide, rfl, rfl, fun _ => rfl, rfl⟩
theorem Opcodes.atomicPerform (id : Nat) : Opcodes.Statement (.atomicPerform id) := rfl
theorem Opcodes.memoryAccessServe (id : Nat) : Opcodes.Statement (.memoryAccessServe id) := rfl
theorem Opcodes.fence (o : OpA) : Opcodes.Statement (.fence o) := ⟨by decide, by decide, rfl, rfl, fun _ => rfl, rfl⟩
theorem Opcodes.bar (o : OpA) : Opcodes.Statement (.bar o) := ⟨by decide, by decide, rfl, rfl, fun h => (show some (if o.bit 0 then Instr.barCopy o else Instr.bar o) = some (.bar o) from by rw [show o.bit 0 = false from (by simpa [fnSplitOk] using h)]; rfl), rfl⟩
theorem Opcodes.barCopy (o : OpA) : Opcodes.Statement (.barCopy o) := ⟨by decide, by decide, rfl, rfl, fun h => (show some (if o.bit 0 then Instr.barCopy o else Instr.bar o) = some (.barCopy o) from by rw [show o.bit 0 = true from h]; rfl), rfl⟩
theorem Opcodes.permitTake (o : OpA) : Opcodes.Statement (.permitTake o) := ⟨by decide, by decide, rfl, rfl, fun h => (show some (if o.bit 0 then Instr.permitGive o else Instr.permitTake o) = some (.permitTake o) from by rw [show o.bit 0 = false from (by simpa [fnSplitOk] using h)]; rfl), rfl⟩
theorem Opcodes.permitGive (o : OpA) : Opcodes.Statement (.permitGive o) := ⟨by decide, by decide, rfl, rfl, fun h => (show some (if o.bit 0 then Instr.permitGive o else Instr.permitTake o) = some (.permitGive o) from by rw [show o.bit 0 = true from h]; rfl), rfl⟩
theorem Opcodes.futreg (o : OpA) : Opcodes.Statement (.futreg o) := ⟨by decide, by decide, rfl, rfl, fun _ => rfl, rfl⟩
theorem Opcodes.futres (o : OpA) : Opcodes.Statement (.futres o) := ⟨by decide, by decide, rfl, rfl, fun _ => rfl, rfl⟩
theorem Opcodes.futwait (o : OpA) : Opcodes.Statement (.futwait o) := ⟨by decide, by decide, rfl, rfl, fun _ => rfl, rfl⟩
theorem Opcodes.xcopy (o : OpA) : Opcodes.Statement (.xcopy o) := ⟨by decide, by decide, rfl, rfl, fun _ => rfl, rfl⟩
theorem Opcodes.xfill (o : OpA) : Opcodes.Statement (.xfill o) := ⟨by decide, by decide, rfl, rfl, fun _ => rfl, rfl⟩
theorem Opcodes.xgather (o : OpA) : Opcodes.Statement (.xgather o) := ⟨by decide, by decide, rfl, rfl, fun _ => rfl, rfl⟩
theorem Opcodes.xcoll (o : OpA) : Opcodes.Statement (.xcoll o) := ⟨by decide, by decide, rfl, rfl, fun _ => rfl, rfl⟩
theorem Opcodes.engineCompletion (id : Nat) : Opcodes.Statement (.engineCompletion id) := rfl
theorem Opcodes.rsplit (o : OpA) : Opcodes.Statement (.rsplit o) := ⟨by decide, by decide, rfl, rfl, fun _ => rfl, rfl⟩
theorem Opcodes.rmerge (o : OpA) : Opcodes.Statement (.rmerge o) := ⟨by decide, by decide, rfl, rfl, fun _ => rfl, rfl⟩
theorem Opcodes.rcompact (o : OpA) : Opcodes.Statement (.rcompact o) := ⟨by decide, by decide, rfl, rfl, fun _ => rfl, rfl⟩
theorem Opcodes.biasflip (o : OpA) : Opcodes.Statement (.biasflip o) := ⟨by decide, by decide, rfl, rfl, fun _ => rfl, rfl⟩
theorem Opcodes.rangeCommandComplete (part : Nat) : Opcodes.Statement (.rangeCommandComplete part) := rfl
theorem Opcodes.rloop (o : OpA) : Opcodes.Statement (.rloop o) := ⟨by decide, by decide, rfl, rfl, fun _ => rfl, rfl⟩
theorem Opcodes.rsv (o : OpA) : Opcodes.Statement (.rsv o) := ⟨by decide, by decide, rfl, rfl, fun h => (show some (if o.bit 1 then Instr.rsvDone o else Instr.rsv o) = some (.rsv o) from by rw [show o.bit 1 = false from (by simpa [fnSplitOk] using h)]; rfl), rfl⟩
theorem Opcodes.rsvDone (o : OpA) : Opcodes.Statement (.rsvDone o) := ⟨by decide, by decide, rfl, rfl, fun h => (show some (if o.bit 1 then Instr.rsvDone o else Instr.rsv o) = some (.rsvDone o) from by rw [show o.bit 1 = true from h]; rfl), rfl⟩
theorem Opcodes.rchk (o : OpA) : Opcodes.Statement (.rchk o) := ⟨by decide, by decide, rfl, rfl, fun _ => rfl, rfl⟩
theorem Opcodes.rcommit (o : OpA) : Opcodes.Statement (.rcommit o) := ⟨by decide, by decide, rfl, rfl, fun _ => rfl, rfl⟩
theorem Opcodes.rretry (o : OpA) : Opcodes.Statement (.rretry o) := ⟨by decide, by decide, rfl, rfl, fun _ => rfl, rfl⟩
theorem Opcodes.rldone (o : OpA) : Opcodes.Statement (.rldone o) := ⟨by decide, by decide, rfl, rfl, fun _ => rfl, rfl⟩
theorem Opcodes.reservePhaseClose (core loop : Nat) : Opcodes.Statement (.reservePhaseClose core loop) := rfl
theorem Opcodes.commitPhaseClose (core loop : Nat) : Opcodes.Statement (.commitPhaseClose core loop) := rfl
theorem Opcodes.btask (o : OpA) : Opcodes.Statement (.btask o) := ⟨by decide, by decide, rfl, rfl, fun _ => rfl, rfl⟩
theorem Opcodes.bop (o : OpA) : Opcodes.Statement (.bop o) := ⟨by decide, by decide, rfl, rfl, fun _ => rfl, rfl⟩
theorem Opcodes.bcommit (o : OpA) : Opcodes.Statement (.bcommit o) := ⟨by decide, by decide, rfl, rfl, fun _ => rfl, rfl⟩
theorem Opcodes.babort (o : OpA) : Opcodes.Statement (.babort o) := ⟨by decide, by decide, rfl, rfl, fun _ => rfl, rfl⟩
theorem Opcodes.bundo (o : OpA) : Opcodes.Statement (.bundo o) := ⟨by decide, by decide, rfl, rfl, fun _ => rfl, rfl⟩
theorem Opcodes.bstat (o : OpA) : Opcodes.Statement (.bstat o) := ⟨by decide, by decide, rfl, rfl, fun _ => rfl, rfl⟩
theorem Opcodes.ctload (o : OpA) : Opcodes.Statement (.ctload o) := ⟨by decide, by decide, rfl, rfl, fun _ => rfl, rfl⟩
theorem Opcodes.ctq (o : OpA) : Opcodes.Statement (.ctq o) := ⟨by decide, by decide, rfl, rfl, fun _ => rfl, rfl⟩
theorem Opcodes.ctabInstall (part aseq : Nat) : Opcodes.Statement (.ctabInstall part aseq) := rfl
theorem Opcodes.svc (o : OpA) : Opcodes.Statement (.svc o) := ⟨by decide, by decide, rfl, rfl, fun _ => rfl, rfl⟩
theorem Opcodes.brk (o : OpA) : Opcodes.Statement (.brk o) := ⟨by decide, by decide, rfl, rfl, fun _ => rfl, rfl⟩
theorem Opcodes.csrr (o : OpA) : Opcodes.Statement (.csrr o) := ⟨by decide, by decide, rfl, rfl, fun _ => rfl, rfl⟩
theorem Opcodes.csrw (o : OpA) : Opcodes.Statement (.csrw o) := ⟨by decide, by decide, rfl, rfl, fun _ => rfl, rfl⟩
theorem Opcodes.tfetch (o : OpA) : Opcodes.Statement (.tfetch o) := ⟨by decide, by decide, rfl, rfl, fun _ => rfl, rfl⟩
theorem Opcodes.reinj (o : OpA) : Opcodes.Statement (.reinj o) := ⟨by decide, by decide, rfl, rfl, fun _ => rfl, rfl⟩
theorem Opcodes.tkill (o : OpA) : Opcodes.Statement (.tkill o) := ⟨by decide, by decide, rfl, rfl, fun _ => rfl, rfl⟩
theorem Opcodes.ctxsave (o : OpA) : Opcodes.Statement (.ctxsave o) := ⟨by decide, by decide, rfl, rfl, fun _ => rfl, rfl⟩
theorem Opcodes.ctxload (o : OpA) : Opcodes.Statement (.ctxload o) := ⟨by decide, by decide, rfl, rfl, fun _ => rfl, rfl⟩
theorem Opcodes.shrink (o : OpA) : Opcodes.Statement (.shrink o) := ⟨by decide, by decide, rfl, rfl, fun _ => rfl, rfl⟩
theorem Opcodes.halt (o : OpA) : Opcodes.Statement (.halt o) := ⟨by decide, by decide, rfl, rfl, fun _ => rfl, rfl⟩
theorem Opcodes.idle (o : OpA) : Opcodes.Statement (.idle o) := ⟨by decide, by decide, rfl, rfl, fun _ => rfl, rfl⟩
theorem Opcodes.rttw (o : OpA) : Opcodes.Statement (.rttw o) := ⟨by decide, by decide, rfl, rfl, fun _ => rfl, rfl⟩
theorem Opcodes.rttr (o : OpA) : Opcodes.Statement (.rttr o) := ⟨by decide, by decide, rfl, rfl, fun _ => rfl, rfl⟩
theorem Opcodes.rinv (o : OpA) : Opcodes.Statement (.rinv o) := ⟨by decide, by decide, rfl, rfl, fun _ => rfl, rfl⟩
theorem Opcodes.rfence (o : OpA) : Opcodes.Statement (.rfence o) := ⟨by decide, by decide, rfl, rfl, fun _ => rfl, rfl⟩
theorem Opcodes.extensionOpcode (i : BitVec 5) (o : OpA) : Opcodes.Statement (.extensionOpcode i o) := by
  have h : i.toNat < 32 := i.isLt
  refine ⟨by omega, by omega, ?_, ?_, fun _ => ?_, rfl⟩
  · simp [isFormatC]; omega
  all_goals
    have hi : i = BitVec.ofNat 5 i.toNat := by simp
    generalize i.toNat = n at h hi
    subst hi
    iterate 32 (rcases n with _ | n; · rfl)
    omega

theorem Opcodes.resultEmit (e : Site) : Opcodes.Statement (.resultEmit e) := rfl
theorem Opcodes.tokenHop (bank arc hop : Nat) : Opcodes.Statement (.tokenHop bank arc hop) := rfl
theorem Opcodes.antiTokenHop (bank arc : Nat) : Opcodes.Statement (.antiTokenHop bank arc) := rfl
theorem Opcodes.cancelledFiring (e : Site) : Opcodes.Statement (.cancelledFiring e) := rfl
theorem Opcodes.markerInject (lk core : Nat) : Opcodes.Statement (.markerInject lk core) := rfl
theorem Opcodes.markerForward (u : MarkerUnit) : Opcodes.Statement (.markerForward u) := rfl
theorem Opcodes.unitApply (lk core slice : Nat) : Opcodes.Statement (.unitApply lk core slice) := rfl
theorem Opcodes.remoteUnitApply (peer core : Nat) : Opcodes.Statement (.remoteUnitApply peer core) := rfl
theorem Opcodes.hostCxlAccess (a : HostAccess) : Opcodes.Statement (.hostCxlAccess a) := rfl
theorem Opcodes.entryReaderPop (bank : Nat) : Opcodes.Statement (.entryReaderPop bank) := rfl
theorem Opcodes.scarabDecide (core tile : Nat) : Opcodes.Statement (.scarabDecide core tile) := rfl
theorem Opcodes.loadClose (lk : Nat) : Opcodes.Statement (.loadClose lk) := rfl
theorem Opcodes.reconfigToken (lk core : Nat) : Opcodes.Statement (.reconfigToken lk core) := rfl
theorem Opcodes.graphRetire (lk : Nat) : Opcodes.Statement (.graphRetire lk) := rfl
theorem Opcodes.decide (part : Nat) : Opcodes.Statement (.decide part) := rfl
theorem Opcodes.shrinkCut (lk : Nat) : Opcodes.Statement (.shrinkCut lk) := rfl
theorem Opcodes.contextParityError (e : Site) (second : Bool) : Opcodes.Statement (.contextParityError e second) := rfl
theorem Opcodes.timingErrorDetect (e : Site) (second : Bool) : Opcodes.Statement (.timingErrorDetect e second) := rfl
theorem Opcodes.marginTrimStep (core step : Nat) : Opcodes.Statement (.marginTrimStep core step) := rfl
theorem Opcodes.faultRecordEnqueue (core : Nat) : Opcodes.Statement (.faultRecordEnqueue core) := rfl
theorem Opcodes.rangeWalk (core : Nat) : Opcodes.Statement (.rangeWalk core) := rfl
theorem Opcodes.debugSetBreakpoint (e : Site) (image : Option Nat) (b : Bool) : Opcodes.Statement (.debugSetBreakpoint e image b) := rfl
theorem Opcodes.traceModeOff (part : Nat) : Opcodes.Statement (.traceModeOff part) := rfl
theorem Opcodes.traceModeRecord (part : Nat) : Opcodes.Statement (.traceModeRecord part) := rfl
theorem Opcodes.traceModeBind (part : Nat) : Opcodes.Statement (.traceModeBind part) := rfl
theorem Opcodes.rndPeriodWrite (lk value : Nat) : Opcodes.Statement (.rndPeriodWrite lk value) := rfl
theorem Opcodes.exactModeSet (part : Nat) : Opcodes.Statement (.exactModeSet part) := rfl
theorem Opcodes.directoryLock (part : Nat) : Opcodes.Statement (.directoryLock part) := rfl
theorem Opcodes.rdirCntWrite (part value : Nat) : Opcodes.Statement (.rdirCntWrite part value) := rfl
theorem Opcodes.registerWrite (part index : Nat) (value : BitVec 64) : Opcodes.Statement (.registerWrite part index value) := rfl
theorem Opcodes.partCores (c : HostCommand) : Opcodes.Statement (.partCores c) := rfl
theorem Opcodes.partMem (c : HostCommand) : Opcodes.Statement (.partMem c) := rfl
theorem Opcodes.partClr (c : HostCommand) : Opcodes.Statement (.partClr c) := rfl
theorem Opcodes.partReg (c : HostCommand) : Opcodes.Statement (.partReg c) := rfl
theorem Opcodes.hndStart (c : HostCommand) : Opcodes.Statement (.hndStart c) := rfl
theorem Opcodes.dmaWin (c : HostCommand) : Opcodes.Statement (.dmaWin c) := rfl
theorem Opcodes.peerSet (c : HostCommand) : Opcodes.Statement (.peerSet c) := rfl
theorem Opcodes.grpSet (c : HostCommand) : Opcodes.Statement (.grpSet c) := rfl
theorem Opcodes.fenceClr (c : HostCommand) : Opcodes.Statement (.fenceClr c) := rfl
theorem Opcodes.resume (c : HostCommand) : Opcodes.Statement (.resume c) := rfl
theorem Opcodes.dieReset (c : HostCommand) : Opcodes.Statement (.dieReset c) := rfl
theorem Opcodes.dieWritebackDone (die : Nat) : Opcodes.Statement (.dieWritebackDone die) := rfl
theorem Opcodes.dieRetrainStart (die : Nat) : Opcodes.Statement (.dieRetrainStart die) := rfl
theorem Opcodes.dieRetrainDone (die : Nat) : Opcodes.Statement (.dieRetrainDone die) := rfl
theorem Opcodes.errorReply (id : Nat) : Opcodes.Statement (.errorReply id) := rfl
theorem Opcodes.vfBind (c : HostCommand) : Opcodes.Statement (.vfBind c) := rfl
theorem Opcodes.rateSet (c : HostCommand) : Opcodes.Statement (.rateSet c) := rfl
theorem Opcodes.hostHalt (c : HostCommand) : Opcodes.Statement (.hostHalt c) := rfl
theorem Opcodes.vfLaunchDoorbell (vf queue addr : Nat) : Opcodes.Statement (.vfLaunchDoorbell vf queue addr) := rfl
theorem Opcodes.bootGo (value : BitVec 64) : Opcodes.Statement (.bootGo value) := rfl
theorem Opcodes.bootVerifyDone  : Opcodes.Statement .bootVerifyDone := rfl
theorem Opcodes.coldBoot  : Opcodes.Statement .coldBoot := rfl
theorem Opcodes.getMeasurements  : Opcodes.Statement .getMeasurements := rfl
theorem Opcodes.flitReceive (port : Nat) (flit : Flit) : Opcodes.Statement (.flitReceive port flit) := rfl
theorem Opcodes.flitReplay (port : Nat) : Opcodes.Statement (.flitReplay port) := rfl
theorem Opcodes.thermalClamp (level : ThermalLevel) : Opcodes.Statement (.thermalClamp level) := rfl
theorem Opcodes.mgmtCoreReset  : Opcodes.Statement .mgmtCoreReset := rfl
theorem Opcodes.patrolScrub (u : ScrubUnit) : Opcodes.Statement (.patrolScrub u) := rfl
theorem Opcodes.engineWriteStage (id : Nat) : Opcodes.Statement (.engineWriteStage id) := rfl
theorem Opcodes.hostCxlReply (id : Nat) : Opcodes.Statement (.hostCxlReply id) := rfl

end Sys2Proof.Laws
end

