-- ==== Sys2Proof/Laws/Decode.lean ====
section
/-! SUPPORT. The fields of an instruction word are read back as they were written (05 R104-R109), and a word is the word of its bytes (00 R3). -/

namespace Sys2Proof

theorem wordOfBytes_bytesOfWord (w : Word64) : wordOfBytes (w.extractLsb' 0 8) (w.extractLsb' 8 8) (w.extractLsb' 16 8) (w.extractLsb' 24 8) (w.extractLsb' 32 8) (w.extractLsb' 40 8)
    (w.extractLsb' 48 8) (w.extractLsb' 56 8) = w := by
  apply BitVec.eq_of_getLsbD_eq
  intro i hi
  simp only [wordOfBytes, BitVec.getLsbD_append, BitVec.getLsbD_extractLsb']
  repeat' split
  all_goals (rw [decide_eq_true (by omega), Bool.true_and]; congr 1; omega)

/-- Decoding the bytes of a word, whatever follows them. -/
theorem decode_bytesOfWord (w : Word64) (rest : List Byte) :
    decode (bytesOfWord w ++ rest) = (match decodeWord w with
      | .ok i => .ok (i, rest)
      | .error e => .error e) := by
  cases hd : decodeWord w <;>
    simp only [bytesOfWord, List.cons_append, List.nil_append, decode, wordOfBytes_bytesOfWord, hd]

theorem ty_ofCode_enc (t : Ty) : Ty.ofCode t.enc = some t := by cases t <;> rfl

theorem flags_ofBits_enc (f : Flags) : Flags.ofBits f.enc = some f := by
  obtain ⟨e, b, pm, k⟩ := f
  cases e <;> cases b <;> cases pm <;> cases k <;> rfl

theorem target_ofBits_enc (t : Target) (h : t.ok = true) : Target.ofBits t.enc = some t := by
  cases t with
  | none => rfl
  | slot i k =>
    revert i
    cases k <;> decide
  | port p =>
    revert p
    decide
  | creg i =>
    revert i
    decide

/-- The seven parts of a word of Format A. -/
theorem parts_A (a : BitVec 8) (b : BitVec 6) (c : BitVec 4) (d : BitVec 6) (e f : BitVec 11) (g : BitVec 18) :
    (a ++ b ++ c ++ d ++ e ++ f ++ g).extractLsb' 56 8 = a ∧ (a ++ b ++ c ++ d ++ e ++ f ++ g).extractLsb' 50 6 = b ∧ (a ++ b ++ c ++ d ++ e ++ f ++ g).extractLsb' 46 4 = c ∧
    (a ++ b ++ c ++ d ++ e ++ f ++ g).extractLsb' 40 6 = d ∧ (a ++ b ++ c ++ d ++ e ++ f ++ g).extractLsb' 29 11 = e ∧ (a ++ b ++ c ++ d ++ e ++ f ++ g).extractLsb' 18 11 = f ∧
    (a ++ b ++ c ++ d ++ e ++ f ++ g).extractLsb' 0 18 = g := by
  refine ⟨?_, ?_, ?_, ?_, ?_, ?_, ?_⟩
  all_goals
    apply BitVec.eq_of_getLsbD_eq
    intro i hi
    simp only [BitVec.getLsbD_append, BitVec.getLsbD_extractLsb']
    repeat' split
  all_goals first
    | omega
    | (rw [decide_eq_true (by omega), Bool.true_and]; congr 1; omega)

/-- The seven parts of a word of Format B. -/
theorem parts_B (a : BitVec 8) (b : BitVec 6) (c d e f : BitVec 11) (g : BitVec 6) :
    (a ++ b ++ c ++ d ++ e ++ f ++ g).extractLsb' 56 8 = a ∧ (a ++ b ++ c ++ d ++ e ++ f ++ g).extractLsb' 50 6 = b ∧ (a ++ b ++ c ++ d ++ e ++ f ++ g).extractLsb' 39 11 = c ∧
    (a ++ b ++ c ++ d ++ e ++ f ++ g).extractLsb' 28 11 = d ∧ (a ++ b ++ c ++ d ++ e ++ f ++ g).extractLsb' 17 11 = e ∧ (a ++ b ++ c ++ d ++ e ++ f ++ g).extractLsb' 6 11 = f ∧
    (a ++ b ++ c ++ d ++ e ++ f ++ g).extractLsb' 0 6 = g := by
  refine ⟨?_, ?_, ?_, ?_, ?_, ?_, ?_⟩
  all_goals
    apply BitVec.eq_of_getLsbD_eq
    intro i hi
    simp only [BitVec.getLsbD_append, BitVec.getLsbD_extractLsb']
    repeat' split
  all_goals first
    | omega
    | (rw [decide_eq_true (by omega), Bool.true_and]; congr 1; omega)

/-- The six parts of a word of Format C. -/
theorem parts_C (a : BitVec 8) (b : BitVec 6) (c : BitVec 4) (d : BitVec 6) (e : BitVec 11) (g : BitVec 29) :
    (a ++ b ++ c ++ d ++ e ++ g).extractLsb' 56 8 = a ∧ (a ++ b ++ c ++ d ++ e ++ g).extractLsb' 50 6 = b ∧ (a ++ b ++ c ++ d ++ e ++ g).extractLsb' 46 4 = c ∧
    (a ++ b ++ c ++ d ++ e ++ g).extractLsb' 40 6 = d ∧ (a ++ b ++ c ++ d ++ e ++ g).extractLsb' 29 11 = e ∧ (a ++ b ++ c ++ d ++ e ++ g).extractLsb' 0 29 = g := by
  refine ⟨?_, ?_, ?_, ?_, ?_, ?_⟩
  all_goals
    apply BitVec.eq_of_getLsbD_eq
    intro i hi
    simp only [BitVec.getLsbD_append, BitVec.getLsbD_extractLsb']
    repeat' split
  all_goals first
    | omega
    | (rw [decide_eq_true (by omega), Bool.true_and]; congr 1; omega)

/-- The fields of Format A (05 R104). -/
theorem fieldsA_encodeA (op : Nat) (o : OpA) (h0 : o.t0.ok = true) (h1 : o.t1.ok = true) :
    ((encodeA op o).extractLsb' 56 8).toNat = op % 256 ∧ fieldsA (encodeA op o) = .ok o := by
  obtain ⟨e0, e1, e2, e3, e4, e5, e6⟩ := parts_A (BitVec.ofNat 8 op) o.fn o.ty.enc o.fl.enc o.t0.enc o.t1.enc o.imm
  refine ⟨(congrArg BitVec.toNat e0).trans (by simp), ?_⟩
  unfold fieldsA encodeA
  rw [e1, e2, e3, e4, e5, e6, ty_ofCode_enc, flags_ofBits_enc, target_ofBits_enc _ h0, target_ofBits_enc _ h1]

/-- The fields of Format B (05 R105). -/
theorem fieldsB_encodeB (o : OpB) (h0 : o.t0.ok = true) (h1 : o.t1.ok = true) (h2 : o.t2.ok = true) (h3 : o.t3.ok = true) :
    ((encodeB o).extractLsb' 56 8).toNat = 5 ∧ fieldsB (encodeB o) = .ok o := by
  obtain ⟨e0, e1, e2, e3, e4, e5, e6⟩ := parts_B (0x05 : BitVec 8) o.fl.enc o.t0.enc o.t1.enc o.t2.enc o.t3.enc (0 : BitVec 6)
  refine ⟨congrArg BitVec.toNat e0, ?_⟩
  unfold fieldsB encodeB
  rw [e1, e2, e3, e4, e5, e6, flags_ofBits_enc, target_ofBits_enc _ h0, target_ofBits_enc _ h1, target_ofBits_enc _ h2, target_ofBits_enc _ h3]
  rfl

/-- The fields of Format C (05 R104 R112). -/
theorem fieldsC_encodeC (op : Nat) (o : OpC) (h0 : o.t0.ok = true) :
    ((encodeC op o).extractLsb' 56 8).toNat = op % 256 ∧ fieldsC (encodeC op o) = .ok o := by
  obtain ⟨e0, e1, e2, e3, e4, e5⟩ := parts_C (BitVec.ofNat 8 op) (o.imm.extractLsb' 29 6) o.ty.enc o.fl.enc o.t0.enc (o.imm.extractLsb' 0 29)
  have e6 : (o.imm.extractLsb' 29 6 ++ o.imm.extractLsb' 0 29 : BitVec 35) = o.imm := by
    apply BitVec.eq_of_getLsbD_eq
    intro i hi
    simp only [BitVec.getLsbD_append, BitVec.getLsbD_extractLsb']
    split
    all_goals (rw [decide_eq_true (by omega), Bool.true_and]; congr 1; omega)
  refine ⟨(congrArg BitVec.toNat e0).trans (by simp), ?_⟩
  unfold fieldsC encodeC
  rw [e1, e2, e3, e4, e5, ty_ofCode_enc, flags_ofBits_enc, target_ofBits_enc _ h0]
  simp only [e6]

end Sys2Proof
end

