-- ==== Sys2Proof/Laws/Memory.lean ====
section
/-! SUPPORT. Memory: a read after a write, and the canonical form, which every memory operation keeps. -/

namespace Sys2Proof.Machine

/-- Every address of a memory is above a bound. -/
def aboveAll (a : Nat) (m : Memory) : Prop := ∀ x ∈ m, a < x.1

theorem wf_cons (a : Nat) (b : Byte) (m : Memory) : Memory.wf ((a, b) :: m) = true ↔ b ≠ 0 ∧ aboveAll a m ∧ Memory.wf m = true := by
  induction m generalizing a b with
  | nil => simp [Memory.wf, aboveAll]
  | cons y m ih =>
    obtain ⟨a', b'⟩ := y
    simp only [Memory.wf, Bool.and_eq_true, decide_eq_true_eq, bne_iff_ne, ne_eq]
    constructor
    · rintro ⟨⟨h1, h2⟩, h3⟩
      refine ⟨h2, ?_, h3⟩
      have := (ih a' b').1 h3
      intro x hx
      rcases List.mem_cons.1 hx with rfl | hx
      · exact h1
      · exact Nat.lt_trans h1 (this.2.1 x hx)
    · rintro ⟨h1, h2, h3⟩
      exact ⟨⟨h2 _ (List.mem_cons_self ..), h1⟩, h3⟩

theorem aboveAll_mdel (a i : Nat) (m : Memory) (h : aboveAll a m) : aboveAll a (mdel m i) := by
  induction m with
  | nil => simpa [mdel]
  | cons y m ih =>
    obtain ⟨k, v⟩ := y
    simp only [mdel]
    split
    · exact fun x hx => h x (List.mem_cons_of_mem _ hx)
    · intro x hx
      rcases List.mem_cons.1 hx with rfl | hx
      · exact h _ (List.mem_cons_self ..)
      · exact ih (fun x hx => h x (List.mem_cons_of_mem _ hx)) x hx

theorem aboveAll_mset (a i : Nat) (v : Byte) (m : Memory) (h : aboveAll a m) (hi : a < i) : aboveAll a (mset m i v) := by
  induction m with
  | nil => intro x hx; simp only [mset, List.mem_singleton] at hx; subst hx; exact hi
  | cons y m ih =>
    obtain ⟨k, w⟩ := y
    have hm : aboveAll a m := fun x hx => h x (List.mem_cons_of_mem _ hx)
    simp only [mset]
    split
    · intro x hx
      rcases List.mem_cons.1 hx with rfl | hx
      · exact hi
      · exact h x hx
    · split
      · intro x hx
        rcases List.mem_cons.1 hx with rfl | hx
        · exact hi
        · exact hm x hx
      · intro x hx
        rcases List.mem_cons.1 hx with rfl | hx
        · exact h _ (List.mem_cons_self ..)
        · exact ih hm x hx

theorem wf_mdel (m : Memory) (i : Nat) (h : Memory.wf m = true) : Memory.wf (mdel m i) = true := by
  induction m with
  | nil => simp [mdel, Memory.wf]
  | cons y m ih =>
    obtain ⟨k, v⟩ := y
    obtain ⟨h1, h2, h3⟩ := (wf_cons k v m).1 h
    simp only [mdel]
    split
    · exact h3
    · exact (wf_cons _ _ _).2 ⟨h1, aboveAll_mdel _ _ _ h2, ih h3⟩

theorem wf_mset (m : Memory) (i : Nat) (v : Byte) (hv : v ≠ 0) (h : Memory.wf m = true) : Memory.wf (mset m i v) = true := by
  induction m with
  | nil => simpa [mset, Memory.wf] using hv
  | cons y m ih =>
    obtain ⟨k, w⟩ := y
    obtain ⟨h1, h2, h3⟩ := (wf_cons k w m).1 h
    simp only [mset]
    split
    · rename_i hlt
      refine (wf_cons _ _ _).2 ⟨hv, ?_, h⟩
      intro x hx
      rcases List.mem_cons.1 hx with rfl | hx
      · exact hlt
      · exact Nat.lt_trans hlt (h2 x hx)
    · split
      · rename_i he
        subst he
        exact (wf_cons _ _ _).2 ⟨hv, h2, h3⟩
      · exact (wf_cons _ _ _).2 ⟨h1, aboveAll_mset _ _ _ _ h2 (by omega), ih h3⟩

/-- A write keeps the canonical form. -/
theorem wf_memWrite (m : Memory) (a : Nat) (b : Byte) (h : Memory.wf m = true) : Memory.wf (memWrite m a b) = true := by
  unfold memWrite
  split
  · exact wf_mdel m a h
  · exact wf_mset m a b (by assumption) h

/-- A write of several bytes keeps the canonical form. -/
theorem wf_writeBytes (bs : List Byte) (m : Memory) (a : Nat) (h : Memory.wf m = true) : Memory.wf (writeBytes m a bs) = true := by
  induction bs generalizing m a with
  | nil => exact h
  | cons b bs ih => exact ih _ _ (wf_memWrite m a b h)

theorem mget_none_of_above (m : Memory) (a i : Nat) (h : aboveAll a m) (hi : i ≤ a) : mget m i = none := by
  cases m with
  | nil => rfl
  | cons y m =>
    obtain ⟨k, v⟩ := y
    have : a < k := h _ (List.mem_cons_self ..)
    have h1 : ¬ k = i := by omega
    have h2 : i < k := by omega
    simp [mget, h1, h2]

theorem mget_mdel_same (m : Memory) (i : Nat) (h : Memory.wf m = true) : mget (mdel m i) i = none := by
  induction m with
  | nil => rfl
  | cons y m ih =>
    obtain ⟨k, v⟩ := y
    obtain ⟨h1, h2, h3⟩ := (wf_cons k v m).1 h
    simp only [mdel]
    split
    · rename_i he; subst he; exact mget_none_of_above m k k h2 (Nat.le_refl _)
    · rename_i hne
      simp only [mget, hne, if_false]
      split
      · rfl
      · exact ih h3

theorem mget_mdel_other (m : Memory) (i j : Nat) (hj : j ≠ i) (h : Memory.wf m = true) : mget (mdel m i) j = mget m j := by
  induction m with
  | nil => rfl
  | cons y m ih =>
    obtain ⟨k, v⟩ := y
    obtain ⟨h1, h2, h3⟩ := (wf_cons k v m).1 h
    simp only [mdel]
    split
    · rename_i he
      subst he
      have hkj : ¬ k = j := fun e => hj e.symm
      simp only [mget, hkj, if_false]
      split
      · rename_i hlt; exact mget_none_of_above m k j h2 (Nat.le_of_lt hlt)
      · rfl
    · simp only [mget, ih h3]

/-- A read of the byte written gives that byte. -/
theorem memRead_memWrite_same (m : Memory) (a : Nat) (b : Byte) (h : Memory.wf m = true) : memRead (memWrite m a b) a = b := by
  unfold memRead memWrite mgetD
  split
  · rename_i hb; simp [mget_mdel_same m a h, hb]
  · simp

/-- A read of another byte gives what it gave. -/
theorem memRead_memWrite_other (m : Memory) (a j : Nat) (b : Byte) (hj : j ≠ a) (h : Memory.wf m = true) : memRead (memWrite m a b) j = memRead m j := by
  unfold memRead memWrite mgetD
  split
  · rw [mget_mdel_other m a j hj h]
  · rw [mget_mset_other m a j b hj]

/-- Outside the bytes written every byte reads as before. -/
theorem memRead_writeBytes_other (bs : List Byte) (m : Memory) (a j : Nat) (hj : j < a ∨ a + bs.length ≤ j) (h : Memory.wf m = true) :
    memRead (writeBytes m a bs) j = memRead m j := by
  induction bs generalizing m a with
  | nil => rfl
  | cons b bs ih =>
    simp only [List.length_cons] at hj
    simp only [writeBytes]
    rw [ih _ _ (by omega) (wf_memWrite m a b h), memRead_memWrite_other m a j b (by omega) h]

/-- Byte i of the bytes written reads back. -/
theorem memRead_writeBytes_same (bs : List Byte) (m : Memory) (a i : Nat) (hi : i < bs.length) (h : Memory.wf m = true) :
    memRead (writeBytes m a bs) (a + i) = bs.getD i 0 := by
  induction bs generalizing m a i with
  | nil => simp at hi
  | cons b bs ih =>
    simp only [writeBytes]
    cases i with
    | zero =>
      change memRead (writeBytes (memWrite m a b) (a + 1) bs) a = b
      rw [memRead_writeBytes_other bs (memWrite m a b) (a + 1) a (Or.inl (by omega)) (wf_memWrite m a b h), memRead_memWrite_same m a b h]
    | succ i =>
      have := ih (memWrite m a b) (a + 1) i (by simpa using hi) (wf_memWrite m a b h)
      rw [show a + (i + 1) = a + 1 + i by omega, this]; rfl

end Sys2Proof.Machine
end

