-- ==== Sys2Proof/Tests/Slice0.lean ====
section
/-! SUPPORT. The tests of the model: the well-formedness checks refuse what they are for, words written out from the encodings of the specification decode to
what they stand for, and for every statement of Obligations that has hypotheses a state and operands that meet them. -/

open Sys2Proof Sys2Proof.Machine

namespace Sys2Proof.Tests

-- one theorem at a time: the kernel's evaluations hold a thread each
set_option Elab.async false

/-! ### The well-formedness checks, each on a term that it refuses -/

/-- The checks common to Format A: the type, the flags E, K and PM, the targets (03 R48 R49, 05 R106 R107). -/
theorem test_wf_common : ([
    .add { ty := .f32 }, .fadd { ty := .i32 }, .fclass { ty := .kf8e }, .addr { ty := .i32 }, .bswap { ty := .i8 }, .trunc { ty := .int4 },
    .add { ty := .int4, fn := 1 }, .adds { ty := .tf, fn := 1 },
    .add { ty := .i32, fl := { e := true } }, .and { ty := .i32, fl := { e := true, k := true } }, .and { ty := .i32, fl := { e := true, pm := .onTrue } },
    .steer { ty := .tf, fl := { e := true } }, .mul { ty := .int4, fl := { e := true } },
    .neg { fl := { k := true } }, .add { fn := 0x10, fl := { k := true } }, .qpush { fl := { k := true } },
    .steer { fl := { pm := .onTrue } }, .sel { fl := { pm := .onTrue } }, .imad { fl := { pm := .onTrue } }, .fma { ty := .f32, fl := { pm := .onFalse } },
    .vshuf { fn := 0x20, fl := { pm := .onTrue } }, .ld { fl := { pm := .onTrue } }, .svc { fl := { pm := .onTrue } },
    .add { t0 := .creg 24 }, .add { t1 := .creg 127 }, .drop { t0 := .slot 0 .l }, .ordj { t1 := .slot 0 .l }, .retire { t0 := .port 0 }, .qpush { t1 := .port 0 },
    .halt { t0 := .slot 1 .l }] : List Instr).all (fun i => !i.wf) = true := by decide

/-- The fn and imm18 checks of the routing, integer and floating-point opcodes (06 R128 R142, 07 R162-R182). -/
theorem test_wf_arithmetic : ([
    .steer { fn := 1 }, .carry { imm := 1 }, .ordj { fn := 2 }, .countLFiring { fn := 1 }, .repeatCopies { imm := 1 }, .launch { imm := 64 }, .patch { imm := 4 }, .trig { imm := 1 },
    .qpush { imm := 2048 }, .crd { imm := 24 }, .cwr { fn := 1 }, .quiet { imm := 0 },
    .add { fn := 2 }, .add { imm := 1 }, .add { ty := .i8, fn := 0x10, imm := 128 }, .and { ty := .pred, fn := 0x10, imm := 2 }, .neg { fn := 1 }, .not { imm := 1 },
    .shl { ty := .i32, fn := 0x10, imm := 32 }, .clz { fn := 1 }, .cmp { ty := .i32, fn := 12 }, .sel { fn := 1 }, .trunc { ty := .i16, fn := 4 }, .trunc { ty := .i32, fn := 0x0D },
    .bfx { ty := .i16, imm := 0x3C1 }, .bfi { imm := 4096 }, .addr { fn := 2 }, .imad { fn := 4 }, .bswap { imm := 1 },
    .fadd { ty := .f32, fn := 1 }, .fadd { ty := .f32, fn := 0x10, imm := 0x10000 }, .fsqrt { ty := .f32, imm := 1 }, .frcp { ty := .f32, fn := 4 }, .fmin { ty := .f32, fn := 4 },
    .fcmp { ty := .f32, fn := 4 }, .fscalb { ty := .f16, fn := 0x10, imm := 0x10000 }] : List Instr).all (fun i => !i.wf) = true := by decide

/-- Those of the lane, conversion and format opcodes (07 R183-R192). -/
theorem test_wf_lanes : ([
    .vbcast {}, .vextr { fn := 0x30, imm := 8 }, .vins { fn := 0x20, imm := 8 }, .vperm { fn := 0x20, ty := .kf4 }, .vslide { fn := 0x20, imm := 9 }, .vzip { fn := 0x22 },
    .vradd { fn := 0x20, ty := .kf8e }, .vrand { fn := 0x20, ty := .f32 }, .vpcnt { fn := 0x20 }, .vmask { fn := 0x20, ty := .tf },
    .cvt { ty := .f32, imm := 0x8000 }, .cvt { ty := .f32, fn := 0x20, imm := 0x400 }, .cvt { ty := .f32, fn := 1, imm := 255 }, .cvt { ty := .kf4, fn := 0x20, imm := 0x8000 },
    .cvt { ty := .i32 }, .cvti { ty := .f32 }, .cvti { ty := .i16, fn := 2 }, .scaleg { imm := 1 }, .scales { imm := 1 }, .fmtchk { imm := 0x0A }, .fmtchk { imm := 0x17 }, .fmtchk { imm := 256 },
    .ufrd { imm := 128 }, .pack { fn := 3 }, .pack { imm := 0x10000 }, .unpack { fn := 1, imm := 0x20000 }, .rng { fn := 1 }] : List Instr).all (fun i => !i.wf) = true := by decide

/-- Those of the matrix, memory, atomic and synchronisation opcodes (08, 09 R228). -/
theorem test_wf_memory : ([
    .mxldbHeaderFiring { imm := 8 }, .mxrow { ty := .f32 }, .mxrow { ty := .i8, imm := 32 }, .mxrows { ty := .kf6, imm := 8 }, .mxdrain { imm := 0x3F04 }, .mxdrain { fn := 2 },
    .mxclr { ty := .f16 }, .mxcfg { imm := 4 },
    .ld { ty := .kf6 }, .ld { fn := 4 }, .ld { ty := .f32, fn := 8 }, .ld { fn := 0x20 }, .st { fn := 1 }, .ldv { ty := .pred }, .stv { ty := .tf }, .gath { ty := .i32, fn := 2 },
    .gath { imm := 1 }, .scat { ty := .i64, imm := 0x8000 }, .mtld { fn := 1 }, .mtld { ty := .int4 }, .mtst { ty := .pred, fn := 0x20 }, .strcfg { imm := 256 }, .strgo { imm := 1 },
    .strgo { fn := 1 }, .strgoWrite {}, .pref { fn := 2 },
    .aadd { ty := .f32 }, .aadd { ty := .i16 }, .afadd { ty := .f32, fn := 8 }, .afadd { ty := .f32, fn := 0x10, imm := 0x10000 }, .aadd { imm := 1 }, .atas {}, .atas { fn := 0x11, imm := 64 },
    .atopk {}, .atopk { imm := 9 }, .aincb {}, .fence { imm := 6 }, .fence { fn := 1 }, .bar {}, .bar { imm := 6 }, .bar { fn := 1, imm := 1 }, .barCopy { imm := 1 }, .permitTake { imm := 1 },
    .permitGive {}, .futreg {}, .futreg { imm := 0x4000 }, .futres { imm := 1 }, .futwait { fn := 1 }, .xcopy { imm := 1 }, .rsplit { fn := 1 }] : List Instr).all (fun i => !i.wf) = true := by
  decide

/-- Those of the loop, task and system opcodes, of Formats B and C, and the places that steps without a word name (06 R128 R143, 10 R244, 18 R324, 20 R362). -/
theorem test_wf_system : ([
    .rloop { fn := 1 }, .rsv { fn := 3 }, .rsv { fn := 2 }, .rsvDone {}, .rchk { fn := 2 }, .bop { imm := 64 }, .ctq { imm := 4096 }, .svc { imm := 65536 }, .csrr { imm := 5 }, .csrw { imm := 1 },
    .csrw { fn := 3 }, .reinj { fn := 3 }, .idle { imm := 65536 }, .tkill { imm := 1 }, .shrink { fn := 1 }, .rinv { fn := 2 }, .rttw { imm := 1 },
    .fanout { fl := { pm := .onTrue } }, .fanout { fl := { e := true } }, .fanout { fl := { k := true } }, .fanout { t3 := .creg 24 },
    .const { ty := .pred }, .const { fl := { pm := .onTrue } }, .const { fl := { e := true } }, .const { fl := { k := true } }, .const { t0 := .creg 24 },
    .exit { ty := .i32 }, .exit { t0 := .slot 0 .l }, .exit { imm := 0x8000000 }, .exitp { imm := 0x8000000 }, .exitp { fl := { pm := .onTrue } }, .exitq { t0 := .port 0 }, .spawn { imm := 0x8000000 },
    .resultEmit ⟨96, 0, 0, 0⟩, .resultEmit ⟨0, 16, 0, 0⟩, .resultEmit ⟨0, 0, 4, 0⟩, .resultEmit ⟨0, 0, 0, 128⟩, .tokenHop 6144 0 0, .antiTokenHop 6144 0, .markerInject (96 * 65536) 0,
    .markerForward (.bank 6144), .markerForward (.memoryTile 1 0 16), .markerForward (.corePort 1 96), .unitApply 1 0 256, .remoteUnitApply 0 0, .scarabDecide 0 16, .decide 96,
    .registerWrite 0 4096 0, .partCores { words := [] }, .dieRetrainDone 4, .residueMismatch 96 0, .hostCxlAccess { addr := 60, size := 8, write := false, caches := false, data := 0 },
    .marginTrimStep 0 8, .vfLaunchDoorbell 384 0 0, .vfLaunchDoorbell 0 64 0, .flitReplay 16, .patrolScrub (.slice 1), .patrolScrub (.memoryTile 0 0 8192)] :
    List Instr).all (fun i => !i.wf) = true := by decide

/-! ### Decoding -/

/-- Words written out from the layouts and codes of 05 to 09: the family routing. -/
theorem test_decode_routing :
  decodeTableWord 64 0x05010A2258198500 = some (.fanout { t0 := .slot 5 .l, t1 := .slot 9 .r, t2 := .port 3, t3 := .creg 5 }) ∧
  decodeTableWord 64 0x0100404188740000 = some (.steer { ty := .i32, t0 := .slot 3 .l, t1 := .slot 7 .r }) ∧
  decodeTableWord 64 0x0201004188740000 = some (.merge { ty := .f32, t0 := .slot 3 .l, t1 := .slot 7 .r }) ∧
  decodeTableWord 64 0x0303404188740000 = some (.carry { ty := .tf, t0 := .slot 3 .l, t1 := .slot 7 .r }) ∧
  decodeTableWord 64 0x0403004188740000 = some (.invar { ty := .pred, t0 := .slot 3 .l, t1 := .slot 7 .r }) ∧
  decodeTableWord 64 0x0600000000000000 = some (.drop {}) ∧
  decodeTableWord 64 0x0700004188740000 = some (.ordf { t0 := .slot 3 .l, t1 := .slot 7 .r }) ∧
  decodeTableWord 64 0x0804004180000000 = some (.ordj { fn := 0x01, t0 := .slot 3 .l }) ∧
  decodeTableWord 64 0x090040418877FFFF = some (.gatePassFiring { ty := .i32, t0 := .slot 3 .l, t1 := .slot 7 .r, imm := 0x3FFFF }) ∧
  decodeTableWord 64 0x0A40804188740005 = some (.countLFiring { fn := 0x10, ty := .i16, t0 := .slot 3 .l, t1 := .slot 7 .r, imm := 0x5 }) ∧
  decodeTableWord 64 0x0B40C04188740009 = some (.repeatCopies { fn := 0x10, ty := .i8, t0 := .slot 3 .l, t1 := .slot 7 .r, imm := 0x9 }) := by
  and_intros <;> decide

/-- Words written out from the layouts and codes of 05 to 09: the family threads. -/
theorem test_decode_threads :
  decodeTableWord 64 0x1400000000000000 = some (.retire {}) ∧
  decodeTableWord 64 0x150000418874003F = some (.launch { t0 := .slot 3 .l, t1 := .slot 7 .r, imm := 0x3F }) ∧
  decodeTableWord 64 0x1600004188740003 = some (.patch { t0 := .slot 3 .l, t1 := .slot 7 .r, imm := 0x3 }) ∧
  decodeTableWord 64 0x1700004188740000 = some (.trig { t0 := .slot 3 .l, t1 := .slot 7 .r }) ∧
  decodeTableWord 64 0x18800000000007FF = some (.qpush { fn := 0x20, imm := 0x7FF }) ∧
  decodeTableWord 64 0x1900404188740400 = some (.qpop { ty := .i32, t0 := .slot 3 .l, t1 := .slot 7 .r, imm := 0x400 }) ∧
  decodeTableWord 64 0x1A00004188740017 = some (.crd { t0 := .slot 3 .l, t1 := .slot 7 .r, imm := 0x17 }) ∧
  decodeTableWord 64 0x1B0100418874000C = some (.cwr { ty := .f32, t0 := .slot 3 .l, t1 := .slot 7 .r, imm := 0xC }) ∧
  decodeTableWord 64 0x1C00004188740000 = some (.rmark { t0 := .slot 3 .l, t1 := .slot 7 .r }) ∧
  decodeTableWord 64 0x1D00004188740002 = some (.quiet { t0 := .slot 3 .l, t1 := .slot 7 .r, imm := 0x2 }) := by
  and_intros <;> decide

/-- Words written out from the layouts and codes of 05 to 09: the family integer. -/
theorem test_decode_integer :
  decodeTableWord 64 0x2004404188740000 = some (.add { fn := 0x01, ty := .i32, t0 := .slot 3 .l, t1 := .slot 7 .r }) ∧
  decodeTableWord 64 0x2104404188740000 = some (.sub { fn := 0x01, ty := .i32, t0 := .slot 3 .l, t1 := .slot 7 .r }) ∧
  decodeTableWord 64 0x2204404188740000 = some (.adds { fn := 0x01, ty := .i32, t0 := .slot 3 .l, t1 := .slot 7 .r }) ∧
  decodeTableWord 64 0x2304404188740000 = some (.subs { fn := 0x01, ty := .i32, t0 := .slot 3 .l, t1 := .slot 7 .r }) ∧
  decodeTableWord 64 0x2480804188740000 = some (.neg { fn := 0x20, ty := .i16, t0 := .slot 3 .l, t1 := .slot 7 .r }) ∧
  decodeTableWord 64 0x2580804188740000 = some (.abs { fn := 0x20, ty := .i16, t0 := .slot 3 .l, t1 := .slot 7 .r }) ∧
  decodeTableWord 64 0x2604404188740000 = some (.mul { fn := 0x01, ty := .i32, t0 := .slot 3 .l, t1 := .slot 7 .r }) ∧
  decodeTableWord 64 0x2704404188740000 = some (.mulh { fn := 0x01, ty := .i32, t0 := .slot 3 .l, t1 := .slot 7 .r }) ∧
  decodeTableWord 64 0x2804404188740000 = some (.div { fn := 0x01, ty := .i32, t0 := .slot 3 .l, t1 := .slot 7 .r }) ∧
  decodeTableWord 64 0x2904404188740000 = some (.rem { fn := 0x01, ty := .i32, t0 := .slot 3 .l, t1 := .slot 7 .r }) ∧
  decodeTableWord 64 0x2A04404188740000 = some (.min { fn := 0x01, ty := .i32, t0 := .slot 3 .l, t1 := .slot 7 .r }) ∧
  decodeTableWord 64 0x2B04404188740000 = some (.max { fn := 0x01, ty := .i32, t0 := .slot 3 .l, t1 := .slot 7 .r }) ∧
  decodeTableWord 64 0x2C04404188740000 = some (.and { fn := 0x01, ty := .i32, t0 := .slot 3 .l, t1 := .slot 7 .r }) ∧
  decodeTableWord 64 0x2D04404188740000 = some (.or { fn := 0x01, ty := .i32, t0 := .slot 3 .l, t1 := .slot 7 .r }) ∧
  decodeTableWord 64 0x2E04404188740000 = some (.xor { fn := 0x01, ty := .i32, t0 := .slot 3 .l, t1 := .slot 7 .r }) ∧
  decodeTableWord 64 0x2F04404188740000 = some (.andn { fn := 0x01, ty := .i32, t0 := .slot 3 .l, t1 := .slot 7 .r }) ∧
  decodeTableWord 64 0x3004404188740000 = some (.not { fn := 0x01, ty := .i32, t0 := .slot 3 .l, t1 := .slot 7 .r }) ∧
  decodeTableWord 64 0x3180804188740000 = some (.shl { fn := 0x20, ty := .i16, t0 := .slot 3 .l, t1 := .slot 7 .r }) ∧
  decodeTableWord 64 0x3280804188740000 = some (.shr { fn := 0x20, ty := .i16, t0 := .slot 3 .l, t1 := .slot 7 .r }) ∧
  decodeTableWord 64 0x3380804188740000 = some (.sar { fn := 0x20, ty := .i16, t0 := .slot 3 .l, t1 := .slot 7 .r }) ∧
  decodeTableWord 64 0x3480804188740000 = some (.rotl { fn := 0x20, ty := .i16, t0 := .slot 3 .l, t1 := .slot 7 .r }) ∧
  decodeTableWord 64 0x3580804188740000 = some (.clz { fn := 0x20, ty := .i16, t0 := .slot 3 .l, t1 := .slot 7 .r }) ∧
  decodeTableWord 64 0x3680804188740000 = some (.ctz { fn := 0x20, ty := .i16, t0 := .slot 3 .l, t1 := .slot 7 .r }) ∧
  decodeTableWord 64 0x3780804188740000 = some (.popc { fn := 0x20, ty := .i16, t0 := .slot 3 .l, t1 := .slot 7 .r }) ∧
  decodeTableWord 64 0x3808404188740000 = some (.cmp { fn := 0x02, ty := .i32, t0 := .slot 3 .l, t1 := .slot 7 .r }) ∧
  decodeTableWord 64 0x3980804188740000 = some (.sel { fn := 0x20, ty := .i16, t0 := .slot 3 .l, t1 := .slot 7 .r }) ∧
  decodeTableWord 64 0x3A10404188740000 = some (.trunc { fn := 0x04, ty := .i32, t0 := .slot 3 .l, t1 := .slot 7 .r }) ∧
  decodeTableWord 64 0x3B008041887400C4 = some (.bfx { ty := .i16, t0 := .slot 3 .l, t1 := .slot 7 .r, imm := 0xC4 }) ∧
  decodeTableWord 64 0x3C008041887400C4 = some (.bfi { ty := .i16, t0 := .slot 3 .l, t1 := .slot 7 .r, imm := 0xC4 }) ∧
  decodeTableWord 64 0x3D60004188740040 = some (.addr { fn := 0x18, t0 := .slot 3 .l, t1 := .slot 7 .r, imm := 0x40 }) ∧
  decodeTableWord 64 0x3E04404188740000 = some (.imad { fn := 0x01, ty := .i32, t0 := .slot 3 .l, t1 := .slot 7 .r }) ∧
  decodeTableWord 64 0x3F80804188740000 = some (.bswap { fn := 0x20, ty := .i16, t0 := .slot 3 .l, t1 := .slot 7 .r }) := by
  and_intros <;> decide

/-- Words written out from the layouts and codes of 05 to 09: the family float. -/
theorem test_decode_float :
  decodeTableWord 64 0x40A1004188740000 = some (.fadd { fn := 0x28, ty := .f32, t0 := .slot 3 .l, t1 := .slot 7 .r }) ∧
  decodeTableWord 64 0x41A1004188740000 = some (.fsub { fn := 0x28, ty := .f32, t0 := .slot 3 .l, t1 := .slot 7 .r }) ∧
  decodeTableWord 64 0x42A1004188740000 = some (.fmul { fn := 0x28, ty := .f32, t0 := .slot 3 .l, t1 := .slot 7 .r }) ∧
  decodeTableWord 64 0x43A1004188740000 = some (.fma { fn := 0x28, ty := .f32, t0 := .slot 3 .l, t1 := .slot 7 .r }) ∧
  decodeTableWord 64 0x44A1004188740000 = some (.fdiv { fn := 0x28, ty := .f32, t0 := .slot 3 .l, t1 := .slot 7 .r }) ∧
  decodeTableWord 64 0x45A1004188740000 = some (.fsqrt { fn := 0x28, ty := .f32, t0 := .slot 3 .l, t1 := .slot 7 .r }) ∧
  decodeTableWord 64 0x4681804188740000 = some (.frcp { fn := 0x20, ty := .f16, t0 := .slot 3 .l, t1 := .slot 7 .r }) ∧
  decodeTableWord 64 0x4781804188740000 = some (.frsq { fn := 0x20, ty := .f16, t0 := .slot 3 .l, t1 := .slot 7 .r }) ∧
  decodeTableWord 64 0x4881804188740000 = some (.fexp2 { fn := 0x20, ty := .f16, t0 := .slot 3 .l, t1 := .slot 7 .r }) ∧
  decodeTableWord 64 0x4981804188740000 = some (.flog2 { fn := 0x20, ty := .f16, t0 := .slot 3 .l, t1 := .slot 7 .r }) ∧
  decodeTableWord 64 0x4A81804188740000 = some (.fexp { fn := 0x20, ty := .f16, t0 := .slot 3 .l, t1 := .slot 7 .r }) ∧
  decodeTableWord 64 0x4B81804188740000 = some (.fmin { fn := 0x20, ty := .f16, t0 := .slot 3 .l, t1 := .slot 7 .r }) ∧
  decodeTableWord 64 0x4C81804188740000 = some (.fmax { fn := 0x20, ty := .f16, t0 := .slot 3 .l, t1 := .slot 7 .r }) ∧
  decodeTableWord 64 0x4D81804188740000 = some (.fabs { fn := 0x20, ty := .f16, t0 := .slot 3 .l, t1 := .slot 7 .r }) ∧
  decodeTableWord 64 0x4E81804188740000 = some (.fneg { fn := 0x20, ty := .f16, t0 := .slot 3 .l, t1 := .slot 7 .r }) ∧
  decodeTableWord 64 0x4F81804188740000 = some (.fcpys { fn := 0x20, ty := .f16, t0 := .slot 3 .l, t1 := .slot 7 .r }) ∧
  decodeTableWord 64 0x5089404188740000 = some (.fcmp { fn := 0x22, ty := .bf16, t0 := .slot 3 .l, t1 := .slot 7 .r }) ∧
  decodeTableWord 64 0x5181804188740000 = some (.fclass { fn := 0x20, ty := .f16, t0 := .slot 3 .l, t1 := .slot 7 .r }) ∧
  decodeTableWord 64 0x52A1004188740000 = some (.frint { fn := 0x28, ty := .f32, t0 := .slot 3 .l, t1 := .slot 7 .r }) ∧
  decodeTableWord 64 0x53A1004188740000 = some (.fscalb { fn := 0x28, ty := .f32, t0 := .slot 3 .l, t1 := .slot 7 .r }) ∧
  decodeTableWord 64 0x5481804188740000 = some (.ftanh { fn := 0x20, ty := .f16, t0 := .slot 3 .l, t1 := .slot 7 .r }) ∧
  decodeTableWord 64 0x5581804188740000 = some (.fsigm { fn := 0x20, ty := .f16, t0 := .slot 3 .l, t1 := .slot 7 .r }) := by
  and_intros <;> decide

/-- Words written out from the layouts and codes of 05 to 09: the family lane. -/
theorem test_decode_lane :
  decodeTableWord 64 0x6080C04188740000 = some (.vbcast { fn := 0x20, ty := .i8, t0 := .slot 3 .l, t1 := .slot 7 .r }) ∧
  decodeTableWord 64 0x61C040418874000F = some (.vextr { fn := 0x30, ty := .i32, t0 := .slot 3 .l, t1 := .slot 7 .r, imm := 0xF }) ∧
  decodeTableWord 64 0x628040418874000F = some (.vins { fn := 0x20, ty := .i32, t0 := .slot 3 .l, t1 := .slot 7 .r, imm := 0xF }) ∧
  decodeTableWord 64 0x6380C04188740000 = some (.vperm { fn := 0x20, ty := .i8, t0 := .slot 3 .l, t1 := .slot 7 .r }) ∧
  decodeTableWord 64 0x6480C04188740000 = some (.vshuf { fn := 0x20, ty := .i8, t0 := .slot 3 .l, t1 := .slot 7 .r }) ∧
  decodeTableWord 64 0x65C040418874000F = some (.vrot { fn := 0x30, ty := .i32, t0 := .slot 3 .l, t1 := .slot 7 .r, imm := 0xF }) ∧
  decodeTableWord 64 0x6681004188740010 = some (.vslide { fn := 0x20, ty := .f32, t0 := .slot 3 .l, t1 := .slot 7 .r, imm := 0x10 }) ∧
  decodeTableWord 64 0x6786804188740000 = some (.vzip { fn := 0x21, ty := .kf4, t0 := .slot 3 .l, t1 := .slot 7 .r }) ∧
  decodeTableWord 64 0x6886804188740000 = some (.vunzip { fn := 0x21, ty := .kf4, t0 := .slot 3 .l, t1 := .slot 7 .r }) ∧
  decodeTableWord 64 0x69A1004188740000 = some (.vradd { fn := 0x28, ty := .f32, t0 := .slot 3 .l, t1 := .slot 7 .r }) ∧
  decodeTableWord 64 0x6A80C04188740000 = some (.vrmin { fn := 0x20, ty := .i8, t0 := .slot 3 .l, t1 := .slot 7 .r }) ∧
  decodeTableWord 64 0x6B80C04188740000 = some (.vrmax { fn := 0x20, ty := .i8, t0 := .slot 3 .l, t1 := .slot 7 .r }) ∧
  decodeTableWord 64 0x6C80C04188740000 = some (.vrand { fn := 0x20, ty := .i8, t0 := .slot 3 .l, t1 := .slot 7 .r }) ∧
  decodeTableWord 64 0x6D80C04188740000 = some (.vrior { fn := 0x20, ty := .i8, t0 := .slot 3 .l, t1 := .slot 7 .r }) ∧
  decodeTableWord 64 0x6E80C04188740000 = some (.vcompr { fn := 0x20, ty := .i8, t0 := .slot 3 .l, t1 := .slot 7 .r }) ∧
  decodeTableWord 64 0x6F80C04188740000 = some (.vexpnd { fn := 0x20, ty := .i8, t0 := .slot 3 .l, t1 := .slot 7 .r }) ∧
  decodeTableWord 64 0x7083004188740000 = some (.vpcnt { fn := 0x20, ty := .pred, t0 := .slot 3 .l, t1 := .slot 7 .r }) ∧
  decodeTableWord 64 0x7180C04188740000 = some (.vmask { fn := 0x20, ty := .i8, t0 := .slot 3 .l, t1 := .slot 7 .r }) := by
  and_intros <;> decide

/-- Words written out from the layouts and codes of 05 to 09: the family conversion. -/
theorem test_decode_conversion :
  decodeTableWord 64 0x788DC04188740001 = some (.cvt { fn := 0x23, ty := .kf8e, t0 := .slot 3 .l, t1 := .slot 7 .r, imm := 0x1 }) ∧
  decodeTableWord 64 0x7934804188740000 = some (.cvti { fn := 0x0D, ty := .i16, t0 := .slot 3 .l, t1 := .slot 7 .r }) ∧
  decodeTableWord 64 0x7A80004188740000 = some (.scaleg { fn := 0x20, t0 := .slot 3 .l, t1 := .slot 7 .r }) ∧
  decodeTableWord 64 0x7BC400418877FFFF = some (.scales { fn := 0x31, t0 := .slot 3 .l, t1 := .slot 7 .r, imm := 0x3FFFF }) ∧
  decodeTableWord 64 0x7C04004188740050 = some (.fmtchk { fn := 0x01, t0 := .slot 3 .l, t1 := .slot 7 .r, imm := 0x50 }) ∧
  decodeTableWord 64 0x7D0000418874007F = some (.ufrd { t0 := .slot 3 .l, t1 := .slot 7 .r, imm := 0x7F }) ∧
  decodeTableWord 64 0x7E85C04188748000 = some (.pack { fn := 0x21, ty := .kf8e, t0 := .slot 3 .l, t1 := .slot 7 .r, imm := 0x8000 }) ∧
  decodeTableWord 64 0x7F88404188778000 = some (.unpack { fn := 0x22, ty := .i32, t0 := .slot 3 .l, t1 := .slot 7 .r, imm := 0x38000 }) ∧
  decodeTableWord 64 0x8040004188740005 = some (.rng { fn := 0x10, t0 := .slot 3 .l, t1 := .slot 7 .r, imm := 0x5 }) := by
  and_intros <;> decide

/-- Words written out from the layouts and codes of 05 to 09: the family matrix. -/
theorem test_decode_matrix :
  decodeTableWord 64 0x8800004188740007 = some (.mxldbHeaderFiring { t0 := .slot 3 .l, t1 := .slot 7 .r, imm := 0x7 }) ∧
  decodeTableWord 64 0x8900C0418874001F = some (.mxrow { ty := .i8, t0 := .slot 3 .l, t1 := .slot 7 .r, imm := 0x1F }) ∧
  decodeTableWord 64 0x8A0140418874000B = some (.mxrows { ty := .bf16, t0 := .slot 3 .l, t1 := .slot 7 .r, imm := 0xB }) ∧
  decodeTableWord 64 0x8B04004188743F00 = some (.mxdrain { fn := 0x01, t0 := .slot 3 .l, t1 := .slot 7 .r, imm := 0x3F00 }) ∧
  decodeTableWord 64 0x8C01004188740003 = some (.mxclr { ty := .f32, t0 := .slot 3 .l, t1 := .slot 7 .r, imm := 0x3 }) ∧
  decodeTableWord 64 0x8D04004188740002 = some (.mxcfg { fn := 0x01, t0 := .slot 3 .l, t1 := .slot 7 .r, imm := 0x2 }) := by
  and_intros <;> decide

/-- Words written out from the layouts and codes of 05 to 09: the family memory. -/
theorem test_decode_memory :
  decodeTableWord 64 0x902C40418877FFF8 = some (.ld { fn := 0x0B, ty := .i32, t0 := .slot 3 .l, t1 := .slot 7 .r, imm := 0x3FFF8 }) ∧
  decodeTableWord 64 0x9103004188740008 = some (.st { ty := .pred, t0 := .slot 3 .l, t1 := .slot 7 .r, imm := 0x8 }) ∧
  decodeTableWord 64 0x9212404188740040 = some (.ldv { fn := 0x04, ty := .kf6, t0 := .slot 3 .l, t1 := .slot 7 .r, imm := 0x40 }) ∧
  decodeTableWord 64 0x9302804188740040 = some (.stv { ty := .kf4, t0 := .slot 3 .l, t1 := .slot 7 .r, imm := 0x40 }) ∧
  decodeTableWord 64 0x9405004188740000 = some (.gath { fn := 0x01, ty := .f32, t0 := .slot 3 .l, t1 := .slot 7 .r }) ∧
  decodeTableWord 64 0x9500C04188778000 = some (.scat { ty := .i8, t0 := .slot 3 .l, t1 := .slot 7 .r, imm := 0x38000 }) ∧
  decodeTableWord 64 0x9682C04188740001 = some (.mtld { fn := 0x20, ty := .int4, t0 := .slot 3 .l, t1 := .slot 7 .r, imm := 0x1 }) ∧
  decodeTableWord 64 0x9700004188740002 = some (.mtst { t0 := .slot 3 .l, t1 := .slot 7 .r, imm := 0x2 }) ∧
  decodeTableWord 64 0x98000041887400FF = some (.strcfg { t0 := .slot 3 .l, t1 := .slot 7 .r, imm := 0xFF }) ∧
  decodeTableWord 64 0x99000041887400FC = some (.strgo { t0 := .slot 3 .l, t1 := .slot 7 .r, imm := 0xFC }) ∧
  decodeTableWord 64 0x9904004188740004 = some (.strgoWrite { fn := 0x01, t0 := .slot 3 .l, t1 := .slot 7 .r, imm := 0x4 }) ∧
  decodeTableWord 64 0x9A04004188740003 = some (.pref { fn := 0x01, t0 := .slot 3 .l, t1 := .slot 7 .r, imm := 0x3 }) := by
  and_intros <;> decide

/-- Words written out from the layouts and codes of 05 to 09: the family atomic. -/
theorem test_decode_atomic :
  decodeTableWord 64 0xA044404188740007 = some (.aadd { fn := 0x11, ty := .i32, t0 := .slot 3 .l, t1 := .slot 7 .r, imm := 0x7 }) ∧
  decodeTableWord 64 0xA105404188740000 = some (.afadd { fn := 0x01, ty := .bf16, t0 := .slot 3 .l, t1 := .slot 7 .r }) ∧
  decodeTableWord 64 0xA244404188740007 = some (.amin { fn := 0x11, ty := .i32, t0 := .slot 3 .l, t1 := .slot 7 .r, imm := 0x7 }) ∧
  decodeTableWord 64 0xA344404188740007 = some (.amax { fn := 0x11, ty := .i32, t0 := .slot 3 .l, t1 := .slot 7 .r, imm := 0x7 }) ∧
  decodeTableWord 64 0xA444404188740007 = some (.aand { fn := 0x11, ty := .i32, t0 := .slot 3 .l, t1 := .slot 7 .r, imm := 0x7 }) ∧
  decodeTableWord 64 0xA544404188740007 = some (.aor { fn := 0x11, ty := .i32, t0 := .slot 3 .l, t1 := .slot 7 .r, imm := 0x7 }) ∧
  decodeTableWord 64 0xA644404188740007 = some (.axor { fn := 0x11, ty := .i32, t0 := .slot 3 .l, t1 := .slot 7 .r, imm := 0x7 }) ∧
  decodeTableWord 64 0xA744404188740007 = some (.axchg { fn := 0x11, ty := .i32, t0 := .slot 3 .l, t1 := .slot 7 .r, imm := 0x7 }) ∧
  decodeTableWord 64 0xA844404188740007 = some (.acas { fn := 0x11, ty := .i32, t0 := .slot 3 .l, t1 := .slot 7 .r, imm := 0x7 }) ∧
  decodeTableWord 64 0xA94400418874003F = some (.atas { fn := 0x11, t0 := .slot 3 .l, t1 := .slot 7 .r, imm := 0x3F }) ∧
  decodeTableWord 64 0xAA00004188740008 = some (.atopk { t0 := .slot 3 .l, t1 := .slot 7 .r, imm := 0x8 }) ∧
  decodeTableWord 64 0xAB24404188740000 = some (.aincb { fn := 0x09, ty := .i32, t0 := .slot 3 .l, t1 := .slot 7 .r }) := by
  and_intros <;> decide

/-- Words written out from the layouts and codes of 05 to 09: the family synchronisation. -/
theorem test_decode_synchronisation :
  decodeTableWord 64 0xB000004188740005 = some (.fence { t0 := .slot 3 .l, t1 := .slot 7 .r, imm := 0x5 }) ∧
  decodeTableWord 64 0xB100004188740001 = some (.bar { t0 := .slot 3 .l, t1 := .slot 7 .r, imm := 0x1 }) ∧
  decodeTableWord 64 0xB104004188740005 = some (.barCopy { fn := 0x01, t0 := .slot 3 .l, t1 := .slot 7 .r, imm := 0x5 }) ∧
  decodeTableWord 64 0xB200004188740000 = some (.permitTake { t0 := .slot 3 .l, t1 := .slot 7 .r }) ∧
  decodeTableWord 64 0xB204004188740000 = some (.permitGive { fn := 0x01, t0 := .slot 3 .l, t1 := .slot 7 .r }) ∧
  decodeTableWord 64 0xB300004188743FFF = some (.futreg { t0 := .slot 3 .l, t1 := .slot 7 .r, imm := 0x3FFF }) ∧
  decodeTableWord 64 0xB400004188740000 = some (.futres { t0 := .slot 3 .l, t1 := .slot 7 .r }) ∧
  decodeTableWord 64 0xB500004188740000 = some (.futwait { t0 := .slot 3 .l, t1 := .slot 7 .r }) := by
  and_intros <;> decide

/-- Words written out from the layouts and codes of 05 to 09: the family engine. -/
theorem test_decode_engine :
  decodeTableWord 64 0xB800004188740000 = some (.xcopy { t0 := .slot 3 .l, t1 := .slot 7 .r }) ∧
  decodeTableWord 64 0xB900004188740000 = some (.xfill { t0 := .slot 3 .l, t1 := .slot 7 .r }) ∧
  decodeTableWord 64 0xBA00004188740000 = some (.xgather { t0 := .slot 3 .l, t1 := .slot 7 .r }) ∧
  decodeTableWord 64 0xBB00004188740000 = some (.xcoll { t0 := .slot 3 .l, t1 := .slot 7 .r }) ∧
  decodeTableWord 64 0xBC00004188740000 = some (.rsplit { t0 := .slot 3 .l, t1 := .slot 7 .r }) ∧
  decodeTableWord 64 0xBD00004188740000 = some (.rmerge { t0 := .slot 3 .l, t1 := .slot 7 .r }) ∧
  decodeTableWord 64 0xBE00004188740000 = some (.rcompact { t0 := .slot 3 .l, t1 := .slot 7 .r }) ∧
  decodeTableWord 64 0xBF00004188740000 = some (.biasflip { t0 := .slot 3 .l, t1 := .slot 7 .r }) := by
  and_intros <;> decide

/-- Words written out from the layouts and codes of 05 to 09: the family loop. -/
theorem test_decode_loop :
  decodeTableWord 64 0xC000004188740000 = some (.rloop { t0 := .slot 3 .l, t1 := .slot 7 .r }) ∧
  decodeTableWord 64 0xC104004188740000 = some (.rsv { fn := 0x01, t0 := .slot 3 .l, t1 := .slot 7 .r }) ∧
  decodeTableWord 64 0xC108004188740000 = some (.rsvDone { fn := 0x02, t0 := .slot 3 .l, t1 := .slot 7 .r }) ∧
  decodeTableWord 64 0xC204004188740000 = some (.rchk { fn := 0x01, t0 := .slot 3 .l, t1 := .slot 7 .r }) ∧
  decodeTableWord 64 0xC300004188740000 = some (.rcommit { t0 := .slot 3 .l, t1 := .slot 7 .r }) ∧
  decodeTableWord 64 0xC400004188740000 = some (.rretry { t0 := .slot 3 .l, t1 := .slot 7 .r }) ∧
  decodeTableWord 64 0xC500004188740000 = some (.rldone { t0 := .slot 3 .l, t1 := .slot 7 .r }) ∧
  decodeTableWord 64 0xC800004188740000 = some (.btask { t0 := .slot 3 .l, t1 := .slot 7 .r }) ∧
  decodeTableWord 64 0xC90000418874003F = some (.bop { t0 := .slot 3 .l, t1 := .slot 7 .r, imm := 0x3F }) ∧
  decodeTableWord 64 0xCA00004188740000 = some (.bcommit { t0 := .slot 3 .l, t1 := .slot 7 .r }) ∧
  decodeTableWord 64 0xCB00004188740000 = some (.babort { t0 := .slot 3 .l, t1 := .slot 7 .r }) ∧
  decodeTableWord 64 0xCC00004188740000 = some (.bundo { t0 := .slot 3 .l, t1 := .slot 7 .r }) ∧
  decodeTableWord 64 0xCD00004188740000 = some (.bstat { t0 := .slot 3 .l, t1 := .slot 7 .r }) ∧
  decodeTableWord 64 0xCE00004188740000 = some (.ctload { t0 := .slot 3 .l, t1 := .slot 7 .r }) ∧
  decodeTableWord 64 0xCF00004188740FFF = some (.ctq { t0 := .slot 3 .l, t1 := .slot 7 .r, imm := 0xFFF }) := by
  and_intros <;> decide

/-- Words written out from the layouts and codes of 05 to 09: the family system. -/
theorem test_decode_system :
  decodeTableWord 64 0xD00000418874FFFF = some (.svc { t0 := .slot 3 .l, t1 := .slot 7 .r, imm := 0xFFFF }) ∧
  decodeTableWord 64 0xD100004188740001 = some (.brk { t0 := .slot 3 .l, t1 := .slot 7 .r, imm := 0x1 }) ∧
  decodeTableWord 64 0xD200004188740203 = some (.csrr { t0 := .slot 3 .l, t1 := .slot 7 .r, imm := 0x203 }) ∧
  decodeTableWord 64 0xD308004188740101 = some (.csrw { fn := 0x02, t0 := .slot 3 .l, t1 := .slot 7 .r, imm := 0x101 }) ∧
  decodeTableWord 64 0xD400004188740000 = some (.tfetch { t0 := .slot 3 .l, t1 := .slot 7 .r }) ∧
  decodeTableWord 64 0xD508004188740000 = some (.reinj { fn := 0x02, t0 := .slot 3 .l, t1 := .slot 7 .r }) ∧
  decodeTableWord 64 0xD600004188740000 = some (.tkill { t0 := .slot 3 .l, t1 := .slot 7 .r }) ∧
  decodeTableWord 64 0xD700004188740000 = some (.ctxsave { t0 := .slot 3 .l, t1 := .slot 7 .r }) ∧
  decodeTableWord 64 0xD800004188740000 = some (.ctxload { t0 := .slot 3 .l, t1 := .slot 7 .r }) ∧
  decodeTableWord 64 0xD900004188740000 = some (.shrink { t0 := .slot 3 .l, t1 := .slot 7 .r }) ∧
  decodeTableWord 64 0xDA00000000000000 = some (.halt {}) ∧
  decodeTableWord 64 0xDB00004188740100 = some (.idle { t0 := .slot 3 .l, t1 := .slot 7 .r, imm := 0x100 }) ∧
  decodeTableWord 64 0xDC00004188740000 = some (.rttw { t0 := .slot 3 .l, t1 := .slot 7 .r }) ∧
  decodeTableWord 64 0xDD00004188740000 = some (.rttr { t0 := .slot 3 .l, t1 := .slot 7 .r }) ∧
  decodeTableWord 64 0xDE04004188740000 = some (.rinv { fn := 0x01, t0 := .slot 3 .l, t1 := .slot 7 .r }) ∧
  decodeTableWord 64 0xDF00004188740000 = some (.rfence { t0 := .slot 3 .l, t1 := .slot 7 .r }) := by
  and_intros <;> decide

/-- Words written out from the layouts and codes of 05 to 09: the family format c. -/
theorem test_decode_format_c :
  decodeTableWord 64 0x0CFC40419FFFFFFE = some (.const { ty := .i32, t0 := .slot 3 .l, imm := 0x7FFFFFFFE }) ∧
  decodeTableWord 64 0x1000000007FFFFFF = some (.exit { imm := 0x7FFFFFF }) ∧
  decodeTableWord 64 0x1100004181000040 = some (.exitp { t0 := .slot 3 .l, imm := 0x1000040 }) ∧
  decodeTableWord 64 0x12FC00001FFFFFFF = some (.exitq { imm := 0x7FFFFFFFF }) ∧
  decodeTableWord 64 0x1300004182000001 = some (.spawn { t0 := .slot 3 .l, imm := 0x2000001 }) := by
  and_intros <;> decide

/-- Words written out from the layouts and codes of 05 to 09: the family extension. -/
theorem test_decode_extension :
  decodeTableWord 64 0xE0FF004188740007 = some (.extensionOpcode 0 { fn := 0x3F, ty := .pred, t0 := .slot 3 .l, t1 := .slot 7 .r, imm := 0x7 }) ∧
  decodeTableWord 64 0xFF0000000003FFFF = some (.extensionOpcode 31 { imm := 0x3FFFF }) := by
  and_intros <;> decide

/-- Words of an unassigned opcode, a reserved type, reserved flags, a target outside the table of R107, and fields that ADD leaves unused are refused (05 R106-R110 R113). -/
theorem test_decode_refusals : ∀ w ∈ [0x0000000000000000, 0x1E00000000000000, 0x8F00000000000000, 0x2003804480000000, 0x2003C04480000000, 0x2000414480000000, 0x20004C4480000000, 0x20004044E0000000,
    0x2000408800000000, 0x200040CC00000000, 0x2000400080000000, 0x0500000000000001, 0x2000404480000001], decodeTableWord 64 w = none := by decide

/-! ### Small states -/

/-- An instruction at index 0 of bank 0, tile 0, core 0, with operands in its latches; its block belongs to launch 1 of partition 0. -/
def one (l r p : Option Token) (ost : OpState := .none) : State :=
  { State.reset with banks := [(0, { st := 1, lk := 1, elems := [(0, { l := { latch := l }, r := { latch := r }, p := { latch := p }, ost := ost })] })] }

/-- The same, with the word w at index 0 and more words of its block. -/
def block (ws : Map Word64) (l r p : Option Token) : State :=
  { State.reset with banks := [(0, { st := 1, lk := 1, words := ws, elems := [(0, { l := { latch := l }, r := { latch := r }, p := { latch := p } })] })] }

/-- Partition 0 with a running launch 1 on core 0, whose faults are diverted. -/
def live (s : State) : State :=
  { s with parts := [(0, { cores := [0], en := true, launches := [(1, { lid := 1, img := 0, size := 1, cores := [0] })] })], cores := [(0, { lk := some 1 })] }

/-- A scalar of i32. -/
def i32 (n : Int) : Token := scalarTok .i32 (ofInt 32 n)
/-- A vector of a format. -/
def vec (f : Fmt) (cs : List Nat) : Token := mkTok f true 127 cs
/-- An address. -/
def addr (n : Nat) : Token := z64Tok n
/-- A vector of pred. -/
def preds (bits : Nat) : Token := { pay := BitVec.ofNat 512 bits, tag := 0x20, v := true }
/-- A thread token. -/
def thread (word : Nat) : Token := { pay := BitVec.ofNat 512 word, tag := 0x21 }

/-- The checks of CanFire. -/
def fires (s : State) (fl : Flags) (need : Slots) : Bool :=
  !s.firing.el.held && stageFree s.firing.el s.fc && ready (s.operands need) need && !breaks fl s.firing.el

theorem fires_ok {s : State} {fl : Flags} {need : Slots} (h : fires s fl need = true) : s.CanFire fl need := by
  simp only [fires, Bool.and_eq_true, Bool.not_eq_true'] at h
  exact ⟨h.1.1.1, h.1.1.2, h.1.2, h.2⟩

/-- The checks of Runs. -/
def runs (s : State) (fl : Flags) (v : Bool) (need : Slots) (pr : Predicate) : Bool :=
  fires s fl (withPm fl need) && (s.operands (withPm fl need)).poison.isNone && predicate fl.pm v (s.operands (withPm fl need)).p == pr &&
    (match pr with
     | .run _ _ => true
     | .skip => false
     | .trap => false)

theorem runs_ok {s : State} {fl : Flags} {v : Bool} {need : Slots} {pr : Predicate} (h : runs s fl v need pr = true) : s.Runs fl v need pr := by
  simp only [runs, Bool.and_eq_true] at h
  refine ⟨fires_ok h.1.1.1, by simpa using h.1.1.2, ?_⟩
  cases pr with
  | run a b => exact ⟨a, b, rfl, by simpa using h.1.2⟩
  | skip => simp at h
  | trap => simp at h

/-- The checks of Pair. -/
def pairs (s : State) (o : OpA) (u : Bool) (cls : List Ty) (f : Fmt) (l r : Token) : Bool :=
  (s.operands (withPm o.fl { l := true, r := !o.i })).l == some l && formatOf o u cls l == some f &&
    secondOf o (u || (o.ty == .tf && !f.signed)) f (s.operands (withPm o.fl { l := true, r := !o.i })).r == some r && typed o l o.v l && (o.i || typed o l o.v r)

theorem pairs_ok {s : State} {o : OpA} {u : Bool} {cls : List Ty} {f : Fmt} {l r : Token} (h : pairs s o u cls f l r = true) : Pair s o u cls f l r := by
  simp only [pairs, Bool.and_eq_true, beq_iff_eq] at h
  exact ⟨h.1.1.1.1, h.1.1.1.2, h.1.1.2, h.1.2, h.2⟩

/-- The checks of Single. -/
def singles (s : State) (o : OpA) (u : Bool) (cls : List Ty) (f : Fmt) (l : Token) : Bool :=
  (s.operands (withPm o.fl needL)).l == some l && formatOf o u cls l == some f && typed o l o.v l

theorem singles_ok {s : State} {o : OpA} {u : Bool} {cls : List Ty} {f : Fmt} {l : Token} (h : singles s o u cls f l = true) : Single s o u cls f l := by
  simp only [singles, Bool.and_eq_true, beq_iff_eq] at h
  exact ⟨h.1.1, h.1.2, h.2⟩

/-- The checks of VecL. -/
def vecLs (s : State) (o : OpA) (need : Slots) (cls : List Ty) (f : Fmt) (l : Token) : Bool :=
  (s.operands (withPm o.fl need)).l == some l && (formatOf o false cls l).isSome && l.fmt == some f && typed o l true l

theorem vecLs_ok {s : State} {o : OpA} {need : Slots} {cls : List Ty} {f : Fmt} {l : Token} (h : vecLs s o need cls f l = true) : VecL s o need cls f l := by
  simp only [vecLs, Bool.and_eq_true, beq_iff_eq] at h
  exact ⟨h.1.1.1, h.1.1.2, h.1.2, h.2⟩

/-- The checks of Accesses. -/
def accesses (s : State) (fl : Flags) (need : Slots) : Bool :=
  fires s fl (s.accessNeed need) && (s.operands (s.accessNeed need)).poison.isNone && orderOk (s.operands (s.accessNeed need)).p

theorem accesses_ok {s : State} {fl : Flags} {need : Slots} (h : accesses s fl need = true) : s.Accesses fl need := by
  simp only [accesses, Bool.and_eq_true] at h
  exact ⟨fires_ok h.1.1, by simpa [State.accessNeed] using h.1.2, h.2⟩

/-- The checks of Translated. -/
def translated (s : State) (rd wr : Bool) (as : List (Nat × Nat × Nat)) (ps : List Part) : Bool :=
  s.translateAll s.cur.core s.firing.part (!isPriv s.firing.b) rd wr as == .ok ps && !s.viewFull s.firing.lk ps

theorem translated_ok {s : State} {rd wr : Bool} {as : List (Nat × Nat × Nat)} {ps : List Part} (h : translated s rd wr as ps = true) : s.Translated rd wr as ps := by
  simp only [translated, Bool.and_eq_true, beq_iff_eq, Bool.not_eq_true'] at h
  exact ⟨h.1, h.2⟩

/-- The checks of Diverts. -/
def diverts (s : State) : Bool := (s.part s.firing.part).en && !isSysBank (siteKey s.cur) && s.portRoom s.cur.core

theorem diverts_ok {s : State} (h : diverts s = true) : s.Diverts := by
  simp only [diverts, Bool.and_eq_true, Bool.not_eq_true'] at h
  exact ⟨h.1.1, h.1.2, h.2⟩

/-- An image at 4,096: one variant of one core, one load, the block 3 with port 0 and an entry queue, the queue in tile 2. -/
def image : Memory :=
  writeBytes (writeBytes (writeBytes (writeBytes [] 4104 [255, 255, 0, 0, 1, 0, 0, 0, 64, 0, 0, 0]) 4160 [1, 0, 1, 0, 96]) 4192 [1, 0, 1, 0, 0, 0, 0, 0, 128, 0, 0, 0, 136])
    4224 [3, 0, 0, 0, 0, 0, 0, 0, 0, 0x79, 0, 0, 0, 0, 0, 0]

/-- Its block. -/
def imageBlock : Memory := writeBytes image (4096 + 192) (leBytes 8 0xB7 ++ leBytes 8 (2 ^ 43 + 15) ++ leBytes 8 0x0600000000000000)

/-- A range from 0 to 65,536 that everyone may read and write. -/
def range0 : List Nat := [0, 65536, 0, 0, 65536, 7, 0, 0]

/-- Partition 0 with the launch 1 of that image on core 0, its own memory from 0 to 2^20, and the range in entry 0 of the core's table. -/
def placed (s : State) : State :=
  { s with
    mem := imageBlock
    parts := [(0, { cores := [0], en := true, shareB := [0, 0, 0, 0], shareS := [2 ^ 20, 0, 0, 0], slices := [1, 0, 0, 0],
                    launches := [(1, { lid := 1, img := 4096, size := 1, cores := [0] })] })]
    cores := [(0, { lk := some 1, rtt := [(0, { words := range0, lock := false, used := 0 })] })]
    mtiles := [(2, { cfg := .fifo 16 1 })] }

/-- A part of an access in that range. -/
def piece (a n : Nat) (off : Nat := 0) : Part := { space := .dev, addr := a, size := n, off := off, prog := a }


/-- The same with a directory of one pinned range, from 0 to 65,536 of device memory. -/
def pinnedDir (s : State) : State :=
  { s with
    mem := writeBytes s.mem 8192 ([0, 65536, 0, 0, 65536, 0x47, 0, 0].flatMap (leBytes 8))
    parts := [(0, { s.part 0 with rdirBase := 8192, rdirCnt := 1, rdirCap := 1 })] }

/-! ### Witnesses of the statements -/

/-! ### Witnesses: states and operands that meet the hypotheses of the statements, clause by clause -/

theorem all_ok {α : Type} {xs : List α} {b : α → Bool} {P : α → Prop} (f : ∀ x, b x = true → P x) (h : xs.all b = true) : ∀ x ∈ xs, P x :=
  fun x hx => f x (List.all_eq_true.mp h x hx)

theorem both {a b : Bool} (h : (a && b) = true) : a = true ∧ b = true := by simpa using h

/-- Two operands of an instruction that reads a typed pair. -/
abbrev PairRuns (o : OpA) (u : Bool) (cls : List Ty) (f : Fmt) (pr : Predicate) (p : Option Token) (x : Token × Token) : Prop :=
  (one (some x.1) (some x.2) p).Runs o.fl o.v { l := true, r := !o.i } pr ∧ Pair (one (some x.1) (some x.2) p) o u cls f x.1 x.2

theorem pair_runs {o : OpA} {u : Bool} {cls : List Ty} {f : Fmt} {pr : Predicate} {p : Option Token} {xs : List (Token × Token)}
    (h : xs.all (fun x => runs (one (some x.1) (some x.2) p) o.fl o.v { l := true, r := !o.i } pr && pairs (one (some x.1) (some x.2) p) o u cls f x.1 x.2) = true) :
    ∀ x ∈ xs, PairRuns o u cls f pr p x :=
  all_ok (fun _ h => ⟨runs_ok (both h).1, pairs_ok (both h).2⟩) h

/-- One operand of an instruction that reads a typed operand. -/
abbrev SingleRuns (o : OpA) (u : Bool) (cls : List Ty) (f : Fmt) (pr : Predicate) (p : Option Token) (x : Token) : Prop :=
  (one (some x) none p).Runs o.fl o.v needL pr ∧ Single (one (some x) none p) o u cls f x

theorem single_runs {o : OpA} {u : Bool} {cls : List Ty} {f : Fmt} {pr : Predicate} {p : Option Token} {xs : List Token}
    (h : xs.all (fun x => runs (one (some x) none p) o.fl o.v needL pr && singles (one (some x) none p) o u cls f x) = true) : ∀ x ∈ xs, SingleRuns o u cls f pr p x :=
  all_ok (fun _ h => ⟨runs_ok (both h).1, singles_ok (both h).2⟩) h

/-- Sums at both bounds, the four corners of a division, and a vector of which PM runs one lane. -/
theorem witness_integer_arithmetic :
    (∀ x ∈ [(i32 7, i32 (-3)), (i32 0x7FFFFFFF, i32 0x7FFFFFFF), (i32 (-0x80000000), i32 (-1)), (i32 7, i32 0), (i32 0, i32 0)], PairRuns { ty := .i32 } false intCls .i32 (.run true 0) none x) ∧
    ∀ x ∈ [(vec .i32 [1, 2], vec .i32 [3, 0])], PairRuns { fn := 0x20, ty := .i32, fl := { pm := .onTrue } } false intCls .i32 (.run false 2) (some (preds 2)) x :=
  ⟨pair_runs (by decide +kernel), pair_runs (by decide +kernel)⟩

theorem witness_logic_and_shifts :
    (∀ x ∈ [(i32 (-1), i32 5)], PairRuns { ty := .i32 } false bitsCls .i32 (.run true 0) none x) ∧
    (∀ x ∈ [(i32 (-1), i32 0), (i32 (-1), i32 31), (i32 (-1), i32 32)], PairRuns { ty := .i32 } false intCls .i32 (.run true 0) none x) ∧
    (∀ x ∈ [i32 (-0x80000000), i32 0, i32 0x12345678], SingleRuns { ty := .i32 } false intCls .i32 (.run true 0) none x) ∧
    (∀ x ∈ [predTok true], SingleRuns { ty := .pred } false bitsCls .pred (.run true 0) none x) ∧ intCls.contains Fmt.i32.ty = true ∧ Fmt.i32.width % 8 = 0 :=
  ⟨pair_runs (by decide +kernel), pair_runs (by decide +kernel), single_runs (by decide +kernel), single_runs (by decide +kernel), by decide, by decide⟩

/-- Every condition of CMP; SEL with a scalar and with a vector P. -/
theorem witness_comparison_and_selection :
    (∀ x ∈ [(i32 3, i32 3), (i32 (-4), i32 3)], ∀ c ∈ List.range 6, PairRuns { fn := BitVec.ofNat 6 (2 * c), ty := .i32 } false intCls .i32 (.run true 0) none x ∧
      (BitVec.ofNat 6 (2 * c)).toNat / 2 % 8 = c) ∧
    6 ≤ (12 : BitVec 6).toNat / 2 % 8 ∧
    (∀ p ∈ [predTok true, predTok false], (one (some (i32 1)) (some (i32 2)) (some p)).Runs {} false { l := true, r := true, p := true } (.run true 0) ∧ isPred p = true ∧ p.v = false ∧
      selOk { ty := .i32 } (i32 1) (i32 1) = true ∧ selOk { ty := .i32 } (i32 1) (i32 2) = true) ∧
    ((one (some (vec .i32 [1])) (some (vec .i32 [2])) (some (preds 1))).Runs {} true { l := true, r := true, p := true } (.run true 0) ∧ (preds 1).v = true ∧
      selOk { fn := 0x20, ty := .i32 } (vec .i32 [1]) (vec .i32 [2]) = true ∧ (vec .i32 [1]).fmt = some .i32) := by
  refine ⟨fun x hx c hc => ⟨?_, ?_⟩, by decide, all_ok (b := fun p => runs (one (some (i32 1)) (some (i32 2)) (some p)) {} false { l := true, r := true, p := true } (.run true 0) && isPred p && !p.v)
    (fun p h => ⟨runs_ok (both (both h).1).1, (both (both h).1).2, by simpa using (both h).2, by decide +kernel, by decide +kernel⟩) (by decide +kernel),
    runs_ok (by decide +kernel), by decide +kernel, by decide +kernel, by decide +kernel⟩
  · have h : ∀ c ∈ List.range 6, ∀ x ∈ [(i32 3, i32 3), (i32 (-4), i32 3)], PairRuns { fn := BitVec.ofNat 6 (2 * c), ty := .i32 } false intCls .i32 (.run true 0) none x :=
      all_ok (fun c h => pair_runs h) (by decide +kernel)
    exact h c hc x hx
  · have h : ∀ c ∈ List.range 6, (BitVec.ofNat 6 (2 * c)).toNat / 2 % 8 = c := by decide
    exact h c hc

/-- The narrowest target of TRUNC, a field of one bit and one of the whole width, each scale of ADDR, and the three operands of IMAD. -/
theorem witness_fields_and_addresses :
    (∀ x ∈ [i32 (-1)], SingleRuns { fn := 12, ty := .i32 } false [.i64, .i32, .i16, .i8, .int4] .i32 (.run true 0) none x) ∧ fmtOf .int4 false = some .int4 ∧ Fmt.int4.width < Fmt.i32.width ∧
    (∀ n ∈ [0, 31, 0x7C0], (∀ x ∈ [i32 (-1)], SingleRuns { ty := .i32, imm := BitVec.ofNat 18 n } false intCls .i32 (.run true 0) none x) ∧ n % 64 + (n / 64 % 64 + 1) ≤ 32) ∧
    (∀ x ∈ [(i32 (-1), i32 2)], PairRuns { ty := .i32, imm := 0x7C0 } false intCls .i32 (.run true 0) none x) ∧
    (∀ m ∈ List.range 4, ∀ x ∈ [(addr (2 ^ 64 - 1), addr 1)], PairRuns { fn := BitVec.ofNat 6 (4 * m + 1) } true [.i64] .z64 (.run true 0) none x) ∧
    ((one (some (i32 2)) (some (i32 3)) (some (i32 4))).Runs {} false { l := true, r := true, p := true } (.run true 0) ∧ (i32 4).tag = (i32 2).tag ∧ scaleOk (i32 4) = true) :=
  ⟨single_runs (by decide +kernel), by decide, by decide,
    all_ok (b := fun n => [i32 (-1)].all (fun x => runs (one (some x) none none) {} false needL (.run true 0) && singles (one (some x) none none) { ty := .i32, imm := BitVec.ofNat 18 n } false intCls .i32 x) &&
      decide (n % 64 + (n / 64 % 64 + 1) ≤ 32)) (fun _ h => ⟨single_runs (both h).1, by simpa using (both h).2⟩) (by decide +kernel),
    pair_runs (by decide +kernel), all_ok (fun _ h => pair_runs h) (by decide +kernel), runs_ok (by decide +kernel), by decide +kernel, by decide +kernel⟩

/-- FP32 operands: a division by 0, an infinity, a NaN, and the three operands of FMA. -/
theorem witness_floating_point :
    (∀ x ∈ [(scalarTok .f32 0x3F800000, scalarTok .f32 0x40000000), (scalarTok .f32 0x3F800000, scalarTok .f32 0), (scalarTok .f32 0x7F800000, scalarTok .f32 0x7FC00000)],
      PairRuns { ty := .f32 } false fltCls .f32 (.run true 0) none x) ∧
    ((one (some (scalarTok .f32 0x3F800000)) (some (scalarTok .f32 0x3F800000)) (some (scalarTok .f32 0x3F800000))).Runs {} false { l := true, r := true, p := true } (.run true 0)) ∧
    (∀ x ∈ [scalarTok .f32 0xBF800000, scalarTok .f32 0, scalarTok .f32 0x7FC00000], SingleRuns { ty := .f32 } false fltCls .f32 (.run true 0) none x ∧ x.scale ≠ 255) ∧
    ((one (some (scalarTok .f32 0x3F800000)) (some (i32 (-3))) none).Runs {} false { l := true, r := true } (.run true 0) ∧ dataOk .i32 false (i32 (-3)) = true) ∧
    (∀ x ∈ [scalarTok .f32 0x7F800000, scalarTok .f32 0xFF800000, scalarTok .f32 0x7FC00000], SingleRuns { ty := .f32 } false fltCls .f32 (.run true 0) none x) ∧
    (valueAt .f32 (scalarTok .f32 0x7F800000) 0).1 = .inf false ∧ (valueAt .f32 (scalarTok .f32 0xFF800000) 0).1 = .inf true ∧ (valueAt .f32 (scalarTok .f32 0x7FC00000) 0).1 = .nan ∧
    (valueAt .f32 (scalarTok .f32 0xBF800000) 0).1 = .fin true 8388608 (-23) false :=
  ⟨pair_runs (by decide +kernel), runs_ok (by decide +kernel),
    all_ok (b := fun x => runs (one (some x) none none) {} false needL (.run true 0) && singles (one (some x) none none) { ty := .f32 } false fltCls .f32 x && decide (x.scale ≠ 255))
      (fun _ h => ⟨⟨runs_ok (both (both h).1).1, singles_ok (both (both h).1).2⟩, by simpa using (both h).2⟩) (by decide +kernel),
    ⟨runs_ok (by decide +kernel), by decide +kernel⟩, single_runs (by decide +kernel), by decide +kernel, by decide +kernel, by decide +kernel, by decide +kernel⟩

/-- The lane moves on an i64 vector: the first and the last lane, an index on R, a list of lanes, a mask, a list for VSHUF. -/
theorem witness_lane_moves :
    ((one (some (addr 9)) none none).Runs {} true needL (.run true 0) ∧ typed { fn := 0x20 } (addr 9) false (addr 9) = true ∧ (addr 9).fmt = some .z64) ∧
    (∀ n ∈ [0, 7], (one (some (vec .i64 [1, 2])) none none).Runs {} true { l := true } (.run true 0) ∧
      VecL (one (some (vec .i64 [1, 2])) none none) { fn := 0x30, imm := BitVec.ofNat 18 n } { l := true } anyCls .i64 (vec .i64 [1, 2]) ∧ n < Fmt.i64.lanes) ∧
    ((one (some (vec .i64 [1, 2])) (some (i32 9)) none).Runs {} true needLR (.run true 0) ∧ VecL (one (some (vec .i64 [1, 2])) (some (i32 9)) none) { fn := 0x20 } needLR anyCls .i64 (vec .i64 [1, 2]) ∧
      isW32 (i32 9) = true) ∧
    ((one (some (vec .i64 [1])) (some (scalarTok .i64 5)) none).Runs {} true needLR (.run true 0) ∧ VecL (one (some (vec .i64 [1])) (some (scalarTok .i64 5)) none) { fn := 0x20, imm := 7 } needLR anyCls .i64 (vec .i64 [1])) ∧
    ((one (some (vec .i64 [1])) (some (preds 0x81)) none).Runs {} true needLR (.run true 0) ∧ VecL (one (some (vec .i64 [1])) (some (preds 0x81)) none) { fn := 0x20 } needLR anyCls .i64 (vec .i64 [1]) ∧
      isPred (preds 0x81) = true) ∧
    ((one (some (vec .i64 [1])) (some (vec .i8 [7])) none).Runs {} true needLR (.run true 0) ∧ VecL (one (some (vec .i64 [1])) (some (vec .i8 [7])) none) { fn := 0x20 } needLR permCls .i64 (vec .i64 [1]) ∧
      isBytes (vec .i8 [7]) = true) ∧
    ((one (some (vec .i64 [1])) (some (vec .i64 [2])) none).Runs {} true needLR (.run true 0) ∧ VecL (one (some (vec .i64 [1])) (some (vec .i64 [2])) none) { fn := 0x20, imm := 8 } needLR anyCls .i64 (vec .i64 [1]) ∧
      scaleOk (vec .i64 [2]) = true ∧ (8 : BitVec 18).toNat ≤ Fmt.i64.lanes) ∧
    ((one (some (vec .i64 [1])) (some (vec .i64 [2])) (some (vec .i8 [15]))).Runs {} true { l := true, r := true, p := true } (.run true 0) ∧
      VecL (one (some (vec .i64 [1])) (some (vec .i64 [2])) (some (vec .i8 [15]))) { fn := 0x20 } { l := true, r := true, p := true } permCls .i64 (vec .i64 [1]) ∧ isBytes (vec .i8 [15]) = true) ∧
    ((one (some (preds 5)) none none).Runs {} true needL (.run true 0) ∧ isPred (preds 5) = true ∧ (preds 5).v = true) ∧ ((one (some (i32 3)) none none).Runs {} true needL (.run true 0) ∧ isW32 (i32 3) = true) :=
  ⟨⟨runs_ok (by decide +kernel), by decide +kernel, by decide +kernel⟩,
    all_ok (b := fun n => runs (one (some (vec .i64 [1, 2])) none none) {} true { l := true } (.run true 0) &&
      vecLs (one (some (vec .i64 [1, 2])) none none) { fn := 0x30, imm := BitVec.ofNat 18 n } { l := true } anyCls .i64 (vec .i64 [1, 2]) && decide (n < Fmt.i64.lanes))
      (fun _ h => ⟨runs_ok (both (both h).1).1, vecLs_ok (both (both h).1).2, by simpa using (both h).2⟩) (by decide +kernel),
    ⟨runs_ok (by decide +kernel), vecLs_ok (by decide +kernel), by decide +kernel⟩, ⟨runs_ok (by decide +kernel), vecLs_ok (by decide +kernel)⟩,
    ⟨runs_ok (by decide +kernel), vecLs_ok (by decide +kernel), by decide +kernel⟩, ⟨runs_ok (by decide +kernel), vecLs_ok (by decide +kernel), by decide +kernel⟩,
    ⟨runs_ok (by decide +kernel), vecLs_ok (by decide +kernel), by decide +kernel, by decide +kernel⟩, ⟨runs_ok (by decide +kernel), vecLs_ok (by decide +kernel), by decide +kernel⟩,
    ⟨runs_ok (by decide +kernel), by decide +kernel, by decide +kernel⟩, ⟨runs_ok (by decide +kernel), by decide +kernel⟩⟩

theorem witness_reductions :
    (∀ x ∈ [vec .i64 [1, 2 ^ 64 - 1]], (one (some x) none none).Runs {} true needL (.run true 0) ∧ typed { fn := 0x20 } x true x = true ∧ x.scale = 127 ∧
      formatOf { fn := 0x20 } false bitsCls x = some .i64 ∧ formatOf { fn := 0x20 } false (intCls ++ fltCls) x = some .i64) ∧
    (one (some (vec .i64 [1, 2])) none (some (preds 1))).Runs { pm := .onTrue } true needL (.run false 1) :=
  ⟨all_ok (b := fun x => runs (one (some x) none none) {} true needL (.run true 0) && typed { fn := 0x20 } x true x && (x.scale == 127) &&
      (formatOf { fn := 0x20 } false bitsCls x == some .i64) && (formatOf { fn := 0x20 } false (intCls ++ fltCls) x == some .i64))
      (fun _ h => by
        simp only [Bool.and_eq_true, beq_iff_eq] at h
        exact ⟨runs_ok h.1.1.1.1, h.1.1.1.2, h.1.1.2, h.1.2, h.2⟩) (by decide +kernel), runs_ok (by decide +kernel)⟩

/-- CVT in its four modes, at the ends of the range of scales, and CVTI of a vector under a mask. -/
theorem witness_conversions :
    (let x := scalarTok .f32 0x3F800000
     (one (some x) none none).Runs {} false { l := true, r := false } (.run true 0) ∧ convOk false x = some .f32 ∧ fmtOf .kf8e false = some .kf8e ∧
       (∀ t ∈ [0, 254], (BitVec.ofNat 18 t).toNat % 256 = t) ∧ autoScale .kf8e (streamOf { fn := 3, ty := .kf8e } (one (some x) none none).here.ost).2 [(valueAt .f32 x 0).1] ≤ 254) ∧
    (let x := scalarTok .f32 0x3F800000
     (one (some x) (some (i32 254)) none).Runs {} false { l := true, r := true } (.run true 0) ∧ isW32 (i32 254) = true ∧ (i32 254).low32 = 254) ∧
    (let x := vec .kf8e [0x38]
     (one (some x) none (some (preds 1))).Runs { pm := .onTrue } true needL (.run false 1) ∧ convOk true x = some .kf8e ∧ partOk Fmt.kf8e.lanes Fmt.i16.lanes 1 = true ∧ fmtOf .i16 false = some .i16) := by
  and_intros <;> first | exact runs_ok (by decide +kernel) | decide +kernel

theorem witness_formats_and_draws :
    ((one (some (i32 1)) none none).Runs {} false needL (.run true 0) ∧ (one (some (i32 1)) none none).firing.round ≤ (one (some (i32 1)) none none).firing.b.mpass ∧
      ((i32 1).tag.toNat == (2 : BitVec 18).toNat % 64 && (bitAt (2 : BitVec 18).toNat 7 || (i32 1).v == bitAt (2 : BitVec 18).toNat 6)) = true) ∧
    (let x := scalarTok .f32 0x3F800000
     (∀ k ∈ [0, 254], (one (some x) (some (i32 k)) none).Runs {} false { l := true, r := true } (.run true 0) ∧ isW32 (i32 k) = true) ∧ x.fmt = some .f32 ∧ x.scale ≠ 255) ∧
    ((one (some (addr 1)) (some (addr 5)) none).Runs {} false { l := true, r := true } (.run true 0) ∧ isAddr (addr 1) = true ∧ isAddr (addr 5) = true) ∧
    (let x := vec .i64 [1, 2]
     (one (some x) (some x) none).Runs {} true needLR (.run true 0) ∧ x.fmt = some .i64 ∧ typed { fn := 0x20 } x true x = true) := by
  refine ⟨?_, ⟨all_ok (b := fun k => runs (one (some (scalarTok .f32 0x3F800000)) (some (i32 k)) none) {} false { l := true, r := true } (.run true 0) && isW32 (i32 k))
    (fun _ h => ⟨runs_ok (both h).1, (both h).2⟩) (by decide +kernel), ?_⟩, ?_, ?_⟩ <;> and_intros <;> first | exact runs_ok (by decide +kernel) | decide +kernel

/-- A poisoned i32: bits 7:0 of its payload are the fault code. -/
def poisoned (code : Nat) : Token := { i32 (code : Int) with poison := true }

/-- Poison in each of the three slots; a scalar P that PM does not match. -/
theorem witness_poison_and_predication :
    ((one (some (poisoned 3)) (some (i32 1)) none).CanFire {} { l := true, r := true } ∧ (one (some (i32 1)) (some (poisoned 3)) none).CanFire {} { l := true, r := true } ∧ (poisoned 3).poison = true ∧
      (i32 1).poison = false ∧ toRegister (one (some (poisoned 3)) (some (i32 1)) none).firing.b 0 = false ∧ toRegister (one (some (i32 1)) (some (poisoned 3)) none).firing.b 0 = false) ∧
    (one (some (i32 1)) (some (i32 2)) (some { predTok true with poison := true })).CanFire { pm := .onTrue } { l := true, r := true, p := true } ∧ fmtOf .i32 false = some .i32 ∧
    (let s := one (some (i32 1)) (some (i32 2)) (some (predTok false))
     isPred (predTok false) = true ∧ (predTok false).v = false ∧ (predTok false).truth ≠ (PM.onTrue == PM.onTrue) ∧ s.CanFire { pm := .onTrue } { l := true, r := true, p := true } ∧
       (s.operands { l := true, r := true, p := true }).poison = none ∧ s.CanFire { pm := .onTrue } { l := true, p := true } ∧ (s.operands { l := true, p := true }).poison = none) := by
  and_intros <;> first | exact fires_ok (by decide +kernel) | decide +kernel

/-- An L of 0 and one that the reserved scale makes 0, each with R empty. -/
theorem witness_early_firing : ∀ x ∈ [i32 0, { i32 7 with scale := 255 }],
    let s := block [(0, 0xB004400000000000), (1, 0x2000404020000000)] (some x) none none
    s.here.held = false ∧ stageFree s.here s.fc = true ∧ s.firing.ops.l = some x ∧ s.firing.ops.r = none ∧ fmtOf .i32 false = some .i32 ∧ toRegister s.firing.b s.cur.idx = false ∧
      x.fmt = some .i32 ∧ x.v = false ∧ x.poison = false ∧ Fmt.i32.isInt = true ∧ scaleOk x = true ∧ (codeAt .i32 x 0).1 = 0 ∧ antiCanLeave s.firing.b s.cur.idx .r = true := by decide +kernel

/-- P true and P false for STEER and MERGE, an order token for ORDF, and two for ORDJ. -/
theorem witness_steering :
    (∀ p ∈ [predTok true, predTok false], (one (some (i32 1)) none (some p)).Runs {} false needLP (.run true 0) ∧ isScalarPred p = true ∧ routeOk .i32 (i32 1) = true) ∧
    ((one (some (i32 1)) none (some (predTok true))).Runs {} false { l := true, p := true } (.run true 0) ∧ (one none (some (i32 1)) (some (predTok false))).Runs {} false { r := true, p := true } (.run true 0) ∧
      (one (some (i32 1)) (some (i32 2)) (some (predTok false))).Runs { e := true } false { l := true, r := true, p := true } (.run true 0)) ∧
    ((one (some (i32 1)) none none).Runs {} false needL (.run true 0) ∧ tagNamed (i32 1) = true ∧ (i32 1).tag ≠ 0 ∧ ((i32 1).fmt.isNone || scaleOk (i32 1)) = true) ∧
    (let x := orderTok ⟨1, 2, 3, 4⟩
     (one (some x) none none).CanFire {} needL ∧ isOrder x = true ∧ x.poison = false ∧ (one (some x) (some x) (some x)).CanFire {} { l := true, r := true, p := true } ∧ (one (some x) (some x) none).CanFire {} { l := true, r := true }) := by
  refine ⟨all_ok (b := fun p => runs (one (some (i32 1)) none (some p)) {} false needLP (.run true 0) && isScalarPred p && routeOk .i32 (i32 1))
    (fun _ h => ⟨runs_ok (both (both h).1).1, (both (both h).1).2, (both h).2⟩) (by decide +kernel), ?_⟩
  and_intros <;> first | exact runs_ok (by decide +kernel) | exact fires_ok (by decide +kernel) | decide +kernel

/-- Idle and active, with P true, false and poisoned. -/
theorem witness_loop_operators :
    ((one (some (i32 1)) none none).CanFire {} needL ∧ routeOk .i32 (i32 1) = true ∧ (one (some (i32 1)) none none).here.ost = .none) ∧
    (∀ p ∈ [predTok true, predTok false], (one none (some (i32 2)) (some p) (.carry true)).CanFire {} { r := p.truth, p := true } ∧ isScalarPred p = true ∧ p.poison = false ∧
      (one none none (some p) (.invar (some (i32 3)))).CanFire {} { p := true }) ∧
    (let x : Token := { predTok true with poison := true }
     (live (one none none (some x) (.carry true))).Diverts ∧ (live (one none none (some x) (.carry true))).CanFire {} { p := true } ∧ (live (one none none (some x) (.invar (some (i32 3))))).CanFire {} { p := true } ∧ x.poison = true) ∧
    (mget ({ lid := 1, img := 0, size := 1, cores := [0] } : Launch).working (workKey 0 3) = none ∧ (⟨0, 1, 1, 2⟩ : Place').tile = (⟨0, 1, 1, 2⟩ : Place').tile2) :=
  ⟨⟨fires_ok (by decide +kernel), by decide +kernel, by decide +kernel⟩,
    all_ok (b := fun p => fires (one none (some (i32 2)) (some p) (.carry true)) {} { r := p.truth, p := true } && isScalarPred p && !p.poison && fires (one none none (some p) (.invar (some (i32 3)))) {} { p := true })
      (fun _ h => ⟨fires_ok (both (both (both h).1).1).1, (both (both (both h).1).1).2, by simpa using (both (both h).1).2, fires_ok (both h).2⟩) (by decide +kernel),
    ⟨diverts_ok (by decide +kernel), fires_ok (by decide +kernel), fires_ok (by decide +kernel), rfl⟩, by decide, rfl⟩

/-- No credit left and a credit beyond the largest count; the last and another element of a group, and a group of 0. -/
theorem witness_gate_and_count :
    (∀ c ∈ [0, 1, 0xFFFFFFFF], let s := one (some (i32 1)) (some (i32 (-1))) (some (predTok true)) (.gate c)
      s.here.ost = .gate c ∧ s.here.held = false ∧ isW32 (i32 (-1)) = true ∧ s.CanFire {} needLP ∧ isScalarPred (predTok true) = true) ∧
    (∀ n ∈ [0, 1, 2], let s := (live (one (some (i32 1)) (some (i32 n)) (some (predTok true)) (.count 0)))
      s.here.ost = .count 0 ∧ isW32 (i32 n) = true ∧ s.CanFire {} { l := true, r := true } ∧ s.Diverts ∧ s.CanFire {} { r := true, p := true } ∧ s.CanFire {} { p := true }) :=
  ⟨all_ok (b := fun c => let s := one (some (i32 1)) (some (i32 (-1))) (some (predTok true)) (.gate c)
      (s.here.ost == .gate c) && !s.here.held && isW32 (i32 (-1)) && fires s {} needLP && isScalarPred (predTok true))
      (fun _ h => by
        simp only [Bool.and_eq_true, beq_iff_eq, Bool.not_eq_true'] at h
        exact ⟨h.1.1.1.1, h.1.1.1.2, h.1.1.2, fires_ok h.1.2, h.2⟩) (by decide +kernel),
    all_ok (b := fun n => let s := (live (one (some (i32 1)) (some (i32 n)) (some (predTok true)) (.count 0)))
      (s.here.ost == .count 0) && isW32 (i32 n) && fires s {} { l := true, r := true } && diverts s && fires s {} { r := true, p := true } && fires s {} { p := true })
      (fun _ h => by
        simp only [Bool.and_eq_true, beq_iff_eq] at h
        exact ⟨h.1.1.1.1.1, h.1.1.1.1.2, fires_ok h.1.1.1.2, diverts_ok h.1.1.2, fires_ok h.1.2, fires_ok h.2⟩) (by decide +kernel)⟩

/-- A count of 0, of one and of three; the middle and the last copy of a firing that has begun; a constant with a trigger and one with none. -/
theorem witness_repeats_and_constants :
    (∀ n ∈ [0, 1, 3], (one (some (i32 1)) (some (i32 n)) none).CanFire {} { l := true, r := true } ∧ isW32 (i32 n) = true ∧ (one (some (i32 1)) (some (i32 n)) none).here.ost = .none ∧
      routeOk .i32 (i32 1) = true) ∧
    (∀ k ∈ [1, 2], let s := one (some (i32 1)) (some (i32 3)) none (.copies k)
      s.here.ost = .copies k ∧ s.here.held = false ∧ stageFree s.here s.fc = true ∧ s.firing.ops.l = some (i32 1) ∧ s.firing.ops.r = some (i32 3) ∧ (i32 3).low32 = 3) ∧
    (let s := block [(0, 0x0C00404020000000), (1, 0x0600000000000000)] none none none
     fmtOf .i32 false = some .i32 ∧ hasSource s.firing.b s.cur.idx .l = false ∧ s.CanFire {} {} ∧ s.here.q0 = [] ∧ s.here.pend.getD 0 [] = [] ∧ s.targetAccepts (siteKey s.cur) s.cur.idx 0 (.slot 1 .l) = true) ∧
    (let s := block [(0, 0x0C00404020000000), (1, 0x2000404000000000)] (some (i32 1)) none none
     hasSource s.firing.b s.cur.idx .l = true ∧ s.Runs {} false needL (.run true 0)) := by
  refine ⟨all_ok (b := fun n => let s := one (some (i32 1)) (some (i32 n)) none
      fires s {} { l := true, r := true } && (isW32 (i32 n) && (s.here.ost == .none && routeOk .i32 (i32 1)))) (fun _ h => ?_) (by decide +kernel), by decide +kernel, ?_, by decide +kernel, runs_ok (by decide +kernel)⟩
  · have h1 := both h
    have h2 := both h1.2
    have h3 := both h2.2
    exact ⟨fires_ok h1.1, h2.1, by simpa using h3.1, h3.2⟩
  · exact ⟨by decide, by decide +kernel, fires_ok (by decide +kernel), by decide +kernel⟩

theorem witness_router_faults :
    (∀ x ∈ [{ predTok true with poison := true }, i32 1], (live (one none none (some x) (.carry true))).Diverts ∧ (live (one none none (some x) (.carry true))).CanFire {} { p := true } ∧
      (x.poison = true ∨ x.poison = false ∧ isScalarPred x = false)) ∧
    (let x : Token := { predTok true with poison := true }
     (live (one (some (i32 1)) none (some x))).CanFire {} needLP ∧ (live (one (some (i32 1)) none (some x))).CanFire {} { p := true }) ∧
    ((live (one (some (i32 1)) none none)).CanFire {} needL ∧ isOrder (i32 1) = false) ∧ ((live (one none (some (predTok true)) none (.gate 1))).CanFire {} { r := true } ∧ isW32 (predTok true) = false) := by
  refine ⟨all_ok (b := fun x => diverts (live (one none none (some x) (.carry true))) && fires (live (one none none (some x) (.carry true))) {} { p := true } && (x.poison || !x.poison && !isScalarPred x))
    (fun _ h => ⟨diverts_ok (both (both h).1).1, fires_ok (both (both h).1).2, by simpa using (both h).2⟩) (by decide +kernel), ?_⟩
  and_intros <;> first | exact fires_ok (by decide +kernel) | decide +kernel

/-- No live value and one; the queue that bits 34:27 of imm35 name. -/
theorem witness_leaving_a_block :
    (let s := placed (one (some (thread 7)) none none)
     s.Runs {} false { l := true, r := false } (.run true 0) ∧ isThread (thread 7) = true ∧ (s.launchOf s.firing).isSome = true ∧
       (∀ ln, s.launchOf s.firing = some ln → s.entryQueue ln 3 = some 2 ∧ s.queueTile ln 0 = some 2)) ∧
    (let s := placed (one (some (thread 7)) (some (vecTok [8, 9])) (some (predTok true)))
     s.Runs {} false { l := true, r := true } (.run true 0) ∧ s.Runs {} false { l := true, r := true, p := true } (.run true 0) ∧ (vecTok [8, 9]).v = true ∧ tagNamed (vecTok [8, 9]) = true ∧
       bitsAt (0x1000003 : BitVec 35).toNat 24 3 = 1 ∧ bitsAt (0x1000003 : BitVec 35).toNat 0 24 = 3 ∧ isScalarPred (predTok true) = true) :=
  ⟨⟨runs_ok (by decide +kernel), by decide +kernel, by decide +kernel, fun ln h => by
      have h' : (placed (one (some (thread 7)) none none)).launchOf (placed (one (some (thread 7)) none none)).firing = some { lid := 1, img := 4096, size := 1, cores := [0] } := by decide +kernel
      rw [h'] at h
      cases h
      constructor <;> decide +kernel⟩,
    ⟨runs_ok (by decide +kernel), runs_ok (by decide +kernel), by decide +kernel, by decide +kernel, by decide, by decide, by decide +kernel⟩⟩

/-- A packet at the start and at the end of a range. -/
theorem witness_graph_effects :
    (∀ a ∈ [0, 65408], let s := placed (one (some (addr a)) (some (addr 1)) none)
      s.Runs {} false needL (.run true 0) ∧ s.Runs {} false needLR (.run true 0) ∧ isAddr (addr a) = true ∧ (addr a).word % 128 = 0 ∧
        s.translate s.cur.core s.firing.part (!isPriv s.firing.b) true false (addr a).word 128 = .ok [piece a 64, piece (a + 64) 64 64]) ∧
    (let s := placed (one (some (i32 1)) none none)
     lkLid s.firing.lk ≠ 0 ∧ s.launch s.firing.lk = some { lid := 1, img := 4096, size := 1, cores := [0] }) :=
  ⟨all_ok (b := fun a => let s := placed (one (some (addr a)) (some (addr 1)) none)
      runs s {} false needL (.run true 0) && runs s {} false needLR (.run true 0) && isAddr (addr a) && ((addr a).word % 128 == 0) &&
        (s.translate s.cur.core s.firing.part (!isPriv s.firing.b) true false (addr a).word 128 == .ok [piece a 64, piece (a + 64) 64 64]))
      (fun _ h => by
        simp only [Bool.and_eq_true, beq_iff_eq] at h
        exact ⟨runs_ok h.1.1.1.1, runs_ok h.1.1.1.2, h.1.1.2, h.1.2, h.2⟩) (by decide +kernel), by decide +kernel⟩

/-- A queue with a record and an empty one; a register that was never written, read in its round and before. -/
theorem witness_queues_and_registers :
    let rec0 : QRec := { val := { pay := 5, tag := 2 }, round := 0, key := none, seq := 0 }
    let s := placed (one (some (i32 5)) none none)
    let t := s.setMtile 2 { s.mtile 2 with recs := [rec0] }
    s.Runs {} false needL (.run true 0) ∧ t.Runs {} false needL (.run true 0) ∧ s.launchOf s.firing = some { lid := 1, img := 4096, size := 1, cores := [0] } ∧
      s.queueTile { lid := 1, img := 4096, size := 1, cores := [0] } 0 = some 2 ∧ (s.mtile 2).recs = [] ∧ (t.mtile 2).recs = [rec0] ∧ rec0.val.v = false ∧ routeOk .i32 rec0.val.token = true ∧
      routeOk .i32 (i32 5) = true ∧ s.here.fwd ≤ s.firing.b.mpass ∧ ({ v := decide (16 ≤ 0) } : Stored).poison = false ∧ routeOk .i64 ({ v := decide (16 ≤ 0) } : Stored).token = true ∧
      (let u := s.setElem s.cur { s.here with fwd := 1 }
       u.firing.b.mpass < u.here.fwd ∧ u.Runs {} false needL (.run true 0)) := by
  and_intros <;> first | exact runs_ok (by decide +kernel) | decide +kernel

/-- A hit at the last byte of a line; an entry without USR; a window that ends below the access; the last byte of a memory tile, the first past it, the first address past the tiles. -/
theorem witness_places_of_accesses :
    (let s := placed (one none none none)
     s.heldAt 0 0 63 = false ∧ tableHit (s.core 0) 63 = some (0, { words := range0, lock := false, used := 0 }) ∧ 63 + 1 ≤ entLimit range0 ∧ (true && !entBit range0 atUSR) = false ∧
       entRlo range0 ≤ 63 ∧ 63 + 1 ≤ entRhi range0 ∧ entRdev range0 = 0 ∧ entBit range0 atHOST = false ∧ inShare (s.part 0) ((63 + entOffset range0) % 2 ^ 64) 1 = true ∧
       ((true && !entBit [0, 64, 0, 0, 64, 3] atUSR) = true) ∧ entRhi [0, 64, 0, 0, 0, 7] < 63 + 1) ∧
    (let s := one (some (addr (2 ^ 19 - 1))) none none
     (addr (2 ^ 19 - 1)).word < 2 ^ 23 ∧ bitsAt (addr (2 ^ 19 - 1)).word 0 19 + 1 ≤ 2 ^ 19 ∧ (s.mtile (tileKey s.firing.e.core 0)).cfg = .store 1 ∧ 2 ^ 19 < bitsAt (addr (2 ^ 19 - 1)).word 0 19 + 8) ∧
    2 ^ 23 ≤ (addr (2 ^ 23)).word ∧ (∀ k, ((placed (one none none none)).mtile (tileKey 0 2)).cfg ≠ .store k) :=
  ⟨by decide +kernel, by decide +kernel, by decide +kernel, fun k h => by
    have h' : ((placed (one none none none)).mtile (tileKey 0 2)).cfg = .fifo 16 1 := by decide +kernel
    rw [h'] at h
    cases h⟩

/-- A load of 4 bytes that crosses a line, a line, a memory tile, a gather of two lanes; with a scale on R at the end of its range. -/
theorem witness_loads :
    (let s := placed (one (some (addr 62)) none none)
     s.Accesses {} { l := true, r := false } ∧ isAddr (addr 62) = true ∧ s.Translated true false [(ofInt 64 ((addr 62).word + 0), 4, 0)] [piece 62 2, piece 64 2 2] ∧
       (s.touched [piece 62 2, piece 64 2 2]).chainBusy 1 (s.accessFiring { l := true, r := false }).chain [piece 62 2, piece 64 2 2] = false ∧ (s.touched [piece 62 2, piece 64 2 2]).dieOff [piece 62 2, piece 64 2 2] = false) ∧
    (let s := placed (one (some (addr 64)) (some (i32 254)) none)
     s.Accesses {} { l := true, r := true } ∧ isW32 (i32 254) = true ∧ (i32 254).low32 ≤ 254 ∧ s.Translated true false [((addr 64).word, 64, 0)] [piece 64 64] ∧
       (s.touched [piece 64 64]).chainBusy 1 (s.accessFiring { l := true, r := true }).chain [piece 64 64] = false ∧ (s.touched [piece 64 64]).dieOff [piece 64 64] = false) ∧
    (let s := placed (one (some (addr 4)) none none)
     ∃ ps, tilePlace s (s.accessFiring { l := true, r := false }) 0 4 = .tile ps ∧ s.chainBusy 1 (s.accessFiring { l := true, r := false }).chain ps = false ∧ s.dieOff ps = false) ∧
    (let x := vecTok [8, 2 ^ 64 - 1, 16, 2 ^ 64 - 1, 2 ^ 64 - 1, 2 ^ 64 - 1, 2 ^ 64 - 1, 2 ^ 64 - 1]
     let s := placed (one (some x) none none)
     s.Accesses {} { l := true, r := false } ∧ isVec64 x = true ∧ ((List.range 8).map (fun j => (laneOf x.pay 64 j, 4, 4 * j))).filter (fun x => x.1 ≠ 2 ^ 64 - 1) = [(8, 4, 0), (16, 4, 8)] ∧
       (∀ a ∈ [8, 16], a % 4 = 0) ∧ s.Translated true false [(8, 4, 0), (16, 4, 8)] [piece 8 4, piece 16 4 8] ∧
       (s.touched [piece 8 4, piece 16 4 8]).chainBusy 1 (s.accessFiring { l := true, r := false }).chain [piece 8 4, piece 16 4 8] = false ∧
       (s.touched [piece 8 4, piece 16 4 8]).dieOff [piece 8 4, piece 16 4 8] = false) :=
  ⟨⟨accesses_ok (by decide +kernel), by decide +kernel, translated_ok (by decide +kernel), by decide +kernel, by decide +kernel⟩,
    ⟨accesses_ok (by decide +kernel), by decide +kernel, by decide +kernel, translated_ok (by decide +kernel), by decide +kernel, by decide +kernel⟩,
    ⟨[{ space := .tile 0 0, addr := 4, size := 4, off := 0, prog := 4 }], by decide +kernel, by decide +kernel, by decide +kernel⟩,
    ⟨accesses_ok (by decide +kernel), by decide +kernel, by decide +kernel, by decide, translated_ok (by decide +kernel), by decide +kernel, by decide +kernel⟩⟩

theorem witness_stores :
    (let s := placed (one (some (addr 65532)) (some (i32 (-1))) none)
     s.Accesses {} needLR ∧ isAddr (addr 65532) = true ∧ tyAccepts .i32 (i32 (-1)) = true ∧ scaleOk (i32 (-1)) = true ∧ s.Translated false true [((addr 65532).word, 4, 0)] [piece 65532 4] ∧
       (s.touched [piece 65532 4]).chainBusy 1 (s.accessFiring needLR).writeChain [piece 65532 4] = false ∧ (s.touched [piece 65532 4]).stageRoom 0 [piece 65532 4] = true) ∧
    (let s := placed (one (some (addr 64)) (some (vec .kf6 [1])) none)
     s.Accesses {} needLR ∧ tyAccepts .kf6 (vec .kf6 [1]) = true ∧ (vec .kf6 [1]).v = true ∧ s.Translated false true [((addr 64).word, 64, 0)] [piece 64 64]) ∧
    (let s := placed (one (some (addr 4)) (some (i32 1)) none)
     ∃ ps, tilePlace s (s.accessFiring needLR) 0 4 = .tile ps ∧ s.chainBusy 1 (s.accessFiring needLR).writeChain ps = false ∧ s.stageRoom 0 ps = true) ∧
    (let x := vecTok [8, 2 ^ 64 - 1, 16, 2 ^ 64 - 1, 2 ^ 64 - 1, 2 ^ 64 - 1, 2 ^ 64 - 1, 2 ^ 64 - 1]
     let s := placed (one (some x) (some (vec .i32 [1, 2, 3])) none)
     s.Accesses {} needLR ∧ isVec64 x = true ∧ dataOk .i32 true (vec .i32 [1, 2, 3]) = true ∧ s.Translated false true [(8, 4, 0), (16, 4, 8)] [piece 8 4, piece 16 4 8]) :=
  ⟨⟨accesses_ok (by decide +kernel), by decide +kernel, by decide +kernel, by decide +kernel, translated_ok (by decide +kernel), by decide +kernel, by decide +kernel⟩,
    ⟨accesses_ok (by decide +kernel), by decide +kernel, by decide +kernel, translated_ok (by decide +kernel)⟩,
    ⟨[{ space := .tile 0 0, addr := 4, size := 4, off := 0, prog := 4 }], by decide +kernel, by decide +kernel, by decide +kernel⟩,
    ⟨accesses_ok (by decide +kernel), by decide +kernel, by decide +kernel, translated_ok (by decide +kernel)⟩⟩

/-- A write of two bytes to device memory, and a load of four that is due. -/
theorem witness_homes :
    (let s := placed (one none none none)
     let a : Arrival := { lk := 1, core := 0, round := 0, key := ⟨0, 0, 0, 0, 0⟩, seq := 0, space := .dev, addr := 8, op := .write [1, 2], req := 0 }
     s.memOk = true ∧ a.op = .write [1, 2] ∧ (s.homeLog a.space).log = [] ∧ (∀ c m, a.space = .tile c m → m < 16)) ∧
    (let r : Req := { id := 9, site := ⟨0, 0, 0, 0⟩, lk := 1, round := 0, due := 0, kind := .load 2 false 127, fresh := false, chain := ⟨0, 0, 0, 0⟩, parts := [piece 8 4], thr := 0 }
     let s := { placed (one none none none) with reqs := [r] }
     s.reqs.find? (fun x => x.id == r.id && x.op.isNone) = some r ∧ s.reqs.find? (fun x => x.id == r.id) = some r ∧ r.ofHost = false ∧ r.due ≤ s.fc ∧ r.parts = [piece 8 4] ∧
       s.servable r (piece 8 4) = true ∧ s.freshAhead r = false ∧ ((piece 8 4).hostBias && (piece 8 4).space == .dev) = false ∧ Fmt.ofTag 2 = some .i32 ∧ (piece 8 4).off = 0 ∧ (piece 8 4).size = (Fmt.i32.width + 7) / 8 ∧
       ((piece 8 4).cach && !r.fresh && !(piece 8 4).osh) = false ∧ s.spoilt .dev 8 4 = false ∧
       ({ s with ecc := [(.dev, 0)], reqs := [{ r with cancel := true }] } : State).spoilt .dev 8 4 = true) :=
  ⟨⟨by decide +kernel, rfl, by decide +kernel, fun _ _ h => by simp at h⟩, by decide +kernel⟩

/-- A stream of n elements of i64 vectors from line 5 on, in streamer 0 of tile 0, in the middle of its element k. -/
def streaming (n k : Nat) : State :=
  let s := one none (some (vecTok [8])) none (.stream k n none 3 ⟨0, 0, 0, 0⟩ 0)
  s.setStreamer 0 0 { w0 := n * 2 ^ 48 + 5, w1 := 2 ^ 48 + 2 ^ 16, w3 := 5 + 127 * 64 }

/-- An idle streamer whose descriptor has the reset value, which no atomic of the chain touches; the first of two elements and the last one; and a prefetch of a range and of no range. -/
theorem witness_streamers_and_prefetch :
    (let s := placed (one (some (addr 0)) none none)
     s.Accesses {} needL ∧ isAddr (addr 0) = true ∧ (strWindow (s.mtile 0).cfg).isSome = true ∧ ((s.mtile 0).streamer 0).busy = none ∧ strFault (s.mtile 0) ((s.mtile 0).streamer 0).words = false ∧
       strBusy {} s (s.accessFiring needL) (s.accessFiring needL).chain = false ∧ strBusy {} s (s.accessFiring needL) (s.accessFiring needL).writeChain = false ∧ s.here.ost = .none ∧
       s.translate s.cur.core s.firing.part (!isPriv s.firing.b) true false (ofInt 64 ((addr 0).word + 0)) 1 = .ok [piece 0 1]) ∧
    ((placed (one (some (i32 0)) none none)).Accesses {} needL ∧ isAddr (i32 0) = false) ∧
    (∀ x ∈ [(2, 0), (1, 0), (2, 1)], let s := streaming x.1 x.2
      let ws := ((s.mtile 0).streamer 0).words
      s.here.ost = .stream x.2 x.1 none 3 ⟨0, 0, 0, 0⟩ 0 ∧ s.here.held = false ∧ s.here.last ≠ some s.fc ∧ s.firing.ops.r = some (vecTok [8]) ∧ (vecTok [8]).poison = false ∧ (vecTok [8]).v = true ∧
        (vecTok [8]).tag.toNat = strTag ws ∧ (vecTok [8]).scale.toNat = strScale ws ∧ strLine ws ((strWindow (s.mtile 0).cfg).getD 1) x.2 = some 5 ∧
        s.stageRoom s.cur.core [{ space := .tile 0 0, addr := 320, size := 64, off := 0 }] = true) := by
  refine ⟨⟨accesses_ok ?_, ?_⟩, ⟨accesses_ok ?_, ?_⟩, ?_⟩ <;> decide +kernel

/-- An atomic on device memory and on a memory tile, with an operand on R and with an immediate. -/
theorem witness_atomics_issued :
    (let s := placed (one (some (addr 4)) (some (i32 3)) none)
     let f := s.accessFiring { l := true, r := true }
     let t := s.touched [piece 4 4]
     s.Accesses {} { l := true, r := true } ∧ isAddr (addr 4) = true ∧ (∃ r, f.ops.r = some r ∧ atomicOperandOk 0xA0 { ty := .i32 } r = true) ∧ (addr 4).word % 4 = 0 ∧
       s.Translated true true [((addr 4).word, 4, 0)] [piece 4 4] ∧ atomicAttrs 0xA0 [piece 4 4] = none ∧ t.chainBusy t.firing.lk f.writeChain [piece 4 4] = false ∧
       (t.dieOff [piece 4 4] && !t.stagedOp t.firing.lk [piece 4 4]) = false) ∧
    (let s := placed (one (some (addr 8)) none none)
     let f := s.accessFiring { l := true, r := false }
     s.Accesses {} { l := true, r := false } ∧ ∃ ps, tilePlace s f 0 8 = .tile ps ∧ atomicAttrs 0xA0 ps = none ∧ s.chainBusy s.firing.lk f.writeChain ps = false ∧ (s.dieOff ps && !s.stagedOp s.firing.lk ps) = false) :=
  ⟨⟨accesses_ok (by decide +kernel), by decide +kernel, ⟨i32 3, by decide +kernel, by decide +kernel⟩, by decide +kernel, translated_ok (by decide +kernel), by decide +kernel, by decide +kernel, by decide +kernel⟩,
    ⟨accesses_ok (by decide +kernel), [{ space := .tile 0 0, addr := 8, size := 8, off := 0, prog := 8 }], by decide +kernel, by decide +kernel, by decide +kernel, by decide +kernel⟩⟩

/-- The largest location, bit 63 of ATAS, and an add that waits at its slice. -/
theorem witness_atomics_performed :
    (2 ^ 32 - 1 < 2 ^ Fmt.i32.width ∧ Fmt.i32.isInt = true ∧ Fmt.z64.isInt = true ∧ (i32 63).low32 < 64) ∧
    (let r : Req := { id := 9, site := ⟨0, 0, 0, 0⟩, lk := 1, round := 0, due := 0, kind := .answer 2, fresh := false, chain := ⟨0, 0, 0, 0⟩, parts := [piece 4 4], thr := 0,
                      op := some (.atomic 0xA0 2 false (i32 3) 0) }
     let s := { placed (one none none none) with reqs := [r] }
     s.reqs.find? (fun x => x.id == r.id && !x.arrived) = some r ∧ (∀ x ∈ s.reqs, x.id = r.id → x = r) ∧ Fmt.ofTag 2 = some .i32 ∧ r.due ≤ s.fc ∧ r.admitted = false ∧ s.dieOff r.parts = false ∧ s.portHolds r.site.core = false ∧
       s.spoilt .dev 4 4 = false) := by decide +kernel

/-- A fence whose chain has nothing left and one that waits for a staged write; the words of a barrier, a permit and a future. -/
theorem witness_synchronisation :
    (let c : Chain := ⟨0, 1, 2, 3⟩
     let s := placed (one (some (orderTok c)) none none)
     let w : Arrival := { lk := 1, core := 0, round := 0, key := ⟨0, 1, 2, 0, 0⟩, seq := 0, space := .dev, addr := 8, op := .write [1], req := 0 }
     let t := s.setCore 0 { s.core 0 with gstage := [w] }
     s.Runs {} false { l := true, r := hasSource s.firing.b s.cur.idx .r } (.run true 0) ∧ isOrder (orderTok c) = true ∧ (orderTok c).chain = some c ∧ s.fenceDone s.firing.lk 5 c = true ∧
       t.Runs {} false { l := true, r := hasSource t.firing.b t.cur.idx .r } (.run true 0) ∧ t.fenceDone t.firing.lk 3 c = false) ∧
    (let s := placed (one (some (addr 8)) (some (addr 128)) none)
     s.Accesses {} needL ∧ s.Accesses {} needLR ∧ isAddr (addr 8) = true ∧ (addr 8).word % 8 = 0 ∧ s.Translated true true [((addr 8).word, 8, 0)] [piece 8 8] ∧
       s.Translated true false [((addr 8).word, 8, 0)] [piece 8 8] ∧ (s.touched [piece 8 8]).chainBusy s.firing.lk (s.accessFiring needL).writeChain [piece 8 8] = false ∧
       (s.touched [piece 8 8]).chainBusy s.firing.lk (s.accessFiring needLR).writeChain [piece 8 8] = false ∧ ((s.accessFiring needLR).ops.r.map Token.word).getD 0 % 128 = 0 ∧ (s.accessFiring needLR).ops.r = some (addr 128) ∧
       isAddr (addr 128) = true ∧ tagNamed (addr 128) = true ∧ 2 < (3 : BitVec 18).toNat) ∧
    (let s := placed (one (some (addr 8)) (some (i32 1)) none)
     ∃ ps, tilePlace s (s.accessFiring needLR) 0 8 = .tile ps ∧ s.chainBusy s.firing.lk (s.accessFiring needLR).writeChain ps = false ∧ isW32 (i32 1) = true ∧ (2 : BitVec 18).toNat ≤ 2 ∧ ∀ p ∈ ps, ∃ c m, p.space = .tile c m) := by
  refine ⟨?_, ?_, [{ space := .tile 0 0, addr := 8, size := 8, off := 0, prog := 8 }], by decide +kernel, by decide +kernel, by decide +kernel, by decide, fun p h => ⟨0, 0, by rw [List.mem_singleton.mp h]⟩⟩
  all_goals and_intros <;> first | exact runs_ok (by decide +kernel) | exact accesses_ok (by decide +kernel) | exact translated_ok (by decide +kernel) | decide +kernel

/-- A header of i8 weights. -/
def weights : Token := vecTok [4 + 127 * 256 + 63 * 65536]

/-- A header at its first firing and after its cut; a payload line that is not the last and one that is. -/
theorem witness_weight_loads :
    (let s := placed (one (some weights) none none)
     s.here.fwd ≤ mgetD (s.ctile (nodeKey s.firing)).pass s.firing.lk 0 ∧ weights.v = true ∧ weights.poison = false ∧ s.here.held = false ∧ breaks {} s.here = false ∧ s.firing.ops.l = some weights ∧
       mxHeaderOk weights.pay = true ∧ ((s.ctile (nodeKey s.firing)).slot 0).state ≠ 1 ∧ s.here.ost = .none ∧ lkLid s.firing.lk ≠ 0 ∧ (s.launch s.firing.lk).isSome = true) ∧
    (let s := placed (one (some weights) none none (.mxwait 0))
     let t : State := { s with parts := [(0, { s.part 0 with launches := [(1, { lid := 1, img := 4096, size := 1, cores := [0], cut := 1 })] })] }
     t.Runs {} false needL (.run true 0) ∧ t.here.ost = .mxwait 0 ∧ 0 < t.cutOf t.firing.lk t.cur.core) ∧
    (let s := placed (one (some (vec .i8 [1])) none none (.mxldb 2))
     (s.setCtile 0 { slots := [(0, { state := 1, tag := 4, len := 64, pos := 62 })] }).Runs {} false needL (.run true 0) ∧
       62 + 1 < ((s.setCtile 0 { slots := [(0, { state := 1, tag := 4, len := 64, pos := 62 })] }).ctile 0 |>.slot 0).len ∧
       ((s.setCtile 0 { slots := [(0, { state := 1, tag := 4, len := 64, pos := 63 })] }).ctile 0 |>.slot 0).len ≤ 63 + 1) :=
  ⟨by decide +kernel, ⟨runs_ok (by decide +kernel), by decide +kernel, by decide +kernel⟩, ⟨runs_ok (by decide +kernel), by decide +kernel, by decide +kernel⟩⟩

/-- A node whose slot 0 holds i8 weights and whose accumulator 0 is of i32. -/
def node : CTile := { slots := [(0, { state := 2, tag := 4, len := 64, pos := 64 })], acc := [{ i32 := true, rowp := 63 }, {}, {}, {}] }

/-- The last row by the pointer and by R, and a row with RV = 0. -/
theorem witness_matrix_rows :
    (let s := (placed (one (some (vec .i8 [1])) (some (i32 63)) none)).setCtile 0 node
     s.here.fwd ≤ mgetD (s.ctile 0).pass s.firing.lk 0 ∧ dataOk .i8 true (vec .i8 [1]) = true ∧ ((s.ctile 0).slot 0).state = 2 ∧ rowPairOk (s.ctile 0) 0 0 (vec .i8 [1]) = true ∧
       rowHold { ty := .i8 } s s.firing = false ∧ s.Runs {} false needL (.run true 0) ∧ s.Runs {} false needLR (.run true 0) ∧ ((s.ctile 0).accOf 0).rowp = 63 ∧ isW32 (i32 63) = true ∧ (i32 63).low32 ≤ 63 ∧
       dataOk .i8 true { vec .i8 [1] with rv := false } = true ∧ rowPairOk (s.ctile 0) 0 0 { vec .i8 [1] with rv := false } = true) := by
  and_intros <;> first | exact runs_ok (by decide +kernel) | decide +kernel

theorem witness_matrix_drains :
    (let s := (placed (one (some (addr 63)) none none)).setCtile 0 node
     s.here.fwd ≤ mgetD (s.ctile 0).pass s.firing.lk 0 ∧ s.Runs {} false needL (.run true 0) ∧ s.draining s.cur.core (siteTile s.firing) 0 = false ∧ (s.ctile 0).kept.any (fun x => x.2.2.2.2 == s.fc) = false ∧
       (s.ctile 0).rowUnderway 0 s.fc = false ∧ (s.ctile 0).shut s.fc = false ∧ isAddr (addr 63) = true ∧ (addr 63).word < 64) :=
  ⟨by decide +kernel, runs_ok (by decide +kernel), by decide +kernel, by decide +kernel, by decide +kernel, by decide +kernel, by decide +kernel⟩

/-- A copy of 128 bytes and a fill; range commands for the address 64. -/
theorem witness_engine_acceptance :
    (let x := vecTok [0x301, 0, 4096, 128]
     let s := placed (one (some x) none none)
     s.portCommands s.cur.core s.firing.part < 16 ∧ s.Accesses {} needL ∧ isVec64 x = true ∧ s.descCheck s.cur.core s.firing.part (!isPriv s.firing.b) 0xB8 x.words = .ok false) ∧
    (let x := vecTok [0x302, 0xAB, 4096, 128]
     let s := placed (one (some x) none none)
     s.descCheck s.cur.core s.firing.part (!isPriv s.firing.b) 0xB9 x.words = .ok false) ∧
    (let x := vecTok [0x303, 0, 4096, 4, 0, 64]
     let s := placed (one (some x) none none)
     s.descCheck s.cur.core s.firing.part (!isPriv s.firing.b) 0xBA x.words = .ok false) ∧
    (let x := vecTok [0x404, 0, 4096, 4]
     let s0 := placed (one (some x) none none)
     let s : State := { s0 with hub := { s0.hub with groups := [(0, (1, 0, [(0, 0)]))] } }
     s.descCheck s.cur.core s.firing.part (!isPriv s.firing.b) 0xBB x.words = .ok false) ∧
    (let s := placed (one (some (addr 64)) (some (scalarTok .i64 1)) none)
     s.Accesses {} needL ∧ s.Accesses {} needLR ∧ isZ64 (addr 64) = true ∧ (scalarTok .i64 1).tag = 1 ∧ scaleOk (scalarTok .i64 1) = true) := by
  and_intros <;> first | exact accesses_ok (by decide +kernel) | decide +kernel

/-- A command of a core. -/
def cmd0 (op : Nat) (words : List Nat) : Cmd :=
  { id := 9, site := ⟨0, 0, 0, 0⟩, lk := 1, core := 0, round := 0, thr := 0, op := op, words := words, key := ⟨0, 0, 0, 0, 0⟩, user := true, loaded := true, total := 100 }

/-- Core 0 with that command, when round 0 is committed. -/
def commanded (x : Cmd) : State :=
  { placed (one none none none) with
    parts := [(0, { shareS := [2 ^ 20, 0, 0, 0], cores := [0], launches := [(1, { lid := 1, img := 4096, size := 1, cores := [0], round := 1, cut := 1, eff := 1 })] })]
    cores := [(0, { lk := some 1, rtt := [(0, { words := range0, lock := false, used := 0 })], pass := [(1, 1)], cmds := [x] })] }

/-- A copy at its first part, and one that has written every byte. -/
theorem witness_engine_runs :
    (let x := cmd0 0xB8 [0x301, 0, 4096, 100]
     let s := commanded x
     s.cmdOf x.id = some (x.core, x) ∧ (s.part (lkPart x.lk)).halted = false ∧ x.finished = false ∧ s.roundFar x.lk x.core x.round = true ∧ s.portHolds x.core = false ∧ s.underOld x.core x = false ∧ x.loaded = true ∧ x.prog < x.total ∧ x.op = 0xB8 ∧
       s.translate x.core (lkPart x.lk) x.user false true 4096 64 = .ok [piece 4096 64] ∧ s.viewFull x.lk [piece 4096 64] = false ∧ s.stageRoom x.core [piece 4096 64] = true) ∧
    (let x : Cmd := { cmd0 0xB9 [0x302, 0, 4096, 100] with finished := true, prog := 100 }
     let s := commanded x
     s.cmdOf x.id = some (x.core, x) ∧ x.emitted = none ∧ s.portHolds x.core = false ∧ s.cmdCommitted x = true ∧ dFut x.words = false ∧ 0xB8 ≤ x.op ∧ x.op ≤ 0xBB) := by decide +kernel

/-- A directory at 8,192 of two ranges that meet at 4,096. -/
def directory (s : State) : State :=
  { s with
    mem := writeBytes (writeBytes imageBlock 8192 ([0, 4096, 0, 0, 4096, 7, 0, 0].flatMap (leBytes 8))) 8256 ([4096, 65536, 0, 4096, 65536, 7, 0, 0].flatMap (leBytes 8))
    parts := [(0, { s.part 0 with rdirBase := 8192, rdirCnt := 2, rdirCap := 8 })] }

/-- A split inside the second range, a merge at their border, and an address off 64 bytes. -/
theorem witness_range_commands :
    (let r : RCmd := RCmd.mk (cmd0 0xBC [8192, 0]) 2 8192
     let s0 := directory (placed (one none none none))
     let s := s0.setPart 0 { s0.part 0 with rcmds := [r] }
     (s.part 0).rcmds = [r] ∧ (s.part 0).halted = false ∧ r.phase = 2 ∧ r.cmd.op = 0xBC ∧ r.base % 64 = 0 ∧
       (dirEntries s (s.part 0)).findIdx? (fun w => decide (entBase w < r.base ∧ r.base < entLimit w)) = some 1 ∧ (s.part 0).rdirCnt ≠ (s.part 0).rdirCap) ∧
    (let r : RCmd := RCmd.mk (cmd0 0xBD [4096, 0]) 2 4096
     let s0 := directory (placed (one none none none))
     let s := s0.setPart 0 { s0.part 0 with rcmds := [r] }
     let es := dirEntries s (s.part 0)
     let a := es.getD 0 []
     let b := es.getD 1 []
     r.cmd.op = 0xBD ∧ es.findIdx? (fun w => entLimit w == r.base) = some 0 ∧ es.findIdx? (fun w => entBase w == r.base) = some 1 ∧ entOffset a = entOffset b ∧ entAttr a = entAttr b ∧ entRhi a = r.base ∧
       entRlo b = r.base ∧ entRlo a ≠ entRhi a ∧ entRlo b ≠ entRhi b) ∧
    ((RCmd.mk (cmd0 0xBC [65, 0]) 2 65).base % 64 ≠ 0 ∧ (RCmd.mk (cmd0 0xBC [64, 0]) 0 64).phase = 0) := by decide +kernel

/-- A loop of two iterations over two cells at 0, with a window of two. -/
def loop0 (phase : Nat) : Loop :=
  { lo := 0, hi := 2, w := 2, mt := false, fut := false, rblk := 3, cblk := 3, cellbase := 0, cellcnt := 2, faddr := 0, fval := 0, lk := 1, origin := 0, key := ⟨0, 0, 0, 0, 0⟩, user := true,
    phase := phase, win := [0, 1], next := 2 }

/-- Core 0 with that loop. -/
def looping (phase : Nat) (s : State) : State := s.setCore 0 { s.core 0 with loops := [(0, loop0 phase)] }

/-- The descriptor of that loop; the first and the last cell, in both phases. -/
theorem witness_loops :
    (let x := vecTok [0, 2, 2, 3 + 3 * 2 ^ 32, 0, 2, 0, 0]
     let s := placed (one (some x) none none)
     let y := loopOfDesc x.words (s.accessFiring needL)
     s.effReady s.firing = true ∧ s.Accesses {} needL ∧ isVec64 x = true ∧ rloopBad s (s.accessFiring needL) = none ∧ s.cellsOk 0 0 y ≠ .wait ∧ s.futureOk 0 0 y.user y.fut y.faddr ≠ .wait ∧
       s.freeLoop 0 s.firing.b.origin = some 0 ∧ s.cellHome 0 y y.cellbase = some (piece 0 4)) ∧
    (∀ a ∈ [0, 4], ∀ ph ∈ [1, 2], let s := looping ph (placed (one (some (addr a)) (some (addr 1)) none))
      s.effReady s.firing = true ∧ s.Accesses {} needLR ∧ isAddr (addr a) = true ∧ isAddr (addr 1) = true ∧ s.loopOf (s.accessFiring needLR) 1 = some (0, loop0 ph) ∧ (loop0 ph).win.contains 1 = true ∧
        s.Translated true true [((addr a).word, 4, 0)] [piece a 4] ∧ s.Translated true false [((addr a).word, 4, 0)] [piece a 4] ∧
        (s.touched [piece a 4]).chainBusy s.firing.lk (s.accessFiring needLR).writeChain [piece a 4] = false ∧ (s.touched [piece a 4]).loopOf (s.accessFiring needLR) 1 = some (0, loop0 ph)) ∧
    (let s := looping 1 (placed (one (some (addr 1)) (some (addr 7)) none))
     s.loopOf (s.accessFiring needLR) (addr 1).word = some (0, loop0 1) ∧ (loop0 1).win.contains ((addr 1).word % 2 ^ 32) = true ∧ mget (loop0 1).reports 1 = none) :=
  ⟨⟨by decide +kernel, accesses_ok (by decide +kernel), by decide +kernel, by decide +kernel, by decide +kernel, by decide +kernel, by decide +kernel, by decide +kernel⟩,
    fun a ha ph hp => (all_ok (b := fun a => [1, 2].all (fun ph => let s := looping ph (placed (one (some (addr a)) (some (addr 1)) none))
      s.effReady s.firing && accesses s {} needLR && isAddr (addr a) && isAddr (addr 1) && (s.loopOf (s.accessFiring needLR) 1 == some (0, loop0 ph)) && (loop0 ph).win.contains 1 &&
        translated s true true [((addr a).word, 4, 0)] [piece a 4] && translated s true false [((addr a).word, 4, 0)] [piece a 4] &&
        !(s.touched [piece a 4]).chainBusy s.firing.lk (s.accessFiring needLR).writeChain [piece a 4] && ((s.touched [piece a 4]).loopOf (s.accessFiring needLR) 1 == some (0, loop0 ph))))
      (P := fun a => ∀ ph ∈ [1, 2], let s := looping ph (placed (one (some (addr a)) (some (addr 1)) none))
      s.effReady s.firing = true ∧ s.Accesses {} needLR ∧ isAddr (addr a) = true ∧ isAddr (addr 1) = true ∧ s.loopOf (s.accessFiring needLR) 1 = some (0, loop0 ph) ∧ (loop0 ph).win.contains 1 = true ∧
        s.Translated true true [((addr a).word, 4, 0)] [piece a 4] ∧ s.Translated true false [((addr a).word, 4, 0)] [piece a 4] ∧
        (s.touched [piece a 4]).chainBusy s.firing.lk (s.accessFiring needLR).writeChain [piece a 4] = false ∧ (s.touched [piece a 4]).loopOf (s.accessFiring needLR) 1 = some (0, loop0 ph))
      (fun _ h => all_ok (fun _ h => by
        simp only [Bool.and_eq_true, beq_iff_eq, Bool.not_eq_true'] at h
        exact ⟨h.1.1.1.1.1.1.1.1.1, accesses_ok h.1.1.1.1.1.1.1.1.2, h.1.1.1.1.1.1.1.2, h.1.1.1.1.1.1.2, h.1.1.1.1.1.2, h.1.1.1.1.2, translated_ok h.1.1.1.2, translated_ok h.1.1.2, h.1.2, h.2⟩) h) (by decide +kernel)) a ha ph hp,
    by decide +kernel⟩

/-- A report of the commit phase, a HANDLE, and both closes: the next window, and the end of the loop. -/
theorem witness_loop_closes :
    (let s := (placed (one (some (addr 1)) none none)).setCore 0 { (placed (one none none none)).core 0 with loops := [(0, { loop0 2 with holds := [1] })] }
     s.effReady s.firing = true ∧ s.Accesses {} needL ∧ isAddr (addr 1) = true ∧ s.loopOf (s.accessFiring needL) (addr 1).word = some (0, { loop0 2 with holds := [1] }) ∧
       (loop0 2).win.contains ((addr 1).word % 2 ^ 32) = true ∧ mget (loop0 2).reports 1 = none) ∧
    (let s := looping 1 (placed (one (some (addr (2 ^ 32 - 1))) none none))
     s.Accesses {} needL ∧ s.loopOf (s.accessFiring needL) (addr (2 ^ 32 - 1)).word = some (0, loop0 1) ∧ (addr (2 ^ 32 - 1)).word % 2 ^ 32 = 2 ^ 32 - 1 ∧ (loop0 1).rldone = none ∧ (loop0 1).phase ≠ 3) ∧
    (let close (x : Loop) : State := { placed (one none none none) with
       parts := [(0, { cores := [0], launches := [(1, { lid := 1, img := 4096, size := 1, cores := [0], round := 2, cut := 1 })] })], cores := [(0, { lk := some 1, loops := [(0, x)], pass := [(1, 1)] })] }
     (close { loop0 1 with reports := [(0, true), (1, true)] }).closeDue 0 0 1 = true ∧ (close { loop0 2 with reports := [(0, true), (1, false)] }).closeDue 0 0 2 = true ∧
       ({ loop0 2 with reports := [(0, true), (1, false)] } : Loop).reports.filter (fun r => !r.2) ≠ [] ∧ (close { loop0 2 with reports := [(0, true), (1, true)] }).closeDue 0 0 2 = true ∧
       (loop0 2).hi - (loop0 2).lo ≤ (loop0 2).next) := by
  and_intros <;> first | exact accesses_ok (by decide +kernel) | decide +kernel

/-- A running task in slot 0 with its undo stack at 1,024. -/
def task0 (state : Nat) : Task :=
  { lk := 1, origin := 0, slot := 0, key := ⟨0, 0, 0, 0, 0⟩, seq := 0, user := true, state := state, tseq := some 0, eblk := 3, fut := false, ubase := 1024, ulen := 64, arg := 0, faddr := 0, fval := 0,
    site := ⟨0, 0, 0, 0⟩, flight := 5, undoOut := true }

/-- Core 0 with that task. -/
def tasked (state : Nat) (s : State) : State := s.setCore 0 { s.core 0 with tasks := [(0, task0 state)] }

/-- A descriptor that is accepted; the task word 0 in every state that an instruction of the unit takes. -/
theorem witness_tasks :
    (let x := vecTok [3, 1024, 64, 0, 0, 0, 0, 0]
     let s := placed (one (some x) none none)
     s.effReady s.firing = true ∧ s.Accesses {} needL ∧ isVec64 x = true ∧ btaskBad s (s.accessFiring needL) = none ∧ s.freeTask s.cur.core s.firing.b.origin = some 0 ∧ (s.part s.firing.part).ctloads = [] ∧
       s.undoOk 0 0 (!isPriv s.firing.b) 1024 64 ≠ .wait ∧ s.futureOk 0 0 (!isPriv s.firing.b) false 0 ≠ .wait) ∧
    (∀ st ∈ [1, 2, 3], let s := tasked st (placed (one (some (addr 0)) none none))
      s.effReady s.firing = true ∧ s.Accesses {} needL ∧ isAddr (addr 0) = true ∧ s.taskOf (s.accessFiring needL) (addr 0).word = some (0, task0 st) ∧ (task0 st).state = st ∧ (task0 st).undoOut = true) ∧
    (let s := placed (one (some (addr (2 ^ 58 - 1))) none none)
     s.Runs {} false needL (.run true 0) ∧ isAddr (addr (2 ^ 58 - 1)) = true ∧ (addr (2 ^ 58 - 1)).word < 2 ^ 58) :=
  ⟨⟨by decide +kernel, accesses_ok (by decide +kernel), by decide +kernel, by decide +kernel, by decide +kernel, by decide +kernel, by decide +kernel, by decide +kernel⟩,
    all_ok (b := fun st => let s := tasked st (placed (one (some (addr 0)) none none))
      s.effReady s.firing && accesses s {} needL && isAddr (addr 0) && (s.taskOf (s.accessFiring needL) (addr 0).word == some (0, task0 st)))
      (fun _ h => by
        simp only [Bool.and_eq_true, beq_iff_eq] at h
        exact ⟨h.1.1.1, accesses_ok h.1.1.2, h.1.2, h.2, rfl, rfl⟩) (by decide +kernel), runs_ok (by decide +kernel), by decide +kernel, by decide +kernel⟩

/-- A packet whose CTAB names a table. -/
def packet0 (words : List Nat) : Packet := { words := words, addr := none, aseq := 7, queue := 0, age := 0, vf := none }

/-- A registration with an undo record and one without; a table at 64; a packet with a table that is good and one with a bad one. -/
theorem witness_registrations :
    (∀ u ∈ [0, 3], let r := vecTok [0, 5, u, 1, 2, 3]
      let s := tasked 1 (placed (one (some (addr 8)) (some r) none))
      s.effReady s.firing = true ∧ s.Accesses {} needLR ∧ isAddr (addr 8) = true ∧ isVec64 r = true ∧ bopBad s (s.accessFiring needLR) = none ∧ s.taskOf (s.accessFiring needLR) (laneOf r.pay 64 0) = some (0, task0 1) ∧
        s.Translated false false [((addr 8).word, 8, 0)] [piece 8 8] ∧ (s.touched [piece 8 8]).taskOf (s.accessFiring needLR) (laneOf r.pay 64 0) = some (0, task0 1) ∧
        s.translate s.cur.core s.firing.part (!isPriv s.firing.b) false true (1024 + 32 * 0) 32 = .ok [piece 1024 32] ∧
        (s.touched [piece 8 8]).translate s.cur.core s.firing.part (!isPriv s.firing.b) false true (1024 + 32 * 0) 32 = .ok [piece 1024 32] ∧ (s.touched [piece 8 8]).stageRoom s.cur.core [piece 1024 32] = true ∧
        (s.touched [piece 8 8]).chainBusy s.firing.lk (s.accessFiring needLR).writeChain [piece 8 8] = false) ∧
    (let s := placed (one (some (addr 64)) none none)
     s.Accesses {} needL ∧ isAddr (addr 64) = true ∧ (addr 64).word % 64 = 0) ∧
    (∀ x ∈ [(300, false), (256, true)], let q := packet0 [0, 0, 0, 0, 0, 0, x.1]
      let s0 := placed (one none none none)
      let s := s0.setPart 0 { s0.part 0 with queue := [q] }
      (s.part 0).queue.find? (fun y => y.aseq == q.aseq) = some q ∧ q.words.getD 6 0 ≠ 0 ∧ s.packetReady' 0 { q with ctabDone := true } = true ∧ (s.part 0).queue.any Packet.ctabDone = false ∧
        s.tasksLive 0 = false ∧ s.atMarker 0 = true ∧ s.tableHeld 0 ((s.part 0).cores.headD 0) (q.words.getD 6 0) = false ∧
        (s.installTable 0 ((s.part 0).cores.headD 0) (q.words.getD 6 0)).2 = x.2) :=
  ⟨all_ok (b := fun u => let r := vecTok [0, 5, u, 1, 2, 3]
      let s := tasked 1 (placed (one (some (addr 8)) (some r) none))
      s.effReady s.firing && accesses s {} needLR && isAddr (addr 8) && isVec64 r && (bopBad s (s.accessFiring needLR) == none) && (s.taskOf (s.accessFiring needLR) (laneOf r.pay 64 0) == some (0, task0 1)) &&
        translated s false false [((addr 8).word, 8, 0)] [piece 8 8] && ((s.touched [piece 8 8]).taskOf (s.accessFiring needLR) (laneOf r.pay 64 0) == some (0, task0 1)) &&
        (s.translate s.cur.core s.firing.part (!isPriv s.firing.b) false true (1024 + 32 * 0) 32 == .ok [piece 1024 32]) &&
        ((s.touched [piece 8 8]).translate s.cur.core s.firing.part (!isPriv s.firing.b) false true (1024 + 32 * 0) 32 == .ok [piece 1024 32]) && (s.touched [piece 8 8]).stageRoom s.cur.core [piece 1024 32] &&
        !(s.touched [piece 8 8]).chainBusy s.firing.lk (s.accessFiring needLR).writeChain [piece 8 8])
      (fun _ h => by
        simp only [Bool.and_eq_true, beq_iff_eq, Bool.not_eq_true'] at h
        exact ⟨h.1.1.1.1.1.1.1.1.1.1.1, accesses_ok h.1.1.1.1.1.1.1.1.1.1.2, h.1.1.1.1.1.1.1.1.1.2, h.1.1.1.1.1.1.1.1.2, h.1.1.1.1.1.1.1.2, h.1.1.1.1.1.1.2, translated_ok h.1.1.1.1.1.2, h.1.1.1.1.2, h.1.1.1.2,
          h.1.1.2, h.1.2, h.2⟩) (by decide +kernel),
    ⟨accesses_ok (by decide +kernel), by decide +kernel, by decide +kernel⟩, by decide +kernel⟩

/-- An argument, a vector, a poisoned operand; an extension word; and a partition whose faults halt it. -/
theorem witness_calls :
    (let s := live (one (some (addr 5)) none none)
     s.Runs {} false needL (.run true 0) ∧ (addr 5).v = false ∧ tagNamed (addr 5) = true ∧ s.Diverts ∧ isZ64 (i32 1) = false ∧ isAddr (predTok true) = false) ∧
    (let s := one (some (addr 5)) none none
     (s.part s.firing.part).en = false ∧ s.Runs {} false needL (.run true 0)) ∧
    (let s := live (block [(0, 0xE000000000000000), (1, 0x2000004000000000)] (some (addr 5)) none none)
     s.Runs {} false (extNeed s.firing.b s.cur.idx {}) (.run true 0) ∧ mget s.firing.b.words s.cur.idx = some 0xE000000000000000 ∧ s.Diverts ∧ (extNeed s.firing.b s.cur.idx {}).l = true) ∧
    (let s := live (one (some (poisoned 3)) (some (i32 1)) none)
     s.Diverts ∧ (s.operands (withPm {} needL)).poison = some (poisoned 3) ∧ s.CanFire {} (withPm {} needL) ∧ (s.operands (s.accessNeed needLR)).poison = some (poisoned 3) ∧ s.CanFire {} (s.accessNeed needLR)) ∧
    (∀ x ∈ [vecTok [1], i32 1, predTok true], (live (one (some x) none none)).Runs {} false needL (.run true 0) ∧ (live (one (some x) none none)).Diverts) :=
  ⟨⟨runs_ok (by decide +kernel), by decide, by decide +kernel, diverts_ok (by decide +kernel), by decide +kernel, by decide +kernel⟩, ⟨by decide +kernel, runs_ok (by decide +kernel)⟩,
    ⟨runs_ok (by decide +kernel), by decide +kernel, diverts_ok (by decide +kernel), by decide +kernel⟩,
    ⟨diverts_ok (by decide +kernel), by decide +kernel, fires_ok (by decide +kernel), by decide +kernel, fires_ok (by decide +kernel)⟩,
    all_ok (b := fun x => runs (live (one (some x) none none)) {} false needL (.run true 0) && diverts (live (one (some x) none none)))
      (fun _ h => ⟨runs_ok (both h).1, diverts_ok (both h).2⟩) (by decide +kernel)⟩

/-- An open site with the serial number 4. -/
def site0 (call : Option Nat) (need refilled : BitVec 3) : OpenSite :=
  { id := 11, word0 := 9, fser := some 4, site := ⟨0, 0, 0, 0⟩, lk := 1, round := 0, need := need, refilled := refilled, ops := [some (i32 1), none, none], call := call, bp := false }

/-- A launch that runs and none; an empty list of waiters and a full queue; a site of a call, an operand that is wanted, one that has come, and no site. -/
theorem witness_fault_handling :
    (∀ w ∈ [2 ^ 40, 0, 2 ^ 41], let s := live (one (some (addr w)) none none)
      s.Runs {} false needL (.run true 0) ∧ isZ64 (addr w) = true ∧ (s.core s.cur.core).idles = [] ∧ (w = 2 ^ 40 → (s.launch (s.firing.part * 65536 + bitsAt (addr w).word 40 16)).isSome = true) ∧
        (w = 2 ^ 41 → s.launch (s.firing.part * 65536 + bitsAt (addr w).word 40 16) = none)) ∧
    (let s0 := live (one (some (addr 1)) none none)
     let s := s0.setPart 0 { s0.part 0 with fq := [{ fser := 3, record := ⟨1, [0, 0, 0, 0, 0, 0], 0⟩ }] }
     s.targetsFree s.firing {} = true ∧ s.Runs {} false needL (.run true 0) ∧ (s.part s.firing.part).fq ≠ []) ∧
    (∀ x ∈ [site0 (some 5) 0 0, site0 none 1 0, site0 none 1 1, site0 none 2 0], let r := vecTok [9, 4]
      let s0 := live (one (some r) (some (i32 8)) none)
      let s := s0.setPart 0 { s0.part 0 with sites := [x] }
      s.Runs {} false needLR (.run true 0) ∧ isVec64 r = true ∧
        (s.part 0).sites.find? (fun y => y.fser == some (laneOf r.pay 64 1) && y.word0 == BitVec.ofNat 64 (laneOf r.pay 64 0)) = some x) :=
  ⟨all_ok (b := fun w => let s := live (one (some (addr w)) none none)
      runs s {} false needL (.run true 0) && isZ64 (addr w) && ((s.core s.cur.core).idles == []) && (w != 2 ^ 40 || (s.launch (s.firing.part * 65536 + bitsAt (addr w).word 40 16)).isSome) &&
        (w != 2 ^ 41 || (s.launch (s.firing.part * 65536 + bitsAt (addr w).word 40 16)) == none))
      (fun _ h => by
        simp only [Bool.and_eq_true, beq_iff_eq, Bool.or_eq_true, bne_iff_ne] at h
        exact ⟨runs_ok h.1.1.1.1, h.1.1.1.2, h.1.1.2, fun e => h.1.2.resolve_left (fun n => n e), fun e => h.2.resolve_left (fun n => n e)⟩) (by decide +kernel),
    ⟨by decide +kernel, runs_ok (by decide +kernel), by decide +kernel⟩,
    all_ok (b := fun x => let r := vecTok [9, 4]
      let s0 := live (one (some r) (some (i32 8)) none)
      let s := s0.setPart 0 { s0.part 0 with sites := [x] }
      runs s {} false needLR (.run true 0) && isVec64 r && ((s.part 0).sites.find? (fun y => y.fser == some (laneOf r.pay 64 1) && y.word0 == BitVec.ofNat 64 (laneOf r.pay 64 0)) == some x))
      (fun _ h => by
        simp only [Bool.and_eq_true, beq_iff_eq] at h
        exact ⟨runs_ok h.1.1, h.1.2, h.2⟩) (by decide +kernel)⟩

/-- A register read at the marker; a selector of a core of the partition and one that names none; a shrink that is refused. -/
theorem witness_registers_and_contexts :
    (let s := placed (one (some (addr 64)) (some (addr 2)) none)
     s.Runs {} false needL (.run true 0) ∧ s.here.fwd ≤ (s.bank (siteKey s.cur)).mpass ∧ isAddr (addr 64) = true ∧ s.Accesses {} needLR ∧ isZ64 (addr 2) = true ∧ 2 % 2 ^ 7 ∉ (s.part 0).cores) ∧
    (let s := placed (one (some (addr 64)) (some (addr 128)) none)
     s.Accesses {} needLR ∧ (addr 128).word % 2 ^ 7 ∈ (s.part s.firing.part).cores ∧ (addr 128).word < 2 ^ 13 ∧ (addr 64).word % 64 = 0 ∧ (s.bank (bankKeyOf 0 1 0)).st = 0 ∧ (s.bank (bankKeyOf 0 0 0)).st ≠ 0) ∧
    (let s := placed (one (some (addr (2 ^ 40))) (some (addr 0)) none)
     s.Runs {} false needLR (.run true 0) ∧ isZ64 (addr (2 ^ 40)) = true ∧ isZ64 (addr 0) = true ∧ s.shrinking s.firing.part (bitsAt (addr (2 ^ 40)).word 40 16) = false ∧
       s.shrinkRefused s.firing.part (bitsAt (addr (2 ^ 40)).word 40 16) (addr 0).word = true) ∧
    (let s0 := placed (one (some (addr (2 ^ 40))) (some (addr 1)) none)
     let s : State := { s0 with
       mem := writeBytes (writeBytes s0.mem 4104 [0, 16, 0, 0, 2]) 4160 [1, 0, 1, 0, 96, 0, 0, 0, 0, 0, 0, 0, 0, 0, 0, 0, 2, 0, 1, 0, 96]
       parts := [(0, { s0.part 0 with cores := [0, 1], shrLen := 2 ^ 39, launches := [(1, { lid := 1, img := 4096, size := 2, cores := [0, 1] })] })] }
     s.Runs {} false needLR (.run true 0) ∧ s.shrinking s.firing.part 1 = false ∧ s.shrinkRefused s.firing.part 1 1 = false) := by
  and_intros <;> first | exact runs_ok (by decide +kernel) | exact accesses_ok (by decide +kernel) | decide +kernel

/-- An entry that is written, one that overlaps, a cleared one; a range and the whole table; a pending invalidation. -/
theorem witness_range_tables :
    (let x := vecTok [65536, 131072, 0, 65536, 131072, 7, 0, 1]
     let s := placed (one (some x) (some (addr 128)) none)
     s.Runs {} false needLR (.run true 0) ∧ isZ64 (addr 128) = true ∧ x.tag = 5 ∧ x.v = true ∧ scaleOk x = true ∧ (addr 128).word % 128 ∈ (s.part 0).cores ∧ (addr 128).word < 2 ^ 12 ∧
       entOk [65536, 131072, 0, 65536, 131072, 7, 0, 0] = true ∧ entState [65536, 131072, 0, 65536, 131072, 7, 0, 0] = 0 ∧
       (∀ y ∈ (s.core 0).rtt, (y.1 = 1 ∨ entLimit y.2.words ≤ 65536 ∨ 131072 ≤ entBase y.2.words) ∧ entBase y.2.words < entLimit y.2.words) ∧ 1 ∉ (s.part 0).cores) ∧
    (let y : RttWrite := { site := ⟨0, 0, 0, 0⟩, flight := 5, entry := 1, words := range0, v := true, lock := false, lk := 1, round := 0 }
     let s := (placed (one none none none)).setCore 0 { (placed (one none none none)).core 0 with rttStage := [y] }
     (s.core 0).rttStage = [y]) ∧
    (let s := placed (one (some (addr 64)) (some (addr 128)) none)
     s.Accesses {} needLR ∧ s.Accesses {} {} ∧ isZ64 (addr 64) = true ∧ (addr 64).word % 64 = 0 ∧ (addr 128).word % 64 = 0 ∧ (addr 128).word ≠ 0) ∧
    (let s := (placed (one none none none)).setCore 0 { (placed (one none none none)).core 0 with invals := [{ id := 1, all := true, lo := 0, hi := 0, marker := none }] }
     (s.core 0).invals ≠ [] ∧ (s.core 0).rtt ≠ []) ∧
    (let c : Chain := ⟨0, 1, 2, 3⟩
     let s := placed (one (some (orderTok c)) none none)
     let v : RInv := { id := 1, site := ⟨0, 0, 0, 0⟩, flight := 1, chain := ⟨0, 1, 2, 0⟩, all := true, lo := 0, hi := 0, sent := false, left := [0] }
     s.Runs {} false needL (.run true 0) ∧ isOrder (orderTok c) = true ∧ (orderTok c).chain = some c ∧ (s.part 0).rinvs = [] ∧
       ((s.setPart 0 { s.part 0 with rinvs := [v] }).part 0).rinvs.any (fun v => v.chain.hgsp == c.hgsp && v.chain.thr == c.thr && v.chain.k == c.k) = true) := by
  and_intros <;> first | exact runs_ok (by decide +kernel) | exact accesses_ok (by decide +kernel) | decide +kernel

/-- A walk for the first byte of the second range, one for an address of no range, and an empty directory. -/
theorem witness_walks :
    (∀ a ∈ [4096, 65536], let s0 := directory (placed (one none none none))
      let s := s0.setCore 0 { s0.core 0 with walks := [⟨a, none⟩] }
      (s.core 0).lk = some 1 ∧ (s.core 0).walks.find? (fun x => x.fault.isNone) = some ⟨a, none⟩ ∧ (s.part 0).dlock = false ∧ (s.part 0).busy = false ∧ 0 < (s.part 0).rdirCnt ∧ (s.part 0).rdirCnt ≤ 2 ^ 20 ∧
        (∀ i j : Fin 2, i < j → entBase (dirEntry s (s.part 0) i) ≤ entLimit (dirEntry s (s.part 0) i) ∧ entLimit (dirEntry s (s.part 0) i) ≤ entBase (dirEntry s (s.part 0) j)) ∧
        entHas (dirEntry s (s.part 0) 1) a = decide (a = 4096) ∧ entHas (dirEntry s (s.part 0) 0) a = false ∧ entOk (dirEntry s (s.part 0) 1) = true ∧ mget (s.core 0).rtt 1 = none ∧ (mget (s.core 0).rtt 0).isSome = true) ∧
    (placed (one none none none)).part 0 = { (placed (one none none none)).part 0 with rdirCnt := 0 } := by decide +kernel

/-- An ADD at index 0 whose result is due, and the instruction at index 1 that its target names. -/
def emitting0 (w : Word64) (pend : List (List Nat)) (latch : Option Token) : State :=
  { State.reset with banks := [(0, {
      st := 1, lk := 1, words := [(0, w), (1, 0x0600000000000000)]
      elems := [(0, { q0 := [{ due := 0, outs := some [(0, i32 5)], round := some 0, after := none, id := 0 }], pend := pend }), (1, { l := { latch := latch } })] })] }

/-- A circuit of two hops. -/
def arc0 (x y : Hop) : State :=
  { State.reset with banks := [(0, { st := 1, lk := 1, arcs := [{ src := (0, 0), dstNum := none, dstIdx := 1, dstSlot := .l, hops := [x, y] }] })] }

/-- A pending cancel; an empty and a full latch; a register target; the four meetings at a hop, and a marker. -/
theorem witness_tokens_move :
    (∀ x ∈ [([[0], [], [], []], none), ([[], [], [], []], none), ([[], [], [], []], some (i32 1))], let s := emitting0 0x2000404080000000 x.1 x.2
      let b := s.bank 0
      isSysBank 0 = false ∧ (s.core 0).idles = [] ∧ b.instr 0 = some (.add { ty := .i32, t0 := .slot 1 .l }) ∧ (s.elem ⟨0, 0, 0, 0⟩).q0 = [{ due := 0, outs := some [(0, i32 5)], round := some 0, after := none, id := 0 }] ∧
        (s.elem ⟨0, 0, 0, 0⟩).q1 = [] ∧ (s.elem ⟨0, 0, 0, 0⟩).pend = x.1 ∧ arcsOf b 0 0 (.slot 1 .l) = [] ∧ ((b.elem 1).slot .l).anti = [] ∧ ((b.elem 1).slot .l).latch = x.2 ∧
        ((b.elem 1).slot .l).marks ≤ (b.elem 1).fwd) ∧
    (emitting0 0x200040C280000000 [[], [], [], []] none).firing.b.instr 0 = some (.add { ty := .i32, t0 := .creg 5 }) ∧
    (∀ x ∈ [(({ fwd := some (i32 1) } : Hop), ({} : Hop)), ({ fwd := some (i32 1) }, { rev := some 0 }), ({ fwd := some (i32 1) }, { fwd := some (i32 2) }), ({ fwd := some (i32 1) }, { marks := 1 }), ({ marks := 1 }, {})],
      ((arc0 x.1 x.2).bank 0).arcs[0]?.map (fun a => (a.hops[0]?, a.hops[1]?)) = some (some x.1, some x.2)) := by decide +kernel

/-- An anti-token that meets a token, one that becomes the seventh pending cancel, one that meets its marker; a cancelled ADD and a cancelled load; records that a reader delivers and holds; the end of QUIET. -/
theorem witness_cancellation :
    (let x (k : InSlot) (pend : List Nat) : Bank := { st := 1, lk := 1, words := [(0, 0x2000404020000000), (1, 0x2000404080000000)], elems := [(0, { r := k }), (1, { pend := [pend, [], [], []] })] }
     let y := x { anti := [0] } [0, 0, 0, 0, 0, 0]
     ((x { anti := [0], latch := some (i32 1) } []).elem 0).r.latch.isSome = true ∧ (y.elem 0).r.anti = [0] ∧ portFed y 0 .r = false ∧ arcTo y 0 .r = none ∧ backEdge (y.instr 0) .r = false ∧
       producers { y with words := [(0, 0x2000404060000000), (1, 0x2000404020000000)] } 0 .r = [(1, 0)] ∧ ((y.elem 1).pend.getD 0 []).length < 7 ∧ (y.elem 1).fwd ≤ 0 ∧
       ((x { anti := [0], marks := 1 } []).elem 0).r.latch = none ∧ 0 < ((x { anti := [0], marks := 1 } []).elem 0).r.marks ∧
       (let s := (live State.reset).setBank 0 (x { anti := [0], marks := 1 } [])
        (s.part (lkPart (s.bank 0).lk)).en = true ∧ isSysBank 0 = false ∧ s.portRoom (bankCore 0) = true ∧ (s.launch (s.bank 0).lk).isSome = true)) ∧
    (let e : Elem := { l := { latch := some (i32 1) }, pend := [[0], [], [], []] }
     let ws : Map Word64 := [(0, 0x2000404080000000), (1, 0x2000404000000000), (2, 0x2000404020000000)]
     let b : Bank := { st := 1, lk := 1, words := ws, elems := [(0, e)] }
     b.instr 0 = some (.add { ty := .i32, t0 := .slot 1 .l }) ∧ hasSource b 0 .l = true ∧ hasSource b 0 .r = true ∧ hasSource b 0 .p = false ∧ antiCanLeave b 0 .r = true ∧ e.l.waits = false ∧ toRegister b 0 = false ∧ e.q0 = [] ∧ e.q1 = [] ∧
       (let c : Bank := { st := 1, lk := 1, words := [(0, 0x9000404080000000), (1, 0x2000404000000000)], elems := [(0, e)] }
        c.instr 0 = some (.ld { ty := .i32, t0 := .slot 1 .l }) ∧ hasSource c 0 .l = true ∧ hasSource c 0 .r = false ∧ hasSource c 0 .p = false ∧ toRegister c 0 = false)) ∧
    (∀ succ ∈ [3, 4], let s0 := placed (one none none none)
      let b : Bank := { st := 1, lk := 1, blk := 3, h0 := 0xB7, h1 := 2 ^ 43 + 15 }
      let v : Stored := { pay := vecPay 64 [2 ^ 56 + 7 * 2 ^ 24 + succ, 9], v := true }
      let s := (s0.setBank 0 b).setMtile 2 { s0.mtile 2 with recs := [{ val := v, round := 0, key := none, seq := 0 }] }
      s.launchOfBank b = some { lid := 1, img := 4096, size := 1, cores := [0] } ∧ s.queueTile { lid := 1, img := 4096, size := 1, cores := [0] } (eqix b) = some 2 ∧ s.readerHead { lid := 1, img := 4096, size := 1, cores := [0] } b 2 = some (0, v) ∧ s.bank 0 = b ∧ b.st = 1 ∧ b.upper = none ∧ eqv b = true ∧ b.blocked = false ∧
        (s.part (lkPart b.lk)).en = true ∧ s.portRoom (bankCore 0) = true ∧
        (∀ j : Fin 2, mgetD b.drops j [] = [] ∧ (b.elem (32 + j)).l.anti = [] ∧ (b.elem (32 + j)).l.latch = none ∧ (b.elem (32 + j)).l.marks ≤ (b.elem (32 + j)).fwd) ∧
        readerFault s.mem 4096 b (laneOf v.pay 64 0) = decide (succ = 4)) ∧
    (let q : Quiet := { site := ⟨0, 0, 0, 0⟩, flight := 5, n := 2, count := 2, start := 0 }
     let s0 := placed (one none none none)
     let l : Launch := { lid := 1, img := 4096, size := 1, cores := [0], quiets := [q] }
     let s := s0.setPart 0 { s0.part 0 with launches := [(1, l)] }
     s.launch (s.bank 0).lk = some l ∧ l.quiets.find? (fun x => x.site == ⟨0, 0, 0, 0⟩ && decide (x.n ≤ x.count)) = some q) := by decide +kernel

/-- A marker that is due and one that is not; an instruction that has its marker, one that has none and one that owes a result; a bank, a memory tile, a node and a port that a marker passes. -/
theorem witness_markers :
    (∀ c ∈ [(1024, true), (1023, false)], let s0 := placed (one none none none)
      let l : Launch := { lid := 1, img := 4096, size := 1, cores := [0], since := c.1 }
      let s := (s0.setPart 0 { s0.part 0 with launches := [(1, l)] }).setBank 0 { st := 1, lk := 1, words := [(0, 0x2000404080000000)] }
      s.launch 1 = some l ∧ lkLid 1 ≠ 0 ∧ s.markerDue 1 l = c.2 ∧ mgetD (s.core 0).inj 1 0 = l.round ∧ s.banks = [(0, { st := 1, lk := 1, words := [(0, 0x2000404080000000)] })] ∧ ([0] : List Nat).Nodup) ∧
    (let b (el : Elem) : Bank := { st := 1, lk := 1, words := [(0, 0x2000404080000000), (2, 0x2000404000000000), (3, 0x2000404020000000)], elems := [(0, el)] }
     let at' (el : Elem) : State := (placed (one none none none)).setBank 0 (b el)
     let m : Elem := { l := { marks := 1 }, r := { marks := 1 } }
     let i : Instr := .add { ty := .i32, t0 := .slot 1 .l }
     (b {}).instr 0 = some i ∧ freeConst (b {}) 0 = false ∧ deadInstr (b {}) 0 i = false ∧ (at' {}).markersIn (b {}) 0 = false ∧ (at' m).markersIn (b m) 0 = true ∧
       (at' m).owes ⟨0, 0, 0, 0⟩ i = false ∧ (at' { m with q0 := [{ due := 9, outs := some [(0, i32 1)], round := some 0, after := none, id := 0 }] }).owes ⟨0, 0, 0, 0⟩ i = true ∧
       i.targets = [.slot 1 .l, .none] ∧ arcsOf (b m) 0 0 (.slot 1 .l) = []) ∧
    (let s0 := placed (one none none none)
     let l : Launch := { lid := 1, img := 4096, size := 1, cores := [0], round := 1 }
     let b : Bank := { st := 1, lk := 1, rstage := [(0, { key := ⟨0, 0, 0, 0, 0⟩, seq := 0, reg := 3, val := { pay := 7 } })], nstage := [(0, 1)] }
     let s := (s0.setPart 0 { s0.part 0 with launches := [(1, l)] }).setBank 0 b
     b.mpass < s.injOf 1 0 ∧ s.liveInstrs b = [] ∧ b.drops = [] ∧ b.rev = [] ∧ b.upper = none ∧ b.tile2 = none ∧ (s.core 0).csrStage = [] ∧
       (let t := s.setBank 0 { b with mpass := 1 }
        let a : Arrival := { lk := 1, core := 0, round := 0, key := ⟨0, 0, 0, 0, 0⟩, seq := 0, space := .tile 0 0, addr := 8, op := .write [1], req := 0 }
        let u := t.setMtile 0 { stage := [a] }
        mgetD (u.mtile 0).pass 1 0 < u.injOf 1 0 ∧ u.banksPast 1 0 0 = true ∧ u.opUnderway 1 0 0 (fun x => x == .tile 0 0) = false ∧ (u.mtile 0).stage = [a] ∧ mgetD (u.ctile 0).pass 1 0 < u.injOf 1 0 ∧
          (let tiles : Map MTile := (List.range 16).map (fun m => (m, { pass := [(1, 1)] }))
           let nodes : Map CTile := (List.range 16).map (fun m => (m, { pass := [(1, 1)] }))
           let w : State := { t with mtiles := tiles, ctiles := nodes }
           w.banksPast 1 0 0 = true ∧ (∀ m : Fin 16, 0 < mgetD (w.mtile (tileKey 0 m)).pass 1 0 ∧ 0 < mgetD (w.ctile (tileKey 0 m)).pass 1 0) ∧ w.opUnderway 1 0 0 (fun _ => true) = false))) := by decide +kernel

/-- A unit at its slice; one that the bound interleave makes wait; a unit for a peer; host accesses to a host-biased, a device-biased and a flipping range. -/
theorem witness_units :
    (let a : Arrival := { lk := 1, core := 0, round := 0, key := ⟨0, 0, 0, 0, 0⟩, seq := 0, space := .dev, addr := 64, op := .write [1], req := 0 }
     let s0 := placed (one none none none)
     let l : Launch := { lid := 1, img := 4096, size := 1, cores := [0], round := 1, cut := 1 }
     let s : State := { s0.setPart 0 { s0.part 0 with launches := [(1, l)] } with units := [a] }
     s.launch 1 = some l ∧ s.portHolds 0 = false ∧ s.units = [a] ∧ s.overlay = [] ∧ s.waiters = [] ∧ s.hostLines = [] ∧ slicesOf (s.part 0) (dieOfAddr 64) = [0] ∧ a.round < s.cutOf 1 0 ∧ s.hasView 1 0 = false ∧ (∀ d ∈ s.dies, d.st = 0) ∧
       ({ s with ecc := [(.dev, 1)] } : State).spoilt .dev 64 1 = true) ∧
    (let a : Arrival := { lk := 1, core := 0, round := 0, key := ⟨0, 0, 0, 0, 0⟩, seq := 0, space := .dev, addr := 64, op := .write [1], req := 0, osh := true }
     let s0 := pinnedDir (placed (one none none none))
     let l : Launch := { lid := 1, img := 4096, size := 1, cores := [0], round := 1, cut := 1, trk := true, ord := true, ltag := 5 }
     let s : State := { s0.setPart 0 { s0.part 0 with
         launches := [(1, l), (2, { l with lid := 2, ltag := 6 })], trcMode := 2, trcBase := 12288, trcLen := 16, trcEnd := 1 } with
       units := [a, { a with lk := 2 }], views := [(0, 1, 0, [])], mem := writeBytes s0.mem 12288 (leBytes 8 (6 * 16 + 4) ++ leBytes 8 0) }
     s.launch 1 = some l ∧ s.nextUnit 1 0 0 = some 0 ∧ s.hasView 1 0 = true ∧ s.boundUnit 0 0 = some (0, 6, 0) ∧ s.canArrive 0 0 6 0 = true) ∧
    (let a : Arrival := { lk := 1, core := 0, round := 0, key := ⟨0, 0, 0, 0, 0⟩, seq := 0, space := .peer 3, addr := 64, op := .write [1], req := 0 }
     let s : State := { placed (one none none none) with units := [a], remoteUnits := [⟨3, 1, 0, 0⟩], hostReqs := [(4, { a with space := .host })] }
     s.remoteUnits.find? (fun x => x.peer == 3 && x.core == 0) = some ⟨3, 1, 0, 0⟩ ∧ s.units.filter (fun a => a.space == .peer 3 && a.lk == 1 && a.core == 0 && a.round == 0) = [a] ∧ s.hostReqs = [(4, { a with space := .host })]) ∧
    (let bias : List Nat := [0, 65536, 0, 0, 65536, 0x17, 0, 0]
     let s0 := placed (one none none none)
     let s : State := { s0 with mem := writeBytes s0.mem 8192 (bias.flatMap (leBytes 8)), parts := [(0, { s0.part 0 with rdirBase := 8192, rdirCnt := 1, rdirCap := 1 })] }
     let r : RCmd := RCmd.mk { id := 1, site := ⟨0, 0, 0, 0⟩, lk := 1, core := 0, round := 0, thr := 0, op := 0xBF, words := [0, 0], key := ⟨0, 0, 0, 0, 0⟩, user := false } 1 0
     (s.rangeAt 100).map Prod.snd = some bias ∧ (s.rangeAt 100).any (fun x => !s.flipping x.1 x.2) = true ∧ entBit bias atBIAS = true ∧ mget s.hostLines 64 = none ∧ s0.rangeAt 100 = none ∧ s0.overlay = [] ∧ (∀ d ∈ s0.dies, d.st = 0) ∧
       100 % 64 + 8 ≤ 64 ∧ 100 % 2 ^ 38 < 192 * 2 ^ 30 ∧
       ((s.setPart 0 { s.part 0 with rcmds := [r] }).rangeAt 100).any (fun x => (s.setPart 0 { s.part 0 with rcmds := [r] }).flipping x.1 x.2) = true) := by decide +kernel


/-- Where a partition has one slice of a die, that slice is the home of its lines, whatever the hash of log 4 is. -/
theorem sliceOf_one {s : State} {part a : Nat} (h : slicesOf (s.part part) (dieOfAddr a) = [0]) : s.sliceOf part a = 64 * dieOfAddr a := by
  simp [State.sliceOf, h, Nat.mod_one]

/-- A state whose partition 0 is free to start and end launches: no block is resident, core 0 belongs to launch 1. -/
def calm (s : State) : State := { s with banks := [] }

/-- A launch of the image. -/
def launch1 : Launch := { lid := 1, img := 4096, size := 1, cores := [0] }

/-- Launch 1 as given. -/
def launched (l : Launch) (s : State) : State := s.setPart 0 { s.part 0 with launches := [(1, l)] }

/-- Where no tile that is listed holds a record, no tile does. -/
theorem recs_none {s : State} (h : ∀ x ∈ s.mtiles, x.2.recs = []) (k : Nat) : (s.mtile k).recs = [] := by
  have g : ∀ m : Map MTile, (∀ x ∈ m, x.2.recs = []) → (mgetD m k {}).recs = [] := by
    intro m
    induction m with
    | nil => intro _; rfl
    | cons x m ih =>
      intro h
      have h1 : x.2.recs = [] := h x (by simp)
      have h2 := ih (fun y hy => h y (by simp [hy]))
      simp only [mgetD, mget] at h2 ⊢
      split
      · exact h1
      · split
        · rfl
        · exact h2
  exact g s.mtiles h

/-- Two ready packets of the image, the second of a lower arrival order; a launch with nothing left; one with another load to come; a reconfiguration token that waits and one that moves. -/
theorem witness_launches :
    (let x : Packet := { packet0 [4096] with aseq := 3 }
     let y : Packet := packet0 [4096]
     let s0 := calm (placed (one none none none))
     let s := { s0 with cores := [] }.setPart 0 { s0.part 0 with queue := [y, x], launches := [] }
     let p := s.part 0
     let ep (q : Packet) : Nat := ((p.priorities.find? (fun z => z.1 == 2 * q.aseq)).map (fun z => z.2.2)).getD 0
     let cores (q : Packet) : List Nat := (s.freeCores 0).take (variantFor s.mem (pkImg q.words) (s.freeCores 0).length (pkMaxc q.words))
     s.launchLate 0 = s ∧ (s.part 0).halted = false ∧ (s.part 0).trcMode ≠ 2 ∧ x ∈ (s.part 0).queue ∧ s.packetReady 0 x = true ∧ cores x ≠ [] ∧ s.argsHeld 0 x = false ∧ p.cfuts = [] ∧
       ∀ z ∈ p.queue, z = x ∨ ep z < ep x ∨ ep z = ep x ∧ x.aseq < z.aseq) ∧
    (let s := launched launch1 (calm (placed (one none none none)))
     s.launch 1 = some launch1 ∧ s.mayChange 1 launch1 = true ∧ s.underway 1 launch1 = false ∧ s.recordsLeft 1 launch1 = false ∧ s.allCommitted 1 launch1 = true ∧ launch1.cfut = 0 ∧ launch1.trk = false ∧ launch1.staged = [] ∧
       ((s.part (lkPart 1)).launches.map Prod.fst).Nodup) ∧
    (let s0 := launched launch1 (calm (placed (one none none none)))
     let s := { s0 with mem := writeBytes s0.mem 4162 [2] }
     s.launch 1 = some launch1 ∧ launch1.load + 1 < loadCount s.mem launch1.img launch1.size ∧ s.mayChange 1 launch1 = true ∧ s.underway 1 launch1 = false ∧ launch1.pushes = [] ∧ launch1.round ≤ launch1.cut + 1 ∧
       (∀ x ∈ blockTable s.mem launch1.img (s.loadOf launch1), ∀ k, s.entryQueue launch1 x.2.blk = some k → (s.mtile k).recs = [])) ∧
    (∀ x ∈ [(0, 1), (1, 1), (1, 0)], let l : Launch := { launch1 with reconf := some [], round := 1, cut := x.1, eff := 1 }
      let s0 := launched l (calm (placed (one none none none)))
      let s := { s0 with mtiles := (List.range 16).map (fun m => (m, { pass := [(1, x.2)] })), ctiles := (List.range 16).map (fun m => (m, { pass := [(1, 1)] })) }
      s.launch 1 = some l ∧ l.cores = [0] ∧ decide (l.cut < l.round) = decide (x.1 = 0) ∧ l.round ≤ l.eff ∧ (s.part (lkPart 1)).halted = false ∧
        (List.range 96).all (s.tokenAt 1 l 0) = decide (x.2 = 1)) := by
  have hrecs : ∀ k, ((launched launch1 (calm (placed (one none none none)))).mtile k).recs = [] := recs_none (by decide +kernel)
  refine ⟨by decide +kernel, by decide +kernel, ?_, by decide +kernel⟩
  and_intros <;> first | exact fun _ _ k _ => hrecs k | decide +kernel

/-- A swappable block that does not wait, that waits, and that has waited long; shrinks whose cut is not complete, whose save area does not serve, and one that folds. -/
theorem witness_blocks :
    (∀ age ∈ [0, 64], let l : Launch := { launch1 with ages := [(0, age)] }
      let s0 := launched l (calm (placed (one none none none)))
      let s := s0.setMtile 2 { s0.mtile 2 with recs := [{ val := { pay := 7 }, round := 0, key := none, seq := 0 }] }
      let here := (blockTable s.mem l.img (s.loadOf l)).filter (fun x => l.coreOf x.2.core == 0 && (x.2.tile == 0 || x.2.tile2 == 0) && !x.2.pinned)
      let ws := here.filter (fun x => s.waits 1 l x.1 x.2)
      (s.core 0).lk = some 1 ∧ s.launch 1 = some l ∧ s.mayChange 1 l = true ∧ s.trBound (lkPart 1) l.trk = false ∧ ws.length = 1 ∧ ws.filter (fun x => (s.freeSpan 0 x.2).isSome) ≠ [] ∧
        here.filter (fun x => s0.waits 1 l x.1 x.2) = []) ∧
    (∀ x ∈ [(0, false), (1, false), (1, true)], let l : Launch := { launch1 with cores := [0, 1], shrink := some (1, 0, none), cut := x.1, eff := 1 }
      let s0 := launched l (pinnedDir (calm (placed (one none none none))))
      let dir := ([0, 2 ^ 30, 0, 0, 2 ^ 30, 0x47, 0, 0] : List Nat).flatMap (leBytes 8)
      let v : State := { s0 with mem := writeBytes s0.mem 8192 dir }.setPart 0 { s0.part 0 with shrBase := 2 ^ 24, shrLen := if x.2 then 2 ^ 24 else 0, shareS := [2 ^ 30, 0, 0, 0] }
      v.releaseLeft 1 = v ∧ v.launch 1 = some l ∧ l.shrink = some (1, 0, none) ∧ l.cut ≤ l.eff ∧ (v.part (lkPart 1)).halted = false ∧ (v.saveArea (lkPart 1) (l.cores.length - 1)).isSome = x.2 ∧
        v.masksMeet l 1 = false ∧ l.trk = false ∧ ∀ a ∈ v.saveArea (lkPart 1) (l.cores.length - 1), v.spoilt .dev a (1 * saveSize) = false ∧
          ({ v with ecc := [(.dev, a / 64)] } : State).spoilt .dev a (1 * saveSize) = true) := by decide +kernel

/-- A CRD in bank 0 with a firing whose result leaves now. -/
def reading (l : Launch) (p : Partition) (step : Nat) : State :=
  { launched l (placed (one none none none)) with
    fc := 5
    parts := [(0, { p with cores := [0], en := true, launches := [(1, l)] })]
    cores := [(0, { lk := some 1, step := step })]
    banks := [(0, { st := 1, lk := 1, words := [(0, 0x1A00004188740017)], elems := [(0, { q0 := [{ due := 5, outs := some [(0, i32 5)], round := some 0, after := none, id := 0 }] })] })] }

/-- A residue that disagrees once, twice and three times; a register read, with and without a roll-back left; a trimmed core, a core at 0 and one in exact mode. -/
theorem witness_errors :
    (∀ k ∈ [0, 1, 2], let n : CTile := { node with resx := k, kept := [(0, 0, 0, { pay := 7, rv := true }, 2)] }
      let s : State := { placed (one none none none) with fc := 5, ctiles := [(0, n)] }
      s.ctile (tileKey 0 0) = n ∧ (s.core 0).lk = some 1 ∧ s.launch 1 = some launch1 ∧ lkLid 1 ≠ 0 ∧ (∃ x ∈ n.kept, x.2.2.2.1.rv = true ∧ x.2.2.2.2 + 3 = s.fc) ∧ launch1.swaps = [] ∧
        launch1.rbCut < (s.part (lkPart 1)).rbmax ∧ (s.part (lkPart 1)).en = true ∧ s.portRoom 0 = true) ∧
    (∀ x ∈ [(0, 0, false), (3, 0, false), (0, 2, false), (0, 2, true)], let l : Launch := { launch1 with rbCut := x.1 }
      let s := reading l { exact := x.2.2 } x.2.1
      (s.bank 0).st = 1 ∧ s.launch 1 = some l ∧ lkLid 1 ≠ 0 ∧ (s.bank 0).instr 0 = some (.crd { t0 := .slot 3 .l, t1 := .slot 7 .r, imm := 0x17 }) ∧ l.swaps = [] ∧
        decide (l.rbCut < (s.part (lkPart 1)).rbmax) = decide (x.1 = 0) ∧ (s.core 0).step = x.2.1 ∧ (s.part (lkPart 1)).exact = x.2.2 ∧ (s.part (lkPart 1)).en = true) ∧
    (∀ x ∈ [(false, 5, 4), (false, 4, 4), (true, 0, 4)], let s := reading launch1 { exact := x.1, tlim := x.2.2 } 0
      s.partOfCore 0 = some 0 ∧ (s.part 0).exact = x.1 ∧ decide (x.2.1 ≤ (s.part 0).tlim) = decide (x.2.1 ≠ 5) ∧ (s.part 0).handler = none) ∧
    (let s := reading launch1 {} 0
     (s.bank (siteKey ⟨0, 0, 0, 0⟩)).st = 1 ∧ (mget (s.bank (siteKey ⟨0, 0, 0, 0⟩)).words 0).isSome = true ∧ s.memOk = true) := by decide +kernel

/-- A record for a queue with room, a full queue, and a queue without memory; a load from a die that is lost, with poison and with a held site; a unit for such a die. -/
theorem witness_records :
    (let r : FRec := ⟨7, [0, 0, 0, 0, 0, 0], 9⟩
     let s0 := pinnedDir (placed (one none none none))
     let s1 : State := { s0 with cores := [(0, { frecs := [r] })] }
     let s := s1.setPart 0 { s0.part 0 with fqlog := 4, fqBase := 12288 }
     s.partOfCore 0 = some 0 ∧ (s.core 0).frecs = [r] ∧ 4 ≤ (s.part 0).fqlog ∧ (s.part 0).fq.length < 2 ^ (s.part 0).fqlog ∧
       s.pinned 0 ((s.part 0).fqBase.toNat + 64 * ((s.part 0).fser % 2 ^ (s.part 0).fqlog)) 64 true = some 12288 ∧
       (s1.setPart 0 { s0.part 0 with fqlog := 4, fqBase := 2 ^ 30 }).pinned 0 (2 ^ 30) 64 true = none ∧
       2 ^ 4 ≤ ((s1.setPart 0 { s0.part 0 with fqlog := 4, fq := (List.range 16).map (fun i => ⟨i, r⟩) }).part 0).fq.length) ∧
    (∀ c ∈ [true, false], let p := piece 64 4
      let r : Req := { id := 3, site := ⟨0, 0, 0, 0⟩, lk := 1, round := 0, due := 9, kind := .load 12 false 127, fresh := false, chain := ⟨0, 0, 0, 0⟩, parts := [p], thr := 0, cancel := c }
      let s : State := { placed (one none none none) with reqs := [r], dies := [{ st := 1 }, {}, {}, {}] }
      s.reqs.find? (fun x => x.id == r.id && !x.arrived) = some r ∧ r.parts.find? (fun x => s.partLost r.admitted x.space x.addr) = some p ∧ r.op = none ∧ r.cancel = c ∧ s.portRoom r.site.core = true ∧
        (s.part (lkPart (s.bank (siteKey r.site)).lk)).en = true ∧ isSysBank (siteKey r.site) = false) ∧
    (let a : Arrival := { lk := 1, core := 0, round := 0, key := ⟨0, 0, 0, 0, 0⟩, seq := 7, space := .dev, addr := 64, op := .write [1], req := 0 }
     let s : State := { launched { launch1 with round := 1, cut := 1 } (placed (one none none none)) with units := [a], dies := [{ st := 1 }, {}, {}, {}] }
     s.reqs = [] ∧ s.units = [a] ∧ s.overlay = [] ∧ a.round < s.cutOf a.lk a.core ∧ (∃ d, s.dies[dieOfAddr a.addr]? = some d ∧ d.st ≠ 0)) :=
  ⟨by decide +kernel, by decide +kernel, by decide +kernel, by decide +kernel, by decide +kernel, by decide +kernel, { st := 1 }, by decide +kernel, by decide +kernel⟩

/-- A tracked partition and one without a tracked launch: recording with and without room, a bound trace that ends well and ones that do not; a directory with and without its lock; a launch whose period is written. -/
theorem witness_register_writes :
    (let s0 := pinnedDir (placed (one none none none))
     let p := s0.part 0
     let at' (p : Partition) : State := s0.setPart 0 p
     ((at' { p with launches := [(1, { launch1 with trk := true })] }).part 0).tracked = true ∧ p.tracked = false ∧ p.trcMode ≠ 1 ∧
       (let q := { p with trcMode := 1, trcLen := 4, trcBase := 12288 }
        q.tracked = false ∧ q.trcPos < q.trcLen.toNat ∧ (at' q).pinned 0 (q.trcBase.toNat + 16 * q.trcPos) 16 true = some 12288) ∧
       (let q := { p with trcRec := 1, trcLen := 4, trcBase := 12288 }
        let s : State := { at' q with mem := writeBytes s0.mem 12288 (leBytes 8 15 ++ leBytes 8 0) }
        s.trRead 0 (q.trcRec - 1) = some (15, 0) ∧ 0 < q.trcRec ∧ q.trcOvf = false ∧ 15 % 2 ^ 4 = 15 ∧ (15 : Nat).testBit 20 = false) ∧
       (at' { p with trcLen := 4, trcBase := 12288 }).trRead 0 (0 - 1) = some (0, 0) ∧ p.dlock = false ∧ ({ p with dlock := true } : Partition).dlock = true ∧ s0.launch 1 = some launch1) := by decide +kernel

/-- A host command for partition 0. -/
def cmdOf (op : Nat) (ws : List Nat) : HostCommand := { words := BitVec.ofNat 64 op :: ws.map (BitVec.ofNat 64) }

/-- Partition 0 at rest, with its image and a member list at 16,384. -/
def idle0 : State :=
  let s := placed (one none none none)
  { s with banks := [], cores := [], mem := writeBytes (writeBytes s.mem 4096 [0x49, 0x47, 0x5A, 0x4B, 1, 0]) 16384 (leBytes 8 1), parts := [(0, { s.part 0 with launches := [], fqlog := 4 })] }

/-- A reserved bit and a partition above 95 in every command; one command of each kind that is accepted. -/
theorem witness_host_commands :
    2 ^ 16 ≤ (cmdOf (2 ^ 16) []).w 0 ∧ (cmdOf (96 * 256) []).w 0 < 2 ^ 16 ∧ 95 < (cmdOf (96 * 256) []).part ∧ (∀ i : Fin 8, 1 ≤ i.val → (cmdOf (96 * 256) []).w i = 0) ∧
    (let s := idle0
     let p := s.part 0
     let zeroFrom (c : HostCommand) (n : Nat) : Prop := ∀ i : Fin 8, n ≤ i.val → c.w i = 0
     (∀ c ∈ [cmdOf 1 [1, 0, 5], cmdOf 2 [1, 0, 0, 0, 4, 0], cmdOf 3 [], cmdOf 4 [0x21, 64], cmdOf 5 [4096], cmdOf 6 [3, 0, 64, 1], cmdOf 7 [1, 3], cmdOf 8 [4, 16384], cmdOf 9 [5], cmdOf 10 [],
         cmdOf 12 [7, 0], cmdOf 12 [7, 0xFF], cmdOf 13 [2, 100], cmdOf 14 []], c.w 0 < 2 ^ 16 ∧ c.part = 0) ∧
       p.runs = false ∧ p.launches = [] ∧ p.fq = [] ∧ ({ p with fq := [{ fser := 0, record := ⟨0, [], 0⟩ }] } : Partition).fq ≠ [] ∧ p.handler = none ∧ (s.parts.map Prod.fst).Nodup ∧ s.others 0 = [] ∧
       (let c := cmdOf 1 [1, 0, 5]
        (∀ i : Fin 8, 4 ≤ i.val → c.w i = 0) ∧ c.w 2 < 2 ^ 32 ∧ c.w 3 &&& (2 ^ 64 - 1 - 511 * (1 + 2 ^ 16 + 2 ^ 32 + 2 ^ 48)) = 0 ∧ (∀ k ∈ p.cores, k ∈ maskCores (c.w 1) (c.w 2) ∨ (s.core k).lk = none) ∧
          (∀ d : Fin 4, (fields16 (c.w 3)).getD d 0 ≤ 256)) ∧
       (let c := cmdOf 2 [1, 0, 0, 0, 4, 0]
        c.w 7 = 0 ∧ ∀ d : Fin 4, c.w 6 / 2 ^ (16 * d.val) % 2 ^ 16 + c.w 5 / 2 ^ (16 * d.val) % 2 ^ 16 ≤ 192 ∧ (c.w 5 / 2 ^ (16 * d.val) % 2 ^ 16 = 0 ∨ c.w (d + 1) ≠ 0)) ∧
       (∀ c ∈ [cmdOf 4 [0x21, 64], cmdOf 7 [1, 3], cmdOf 8 [4, 16384], cmdOf 12 [7, 0], cmdOf 13 [2, 100]], zeroFrom c 3) ∧ zeroFrom (cmdOf 5 [4096]) 2 ∧ zeroFrom (cmdOf 6 [3, 0, 64, 1]) 5 ∧
       zeroFrom (cmdOf 9 [5]) 2 ∧ zeroFrom (cmdOf 3 []) 1 ∧ 4 ≤ p.fqlog ∧ p.fqlog ≤ 12 ∧ p.fqBase.toNat % (64 * 2 ^ p.fqlog) = 0 ∧ handlerImageOk s.mem p 4096 = true ∧ s.groupOk 16384 = true) := by decide +kernel

/-- The CRC of bytes of zeros is 0. -/
theorem crc64_zeros (n : Nat) : crc64 (List.replicate n 0) = 0 := by
  have h : ∀ n, (List.replicate n (0 : Byte)).foldl (fun (c : BitVec 64) b => (List.range 8).foldl (fun c _ => if c.getLsbD 63 then (c <<< 1) ^^^ 0x42F0E1EBA9EA3693#64 else c <<< 1)
      (c ^^^ ((BitVec.ofNat 64 b.toNat : BitVec 64) <<< (56 : Nat)))) 0 = 0 := by
    intro n
    induction n with
    | zero => rfl
    | succ n ih =>
      rw [List.replicate_succ, List.foldl_cons]
      exact ih
  exact h n

/-- The last die and one of four; the states of a die; a push that is unbound, off its alignment, refused by a full queue and accepted; flits; a port with replays left and one without. -/
theorem witness_dies_and_links :
    (let c := cmdOf 0x0B [1]
     c.w 0 < 2 ^ 16 ∧ c.part = 0 ∧ (∀ i : Fin 8, 2 ≤ i.val → c.w i = 0) ∧ idle0.dies[c.w 1]? = some {} ∧ 1 < (idle0.dies.filter (fun x => x.st == 0)).length ∧ (∀ x ∈ idle0.parts, x.2.launches = []) ∧
       (([{}, { st := 2 }, { st := 2 }, { st := 3 }] : List Die).filter (fun x => x.st == 0)).length ≤ 1) ∧
    (∀ d ∈ [({ st := 1 } : Die), { st := 2 }, { st := 3 }], let s := { idle0 with fc := 900000, dies := [{}, d, {}, {}] }
      s.dies[1]? = some d ∧ s.reqs = [] ∧ d.since + 850000 ≤ s.fc) ∧
    (let ws := [4096, 3 + 2 ^ 32, 0, 0, 0, 0, 0, 0, 0, 0, 0, 0, 0, 0, 0, 0]
     let s : State := { idle0 with mem := writeBytes idle0.mem 8192 (ws.flatMap (leBytes 8)), hub := { vfs := [(9, 0)] } }
     mget idle0.hub.vfs 9 = none ∧ mget s.hub.vfs 9 = some 0 ∧ inShare (s.part 0) 8192 128 = true ∧ inShare (s.part 0) (2 ^ 20) 128 = false ∧ packetWords (readBytes s.mem 8192 128) = ws ∧
       s.packetOk 0 ws false = true ∧ ((s.part 0).queue.filter (fun q => q.queue == 0)).length < 32 ∧
       32 ≤ (({ s.part 0 with queue := List.replicate 32 (packet0 []) } : Partition).queue.filter (fun q => q.queue == 0)).length) ∧
    (let f : Flit := { words := List.replicate 32 0 }
     let g : Flit := { words := List.replicate 31 0 ++ [1] }
     f.crcOk = true ∧ g.crcOk = false ∧ f.seq = 0 ∧ (mgetD idle0.hub.ports 2 {}).down = false ∧ (mgetD idle0.hub.ports 2 {}).rxSeq = 0 ∧ (mgetD idle0.hub.ports 2 {}).fails < 8) :=
  by
  have h : ((List.replicate 31 (0 : BitVec 64)).flatMap (fun w => leBytes 8 w.toNat)) = List.replicate 248 0 := by decide +kernel
  refine ⟨by decide +kernel, by decide +kernel, by decide +kernel, ?_, ?_, by decide +kernel⟩
  · show (_ && crc64 ((List.replicate 31 (0 : BitVec 64)).flatMap (fun w => leBytes 8 w.toNat)) == 0) = true
    rw [h, crc64_zeros]
    decide +kernel
  · show (_ && crc64 ((List.replicate 31 (0 : BitVec 64)).flatMap (fun w => leBytes 8 w.toNat)) == 1) = false
    rw [h, crc64_zeros]
    decide +kernel

/-- GO from the state of reset, a header that fails, and measurements of an image that runs. -/
theorem witness_boot :
    (2 ^ 63 + 64 : BitVec 64).getLsbD 63 = true ∧ State.reset.hub.bstate = 0 ∧ (let s : State := { State.reset with hub := { bstate := 1 } }
      s.hub.bstate = 1 ∧ bootHeaderOk s.hub.bootWin s.hub.len = false) ∧
    bootHeaderOk [(0, 0x49), (1, 0x57), (2, 0x52), (3, 0x47), (9, 1)] 256 = true ∧ ({ State.reset with hub := { bstate := 2 } } : State).hub.bstate = 2 := by decide +kernel

/-- A state whose next step fires an ADD, one whose next step is a unit's, and a word that withFetchWord places. -/
theorem witness_steps :
    (let s : State := { block [(0, 0x2000404480000000)] none none none with agenda := [.fire ⟨0, 0, 0, 0⟩] }
     s.agenda = [.fire ⟨0, 0, 0, 0⟩] ∧ mget (s.bank (siteKey ⟨0, 0, 0, 0⟩)).words 0 = some 0x2000404480000000 ∧ decodeTableWord 64 0x2000404480000000 = some (.add { ty := .i32, t0 := .slot 9 .l })) ∧
    ({ State.reset with agenda := [.ev (.decide 0)] } : State).agenda = [.ev (.decide 0)] ∧ ({ State.reset with agenda := [.choose] } : State).agenda = [.choose] ∧ State.reset.agenda = [] := by decide +kernel

/-- A well-formed instruction and its word. -/
theorem witness_encoding : (let i : Instr := .add { ty := .i32, t0 := .slot 9 .l }
    i.wf = true ∧ encode i = some 0x2000404480000000) := by decide +kernel

/-- A step that ends in a next state, from the state of reset. -/
theorem witness_memory_form : State.reset.memOk = true ∧ State.reset.agenda = [] := by decide +kernel

end Sys2Proof.Tests
end

/-! PROOFS. The loop operators CARRY and INVAR (06 R134 R135): what an executing and a faulting router operator does, the firings of each state, and
the state of a block that is first loaded. -/

namespace Sys2Proof.Machine

/-! ### Sparse tables: what is read is an entry or the default -/

theorem mem_of_mget {α : Type} {m : Map α} {i : Nat} {x : α} (h : mget m i = some x) : (i, x) ∈ m := by
  induction m with
  | nil => simp [mget] at h
  | cons y m ih =>
    obtain ⟨k, v⟩ := y
    simp only [mget] at h
    split at h
    next hk =>
      cases h
      exact hk ▸ List.mem_cons_self
    next =>
      split at h
      · cases h
      · exact List.mem_cons_of_mem _ (ih h)

/-- What holds of every entry and of the default holds of what is read. -/
theorem mgetD_of_forall {α : Type} {P : α → Prop} {m : Map α} {d : α} (hm : ∀ x ∈ m, P x.2) (hd : P d) (i : Nat) : P (mgetD m i d) := by
  unfold mgetD
  cases h : mget m i with
  | none => exact hd
  | some x => exact hm _ (mem_of_mget h)

/-! ### The operands of the needed slots -/

theorem operands_r (s : State) (need : Slots) : (s.operands need).r = if need.r then s.firing.ops.r else none := rfl
theorem operands_p (s : State) (need : Slots) : (s.operands need).p = if need.p then s.firing.ops.p else none := rfl

/-! ### Firings under the updates that follow their start -/

/-- The firing at the current site on the operands of need alone. -/
abbrev State.firingOn (s : State) (need : Slots) : Firing := { s.firing with ops := s.operands need }

theorem fires_start (s : State) (f : Firing) (h : IsFiring s f) (take : Slots) :
    Fires s (s.firedElem take s.firing.thr) 0 ((s.countFiring f).consume f take) := by
  obtain ⟨helem, hframe, hstage⟩ := start_spec s f h take
  exact ⟨helem, by simpa using hstage, hframe⟩

theorem Fires.setOst {s t : State} {el : Elem} {fl : Nat} (h : Fires s el fl t) (o : OpState) :
    Fires s { el with ost := o } fl (t.setOst s.cur o) :=
  ⟨by rw [setOst_elem, h.elem], by rw [setOst_nstage, h.flags], h.frame.setOst o⟩

theorem Fires.result {s t : State} {el : Elem} {fl : Nat} (h : Fires s el fl t) (f : Firing) (hf : IsFiring s f) (lat : Nat)
    (outs : List (Nat × Token)) : Fires s (el.plus (s.resultOf lat s.firing.thr outs)) fl (t.result f false lat outs) :=
  ⟨by rw [result_elem s t f hf h.frame.fc, h.elem], by rw [result_nstage s t f hf, h.flags], h.frame.result f hf lat outs⟩

/-! ### Taking a fault (18 R321-R323) -/

/-- The site that a fault of the present firing opens (18 R322): it keeps the operands that mask names. -/
def State.faultSite (s : State) (ops : Operands) (kind code mask : Nat) : OpenSite where
  id := s.nid
  fser := none
  word0 := (s.faultRecord ops kind code mask 0 0).word0
  lk := s.firing.lk
  round := s.here.fwd
  site := s.cur
  call := none
  need := BitVec.ofNat 3 mask
  refilled := 0
  bp := false
  ops := [if bitAt mask 0 then ops.l else none, if bitAt mask 1 then ops.r else none, if bitAt mask 2 then ops.p else none]

/-- The instruction after its fault: the operands of mask removed, their slots waiting for REINJ or the firing held (18 R322). -/
def State.faultedElem (s : State) (kind mask : Nat) : Elem :=
  let el := s.here.consume { l := bitAt mask 0, r := bitAt mask 1, p := bitAt mask 2 }
  let el := if kind = kindOperand then el.awaitSlots (bitAt mask 0) (bitAt mask 1) (bitAt mask 2) else el
  { el with held := if kind = kindHeld then true else el.held }

/-- The faulted instruction as the statements say it: kindHeld alone holds it. -/
theorem faultedElem_eq (s : State) (kind mask : Nat) : s.faultedElem kind mask =
    let el := s.here.consume { l := bitAt mask 0, r := bitAt mask 1, p := bitAt mask 2 }
    let el := if kind = kindOperand then el.awaitSlots (bitAt mask 0) (bitAt mask 1) (bitAt mask 2) else el
    { el with held := kind == kindHeld || s.here.held } := by
  unfold State.faultedElem
  by_cases hheld : kind = kindHeld
  · simp [hheld]
  · have hne : (kind == kindHeld) = false := beq_false_of_ne hheld
    simp only [hheld, hne, if_false, Bool.false_or]
    split <;> rfl

/-- The state after a fault: the record at the port, the site open, the instruction faulted. -/
def State.faulted (s : State) (ops : Operands) (kind code mask info aux : Nat) : State :=
  let c := s.core s.cur.core
  let p := s.part s.firing.part
  let u := { s with nid := s.nid + 1 }.setCore s.cur.core { c with frecs := c.frecs ++ [s.faultRecord ops kind code mask info aux] }
  (u.setPart s.firing.part { p with sites := p.sites ++ [s.faultSite ops kind code mask] }).setElem s.cur (s.faultedElem kind mask)

theorem faulted_traps (s : State) (ops : Operands) (kind code mask info aux : Nat) :
    Traps s ops kind code mask info aux (s.faulted ops kind code mask info aux) where
  record := State.core_setCore_same _ _ _
  site := ⟨s.faultSite ops kind code mask, State.part_setPart_same _ _ _, rfl, rfl, rfl, rfl, rfl, rfl, rfl, rfl⟩
  elem := (State.elem_setElem_same _ _ _).trans (faultedElem_eq s kind mask)
  rest := rfl
  cores n hn := State.core_setCore_other _ _ _ _ hn
  parts n hn := State.part_setPart_other _ _ _ _ hn
  banks k hk := State.bank_setElem_other _ _ _ _ hk
  elems i hi := by
    unfold State.faulted
    rw [State.bank_setElem_same]
    exact Bank.elem_setElem_other _ _ _ _ hi

/-- Taking a fault that is diverted and is no notice: the branches of raise that halt, hold or send a notice are out. -/
theorem raise_eq_faulted (s : State) (need : Slots) (kind code mask info aux : Nat) (hd : s.Diverts) (hk : kind ≠ kindNotice) :
    s.raise (s.firingOn need) kind code mask false (recordWords (s.operands need) info aux) none = s.faulted (s.operands need) kind code mask info aux := by
  obtain ⟨hen, hregion, hroom⟩ := hd
  have hcheck : s.mustCheck (s.firingOn need) = false := Bool.or_eq_false_iff.mpr ⟨congrArg not hen, hregion⟩
  have hport : s.portRoom (s.firingOn need).e.core = true := hroom
  have hport' : s.fresh.2.portRoom (s.firingOn need).e.core = true := hroom
  unfold State.raise State.sendRecord
  simp only [hcheck, hport, hport', hk, Bool.false_eq_true, Bool.not_true, if_false, if_true]
  rfl

/-! ### Router operators (06 R127) -/

theorem wantOperand_good {bit : Nat} {t : Token} {good : Token → Bool} (hp : t.poison = false) (hg : good t = true) :
    wantOperand bit (some t) good = none := by
  simp [wantOperand, hp, hg]

theorem wantOperand_poison {bit : Nat} {t : Token} {good : Token → Bool} (hp : t.poison = true) :
    wantOperand bit (some t) good = some (bit, t.word % 256, t.word) := by
  simp [wantOperand, hp]

theorem wantData_absent (bit : Nat) (ty : Ty) : wantData bit ty none = none := rfl

theorem wantData_good {bit : Nat} {ty : Ty} {t : Token} (h : (t.poison || routeOk ty t) = true) : wantData bit ty (some t) = none := by
  simp [wantData, h]

/-- A ROUTER OPERATOR THAT EXECUTES becomes what its action makes of the started firing. -/
theorem routeFire_becomes (s : State) (fl : Flags) (need take : Slots) (check : Firing → OperandFault) (act : State → Firing → State) (el : Elem)
    (hc : s.CanFire fl need) (hk : check (s.firingOn need) = none)
    (ha : ∀ u, Fires s (s.firedElem take s.firing.thr) 0 u → Fires s el 0 (act u (s.firingOn need))) :
    Becomes s (.next (s.routeFire fl need take check act)) el :=
  ⟨_, congrArg _ (routeFire_runs s fl need take check act hc hk), ha _ (fires_start s _ (isFiring_mask s _) take)⟩

/-- A ROUTER OPERATOR THAT FAULTS raises the fault of one operand. -/
theorem routeFire_traps (s : State) (fl : Flags) (need take : Slots) (check : Firing → OperandFault) (act : State → Firing → State) (bit code aux : Nat)
    (hd : s.Diverts) (hc : s.CanFire fl need) (hk : check (s.firingOn need) = some (bit, code, aux)) :
    Traps s (s.operands need) kindOperand code (2 ^ bit) 0 aux (s.routeFire fl need take check act) := by
  have hraise : s.routeFire fl need take check act = s.raiseOperand (s.firingOn need) bit code aux := by
    obtain ⟨hheld, hstage, hfull, hbreak⟩ := hc
    unfold State.routeFire
    simp only [hheld, hstage, hbreak, Bool.not_true, Bool.or_self]
    unfold State.firingOn State.operands at hk
    unfold State.operands at hfull
    simp only [hfull, Bool.not_true, Bool.false_eq_true, if_false, hk]
    rfl
  rw [hraise]
  unfold State.raiseOperand
  rw [raise_eq_faulted s need kindOperand code (2 ^ bit) 0 aux hd (by decide)]
  exact faulted_traps s _ _ _ _ _ _

/-- The check of an idle CARRY and of an empty INVAR, which take the data token L, poison too. -/
def passCheck (ty : Ty) (f : Firing) : OperandFault := wantData 0 ty f.ops.l

/-- Their action: L is passed on, and the instruction enters the state that ost gives. -/
def passAct (ost : Token → OpState) (s : State) (f : Firing) : State :=
  match f.ops.l with
  | some l => (s.setOst f.e (ost l)).result f false 1 (fork l.pass)
  | none => s

theorem passFire_becomes (s : State) (o : OpA) (l : Token) (ost : Token → OpState) (hc : s.CanFire o.fl needL)
    (hl : (s.operands needL).l = some l) (hok : (l.poison || routeOk o.ty l) = true) :
    Becomes s (.next (s.routeFire o.fl needL needL (passCheck o.ty) (passAct ost)))
      ({ s.firedElem needL s.firing.thr with ost := ost l }.plus (s.resultOf 1 s.firing.thr (fork l.pass))) := by
  refine routeFire_becomes s o.fl needL needL _ _ _ hc ?_ (fun u hu => ?_)
  · simp only [passCheck, hl, wantData_good hok]
  · simp only [passAct, hl]
    exact (hu.setOst (ost l)).result _ (isFiring_mask s _) 1 _

/-! ### CARRY (06 R134) -/

theorem exec_carry_idle (s : State) (o : OpA) (hidle : s.here.ost ≠ .carry true) :
    exec (.carry o) s = .next (s.routeFire o.fl needL needL (passCheck o.ty) (passAct (fun _ => .carry true))) := by
  show execCarry o s = _
  unfold execCarry
  dsimp only
  split
  next hactive => exact absurd hactive hidle
  next => rfl

/-- The slots of an active CARRY on P: R is among them where P is a true predicate that is not poison. -/
def carryNeed (p : Token) : Slots := { r := p.truth && isScalarPred p && !p.poison, p := true }

/-- The check of an active CARRY: P before R. -/
def carryCheck (ty : Ty) (f : Firing) : OperandFault := firstFault [wantOperand 2 f.ops.p isScalarPred, wantData 1 ty f.ops.r]

/-- The action of an active CARRY: an R that the firing has taken goes on, and without one the loop ends. -/
def carryAct (s : State) (f : Firing) : State :=
  match f.ops.r with
  | some r => s.result f false 1 (fork r.pass)
  | none => s.setOst f.e (.carry false)

theorem exec_carry_active (s : State) (o : OpA) (p : Token) (hactive : s.here.ost = .carry true) (hp : s.firing.ops.p = some p) :
    exec (.carry o) s = .next (s.routeFire o.fl (carryNeed p) (carryNeed p) (carryCheck o.ty) carryAct) := by
  have hstate : s.firing.el.ost = .carry true := hactive
  show execCarry o s = _
  unfold execCarry
  simp only [hstate, hp]
  rfl

theorem carryNeed_good {p : Token} (hgood : isScalarPred p = true) (hclean : p.poison = false) : carryNeed p = { r := p.truth, p := true } := by
  simp [carryNeed, hgood, hclean]

theorem carryNeed_poison {p : Token} (hpoison : p.poison = true) : carryNeed p = { p := true } := by
  simp [carryNeed, hpoison]

theorem carry_true_passes_R (s : State) (o : OpA) (p r : Token) (hactive : s.here.ost = .carry true) (hp : s.firing.ops.p = some p)
    (hgood : isScalarPred p = true) (hclean : p.poison = false) (htrue : p.truth = true) (hc : s.CanFire o.fl { r := true, p := true })
    (hr : s.firing.ops.r = some r) (hok : (r.poison || routeOk o.ty r) = true) :
    Becomes s (exec (.carry o) s) ((s.firedElem { r := true, p := true } s.firing.thr).plus (s.resultOf 1 s.firing.thr (fork r.pass))) := by
  rw [exec_carry_active s o p hactive hp, carryNeed_good hgood hclean, htrue]
  refine routeFire_becomes s o.fl _ _ _ _ _ hc ?_ (fun u hu => ?_)
  · simp [carryCheck, firstFault, operands_p, operands_r, hp, hr, wantOperand_good hclean hgood, wantData_good hok]
  · have hact : carryAct u (s.firingOn { r := true, p := true }) = u.result (s.firingOn { r := true, p := true }) false 1 (fork r.pass) := by
      simp [carryAct, operands_r, hr]
    rw [hact]
    exact hu.result _ (isFiring_mask s _) 1 _

theorem carry_false_ends (s : State) (o : OpA) (p : Token) (hactive : s.here.ost = .carry true) (hp : s.firing.ops.p = some p)
    (hgood : isScalarPred p = true) (hclean : p.poison = false) (hfalse : p.truth = false) (hc : s.CanFire o.fl { p := true }) :
    Becomes s (exec (.carry o) s) { s.firedElem { p := true } s.firing.thr with ost := .carry false } := by
  rw [exec_carry_active s o p hactive hp, carryNeed_good hgood hclean, hfalse]
  refine routeFire_becomes s o.fl _ _ _ _ _ hc ?_ (fun u hu => hu.setOst _)
  simp [carryCheck, firstFault, operands_p, operands_r, hp, wantOperand_good hclean hgood, wantData_absent]

theorem carry_poisoned_P_traps (s : State) (o : OpA) (x : Token) (hd : s.Diverts) (hc : s.CanFire o.fl { p := true })
    (hactive : s.here.ost = .carry true) (hp : s.firing.ops.p = some x) (hpoison : x.poison = true) :
    ∃ t, exec (.carry o) s = .next t ∧ Traps s (s.operands { p := true }) kindOperand (x.word % 256) 4 0 x.word t := by
  refine ⟨_, exec_carry_active s o x hactive hp, ?_⟩
  rw [carryNeed_poison hpoison]
  exact routeFire_traps s o.fl _ _ _ _ 2 _ _ hd hc
    (by simp [carryCheck, firstFault, operands_p, hp, wantOperand_poison hpoison])

/-! ### INVAR (06 R135) -/

theorem exec_invar_empty (s : State) (o : OpA) (hempty : ∀ v, s.here.ost ≠ .invar (some v)) :
    exec (.invar o) s = .next (s.routeFire o.fl needL needL (passCheck o.ty) (passAct (fun l => .invar (some l.pass)))) := by
  show execInvar o s = _
  unfold execInvar
  split
  next v hholding => exact absurd hholding (hempty v)
  next => rfl

/-- The check of a holding INVAR. -/
def invarCheck (f : Firing) : OperandFault := wantOperand 2 f.ops.p isScalarPred

/-- The action of an INVAR that holds v. -/
def invarAct (v : Token) (s : State) (f : Firing) : State :=
  if f.ops.p.any Token.truth then s.result f false 1 (fork v) else s.setOst f.e (.invar none)

theorem exec_invar_holding (s : State) (o : OpA) (v : Token) (hholding : s.here.ost = .invar (some v)) :
    exec (.invar o) s = .next (s.routeFire o.fl { p := true } { p := true } invarCheck (invarAct v)) := by
  have hstate : s.firing.el.ost = .invar (some v) := hholding
  show execInvar o s = _
  unfold execInvar
  simp only [hstate]
  rfl

theorem invarCheck_good {s : State} {p : Token} (hp : s.firing.ops.p = some p) (hgood : isScalarPred p = true) (hclean : p.poison = false) :
    invarCheck (s.firingOn { p := true }) = none := by
  simp [invarCheck, operands_p, hp, wantOperand_good hclean hgood]

theorem invar_true_emits_held (s : State) (o : OpA) (p v : Token) (hholding : s.here.ost = .invar (some v)) (hp : s.firing.ops.p = some p)
    (hgood : isScalarPred p = true) (hclean : p.poison = false) (htrue : p.truth = true) (hc : s.CanFire o.fl { p := true }) :
    Becomes s (exec (.invar o) s) ((s.firedElem { p := true } s.firing.thr).plus (s.resultOf 1 s.firing.thr (fork v))) := by
  rw [exec_invar_holding s o v hholding]
  refine routeFire_becomes s o.fl _ _ _ _ _ hc (invarCheck_good hp hgood hclean) (fun u hu => ?_)
  simp only [invarAct, operands_p, hp, if_true, Option.any_some, htrue]
  exact hu.result _ (isFiring_mask s _) 1 _

theorem invar_false_drops_held (s : State) (o : OpA) (p v : Token) (hholding : s.here.ost = .invar (some v)) (hp : s.firing.ops.p = some p)
    (hgood : isScalarPred p = true) (hclean : p.poison = false) (hfalse : p.truth = false) (hc : s.CanFire o.fl { p := true }) :
    Becomes s (exec (.invar o) s) { s.firedElem { p := true } s.firing.thr with ost := .invar none } := by
  rw [exec_invar_holding s o v hholding]
  refine routeFire_becomes s o.fl _ _ _ _ _ hc (invarCheck_good hp hgood hclean) (fun u hu => ?_)
  simp only [invarAct, operands_p, hp, if_true, Option.any_some, hfalse, Bool.false_eq_true, if_false]
  exact hu.setOst _

theorem invar_poisoned_P_traps (s : State) (o : OpA) (x v : Token) (hd : s.Diverts) (hc : s.CanFire o.fl { p := true })
    (hholding : s.here.ost = .invar (some v)) (hp : s.firing.ops.p = some x) (hpoison : x.poison = true) :
    ∃ t, exec (.invar o) s = .next t ∧ Traps s (s.operands { p := true }) kindOperand (x.word % 256) 4 0 x.word t :=
  ⟨_, exec_invar_holding s o v hholding, routeFire_traps s o.fl _ _ _ _ 2 _ _ hd hc
    (by simp [invarCheck, operands_p, hp, wantOperand_poison hpoison])⟩

/-! ### A block that is first loaded -/

/-- No context record of the block: every instruction of the installed copy is in no state. -/
theorem install_elem_ost (s : State) (lk : Nat) (n : Launch) (rec : LoadRec) (num origin blk : Nat) (pin : Bool) (at' : Place') (round i : Nat)
    (hfirst : mget n.working (workKey origin blk) = none) (hone : at'.tile = at'.tile2) :
    (((s.install lk n rec num origin blk pin at' round).bank (bankKeyOf at'.core at'.tile at'.bank)).elem i).ost = .none := by
  unfold State.install
  simp only [hfirst, hone, if_true, State.bank_setBank_same, Bank.elem]
  refine mgetD_of_forall (P := fun x : Elem => x.ost = .none) (fun x hx => ?_) rfl i
  obtain ⟨j, -, rfl⟩ := List.mem_map.mp hx
  rfl

/-- Settles O15: each clause is the law of one firing, idle or active, empty or holding. -/
theorem loopOperators : Obligations.LoopOperators := by
  unfold Obligations.LoopOperators
  intro s o l p
  refine ⟨fun hc hl hok => ⟨fun hidle => ?_, fun hempty => ?_⟩, fun need hneed hc hp hgood hclean hactive => ⟨fun htrue r hr hok => ?_, fun hfalse => ?_⟩,
    fun v hc hp hgood hclean hholding => ⟨fun htrue => ?_, fun hfalse => ?_⟩, fun x hd hc hp hpoison => ⟨fun hactive => ?_, fun ⟨v, hholding⟩ => ?_⟩,
    install_elem_ost s⟩
  · rw [exec_carry_idle s o hidle]
    exact passFire_becomes s o l _ hc hl hok
  · rw [exec_invar_empty s o hempty]
    exact passFire_becomes s o l _ hc hl hok
  · rw [htrue] at hneed
    subst hneed
    exact carry_true_passes_R s o p r hactive hp hgood hclean htrue hc hr hok
  · rw [hfalse] at hneed
    subst hneed
    exact carry_false_ends s o p hactive hp hgood hclean hfalse hc
  · exact invar_true_emits_held s o p v hholding hp hgood hclean htrue hc
  · exact invar_false_drops_held s o p v hholding hp hgood hclean hfalse hc
  · exact carry_poisoned_P_traps s o x hd hc hactive hp hpoison
  · exact invar_poisoned_P_traps s o x v hd hc hholding hp hpoison

end Sys2Proof.Machine

/-! PROOFS. Integer arithmetic, comparison and selection (07 R170-R174): the value of each instruction on its typed operands, and the firing that emits it. -/

namespace Sys2Proof.Machine

/-! ### Formats and types -/

theorem ty_of_fmtOf {ty : Ty} {u : Bool} {f : Fmt} (h : fmtOf ty u = some f) : f.ty = ty := by
  cases ty <;> cases u <;> cases h <;> rfl

/-- The width an instruction takes its latency from is that of the format it works in (07 R162 R168). -/
theorem widthOf_of_formatOf {o : OpA} {u : Bool} {cls : List Ty} {l : Token} {f : Fmt} (h : formatOf o u cls l = some f) :
    widthOf o (some l) = f.width := by
  unfold formatOf at h
  unfold widthOf
  split at h
  next htf =>
    obtain ⟨g, hg, hcls⟩ := Option.bind_eq_some_iff.mp h
    have hgf : g = f := by
      split at hcls
      · exact Option.some.inj hcls
      · cases hcls
    simp [htf, hg, hgf]
  next htf => simp [htf, Fmt.width, ty_of_fmtOf h]

theorem fmt_lo_le_hi (f : Fmt) : f.lo ≤ f.hi := by
  have hhalf : 0 < 2 ^ (f.width - 1) := Nat.two_pow_pos _
  have hall : 0 < 2 ^ f.width := Nat.two_pow_pos _
  unfold Fmt.lo Fmt.hi
  split <;> omega

/-! ### The integer operations -/

/-- Saturation is to the nearest bound of the format (07 R170). -/
theorem satInt_eq_clamp (f : Fmt) (x : Int) : satInt f x = max f.lo (min f.hi x) := by
  have hbounds := fmt_lo_le_hi f
  unfold satInt
  split
  · omega
  · split <;> omega

/-- The corner of R171 whose quotient the format does not hold. -/
def divCorner (f : Fmt) (a b : Int) : Bool := f.signed && a == f.lo && b == -1

/-- The quotient of R171. -/
def quotient (f : Fmt) (a b : Int) : Int := if b = 0 then 0 else if divCorner f a b then f.lo else Int.tdiv a b

/-- The remainder of R171. -/
def remainder (f : Fmt) (a b : Int) : Int := if b = 0 then a else if divCorner f a b then 0 else a - Int.tdiv a b * b

/-- The flag of R171: a division by 0 alone sets one. -/
def divFlag (a b : Int) : Nat := if b = 0 then (if a = 0 then flagNV else flagDZ) else 0

theorem divRem_eq (f : Fmt) (a b : Int) : divRem f a b = (quotient f a b, remainder f a b, divFlag a b) := by
  have hcorner : (f.signed = true ∧ a = f.lo ∧ b = -1) ↔ divCorner f a b = true := by simp [divCorner, and_assoc]
  unfold divRem quotient remainder divFlag
  simp only [hcorner]
  by_cases hzero : b = 0
  · by_cases ha : a = 0 <;> simp [hzero, ha]
  · cases hc : divCorner f a b <;> simp [hzero]

/-! ### Firings on a typed pair -/

/-- A COMPUTING INSTRUCTION ON A TYPED PAIR emits the lanes of its value in format g. -/
theorem pair_emits {s : State} {o : OpA} {u : Bool} {pr : Predicate} {value : Operands → Predicate → Value} {lat : Nat} {early} {g : Fmt} {ls : List Lane}
    (hr : s.Runs o.fl o.v { l := true, r := !o.i } pr)
    (hv : value (s.operands (withPm o.fl { l := true, r := !o.i })) pr = .ok (copies g o.v ls, foldFlags ls)) :
    Emits s (.next (s.arith o u lat (!o.i) false o.v value early)) (takes o.fl (withPm o.fl { l := true, r := !o.i })) lat (copies g o.v ls) (foldFlags ls) :=
  arith_emits s o u lat (!o.i) false o.v value early pr _ _ hr hv (List.cons_ne_nil _ _) rfl

/-- Lane j of two integer operands under g, with the flags that fl gives and those of reading the operands (04 R74). -/
def flaggedLane (f : Fmt) (l r : Token) (fl : Int → Int → Nat) (g : Int → Int → Int) (j : Nat) : Lane :=
  let a := intOf f (codeAt f l j).1
  let b := intOf f (codeAt f r j).1
  ⟨ofInt f.width (g a b), fl a b ||| (codeAt f l j).2 ||| (codeAt f r j).2⟩

/-- The value of an integer instruction that sets flags of its own. -/
theorem intBin_flagged_value {s : State} {o : OpA} {u : Bool} {cls : List Ty} {f : Fmt} {l r : Token} {pr : Predicate} (hp : Pair s o u cls f l r)
    {op : Nat} {fl : Int → Int → Nat} {g : Int → Int → Int}
    (hg : ∀ a b, intBin op f a b = ⟨ofInt f.width (g (intOf f a) (intOf f b)), fl (intOf f a) (intOf f b)⟩) :
    intBinValue op u cls o (s.operands (withPm o.fl { l := true, r := !o.i })) pr =
      .ok (copies f o.v (keptLanes f o.v pr l (flaggedLane f l r fl g)), foldFlags (keptLanes f o.v pr l (flaggedLane f l r fl g))) := by
  have hlane : (fun j => (⟨(intBin op f (codeAt f l j).1 (codeAt f r j).1).code,
      (intBin op f (codeAt f l j).1 (codeAt f r j).1).flags ||| (codeAt f l j).2 ||| (codeAt f r j).2⟩ : Lane)) = flaggedLane f l r fl g := by
    funext j
    rw [hg]
    rfl
  unfold intBinValue
  rw [bin_value s o u cls f l r pr hp id _ rfl]
  simp only [hlane, id]

theorem divLatency_eq {s : State} {o : OpA} {u : Bool} {cls : List Ty} {f : Fmt} {l r : Token} (hp : Pair s o u cls f l r) :
    divLatency o s = if f.width = 64 then 20 else 12 := by
  have hl : s.firing.ops.l = some l := hp.left
  unfold divLatency
  rw [hl, widthOf_of_formatOf hp.fmt]

/-- Settles O1: the value of each instruction is that of its operation on two integers, and the firing emits it. -/
theorem integerArithmeticResults : Obligations.IntegerArithmeticResults := by
  unfold Obligations.IntegerArithmeticResults
  refine ⟨fun s o f l r pr hr hp => ?_, fun s o f l r pr hr hp => ?_⟩
  · have value := intBin_value s o o.u intCls f l r pr hp
    simp only [List.forall_mem_cons]
    refine ⟨?add, ?sub, ?adds, ?subs, ?min, ?max, ?mul, ?mulh, fun _ h => nomatch h⟩
    case add => exact pair_emits hr (value 0x20 _ fun _ _ => rfl)
    case sub => exact pair_emits hr (value 0x21 _ fun _ _ => rfl)
    case adds => exact pair_emits hr (value 0x22 _ fun a b => by simp [intBin, satInt_eq_clamp])
    case subs => exact pair_emits hr (value 0x23 _ fun a b => by simp [intBin, satInt_eq_clamp])
    case min => exact pair_emits hr (value 0x2A _ fun _ _ => rfl)
    case max => exact pair_emits hr (value 0x2B _ fun _ _ => rfl)
    case mul => exact pair_emits hr (value 0x26 _ fun _ _ => rfl)
    case mulh => exact pair_emits hr (value 0x27 _ fun a b => by simp [intBin])
  · simp only [List.forall_mem_cons, ← divLatency_eq hp]
    refine ⟨?div, ?rem, fun _ h => nomatch h⟩
    case div => exact pair_emits hr (intBin_flagged_value (op := 0x28) (fl := divFlag) (g := quotient f) hp fun a b => by simp [intBin, divRem_eq])
    case rem => exact pair_emits hr (intBin_flagged_value (op := 0x29) (fl := divFlag) (g := remainder f) hp fun a b => by simp [intBin, divRem_eq])

/-! ### CMP (07 R173) -/

/-- The table of R173: the value of fn bits 3:1 and the condition it names. -/
def cmpConditions : List (Nat × (Int → Int → Bool)) :=
  [(0, fun a b => decide (a = b)), (1, fun a b => decide (a ≠ b)), (2, fun a b => decide (a < b)), (3, fun a b => decide (a ≤ b)),
    (4, fun a b => decide (b < a)), (5, fun a b => decide (b ≤ a))]

theorem cmpCond_of_mem_cmpConditions : ∀ x ∈ cmpConditions, cmpCond x.1 = x.2 := by
  simp only [cmpConditions, List.forall_mem_cons]
  exact ⟨rfl, funext fun a => funext fun b => (decide_not (p := a = b)).symm, rfl, rfl, rfl, rfl, fun _ h => nomatch h⟩

/-- The lanes of a comparison under the condition c. -/
def cmpLanes (f : Fmt) (v : Bool) (pr : Predicate) (l r : Token) (c : Int → Int → Bool) : List Lane :=
  zeroLanes f v pr (fun j => ⟨if c (intOf f (codeAt f l j).1) (intOf f (codeAt f r j).1) then 1 else 0, (codeAt f l j).2 ||| (codeAt f r j).2⟩)

theorem cmp_value {s : State} {o : OpA} {f : Fmt} {l r : Token} {pr : Predicate} (hp : Pair s o o.u intCls f l r) :
    cmpValue o (s.operands (withPm o.fl { l := true, r := !o.i })) pr =
      .ok (copies .pred o.v (cmpLanes f o.v pr l r (cmpCond (o.fn.toNat / 2 % 8))), foldFlags (cmpLanes f o.v pr l r (cmpCond (o.fn.toNat / 2 % 8)))) := by
  obtain ⟨hl, hf, hsecond, htl, htr⟩ := hp
  unfold cmpValue
  simp only [hl, hf, hsecond, htl, htr, Bool.and_self, if_true]
  rfl

/-- CMP emits the lanes of the condition that its fn bits name. -/
theorem cmp_emits {s : State} {o : OpA} {f : Fmt} {l r : Token} {pr : Predicate} (hr : s.Runs o.fl o.v { l := true, r := !o.i } pr)
    (hp : Pair s o o.u intCls f l r) {k : Nat} {c : Int → Int → Bool} (hk : o.fn.toNat / 2 % 8 = k) (hc : cmpCond k = c) :
    Emits s (exec (.cmp o) s) (takes o.fl (withPm o.fl { l := true, r := !o.i })) 1 (copies .pred o.v (cmpLanes f o.v pr l r c))
      (foldFlags (cmpLanes f o.v pr l r c)) := by
  have hcond : cmpCond (o.fn.toNat / 2 % 8) = c := hk ▸ hc
  exact pair_emits hr (hcond ▸ cmp_value hp)

/-- A word of CMP whose fn bits 3:1 name no condition is ill-formed (05 R104). -/
theorem cmp_wf_false {o : OpA} (h : 6 ≤ o.fn.toNat / 2 % 8) : (Instr.cmp o).wf = false := by
  have hlt : decide (o.fn.toNat / 2 % 8 < 6) = false := decide_eq_false (Nat.not_lt.mpr h)
  simp [Instr.wf, Instr.form, wfA, formA, formInt, hlt]

/-! ### SEL (07 R174) -/

theorem left_not_poison {x : Operands} (h : x.poison = none) : x.l.any Token.poison = false :=
  Bool.eq_false_iff.mpr fun hl => by
    have hnone : x.l = none := by simpa [Operands.poison, hl] using h
    simp [hnone] at hl

theorem right_not_poison {x : Operands} (h : x.poison = none) : x.r.any Token.poison = false :=
  Bool.eq_false_iff.mpr fun hr => by
    have hnone : x.r = none := by simpa [Operands.poison, left_not_poison h, hr] using h
    simp [hnone] at hr

/-- The second operand of SEL is R, or the immediate, which is no poison. -/
theorem selSecond_not_poison {o : OpA} {l r : Option Token} {t : Token} (hr : r.any Token.poison = false) (ht : selSecond o l r = some t) :
    t.poison = false := by
  unfold selSecond at ht
  split at ht
  · split at ht
    · cases ht
      rfl
    · cases ht
  · simpa [ht] using hr

theorem sel_value_scalar {o : OpA} {x : Operands} {l r p : Token} (hl : x.l = some l) (hr : selSecond o x.l x.r = some r) (hp : x.p = some p)
    (hpred : isPred p = true) (hokl : selOk o l l = true) (hokr : (o.i || selOk o l r) = true) (hv : p.v = false) :
    selValue o x = .ok (fork { (if p.truth then l else r) with chain := none, rv := true }, 0) := by
  unfold selValue
  simp only [hl] at hr ⊢
  simp [hr, hp, hpred, hokl, hokr, hv, one]

theorem sel_value_vector {o : OpA} {x : Operands} {l r p : Token} {f : Fmt} (hl : x.l = some l) (hr : selSecond o x.l x.r = some r) (hp : x.p = some p)
    (hpred : isPred p = true) (hokl : selOk o l l = true) (hokr : (o.i || selOk o l r) = true) (hv : p.v = true) (hov : o.v = true)
    (htag : l.tag = r.tag) (hscale : l.scale = r.scale) (hf : l.fmt = some f) :
    selValue o x = .ok (fork (movedTok f true l (fun j => laneOf (if bitAt p.pay.toNat j then l.pay else r.pay) f.width j)), 0) := by
  unfold selValue
  simp only [hl] at hr ⊢
  simp [hr, hp, hpred, hokl, hokr, hv, hov, htag, hscale, hf, one, movedTok, lanesOf]

/-- SEL emits the token that its value is, where that is no poison. -/
theorem sel_emits {s : State} {o : OpA} {t : Token} (hr : s.Runs o.fl o.v { l := true, r := !o.i, p := true } (.run true 0))
    (hv : selValue o (s.operands { l := true, r := !o.i, p := true }) = .ok (fork t, 0)) (ht : t.poison = false) :
    Emits s (exec (.sel o) s) (takes o.fl { l := true, r := !o.i, p := true }) 1 (fork t) 0 :=
  arith_emits s o false 1 (!o.i) true o.v (fun x _ => selValue o x) (selEarly o) (.run true 0) (fork t) 0 hr hv (List.cons_ne_nil _ _)
    (by simp [fork, ht])

/-- Settles O3: CMP by the condition of each value of its fn bits, SEL by the token that a scalar P chooses or the lanes that a vector P chooses. -/
theorem comparisonAndSelection : Obligations.ComparisonAndSelection := by
  unfold Obligations.ComparisonAndSelection
  refine ⟨fun s o f l r pr hr hp x hx hk => cmp_emits hr hp hk (cmpCond_of_mem_cmpConditions x hx), fun o => cmp_wf_false, ?sel⟩
  intro s o l r p need _ hr hl hsecond hp hpred hokl hokr
  refine ⟨fun hv => ?scalar, fun f hv hov htag hscale hf => ?vector⟩
  case scalar =>
    have hclean : (s.operands need).poison = none := hr.clean
    have hlp : l.poison = false := by simpa [hl] using left_not_poison hclean
    have hrp : r.poison = false := selSecond_not_poison (right_not_poison hclean) hsecond
    refine sel_emits hr (sel_value_scalar hl (hl ▸ hsecond) hp hpred hokl hokr hv) ?_
    cases p.truth
    · exact hrp
    · exact hlp
  case vector =>
    exact sel_emits hr (sel_value_vector hl (hl ▸ hsecond) hp hpred hokl hokr hv hov htag hscale hf) rfl

end Sys2Proof.Machine

/-! PROOFS. Decoding undoes encoding (05 R104-R114): the opcode of every row, the fields of every format, and the word as the loader reads it. -/

namespace Sys2Proof

/-- Every row's opcode and fields give back its canonical row. -/
theorem opcodes_statement : ∀ i : Instr, Laws.Opcodes.Statement i
  | .steer o => Laws.Opcodes.steer o
  | .merge o => Laws.Opcodes.merge o
  | .carry o => Laws.Opcodes.carry o
  | .invar o => Laws.Opcodes.invar o
  | .fanout o => Laws.Opcodes.fanout o
  | .drop o => Laws.Opcodes.drop o
  | .ordf o => Laws.Opcodes.ordf o
  | .ordj o => Laws.Opcodes.ordj o
  | .gateCreditFiring o => Laws.Opcodes.gateCreditFiring o
  | .gatePassFiring o => Laws.Opcodes.gatePassFiring o
  | .countLFiring o => Laws.Opcodes.countLFiring o
  | .countPFiring o => Laws.Opcodes.countPFiring o
  | .repeatCopies o => Laws.Opcodes.repeatCopies o
  | .const o => Laws.Opcodes.const o
  | .exit o => Laws.Opcodes.exit o
  | .exitp o => Laws.Opcodes.exitp o
  | .exitq o => Laws.Opcodes.exitq o
  | .spawn o => Laws.Opcodes.spawn o
  | .retire o => Laws.Opcodes.retire o
  | .launch o => Laws.Opcodes.launch o
  | .patch o => Laws.Opcodes.patch o
  | .trig o => Laws.Opcodes.trig o
  | .qpush o => Laws.Opcodes.qpush o
  | .qpop o => Laws.Opcodes.qpop o
  | .crd o => Laws.Opcodes.crd o
  | .cwr o => Laws.Opcodes.cwr o
  | .rmark o => Laws.Opcodes.rmark o
  | .quiet o => Laws.Opcodes.quiet o
  | .quietEmit e => Laws.Opcodes.quietEmit e
  | .add o => Laws.Opcodes.add o
  | .sub o => Laws.Opcodes.sub o
  | .adds o => Laws.Opcodes.adds o
  | .subs o => Laws.Opcodes.subs o
  | .neg o => Laws.Opcodes.neg o
  | .abs o => Laws.Opcodes.abs o
  | .mul o => Laws.Opcodes.mul o
  | .mulh o => Laws.Opcodes.mulh o
  | .div o => Laws.Opcodes.div o
  | .rem o => Laws.Opcodes.rem o
  | .min o => Laws.Opcodes.min o
  | .max o => Laws.Opcodes.max o
  | .and o => Laws.Opcodes.and o
  | .or o => Laws.Opcodes.or o
  | .xor o => Laws.Opcodes.xor o
  | .andn o => Laws.Opcodes.andn o
  | .not o => Laws.Opcodes.not o
  | .shl o => Laws.Opcodes.shl o
  | .shr o => Laws.Opcodes.shr o
  | .sar o => Laws.Opcodes.sar o
  | .rotl o => Laws.Opcodes.rotl o
  | .clz o => Laws.Opcodes.clz o
  | .ctz o => Laws.Opcodes.ctz o
  | .popc o => Laws.Opcodes.popc o
  | .cmp o => Laws.Opcodes.cmp o
  | .sel o => Laws.Opcodes.sel o
  | .trunc o => Laws.Opcodes.trunc o
  | .bfx o => Laws.Opcodes.bfx o
  | .bfi o => Laws.Opcodes.bfi o
  | .addr o => Laws.Opcodes.addr o
  | .imad o => Laws.Opcodes.imad o
  | .bswap o => Laws.Opcodes.bswap o
  | .fadd o => Laws.Opcodes.fadd o
  | .fsub o => Laws.Opcodes.fsub o
  | .fmul o => Laws.Opcodes.fmul o
  | .fma o => Laws.Opcodes.fma o
  | .fdiv o => Laws.Opcodes.fdiv o
  | .fsqrt o => Laws.Opcodes.fsqrt o
  | .frcp o => Laws.Opcodes.frcp o
  | .frsq o => Laws.Opcodes.frsq o
  | .fexp2 o => Laws.Opcodes.fexp2 o
  | .flog2 o => Laws.Opcodes.flog2 o
  | .fexp o => Laws.Opcodes.fexp o
  | .fmin o => Laws.Opcodes.fmin o
  | .fmax o => Laws.Opcodes.fmax o
  | .fabs o => Laws.Opcodes.fabs o
  | .fneg o => Laws.Opcodes.fneg o
  | .fcpys o => Laws.Opcodes.fcpys o
  | .fcmp o => Laws.Opcodes.fcmp o
  | .fclass o => Laws.Opcodes.fclass o
  | .frint o => Laws.Opcodes.frint o
  | .fscalb o => Laws.Opcodes.fscalb o
  | .ftanh o => Laws.Opcodes.ftanh o
  | .fsigm o => Laws.Opcodes.fsigm o
  | .vbcast o => Laws.Opcodes.vbcast o
  | .vextr o => Laws.Opcodes.vextr o
  | .vins o => Laws.Opcodes.vins o
  | .vperm o => Laws.Opcodes.vperm o
  | .vshuf o => Laws.Opcodes.vshuf o
  | .vrot o => Laws.Opcodes.vrot o
  | .vslide o => Laws.Opcodes.vslide o
  | .vzip o => Laws.Opcodes.vzip o
  | .vunzip o => Laws.Opcodes.vunzip o
  | .vradd o => Laws.Opcodes.vradd o
  | .vrmin o => Laws.Opcodes.vrmin o
  | .vrmax o => Laws.Opcodes.vrmax o
  | .vrand o => Laws.Opcodes.vrand o
  | .vrior o => Laws.Opcodes.vrior o
  | .vcompr o => Laws.Opcodes.vcompr o
  | .vexpnd o => Laws.Opcodes.vexpnd o
  | .vpcnt o => Laws.Opcodes.vpcnt o
  | .vmask o => Laws.Opcodes.vmask o
  | .cvt o => Laws.Opcodes.cvt o
  | .cvti o => Laws.Opcodes.cvti o
  | .scaleg o => Laws.Opcodes.scaleg o
  | .scales o => Laws.Opcodes.scales o
  | .fmtchk o => Laws.Opcodes.fmtchk o
  | .ufrd o => Laws.Opcodes.ufrd o
  | .pack o => Laws.Opcodes.pack o
  | .unpack o => Laws.Opcodes.unpack o
  | .rng o => Laws.Opcodes.rng o
  | .mxldbHeaderFiring o => Laws.Opcodes.mxldbHeaderFiring o
  | .mxldbPayloadFiring o => Laws.Opcodes.mxldbPayloadFiring o
  | .mxrow o => Laws.Opcodes.mxrow o
  | .mxrows o => Laws.Opcodes.mxrows o
  | .mxdrain o => Laws.Opcodes.mxdrain o
  | .mxclr o => Laws.Opcodes.mxclr o
  | .mxcfg o => Laws.Opcodes.mxcfg o
  | .residueMismatch core tile => Laws.Opcodes.residueMismatch core tile
  | .ld o => Laws.Opcodes.ld o
  | .st o => Laws.Opcodes.st o
  | .ldv o => Laws.Opcodes.ldv o
  | .stv o => Laws.Opcodes.stv o
  | .gath o => Laws.Opcodes.gath o
  | .scat o => Laws.Opcodes.scat o
  | .mtld o => Laws.Opcodes.mtld o
  | .mtst o => Laws.Opcodes.mtst o
  | .strcfg o => Laws.Opcodes.strcfg o
  | .strgo o => Laws.Opcodes.strgo o
  | .strgoWrite o => Laws.Opcodes.strgoWrite o
  | .pref o => Laws.Opcodes.pref o
  | .aadd o => Laws.Opcodes.aadd o
  | .afadd o => Laws.Opcodes.afadd o
  | .amin o => Laws.Opcodes.amin o
  | .amax o => Laws.Opcodes.amax o
  | .aand o => Laws.Opcodes.aand o
  | .aor o => Laws.Opcodes.aor o
  | .axor o => Laws.Opcodes.axor o
  | .axchg o => Laws.Opcodes.axchg o
  | .acas o => Laws.Opcodes.acas o
  | .atas o => Laws.Opcodes.atas o
  | .atopk o => Laws.Opcodes.atopk o
  | .aincb o => Laws.Opcodes.aincb o
  | .atomicPerform id => Laws.Opcodes.atomicPerform id
  | .memoryAccessServe id => Laws.Opcodes.memoryAccessServe id
  | .fence o => Laws.Opcodes.fence o
  | .bar o => Laws.Opcodes.bar o
  | .barCopy o => Laws.Opcodes.barCopy o
  | .permitTake o => Laws.Opcodes.permitTake o
  | .permitGive o => Laws.Opcodes.permitGive o
  | .futreg o => Laws.Opcodes.futreg o
  | .futres o => Laws.Opcodes.futres o
  | .futwait o => Laws.Opcodes.futwait o
  | .xcopy o => Laws.Opcodes.xcopy o
  | .xfill o => Laws.Opcodes.xfill o
  | .xgather o => Laws.Opcodes.xgather o
  | .xcoll o => Laws.Opcodes.xcoll o
  | .engineCompletion id => Laws.Opcodes.engineCompletion id
  | .rsplit o => Laws.Opcodes.rsplit o
  | .rmerge o => Laws.Opcodes.rmerge o
  | .rcompact o => Laws.Opcodes.rcompact o
  | .biasflip o => Laws.Opcodes.biasflip o
  | .rangeCommandComplete part => Laws.Opcodes.rangeCommandComplete part
  | .rloop o => Laws.Opcodes.rloop o
  | .rsv o => Laws.Opcodes.rsv o
  | .rsvDone o => Laws.Opcodes.rsvDone o
  | .rchk o => Laws.Opcodes.rchk o
  | .rcommit o => Laws.Opcodes.rcommit o
  | .rretry o => Laws.Opcodes.rretry o
  | .rldone o => Laws.Opcodes.rldone o
  | .reservePhaseClose core loop => Laws.Opcodes.reservePhaseClose core loop
  | .commitPhaseClose core loop => Laws.Opcodes.commitPhaseClose core loop
  | .btask o => Laws.Opcodes.btask o
  | .bop o => Laws.Opcodes.bop o
  | .bcommit o => Laws.Opcodes.bcommit o
  | .babort o => Laws.Opcodes.babort o
  | .bundo o => Laws.Opcodes.bundo o
  | .bstat o => Laws.Opcodes.bstat o
  | .ctload o => Laws.Opcodes.ctload o
  | .ctq o => Laws.Opcodes.ctq o
  | .ctabInstall part aseq => Laws.Opcodes.ctabInstall part aseq
  | .svc o => Laws.Opcodes.svc o
  | .brk o => Laws.Opcodes.brk o
  | .csrr o => Laws.Opcodes.csrr o
  | .csrw o => Laws.Opcodes.csrw o
  | .tfetch o => Laws.Opcodes.tfetch o
  | .reinj o => Laws.Opcodes.reinj o
  | .tkill o => Laws.Opcodes.tkill o
  | .ctxsave o => Laws.Opcodes.ctxsave o
  | .ctxload o => Laws.Opcodes.ctxload o
  | .shrink o => Laws.Opcodes.shrink o
  | .halt o => Laws.Opcodes.halt o
  | .idle o => Laws.Opcodes.idle o
  | .rttw o => Laws.Opcodes.rttw o
  | .rttr o => Laws.Opcodes.rttr o
  | .rinv o => Laws.Opcodes.rinv o
  | .rfence o => Laws.Opcodes.rfence o
  | .extensionOpcode i o => Laws.Opcodes.extensionOpcode i o
  | .resultEmit e => Laws.Opcodes.resultEmit e
  | .tokenHop bank arc hop => Laws.Opcodes.tokenHop bank arc hop
  | .antiTokenHop bank arc => Laws.Opcodes.antiTokenHop bank arc
  | .cancelledFiring e => Laws.Opcodes.cancelledFiring e
  | .markerInject lk core => Laws.Opcodes.markerInject lk core
  | .markerForward u => Laws.Opcodes.markerForward u
  | .unitApply lk core slice => Laws.Opcodes.unitApply lk core slice
  | .remoteUnitApply peer core => Laws.Opcodes.remoteUnitApply peer core
  | .hostCxlAccess a => Laws.Opcodes.hostCxlAccess a
  | .entryReaderPop bank => Laws.Opcodes.entryReaderPop bank
  | .scarabDecide core tile => Laws.Opcodes.scarabDecide core tile
  | .loadClose lk => Laws.Opcodes.loadClose lk
  | .reconfigToken lk core => Laws.Opcodes.reconfigToken lk core
  | .graphRetire lk => Laws.Opcodes.graphRetire lk
  | .decide part => Laws.Opcodes.decide part
  | .shrinkCut lk => Laws.Opcodes.shrinkCut lk
  | .contextParityError e second => Laws.Opcodes.contextParityError e second
  | .timingErrorDetect e second => Laws.Opcodes.timingErrorDetect e second
  | .marginTrimStep core step => Laws.Opcodes.marginTrimStep core step
  | .faultRecordEnqueue core => Laws.Opcodes.faultRecordEnqueue core
  | .rangeWalk core => Laws.Opcodes.rangeWalk core
  | .debugSetBreakpoint e image b => Laws.Opcodes.debugSetBreakpoint e image b
  | .traceModeOff part => Laws.Opcodes.traceModeOff part
  | .traceModeRecord part => Laws.Opcodes.traceModeRecord part
  | .traceModeBind part => Laws.Opcodes.traceModeBind part
  | .rndPeriodWrite lk value => Laws.Opcodes.rndPeriodWrite lk value
  | .exactModeSet part => Laws.Opcodes.exactModeSet part
  | .directoryLock part => Laws.Opcodes.directoryLock part
  | .rdirCntWrite part value => Laws.Opcodes.rdirCntWrite part value
  | .registerWrite part index value => Laws.Opcodes.registerWrite part index value
  | .partCores c => Laws.Opcodes.partCores c
  | .partMem c => Laws.Opcodes.partMem c
  | .partClr c => Laws.Opcodes.partClr c
  | .partReg c => Laws.Opcodes.partReg c
  | .hndStart c => Laws.Opcodes.hndStart c
  | .dmaWin c => Laws.Opcodes.dmaWin c
  | .peerSet c => Laws.Opcodes.peerSet c
  | .grpSet c => Laws.Opcodes.grpSet c
  | .fenceClr c => Laws.Opcodes.fenceClr c
  | .resume c => Laws.Opcodes.resume c
  | .dieReset c => Laws.Opcodes.dieReset c
  | .dieWritebackDone die => Laws.Opcodes.dieWritebackDone die
  | .dieRetrainStart die => Laws.Opcodes.dieRetrainStart die
  | .dieRetrainDone die => Laws.Opcodes.dieRetrainDone die
  | .errorReply id => Laws.Opcodes.errorReply id
  | .vfBind c => Laws.Opcodes.vfBind c
  | .rateSet c => Laws.Opcodes.rateSet c
  | .hostHalt c => Laws.Opcodes.hostHalt c
  | .vfLaunchDoorbell vf queue addr => Laws.Opcodes.vfLaunchDoorbell vf queue addr
  | .bootGo value => Laws.Opcodes.bootGo value
  | .bootVerifyDone => Laws.Opcodes.bootVerifyDone
  | .coldBoot => Laws.Opcodes.coldBoot
  | .getMeasurements => Laws.Opcodes.getMeasurements
  | .flitReceive port flit => Laws.Opcodes.flitReceive port flit
  | .flitReplay port => Laws.Opcodes.flitReplay port
  | .thermalClamp level => Laws.Opcodes.thermalClamp level
  | .mgmtCoreReset => Laws.Opcodes.mgmtCoreReset
  | .patrolScrub u => Laws.Opcodes.patrolScrub u
  | .engineWriteStage id => Laws.Opcodes.engineWriteStage id
  | .hostCxlReply id => Laws.Opcodes.hostCxlReply id

theorem targets_ok_of_wfA {op : Nat} {o : OpA} (h : wfA op o = true) : o.t0.ok = true ∧ o.t1.ok = true := by
  unfold wfA at h
  split at h
  · cases h
  · simp only [Bool.and_eq_true] at h
    obtain ⟨⟨_, h0⟩, h1⟩ := h
    exact ⟨h0, h1⟩

theorem targets_ok_of_wfB {o : OpB} (h : wfB o = true) : o.t0.ok = true ∧ o.t1.ok = true ∧ o.t2.ok = true ∧ o.t3.ok = true := by
  simp only [wfB, Bool.and_eq_true] at h
  obtain ⟨⟨⟨⟨_, h0⟩, h1⟩, h2⟩, h3⟩ := h
  exact ⟨h0, h1, h2, h3⟩

theorem target_ok_of_wfC {op : Nat} {o : OpC} (h : wfC op o = true) : o.t0.ok = true := by
  simp only [wfC, Bool.and_eq_true] at h
  obtain ⟨⟨_, h0⟩, _⟩ := h
  exact h0

/-- A well-formed instruction is well-formed in its format, and its fn bits choose its row. -/
theorem wf_parts {i : Instr} (h : i.wf = true) :
    (match i.form with
      | .a op o => wfA op o
      | .b o => wfB o
      | .c op o => wfC op o
      | .event ok => ok) = true ∧ fnSplitOk i = true :=
  (Bool.and_eq_true _ _).mp h

/-- An instruction of Format A decodes to its canonical row. -/
theorem decodeWord_encodeA {i : Instr} {op : Nat} {o : OpA} (hform : i.form = .a op o) (h : i.wf = true) :
    decodeWord (encodeA op o) = .ok i.canon := by
  have hrow := opcodes_statement i
  have hparts := wf_parts h
  simp only [Laws.Opcodes.Statement, hform] at hrow hparts
  obtain ⟨hlt, hne, hc, hassigned, hback, hcanon⟩ := hrow
  obtain ⟨hwf, hsplit⟩ := hparts
  obtain ⟨h0, h1⟩ := targets_ok_of_wfA hwf
  obtain ⟨hop, hfields⟩ := fieldsA_encodeA op o h0 h1
  rw [Nat.mod_eq_of_lt hlt] at hop
  unfold decodeWord
  simp only [hop, hne, hc, hassigned, hfields, hback hsplit, accept, hcanon, h, if_true, if_false, Bool.false_eq_true]

/-- FANOUT decodes to itself. -/
theorem decodeWord_encodeB {i : Instr} {o : OpB} (hform : i.form = .b o) (h : i.wf = true) : decodeWord (encodeB o) = .ok i.canon := by
  have hrow := opcodes_statement i
  have hparts := wf_parts h
  simp only [Laws.Opcodes.Statement, hform] at hrow hparts
  obtain ⟨hwf, -⟩ := hparts
  obtain ⟨h0, h1, h2, h3⟩ := targets_ok_of_wfB hwf
  obtain ⟨hop, hfields⟩ := fieldsB_encodeB o h0 h1 h2 h3
  subst hrow
  unfold decodeWord
  simp only [hop, hfields, accept, h, if_true]
  rfl

/-- An instruction of Format C decodes to itself. -/
theorem decodeWord_encodeC {i : Instr} {op : Nat} {o : OpC} (hform : i.form = .c op o) (h : i.wf = true) :
    decodeWord (encodeC op o) = .ok i.canon := by
  have hcanon : i.canon = i := by
    unfold Instr.canon
    split
    next => exact nomatch hform
    next => exact nomatch hform
    next => exact nomatch hform
    next => rfl
  have hrow := opcodes_statement i
  have hparts := wf_parts h
  simp only [Laws.Opcodes.Statement, hform] at hrow hparts
  obtain ⟨hlt, hne, hc, hback⟩ := hrow
  obtain ⟨hop, hfields⟩ := fieldsC_encodeC op o (target_ok_of_wfC hparts.1)
  rw [Nat.mod_eq_of_lt hlt] at hop
  unfold decodeWord
  simp only [hop, hne, hc, hfields, hback, accept, h, hcanon, if_true, if_false]

theorem decodeWord_of_encode {i : Instr} {w : Word64} (h : i.wf = true) (hw : encode i = some w) : decodeWord w = .ok i.canon := by
  unfold encode at hw
  split at hw
  next op o hform => exact Option.some.inj hw ▸ decodeWord_encodeA hform h
  next o hform => exact Option.some.inj hw ▸ decodeWord_encodeB hform h
  next op o hform => exact Option.some.inj hw ▸ decodeWord_encodeC hform h
  next => cases hw

/-- Settles O59, by the format of the instruction. -/
theorem decodingUndoesEncoding : Obligations.DecodingUndoesEncoding := by
  unfold Obligations.DecodingUndoesEncoding
  intro i w h hw
  have hword := decodeWord_of_encode h hw
  exact ⟨hword, fun rest => by rw [decode_bytesOfWord, hword]⟩

end Sys2Proof

/-! PROOFS. Every step keeps the canonical form of every memory: one lemma per operation of the model, in the order of the definitions. -/

namespace Sys2Proof.Machine

/-! ### The form as a property of four fields -/

/-- The canonical form of a memory tile's bytes and of its committed copies. -/
def tileOk (bytes : Memory) (snaps : List TileCut) : Bool := Memory.wf bytes && snaps.all (fun c => Memory.wf c.bytes)

/-- A memory tile in canonical form. -/
def MTile.formOk (m : MTile) : Bool := tileOk m.bytes m.snaps

/-- The canonical form of the memories, field by field. -/
def formOk (mem hostMem : Memory) (peerMem : Map Memory) (mtiles : Map MTile) : Bool :=
  Memory.wf mem && Memory.wf hostMem && peerMem.all (fun x => Memory.wf x.2) && mtiles.all (fun x => x.2.formOk)

@[simp] theorem formOk_fields (s : State) : formOk s.mem s.hostMem s.peerMem s.mtiles = s.memOk := by
  unfold State.memOk
  rfl

@[simp] theorem memOk_mk (fc agenda cur tick nid mem hostMem peerMem banks ctiles mtiles cores parts dies reqs units applied overlay abase waiters regs views
    interleave hostLines hostReqs remoteUnits ecc hub) :
    (State.mk fc agenda cur tick nid mem hostMem peerMem banks ctiles mtiles cores parts dies reqs units applied overlay abase waiters regs views
      interleave hostLines hostReqs remoteUnits ecc hub).memOk = formOk mem hostMem peerMem mtiles := by
  unfold State.memOk
  rfl

@[simp] theorem tileOk_fields (m : MTile) : tileOk m.bytes m.snaps = m.formOk := by
  unfold MTile.formOk
  rfl

@[simp] theorem tile_formOk_mk (cfg bytes stage strm recs popped overlay abase pass snaps) :
    (MTile.mk cfg bytes stage strm recs popped overlay abase pass snaps).formOk = tileOk bytes snaps := by
  unfold MTile.formOk
  rfl

theorem memOk_iff (s : State) : s.memOk = true ↔ Memory.wf s.mem = true ∧ Memory.wf s.hostMem = true ∧ (∀ x ∈ s.peerMem, Memory.wf x.2 = true) ∧
    ∀ x ∈ s.mtiles, x.2.formOk = true := by
  simp only [← formOk_fields, formOk, Bool.and_eq_true, List.all_eq_true, and_assoc]

/-- A property of every entry of a table, where an entry takes the place of one that has it as much. -/
theorem all_mset_same {α : Type} (P : α → Bool) (m : Map α) (k : Nat) (d x : α) (hd : P d = true) (hx : P x = P (mgetD m k d)) :
    (mset m k x).all (fun y => P y.2) = m.all (fun y => P y.2) := by
  induction m with
  | nil => simpa [mset, mgetD, mget, hd] using hx
  | cons y m ih =>
    obtain ⟨j, v⟩ := y
    by_cases hlt : k < j
    · have hne : j ≠ k := by omega
      simp [mset, mgetD, mget, hlt, hne, hd] at hx ⊢
      simp [hx]
    · by_cases heq : k = j
      · subst heq
        simp [mset, mgetD, mget] at hx ⊢
        rw [hx]
      · have hne : j ≠ k := fun e => heq e.symm
        simp only [mgetD, mget, hne, hlt, if_false] at hx
        simp [mset, hlt, heq, ih hx]

@[simp] theorem memOk_setMtile_of (s : State) (k : Nat) (t : MTile) (h : t.formOk = (s.mtile k).formOk) : (s.setMtile k t).memOk = s.memOk := by
  have hall := all_mset_same MTile.formOk s.mtiles k {} t rfl h
  show formOk s.mem s.hostMem s.peerMem (mset s.mtiles k t) = formOk s.mem s.hostMem s.peerMem s.mtiles
  unfold formOk
  rw [hall]

/-! ### Answers, choices and folds -/

/-- An answer whose next state is in canonical form. -/
def outcomeOk (o : Host.Outcome State Fault Refusal) : Prop := ∀ t, o = .next t → t.memOk = true

@[simp] theorem outcomeOk_next (s : State) : outcomeOk (.next s) ↔ s.memOk = true := by
  simp [outcomeOk]

@[simp] theorem memOk_ite (s t : State) (c : Prop) [Decidable c] : (if c then s else t).memOk = if c then s.memOk else t.memOk := apply_ite _ _ _ _

@[simp] theorem memOk_foldl_same {α : Type} (f : State → α → State) (xs : List α) (s : State) (hf : ∀ u x, (f u x).memOk = u.memOk) :
    (xs.foldl f s).memOk = s.memOk := by
  induction xs generalizing s with
  | nil => rfl
  | cons x xs ih => exact (ih (f s x)).trans (hf s x)

@[simp] theorem memOk_foldl_fst_same {α β : Type} (f : State × β → α → State × β) (xs : List α) (s : State × β) (hf : ∀ u x, (f u x).1.memOk = u.1.memOk) :
    (xs.foldl f s).1.memOk = s.1.memOk := by
  induction xs generalizing s with
  | nil => rfl
  | cons x xs ih => exact (ih (f s x)).trans (hf s x)

@[simp] theorem memOk_foldl {α : Type} (f : State → α → State) (xs : List α) {s : State} (h : s.memOk = true)
    (hf : ∀ u x, u.memOk = true → (f u x).memOk = true) : (xs.foldl f s).memOk = true := by
  induction xs generalizing s with
  | nil => exact h
  | cons x xs ih => exact ih (hf s x h)

/-- A fold that may answer before it ends, or that keeps more than the state. -/
@[simp] theorem memOk_foldl_fst {α β : Type} (f : State × β → α → State × β) (xs : List α) {s : State × β} (h : s.1.memOk = true)
    (hf : ∀ u x, u.1.memOk = true → (f u x).1.memOk = true) : (xs.foldl f s).1.memOk = true := by
  induction xs generalizing s with
  | nil => exact h
  | cons x xs ih => exact ih (hf s x h)

/-! ### Memories -/

theorem forall_mset {α : Type} {P : α → Prop} {m : Map α} (hm : ∀ x ∈ m, P x.2) (k : Nat) {v : α} (hv : P v) : ∀ x ∈ mset m k v, P x.2 := by
  induction m with
  | nil => simpa [mset] using hv
  | cons y m ih =>
    obtain ⟨j, w⟩ := y
    obtain ⟨hw, hrest⟩ := List.forall_mem_cons.mp hm
    unfold mset
    split
    · exact List.forall_mem_cons.mpr ⟨hv, hm⟩
    · split
      · exact List.forall_mem_cons.mpr ⟨hv, hrest⟩
      · exact List.forall_mem_cons.mpr ⟨hw, ih hrest⟩

theorem memOk_setMtile {s : State} (h : s.memOk = true) {t : MTile} (ht : t.formOk = true) (k : Nat) : (s.setMtile k t).memOk = true := by
  obtain ⟨hm, hh, hp, ht'⟩ := (memOk_iff s).mp h
  exact (memOk_iff _).mpr ⟨hm, hh, hp, forall_mset (P := fun m : MTile => m.formOk = true) ht' k ht⟩

theorem mtile_formOk {s : State} (h : s.memOk = true) (k : Nat) : (s.mtile k).formOk = true :=
  mgetD_of_forall (P := fun m : MTile => m.formOk = true) ((memOk_iff s).mp h).2.2.2 rfl k

theorem tile_formOk_iff (m : MTile) : m.formOk = true ↔ Memory.wf m.bytes = true ∧ ∀ c ∈ m.snaps, Memory.wf c.bytes = true := by
  simp only [← tileOk_fields, tileOk, Bool.and_eq_true, List.all_eq_true]

theorem memOk_setMtile_parts {s : State} (h : s.memOk = true) {t : MTile} (hb : Memory.wf t.bytes = true) (hs : ∀ c ∈ t.snaps, Memory.wf c.bytes = true)
    (k : Nat) : (s.setMtile k t).memOk = true :=
  memOk_setMtile h ((tile_formOk_iff t).mpr ⟨hb, hs⟩) k

/-- A write of device memory. -/
theorem memOk_mem {s : State} (h : s.memOk = true) {m : Memory} (hm : Memory.wf m = true) : ({ s with mem := m } : State).memOk = true :=
  (memOk_iff _).mpr ⟨hm, ((memOk_iff s).mp h).2⟩

theorem wf_foldl_memWrite (xs : Map Byte) {m : Memory} (h : Memory.wf m = true) :
    Memory.wf (xs.foldl (fun m (y : Nat × Byte) => memWrite m y.1 y.2) m) = true := by
  induction xs generalizing m with
  | nil => exact h
  | cons y xs ih => exact ih (wf_memWrite m y.1 y.2 h)

/-! ### Homes -/

theorem wf_settle {x : HomeLog} (h : Memory.wf x.mem = true) : Memory.wf x.settle.mem = true := wf_foldl_memWrite _ h

theorem wf_put {x : HomeLog} (h : Memory.wf x.mem = true) (e : Arrival) (bs : List Byte) : Memory.wf (x.put e bs).mem = true := by
  unfold HomeLog.put
  split
  · exact wf_writeBytes bs x.mem e.addr h
  · refine wf_settle (List.foldlRecOn _ _ (motive := fun y : HomeLog => Memory.wf y.mem = true) h fun y hy z _ => ?_)
    dsimp only
    split
    · exact hy
    · split
      · exact hy
      · exact wf_memWrite y.mem z.1 z.2 hy

theorem mem_append_foldl (ws : List Arrival) (g : Arrival → Arrival) (x : HomeLog) :
    (ws.foldl (fun (h : HomeLog) w => h.append (g w)) x).mem = x.mem := by
  induction ws generalizing x with
  | nil => rfl
  | cons w ws ih => exact ih _

theorem wf_homeLog {s : State} (h : s.memOk = true) (sp : Space) : Memory.wf (s.homeLog sp).mem = true := by
  obtain ⟨hm, hh, hp, -⟩ := (memOk_iff s).mp h
  cases sp with
  | dev => exact hm
  | host => exact hh
  | peer p => exact mgetD_of_forall (P := fun m : Memory => Memory.wf m = true) hp rfl p
  | tile c t => exact ((tile_formOk_iff _).mp (mtile_formOk h _)).1

@[simp] theorem formOk_setMtile (s : State) (k : Nat) (t : MTile) : formOk s.mem s.hostMem s.peerMem (s.setMtile k t).mtiles = (s.setMtile k t).memOk :=
  formOk_fields (s.setMtile k t)

/-- A change of every memory tile that leaves the bytes. -/
@[simp] theorem formOk_map_tiles (mem hostMem peerMem) (mtiles : Map MTile) (g : Nat × MTile → Nat × MTile) (hg : ∀ x, (g x).2.formOk = x.2.formOk) :
    formOk mem hostMem peerMem (mtiles.map g) = formOk mem hostMem peerMem mtiles := by
  simp only [formOk, List.all_map, Function.comp_def, hg]

@[simp] theorem memOk_openFc (s : State) : (s.openFc).memOk = s.memOk := by
  unfold State.openFc
  simp

@[simp] theorem memOk_setPart (s : State) (k p) : (s.setPart k p).memOk = s.memOk := by
  unfold State.setPart
  simp

@[simp] theorem memOk_fresh (s : State) : (s.fresh).2.memOk = s.memOk := by
  unfold State.fresh
  simp

@[simp] theorem memOk_setCore (s : State) (k c) : (s.setCore k c).memOk = s.memOk := by
  unfold State.setCore
  simp

@[simp] theorem memOk_setBank (s : State) (k b) : (s.setBank k b).memOk = s.memOk := by
  unfold State.setBank
  simp



@[simp] theorem memOk_tickUp (s : State) : (s.tickUp).memOk = s.memOk := by
  unfold State.tickUp
  simp

@[simp] theorem memOk_setCtile (s : State) (k t) : (s.setCtile k t).memOk = s.memOk := by
  unfold State.setCtile
  simp

@[simp] theorem memOk_grantTake (s : State) (a rests) : (s.grantTake a rests).memOk = s.memOk := by
  unfold State.grantTake
  simp

@[simp] theorem memOk_passTo (s : State) (rests g x) : (s.passTo rests g x).memOk = s.memOk := by
  unfold State.passTo
  simp

@[simp] theorem memOk_park (s : State) (a) : (s.park a).memOk = s.memOk := by
  unfold State.park
  simp

@[simp] theorem memOk_forget (s : State) (id) : (s.forget id).memOk = s.memOk := by
  unfold State.forget
  simp

@[simp] theorem memOk_viewTouch (s : State) (core lk ps) : (s.viewTouch core lk ps).memOk = s.memOk := by
  unfold State.viewTouch
  simp

@[simp] theorem memOk_dirWrite {s : State} (h : s.memOk = true) (p i w) : (dirWrite s p i w).memOk = true :=
  memOk_mem h (wf_writeBytes _ _ _ ((memOk_iff s).mp h).1)

@[simp] theorem memOk_msiDone (s : State) (vf) : (s.msiDone vf).memOk = s.memOk := by
  unfold State.msiDone
  split <;> simp

@[simp] theorem memOk_releaseRegs (s : State) (lk tseq) : (s.releaseRegs lk tseq).memOk = s.memOk := by
  unfold State.releaseRegs
  simp

@[simp] theorem memOk_setPort (s : State) (n x) : (s.setPort n x).memOk = s.memOk := by
  unfold State.setPort
  simp

@[simp] theorem memOk_reroute (s : State) (lk) : (s.reroute lk).memOk = s.memOk := by
  unfold State.reroute
  split <;> simp

@[simp] theorem memOk_journal (s : State) (op part src status done a b) : (s.journal op part src status done a b).memOk = s.memOk := by
  unfold State.journal
  simp

@[simp] theorem memOk_journalDone (s : State) (n) : (s.journalDone n).memOk = s.memOk := by
  unfold State.journalDone
  simp

@[simp] theorem memOk_setDie (s : State) (d f) : (s.setDie d f).memOk = s.memOk := by
  unfold State.setDie
  simp

@[simp] theorem memOk_freeBank (s : State) (k) : (s.freeBank k).memOk = s.memOk := by
  unfold State.freeBank
  simp

@[simp] theorem memOk_ringDoorbell (s : State) (tail) : (s.ringDoorbell tail).memOk = s.memOk := by
  unfold State.ringDoorbell
  simp

@[simp] theorem memOk_bootByte (s : State) (a b) : (s.bootByte a b).memOk = s.memOk := by
  unfold State.bootByte
  simp

@[simp] theorem memOk_ringEntry (s : State) (i c) : (s.ringEntry i c).memOk = s.memOk := by
  unfold State.ringEntry
  simp

@[simp] theorem memOk_hostByte {s : State} (h : s.memOk = true) (a b) : (s.hostByte a b).memOk = true := by
  obtain ⟨hm, hh, hrest⟩ := (memOk_iff s).mp h
  exact (memOk_iff _).mpr ⟨hm, wf_memWrite _ a b hh, hrest⟩

@[simp] theorem memOk_halt (s : State) (part) : (s.halt part).memOk = s.memOk := by
  unfold State.halt
  simp

@[simp] theorem memOk_sendRecord (s : State) (core r) : (s.sendRecord core r).memOk = s.memOk := by
  unfold State.sendRecord
  simp

@[simp] theorem memOk_setElem (s : State) (e x) : (s.setElem e x).memOk = s.memOk := by
  unfold State.setElem
  simp

@[simp] theorem memOk_setLaunch (s : State) (lk l) : (s.setLaunch lk l).memOk = s.memOk := by
  unfold State.setLaunch
  simp

@[simp] theorem memOk_stageFlags (s : State) (f fl) : (s.stageFlags f fl).memOk = s.memOk := by
  unfold State.stageFlags
  simp

@[simp] theorem memOk_askWalk (s : State) (core a) : (s.askWalk core a).memOk = s.memOk := by
  unfold State.askWalk
  split <;> simp

@[simp] theorem memOk_dropWalk (s : State) (core a) : (s.dropWalk core a).memOk = s.memOk := by
  unfold State.dropWalk
  simp

@[simp] theorem memOk_touch (s : State) (core parts) : (s.touch core parts).memOk = s.memOk := by
  unfold State.touch
  simp

@[simp] theorem memOk_queueTake (s : State) (k i lk round) : (s.queueTake k i lk round).memOk = s.memOk := by
  unfold State.queueTake
  simp

@[simp] theorem memOk_useNode (s : State) (core t) : (s.useNode core t).memOk = s.memOk := by
  unfold State.useNode
  simp

@[simp] theorem memOk_trUnuse (s : State) (part i) : (s.trUnuse part i).memOk = s.memOk := by
  unfold State.trUnuse
  simp

theorem memOk_of_trStore {s t : State} (h : s.memOk = true) {part i w0 w1 : Nat} (ht : s.trStore part i w0 w1 = some t) : t.memOk = true := by
  unfold State.trStore at ht
  dsimp only at ht
  split at ht
  · cases ht
  · obtain ⟨a, -, rfl⟩ := Option.map_eq_some_iff.mp ht
    exact memOk_mem h (wf_writeBytes _ _ _ ((memOk_iff s).mp h).1)

@[simp] theorem memOk_trWithdraw {s : State} (h : s.memOk = true) (part i) : (s.trWithdraw part i).memOk = true := by
  unfold State.trWithdraw
  simp only [memOk_setPart]
  refine memOk_foldl _ _ h fun u j hu => ?_
  split
  next w0 w1 _ =>
    cases ht : u.trStore part (i + j) w0 w1 with
    | none => exact hu
    | some t => exact memOk_of_trStore hu ht
  next => exact hu

theorem memOk_setHomeLog {s : State} (h : s.memOk = true) (sp : Space) {x : HomeLog} (hx : Memory.wf x.mem = true) : (s.setHomeLog sp x).memOk = true := by
  obtain ⟨hm, hh, hp, ht⟩ := (memOk_iff s).mp h
  cases sp with
  | dev => exact (memOk_iff _).mpr ⟨hx, hh, hp, ht⟩
  | host => exact (memOk_iff _).mpr ⟨hm, hx, hp, ht⟩
  | peer p => exact (memOk_iff _).mpr ⟨hm, hh, forall_mset (P := fun m : Memory => Memory.wf m = true) hp p hx, ht⟩
  | tile c t => 
    obtain ⟨-, hsnaps⟩ := (tile_formOk_iff _).mp (mtile_formOk h (tileKey c t))
    exact memOk_setMtile h ((tile_formOk_iff { s.mtile (tileKey c t) with overlay := x.log, abase := x.base, bytes := x.mem }).mpr ⟨hx, hsnaps⟩) _

@[simp] theorem memOk_useTile (s : State) (c t) : (s.useTile c t).memOk = s.memOk := by
  unfold State.useTile
  simp

@[simp] theorem memOk_walked (s : State) (core part a) : (s.walked core part a).memOk = s.memOk := by
  unfold State.walked
  split
  · rfl
  · split <;> simp

@[simp] theorem memOk_setStreamer (s : State) (k i x) : (s.setStreamer k i x).memOk = s.memOk := by
  unfold State.setStreamer
  simp

@[simp] theorem memOk_fillLine (s : State) (core lk prog phys) : (s.fillLine core lk prog phys).memOk = s.memOk := by
  unfold State.fillLine
  simp

@[simp] theorem memOk_asOld (s : State) (core x) : (s.asOld core x).memOk = s.memOk := by
  unfold State.asOld
  simp

@[simp] theorem memOk_setCmd (s : State) (core x) : (s.setCmd core x).memOk = s.memOk := by
  unfold State.setCmd
  simp

@[simp] theorem memOk_rangePhase (s : State) (part r phase busy) : (s.rangePhase part r phase busy).memOk = s.memOk := by
  unfold State.rangePhase
  simp

@[simp] theorem memOk_sendInval (s : State) (part id all lo hi) : (s.sendInval part id all lo hi).memOk = s.memOk := by
  unfold State.sendInval
  simp

@[simp] theorem memOk_relocate (s : State) (part lo n new) : (s.relocate part lo n new).memOk = s.memOk := by
  unfold State.relocate
  simp

@[simp] theorem memOk_dirStore {s : State} (h : s.memOk = true) (part i es cnt) : (s.dirStore part i es cnt).memOk = true := by
  unfold State.dirStore
  refine memOk_foldl _ _ (by simp [h]) fun u x hu => ?_
  dsimp only
  repeat' split
  all_goals simp [hu]

@[simp] theorem memOk_setLoop (s : State) (core k l) : (s.setLoop core k l).memOk = s.memOk := by
  unfold State.setLoop
  simp

@[simp] theorem memOk_setTask (s : State) (core k t) : (s.setTask core k t).memOk = s.memOk := by
  unfold State.setTask
  simp

@[simp] theorem memOk_installTable (s : State) (part core addr) : (s.installTable part core addr).1.memOk = s.memOk := by
  unfold State.installTable
  dsimp only
  repeat' split
  all_goals simp

@[simp] theorem memOk_trUse (s : State) (part i) : (s.trUse part i).memOk = s.memOk := by
  unfold State.trUse
  simp

@[simp] theorem memOk_queuePush (s : State) (k lk round key v copy) : (s.queuePush k lk round key v copy).memOk = s.memOk := by
  unfold State.queuePush
  simp

@[simp] theorem memOk_flagsOut (s : State) (bk r fl) : (s.flagsOut bk r fl).memOk = s.memOk := by
  unfold State.flagsOut
  simp

@[simp] theorem memOk_arcDeliver (s : State) (bk a t) : (s.arcDeliver bk a t).memOk = s.memOk := by
  unfold State.arcDeliver
  split <;> simp

@[simp] theorem memOk_markSlot (s : State) (bk idx k) : (s.markSlot bk idx k).memOk = s.memOk := by
  unfold State.markSlot
  simp

@[simp] theorem memOk_commitBank (s : State) (bk r) : (s.commitBank bk r).memOk = s.memOk := by
  unfold State.commitBank
  simp only [memOk_setBank, memOk_mk, State.setCore_mem, State.setCore_hostMem, State.setCore_peerMem, State.setCore_mtiles]
  refine (formOk_map_tiles _ _ _ _ _ fun x => ?_).trans (formOk_fields s)
  dsimp only
  split <;> simp

@[simp] theorem memOk_commitNode (s : State) (lk core t r) : (s.commitNode lk core t r).memOk = s.memOk := by
  unfold State.commitNode
  simp

@[simp] theorem memOk_snapCore (s : State) (lk r core) : (s.snapCore lk r core).memOk = s.memOk := by
  unfold State.snapCore
  simp

@[simp] theorem memOk_pushNow (s : State) (k lk round v copy) : (s.pushNow k lk round v copy).memOk = s.memOk := by
  unfold State.pushNow
  simp

@[simp] theorem memOk_setDirCount (s : State) (part v) : (s.setDirCount part v).memOk = s.memOk := by
  unfold State.setDirCount
  simp

@[simp] theorem memOk_setTrim (s : State) (part v) : (s.setTrim part v).memOk = s.memOk := by
  unfold State.setTrim
  simp

@[simp] theorem memOk_trRefuse (s : State) (part) : (s.trRefuse part).memOk = s.memOk := by
  unfold State.trRefuse
  simp

@[simp] theorem memOk_trLeave {s : State} (h : s.memOk = true) (part) : (s.trLeave part).memOk = true := by
  unfold State.trLeave
  dsimp only
  split
  · exact h
  · split
    next t ht => simp [memOk_of_trStore h ht]
    next => simp [h]

@[simp] theorem memOk_invalMarker (s : State) (core part lk round) : (s.invalMarker core part lk round).memOk = s.memOk := by
  unfold State.invalMarker
  simp

@[simp] theorem memOk_sendFar (s : State) (lk cores r) : (s.sendFar lk cores r).memOk = s.memOk := by
  unfold State.sendFar
  simp

@[simp] theorem memOk_install (s : State) (lk l r num origin blk pin p round) : (s.install lk l r num origin blk pin p round).memOk = s.memOk := by
  unfold State.install
  simp

@[simp] theorem memOk_joinBlock (s : State) (bk) : (s.joinBlock bk).memOk = s.memOk := by
  unfold State.joinBlock
  refine (memOk_foldl_same _ _ _ fun u x => ?_).trans ?_
  · dsimp only
    repeat' split
    all_goals simp
  · simp

@[simp] theorem memOk_configTile {s : State} (h : s.memOk = true) (lk l r core t round fresh) : (s.configTile lk l r core t round fresh).memOk = true := by
  obtain ⟨hbytes, hsnaps⟩ := (tile_formOk_iff _).mp (mtile_formOk h (tileKey core t))
  unfold State.configTile
  refine memOk_setMtile h ?_ _
  dsimp only
  split
  · exact (tile_formOk_iff _).mpr ⟨hbytes, fun c hc => by cases List.mem_singleton.mp hc; exact hbytes⟩
  · exact (tile_formOk_iff _).mpr ⟨hbytes, hsnaps⟩

@[simp] theorem memOk_resetNode (s : State) (lk core t) : (s.resetNode lk core t).memOk = s.memOk := by
  unfold State.resetNode
  simp

@[simp] theorem memOk_bindCore (s : State) (lk core) : (s.bindCore lk core).memOk = s.memOk := by
  unfold State.bindCore
  simp

@[simp] theorem memOk_bindNode (s : State) (lk core t round) : (s.bindNode lk core t round).memOk = s.memOk := by
  unfold State.bindNode
  simp

@[simp] theorem memOk_saveCore {s : State} (h : s.memOk = true) (lk core a round) : (s.saveCore lk core a round).memOk = true := by
  have hfold : ∀ {α : Type} (xs : List α) (at' : α → Nat) (bs : α → List Byte) (m : Memory), Memory.wf m = true →
      Memory.wf (xs.foldl (fun m x => writeBytes m (at' x) (bs x)) m) = true := fun xs at' bs m hm =>
    List.foldlRecOn xs _ (motive := fun m : Memory => Memory.wf m = true) hm fun m hm x _ => wf_writeBytes _ m _ hm
  unfold State.saveCore
  simp only [memOk_tickUp]
  exact memOk_mem h (wf_writeBytes _ _ _ (hfold _ _ _ _ (hfold _ _ _ _ ((memOk_iff s).mp h).1)))

@[simp] theorem memOk_moveNodes (s : State) (lk src dst round) : (s.moveNodes lk src dst round).memOk = s.memOk := by
  unfold State.moveNodes
  simp

@[simp] theorem memOk_command {s : State} (h : s.memOk = true) (op c free busy bad) {act : State → State}
    (ha : ∀ u, u.memOk = true → (act u).memOk = true) : (s.command op c free busy bad act).memOk = true := by
  unfold State.command
  dsimp only
  generalize (if !reservedClear c free then 1 else if 95 < c.part then 3 else if busy then 4 else if bad then 6 else 0) = st
  split
  · simp [h]
  · simp [ha _ (show State.memOk (s.journal _ _ _ _ _ _ _) = true by simp [h])]

@[simp] theorem memOk_leaveCore (s : State) (k) : (s.leaveCore k).memOk = s.memOk := by
  unfold State.leaveCore
  simp

@[simp] theorem memOk_chooseBanks (s : State) : (s.chooseBanks).memOk = s.memOk := by
  unfold State.chooseBanks
  simp

@[simp] theorem memOk_unknownCommand (s : State) (c) : (s.unknownCommand c).memOk = s.memOk := by
  unfold State.unknownCommand
  simp

@[simp] theorem memOk_raise (s : State) (f kind code need bp words call) : (s.raise f kind code need bp words call).memOk = s.memOk := by
  unfold State.raise
  simp

@[simp] theorem memOk_consume (s : State) (f k) : (s.consume f k).memOk = s.memOk := by
  unfold State.consume
  simp

@[simp] theorem memOk_mapLaunch (s : State) (lk f) : (s.mapLaunch lk f).memOk = s.memOk := by
  unfold State.mapLaunch
  split <;> simp

@[simp] theorem memOk_pushFlight (s : State) (e second x) : (s.pushFlight e second x).memOk = s.memOk := by
  unfold State.pushFlight
  simp

@[simp] theorem memOk_setOst (s : State) (e o) : (s.setOst e o).memOk = s.memOk := by
  unfold State.setOst
  simp

theorem memOk_accessGate {s : State} (h : s.memOk = true) (fl need addr rd wr) {go : Trans → State → State}
    (hgo : ∀ t u, u.memOk = true → (go t u).memOk = true) : (s.accessGate fl need addr rd wr go).memOk = true := by
  unfold State.accessGate
  dsimp only
  repeat' split
  · exact hgo _ _ h
  · exact hgo _ _ h
  · simp [h]
  · simp [h, hgo]
  · simp [h, hgo]

@[simp] theorem memOk_queuePop (s : State) (k lk round) : (s.queuePop k lk round).memOk = s.memOk := by
  unfold State.queuePop
  simp

@[simp] theorem memOk_fill (s : State) (e id due after outs fl) : (s.fill e id due after outs fl).memOk = s.memOk := by
  unfold State.fill
  simp

@[simp] theorem memOk_cvtPost (s : State) (o f x pr) : (cvtPost o s f x pr).memOk = s.memOk := by
  unfold cvtPost
  dsimp only
  repeat' split
  all_goals simp

@[simp] theorem memOk_notice (s : State) (lk core code info aux o) : (s.notice lk core code info aux o).memOk = s.memOk := by
  unfold State.notice
  simp

@[simp] theorem memOk_commitWrite {s : State} (h : s.memOk = true) (a bs) : (s.commitWrite a bs).memOk = true :=
  memOk_setHomeLog h _ (wf_put (wf_homeLog h _) a bs)

@[simp] theorem memOk_withdraw (s : State) (e id) : (s.withdraw e id).memOk = s.memOk := by
  unfold State.withdraw
  simp

@[simp] theorem memOk_logOwn {s : State} (h : s.memOk = true) (a) : (s.logOwn a).memOk = true := by
  unfold State.logOwn
  dsimp only
  split
  · exact h
  · exact memOk_setHomeLog h _ (by rw [mem_append_foldl]; exact wf_homeLog h _)

@[simp] theorem memOk_busyStreams (s : State) (lk) : (s.busyStreams lk).memOk = s.memOk := by
  unfold State.busyStreams
  simp

@[simp] theorem memOk_stage (s : State) (a) : (s.stage a).memOk = s.memOk := by
  unfold State.stage
  dsimp only
  repeat' split
  all_goals simp

@[simp] theorem memOk_raiseLate (s : State) (r code addr) : (s.raiseLate r code addr).memOk = s.memOk := by
  unfold State.raiseLate
  simp

@[simp] theorem memOk_partNotice (s : State) (part lid code w2 info aux) : (s.partNotice part lid code w2 info aux).memOk = s.memOk := by
  unfold State.partNotice
  simp

@[simp] theorem memOk_closeSite (s : State) (part x) : (s.closeSite part x).memOk = s.memOk := by
  unfold State.closeSite
  simp

@[simp] theorem memOk_commitCheck (s : State) (part xs) : (s.commitCheck part xs).memOk = s.memOk := by
  unfold State.commitCheck
  simp

@[simp] theorem memOk_arcSend (s : State) (bk j t) : (s.arcSend bk j t).memOk = s.memOk := by
  unfold State.arcSend
  dsimp only
  repeat' split
  all_goals simp

@[simp] theorem memOk_hopMove (s : State) (bk j q) : (s.hopMove bk j q).memOk = s.memOk := by
  unfold State.hopMove
  dsimp only
  repeat' split
  all_goals simp

@[simp] theorem memOk_injectBank (s : State) (bk) : (s.injectBank bk).memOk = s.memOk := by
  unfold State.injectBank
  simp

@[simp] theorem memOk_markArc (s : State) (bk j) : (s.markArc bk j).memOk = s.memOk := by
  unfold State.markArc
  dsimp only
  repeat' split
  all_goals simp

@[simp] theorem memOk_forwardNode (s : State) (lk core t) : (s.forwardNode lk core t).memOk = s.memOk := by
  unfold State.forwardNode
  simp

@[simp] theorem memOk_openLoops (s : State) (lk r cores) : (s.openLoops lk r cores).memOk = s.memOk := by
  unfold State.openLoops
  simp

@[simp] theorem memOk_refill (s : State) (e id after outs) : (s.refill e id after outs).memOk = s.memOk := by
  unfold State.refill
  simp

@[simp] theorem memOk_snapTasks (s : State) (lk) : (s.snapTasks lk).memOk = s.memOk := by
  unfold State.snapTasks
  simp

@[simp] theorem memOk_trOff {s : State} (h : s.memOk = true) (part) : (s.trOff part).memOk = true := by
  unfold State.trOff
  simp [h]

@[simp] theorem memOk_trStart (s : State) (part) : (s.trStart part).memOk = s.memOk := by
  unfold State.trStart
  simp

@[simp] theorem memOk_trBind {s : State} (h : s.memOk = true) (part) : (s.trBind part).memOk = true := by
  unfold State.trBind
  dsimp only
  repeat' split
  all_goals simp [h]

@[simp] theorem memOk_plainWrite (s : State) (part index v) : (s.plainWrite part index v).memOk = s.memOk := by
  unfold State.plainWrite
  split <;> simp

@[simp] theorem memOk_readerNotice (s : State) (bk b w0) : (s.readerNotice bk b w0).memOk = s.memOk := by
  unfold State.readerNotice
  simp

@[simp] theorem memOk_blockNotice (s : State) (lk p blk step idx) : (s.blockNotice lk p blk step idx).memOk = s.memOk := by
  unfold State.blockNotice
  simp

@[simp] theorem memOk_selfShrink (s : State) (part) : (s.selfShrink part).memOk = s.memOk := by
  unfold State.selfShrink
  dsimp only
  repeat' split
  all_goals simp

@[simp] theorem memOk_ctxEnd (s : State) (core x status done) : (s.ctxEnd core x status done).memOk = s.memOk := by
  unfold State.ctxEnd
  simp

@[simp] theorem memOk_numberColl (s : State) (core x) : (s.numberColl core x).1.memOk = s.memOk := by
  unfold State.numberColl
  split <;> simp

@[simp] theorem memOk_breakpoint (s : State) (f) : (s.breakpoint f).memOk = s.memOk := by
  unfold State.breakpoint
  simp

@[simp] theorem memOk_raiseOperand (s : State) (f bit code aux info) : (s.raiseOperand f bit code aux info).memOk = s.memOk := by
  unfold State.raiseOperand
  simp

@[simp] theorem memOk_active (s : State) (lk core r) : (s.active lk core r).memOk = s.memOk := by
  unfold State.active
  simp

@[simp] theorem memOk_raiseHeld (s : State) (f code info aux) : (s.raiseHeld f code info aux).memOk = s.memOk := by
  unfold State.raiseHeld
  simp

@[simp] theorem memOk_result (s : State) (f second lat outs) : (s.result f second lat outs).memOk = s.memOk := by
  unfold State.result
  simp

@[simp] theorem memOk_pushResult (s : State) (f k v copy) : (s.pushResult f k v copy).memOk = s.memOk := by
  unfold State.pushResult
  simp

@[simp] theorem memOk_stageEff (s : State) (f k) : (s.stageEff f k).memOk = s.memOk := by
  unfold State.stageEff
  simp

@[simp] theorem memOk_requestMarker (s : State) (lk core) : (s.requestMarker lk core).memOk = s.memOk := by
  unfold State.requestMarker
  dsimp only
  repeat' split
  all_goals simp

@[simp] theorem memOk_await (s : State) (f second owed id) : (s.await f second owed id).memOk = s.memOk := by
  unfold State.await
  simp

@[simp] theorem memOk_levelThree (s : State) (lk core) : (s.levelThree lk core).memOk = s.memOk := by
  unfold State.levelThree
  simp

@[simp] theorem memOk_undoSwap {s : State} (h : s.memOk = true) (lk x) : (s.undoSwap lk x).memOk = true := by
  unfold State.undoSwap
  dsimp only
  repeat' split
  all_goals simp [h]

@[simp] theorem memOk_homeWrite {s : State} (h : s.memOk = true) (sp a bs) : (s.homeWrite sp a bs).memOk = true := by
  unfold State.homeWrite
  simp [h]

@[simp] theorem memOk_answer (s : State) (id after outs fl) : (s.answer id after outs fl).memOk = s.memOk := by
  unfold State.answer
  split <;> simp

@[simp] theorem memOk_abandon (s : State) (id) : (s.abandon id).memOk = s.memOk := by
  unfold State.abandon
  split <;> simp

@[simp] theorem memOk_stageLaunch (s : State) (a queue addr ps wait) : (s.stageLaunch a queue addr ps wait).memOk = s.memOk := by
  unfold State.stageLaunch
  simp

@[simp] theorem memOk_stageParts (s : State) (f ps bs) : (s.stageParts f ps bs).memOk = s.memOk := by
  unfold State.stageParts
  simp

@[simp] theorem memOk_sendOp (s : State) (f ps op id chain) : (s.sendOp f ps op id chain).memOk = s.memOk := by
  unfold State.sendOp
  simp

@[simp] theorem memOk_serveStream (s : State) (r p) : (s.serveStream r p).memOk = s.memOk := by
  unfold State.serveStream
  dsimp only
  repeat' split
  all_goals simp

@[simp] theorem memOk_rangeDone (s : State) (part r status done) : (s.rangeDone part r status done).memOk = s.memOk := by
  unfold State.rangeDone
  simp

@[simp] theorem memOk_finishLoop (s : State) (core k after) : (s.finishLoop core k after).memOk = s.memOk := by
  unfold State.finishLoop
  dsimp only
  repeat' split
  all_goals simp

@[simp] theorem memOk_reinject (s : State) (part fser word0 tok k) : (s.reinject part fser word0 tok k).1.memOk = s.memOk := by
  unfold State.reinject
  dsimp only
  repeat' split
  all_goals simp

@[simp] theorem memOk_trAppend {s : State} (h : s.memOk = true) (part w0 w1) : (s.trAppend part w0 w1).memOk = true := by
  unfold State.trAppend
  dsimp only
  split
  next t ht => simp [memOk_of_trStore h ht]
  next => simp [h]

@[simp] theorem memOk_sendRinvs (s : State) (part) : (s.sendRinvs part).memOk = s.memOk := by
  unfold State.sendRinvs
  simp

theorem memOk_of_acceptPacket {s t : State} {part queue ws addr vf graph} (h : s.acceptPacket part queue ws addr vf graph = .ok t) : t.memOk = s.memOk := by
  unfold State.acceptPacket at h
  dsimp only at h
  split at h
  · cases h
  · split at h
    · cases h
    · cases h
      simp

@[simp] theorem memOk_doLaunch (s : State) (lk core queue addr ps vf o) : (s.doLaunch lk core queue addr ps vf o).memOk = s.memOk := by
  unfold State.doLaunch
  split
  next t ht => exact memOk_of_acceptPacket ht
  next => simp

@[simp] theorem memOk_doPatch (s : State) (lk core addr slot v o) : (s.doPatch lk core addr slot v o).memOk = s.memOk := by
  unfold State.doPatch
  dsimp only
  repeat' split
  all_goals simp

@[simp] theorem memOk_killWaits (s : State) (part tag early) : (s.killWaits part tag early).memOk = s.memOk := by
  unfold State.killWaits
  simp

@[simp] theorem memOk_emitTarget (s : State) (bk idx n t tok x) : (s.emitTarget bk idx n t tok x).memOk = s.memOk := by
  unfold State.emitTarget
  dsimp only
  repeat' split
  all_goals simp

@[simp] theorem memOk_wakeIdle (s : State) (e) : (s.wakeIdle e).memOk = s.memOk := by
  unfold State.wakeIdle
  simp

@[simp] theorem memOk_balanceFault (s : State) (bk idx) : (s.balanceFault bk idx).memOk = s.memOk := by
  unfold State.balanceFault
  simp

@[simp] theorem memOk_injectCore (s : State) (lk core) : (s.injectCore lk core).memOk = s.memOk := by
  unfold State.injectCore
  simp

@[simp] theorem memOk_markOutputs (s : State) (bk idx ts) : (s.markOutputs bk idx ts).memOk = s.memOk := by
  unfold State.markOutputs
  refine (memOk_foldl_same _ _ _ fun u x => ?_).trans ?_
  · dsimp only
    repeat' split
    all_goals simp
  · simp

@[simp] theorem memOk_runCtloads (s : State) (lk r cores) : (s.runCtloads lk r cores).memOk = s.memOk := by
  unfold State.runCtloads
  simp

@[simp] theorem memOk_undoStep (s : State) (x) : (s.undoStep x).1.memOk = s.memOk := by
  unfold State.undoStep
  dsimp only
  repeat' split
  all_goals simp

@[simp] theorem memOk_tellBops (s : State) (lk r) : (s.tellBops lk r).memOk = s.memOk := by
  unfold State.tellBops
  dsimp only
  repeat' split
  all_goals simp

@[simp] theorem memOk_pushRecord (s : State) (lk r core blk v o) : (s.pushRecord lk r core blk v o).memOk = s.memOk := by
  unfold State.pushRecord
  split <;> simp

@[simp] theorem memOk_drainPushes (s : State) (lk) : (s.drainPushes lk).memOk = s.memOk := by
  unfold State.drainPushes
  split
  · rfl
  · simp only [memOk_mapLaunch]
    refine memOk_foldl_fst_same _ _ _ fun u p => ?_
    repeat' split
    all_goals simp

@[simp] theorem memOk_setPeriod (s : State) (lk v) : (s.setPeriod lk v).memOk = s.memOk := by
  unfold State.setPeriod
  simp

@[simp] theorem memOk_rttCommit (s : State) (core lk round) : (s.rttCommit core lk round).memOk = s.memOk := by
  unfold State.rttCommit
  simp

@[simp] theorem memOk_keepSwap (s : State) (lk bk tile) : (s.keepSwap lk bk tile).memOk = s.memOk := by
  unfold State.keepSwap
  simp

@[simp] theorem memOk_loadBlock (s : State) (lk l r num e round) : (s.loadBlock lk l r num e round).memOk = s.memOk := by
  unfold State.loadBlock
  dsimp only
  repeat' split
  all_goals simp

@[simp] theorem memOk_nameSwap (s : State) (lk i) : (s.nameSwap lk i).memOk = s.memOk := by
  unfold State.nameSwap
  simp

@[simp] theorem memOk_evict (s : State) (bk) : (s.evict bk).memOk = s.memOk := by
  unfold State.evict
  simp

@[simp] theorem memOk_releaseLeft (s : State) (lk) : (s.releaseLeft lk).memOk = s.memOk := by
  unfold State.releaseLeft
  split <;> simp

@[simp] theorem memOk_shrinkAnswer (s : State) (asked ok) : (s.shrinkAnswer asked ok).memOk = s.memOk := by
  unfold State.shrinkAnswer
  split <;> simp

@[simp] theorem memOk_moveCore (s : State) (lk src dst round) : (s.moveCore lk src dst round).memOk = s.memOk := by
  unfold State.moveCore
  simp

@[simp] theorem memOk_replay (s : State) (lk e) : (s.replay lk e).memOk = s.memOk := by
  unfold State.replay
  simp

@[simp] theorem memOk_stageCmd (s : State) (core x ps bs n) : (s.stageCmd core x ps bs n).memOk = s.memOk := by
  unfold State.stageCmd
  simp

@[simp] theorem memOk_ctxInstall (s : State) (core x r bytes) : (s.ctxInstall core x r bytes).memOk = s.memOk := by
  unfold State.ctxInstall
  dsimp only
  repeat' split
  all_goals simp

@[simp] theorem memOk_stopCmd (s : State) (core x code addr) : (s.stopCmd core x code addr).memOk = s.memOk := by
  unfold State.stopCmd
  simp

@[simp] theorem memOk_countFiring (s : State) (f) : (s.countFiring f).memOk = s.memOk := by
  unfold State.countFiring
  simp

@[simp] theorem memOk_repeatCopy (s : State) (f need n k) : (s.repeatCopy f need n k).memOk = s.memOk := by
  unfold State.repeatCopy
  split <;> simp

@[simp] theorem memOk_fault (s : State) (a f code info aux) : (AnchorFiring.fault a s f code info aux).memOk = s.memOk := by
  unfold AnchorFiring.fault
  split <;> simp

@[simp] theorem memOk_exitPush (s : State) (o f k copy) : (exitPush o s f k copy).memOk = s.memOk := by
  unfold exitPush
  split <;> simp

@[simp] theorem memOk_emitL (s : State) (f) : (emitL s f).memOk = s.memOk := by
  unfold emitL
  split <;> simp

@[simp] theorem memOk_rowAct (s : State) (o indexed f) : (rowAct o indexed s f).memOk = s.memOk := by
  unfold rowAct
  simp

@[simp] theorem memOk_atomicStore {s : State} (h : s.memOk = true) (commit a bs) : (s.atomicStore commit a bs).memOk = true := by
  have hlog := wf_homeLog h a.space
  unfold State.atomicStore
  dsimp only
  split
  · simp [h]
  · have hset : ∀ x : HomeLog, Memory.wf x.mem = true → (({ s with nid := s.nid + 1 } : State).setHomeLog a.space x).memOk = true :=
      fun x hx => memOk_setHomeLog (by simp [h]) a.space hx
    have hkeep : Memory.wf (if commit then ((s.homeLog a.space).append { a with seq := s.nid, res := bs, done := commit }).settle
        else (s.homeLog a.space).append { a with seq := s.nid, res := bs, done := commit }).mem = true := by
      split
      · exact wf_settle hlog
      · exact hlog
    split <;> simp [hset _ hkeep]

@[simp] theorem memOk_faultNow (s : State) (a code info) : (s.faultNow a code info).memOk = s.memOk := by
  unfold State.faultNow
  simp

@[simp] theorem memOk_issueLoad (s : State) (f ps kind fresh cancel) : (s.issueLoad f ps kind fresh cancel).memOk = s.memOk := by
  unfold State.issueLoad
  simp

@[simp] theorem memOk_orderAfter (s : State) (f) : (s.orderAfter f).memOk = s.memOk := by
  unfold State.orderAfter
  simp

@[simp] theorem memOk_startStream (s : State) (o f poison) : (s.startStream o f poison).memOk = s.memOk := by
  unfold State.startStream
  simp

@[simp] theorem memOk_orderSecond (s : State) (f) : (s.orderSecond f).memOk = s.memOk := by
  unfold State.orderSecond
  simp

@[simp] theorem memOk_issueWait (s : State) (f ps op chain) : (s.issueWait f ps op chain).memOk = s.memOk := by
  unfold State.issueWait
  simp

@[simp] theorem memOk_wakeResolved (s : State) : (s.wakeResolved).memOk = s.memOk := by
  unfold State.wakeResolved
  refine (memOk_foldl_same _ _ _ fun u x => ?_).trans ?_
  · dsimp only
    repeat' split
    all_goals simp
  · simp

@[simp] theorem memOk_beginMove {s : State} (h : s.memOk = true) (part r) : (s.beginMove part r).memOk = true := by
  unfold State.beginMove
  dsimp only
  repeat' split
  all_goals simp [h]

@[simp] theorem memOk_finishMove {s : State} (h : s.memOk = true) (part r) : (s.finishMove part r).memOk = true := by
  obtain ⟨hmem, -⟩ := (memOk_iff s).mp h
  have hlines : ∀ xs : Map Payload, Memory.wf (xs.foldl (fun m x => writeBytes m x.1 (leBytes 64 x.2.toNat)) s.mem) = true := fun xs =>
    List.foldlRecOn xs _ (motive := fun m : Memory => Memory.wf m = true) hmem fun m hm x _ => wf_writeBytes _ m _ hm
  unfold State.finishMove
  dsimp only
  split
  · simp [h]
  · split
    · simp [memOk_mem h (wf_writeBytes _ _ _ hmem)]
    · have hdev : ∀ m : Memory, ∀ xs : Map Payload, Memory.wf m = true → ({ s with mem := m, hostLines := xs } : State).memOk = true :=
        fun m xs hm => (memOk_iff _).mpr ⟨hm, ((memOk_iff s).mp h).2⟩
      split
      · simp [hdev _ _ (hlines _)]
      · simp [h]

@[simp] theorem memOk_doSplit {s : State} (h : s.memOk = true) (part r) : (s.doSplit part r).memOk = true := by
  unfold State.doSplit
  dsimp only
  repeat' split
  all_goals simp [h]

@[simp] theorem memOk_doMerge {s : State} (h : s.memOk = true) (part r) : (s.doMerge part r).memOk = true := by
  unfold State.doMerge
  dsimp only
  repeat' split
  all_goals simp [h]

@[simp] theorem memOk_orderSame (s : State) (f) : (s.orderSame f).memOk = s.memOk := by
  unfold State.orderSame
  simp

@[simp] theorem memOk_call (s : State) (f code words) : (s.call f code words).memOk = s.memOk := by
  unfold State.call
  simp

@[simp] theorem memOk_recall {s : State} (h : s.memOk = true) (xs) : (s.recall xs).memOk = true := by
  unfold State.recall
  refine memOk_foldl _ _ (by simp [h]) fun u x hu => ?_
  dsimp only
  repeat' split
  all_goals simp [hu]

@[simp] theorem memOk_trRecord {s : State} (h : s.memOk = true) (part l ty a b) : (s.trRecord part l ty a b).memOk = true := by
  unfold State.trRecord
  simp [h]

@[simp] theorem memOk_wakeRfences (s : State) : (s.wakeRfences).memOk = s.memOk := by
  unfold State.wakeRfences
  simp

@[simp] theorem memOk_emitQueue (s : State) (e second) : (s.emitQueue e second).memOk = s.memOk := by
  unfold State.emitQueue
  dsimp only
  repeat' split
  all_goals simp

@[simp] theorem memOk_antiAtTarget (s : State) (bk idx n r consumer) : (s.antiAtTarget bk idx n r consumer).memOk = s.memOk := by
  unfold State.antiAtTarget
  simp

@[simp] theorem memOk_forwardElem (s : State) (e) : (s.forwardElem e).memOk = s.memOk := by
  unfold State.forwardElem
  dsimp only
  repeat' split
  all_goals simp

@[simp] theorem memOk_forwardBank (s : State) (bk) : (s.forwardBank bk).memOk = s.memOk := by
  unfold State.forwardBank
  dsimp only
  repeat' split
  all_goals simp

@[simp] theorem memOk_pushWords (s : State) (lk r core blk ws) : (s.pushWords lk r core blk ws).memOk = s.memOk := by
  unfold State.pushWords
  simp

@[simp] theorem memOk_csrWrite {s : State} (h : s.memOk = true) (lk index v) : (s.csrWrite lk index v).memOk = true := by
  unfold State.csrWrite
  dsimp only
  repeat' split
  all_goals simp [h]

@[simp] theorem memOk_injectSystem (s : State) (part core) : (s.injectSystem part core).memOk = s.memOk := by
  unfold State.injectSystem
  simp

@[simp] theorem memOk_switchUnit {s : State} (h : s.memOk = true) (lk x2 core u) : (s.switchUnit lk x2 core u).memOk = true := by
  unfold State.switchUnit
  simp [h]

@[simp] theorem memOk_switchBlocks (s : State) (lk x2 core ks) : (s.switchBlocks lk x2 core ks).memOk = s.memOk := by
  unfold State.switchBlocks
  simp

@[simp] theorem memOk_configCore {s : State} (h : s.memOk = true) (lk core round) : (s.configCore lk core round).memOk = true := by
  unfold State.configCore
  dsimp only
  repeat' split
  all_goals simp +contextual [h]

@[simp] theorem memOk_moveBanks (s : State) (lk src dst) : (s.moveBanks lk src dst).memOk = s.memOk := by
  unfold State.moveBanks
  refine (memOk_foldl_same _ _ _ fun u x => ?_).trans ?_
  · dsimp only
    repeat' split
    all_goals simp
  · simp

@[simp] theorem memOk_ctxWrite (s : State) (core x) : (s.ctxWrite core x).memOk = s.memOk := by
  unfold State.ctxWrite
  dsimp only
  repeat' split
  all_goals simp

@[simp] theorem memOk_ctxRead (s : State) (core x) : (s.ctxRead core x).memOk = s.memOk := by
  unfold State.ctxRead
  dsimp only
  repeat' split
  all_goals simp

@[simp] theorem memOk_loadCmd (s : State) (v core x) : (s.loadCmd v core x).memOk = s.memOk := by
  unfold State.loadCmd
  dsimp only
  repeat' split
  all_goals simp

theorem memOk_routeFire {s : State} (h : s.memOk = true) (fl need take check) {act : State → Firing → State}
    (ha : ∀ u f, u.memOk = true → (act u f).memOk = true) : (s.routeFire fl need take check act).memOk = true := by
  unfold State.routeFire
  dsimp only
  repeat' split
  · exact h
  · simp [h]
  · simp [h]
  · exact ha _ _ (by simp [h])

theorem memOk_pureFire {s : State} (h : s.memOk = true) {p : PureFiring} (hp : ∀ u f o pr, u.memOk = true → (p.post u f o pr).memOk = true) :
    (s.pureFire p).memOk = true := by
  unfold State.pureFire
  dsimp only
  split
  · exact h
  · split
    · split
      · simp [h]
      · split
        · simp [h]
        · split
          · exact hp _ _ _ _ (by split <;> simp [h])
          · split <;> simp [h]
    · split
      · exact h
      · split
        · split <;> simp [h]
        · exact h

theorem memOk_anchorFire {s : State} (h : s.memOk = true) {a : AnchorFiring} (ha : ∀ u f, u.memOk = true → (a.act u f).memOk = true) :
    (s.anchorFire a).memOk = true := by
  unfold State.anchorFire
  dsimp only
  split
  · exact h
  · split
    · simp [h]
    · split
      · simp [h]
      · split
        · simp [h]
        · simp [h]
        · split
          · simp [h]
          · split
            · exact h
            · exact ha _ _ (by simp [h])

@[simp] theorem memOk_retake {s : State} (h : s.memOk = true) : (s.retake).memOk = true := by
  unfold State.retake
  refine memOk_foldl _ _ (by simp [h]) fun u x hu => ?_
  dsimp only
  repeat' split
  all_goals simp [hu]

@[simp] theorem memOk_performAtomic {s : State} (h : s.memOk = true) (commit a op tag u val k) : (s.performAtomic commit a op tag u val k).memOk = true := by
  unfold State.performAtomic
  simp [h]

@[simp] theorem memOk_homeFault {s : State} (h : s.memOk = true) (commit a code info) : (s.homeFault commit a code info).memOk = true := by
  unfold State.homeFault
  split
  · simp [h]
  · exact memOk_setHomeLog (by simp [h]) _ (wf_homeLog h a.space)

@[simp] theorem memOk_performRsv {s : State} (h : s.memOk = true) (commit a off) : (s.performRsv commit a off).memOk = true := by
  unfold State.performRsv
  simp [h]

theorem memOk_deferFault {s : State} (h : s.memOk = true) {a : AccessFiring}
    (hd : ∀ go, a.defer = some go → ∀ u f p, u.memOk = true → (go u f p).memOk = true) (f need t) : (s.deferFault a f need t).memOk = true := by
  unfold State.deferFault
  split
  next go hgo => exact hd go hgo _ _ _ (by simp [h])
  next => simp [h]

@[simp] theorem memOk_issueAtomic (s : State) (f ps op) : (s.issueAtomic f ps op).memOk = s.memOk := by
  unfold State.issueAtomic
  simp

@[simp] theorem memOk_replyAccess (s : State) (r code addr prog) : (s.replyAccess r code addr prog).memOk = s.memOk := by
  unfold State.replyAccess
  dsimp only
  repeat' split
  all_goals simp

@[simp] theorem memOk_issueSilent (s : State) (f ps op) : (s.issueSilent f ps op).memOk = s.memOk := by
  unfold State.issueSilent
  simp

@[simp] theorem memOk_acceptCmd (s : State) (f op words) : (s.acceptCmd f op words).memOk = s.memOk := by
  unfold State.acceptCmd
  simp

@[simp] theorem memOk_commitLogged {s : State} (h : s.memOk = true) (a) : (s.commitLogged a).memOk = true := by
  have hset := memOk_setHomeLog h a.space (wf_settle (x := { s.homeLog a.space with
    log := (s.homeLog a.space).log.map (fun (e : Arrival) => if e.seq = a.seq then { e with done := true } else e) }) (wf_homeLog h a.space))
  unfold State.commitLogged
  split
  · simp [hset]
  · exact hset

@[simp] theorem memOk_settle (s : State) (part) : (s.settle part).memOk = s.memOk := by
  unfold State.settle
  simp

@[simp] theorem memOk_ctxAccept (s : State) (f op) : (s.ctxAccept f op).memOk = s.memOk := by
  unfold State.ctxAccept
  simp

@[simp] theorem memOk_forkCancel (s : State) (bk p) : (s.forkCancel bk p).memOk = s.memOk := by
  unfold State.forkCancel
  dsimp only
  repeat' split
  all_goals simp

@[simp] theorem memOk_antiLeave (s : State) (bk idx k) : (s.antiLeave bk idx k).memOk = s.memOk := by
  unfold State.antiLeave
  dsimp only
  repeat' split
  all_goals simp

@[simp] theorem memOk_csrApply {s : State} (h : s.memOk = true) (lk core w) : (s.csrApply lk core w).memOk = true := by
  unfold State.csrApply
  simp [h]

@[simp] theorem memOk_scarabLoad {s : State} (h : s.memOk = true) (lk core tile l ws n e bank used) : (s.scarabLoad lk core tile l ws n e bank used).memOk = true := by
  unfold State.scarabLoad
  simp [h]

@[simp] theorem memOk_engineStage (s : State) (core x) : (s.engineStage core x).memOk = s.memOk := by
  unfold State.engineStage
  dsimp only
  repeat' split
  all_goals simp

theorem memOk_arith {s : State} (h : s.memOk = true) (o u lat r p vres eval early) : (s.arith o u lat r p vres eval early).memOk = true :=
  memOk_pureFire h fun _ _ _ _ hu => hu

@[simp] theorem memOk_performBar {s : State} (h : s.memOk = true) (commit a copy) : (s.performBar commit a copy).memOk = true := by
  unfold State.performBar
  dsimp only
  repeat' split
  all_goals simp [h]

@[simp] theorem memOk_performPermit {s : State} (h : s.memOk = true) (commit a give) : (s.performPermit commit a give).memOk = true := by
  unfold State.performPermit
  dsimp only
  repeat' split
  all_goals simp [h]

@[simp] theorem memOk_jdec {s : State} (h : s.memOk = true) (commit a pkt q j rests) : (s.jdec commit a pkt q j rests).memOk = true := by
  unfold State.jdec
  dsimp only
  repeat' split
  all_goals simp [h]

@[simp] theorem memOk_performFutwait {s : State} (h : s.memOk = true) (commit a) : (s.performFutwait commit a).memOk = true := by
  unfold State.performFutwait
  split
  · simp [h]
  · split
    · exact memOk_homeFault h _ _ _ _
    · simp [h]

theorem memOk_accessFault {s : State} (h : s.memOk = true) {a : AccessFiring}
    (hd : ∀ go, a.defer = some go → ∀ u f p, u.memOk = true → (go u f p).memOk = true) (f need code addr) :
    (s.accessFault a f need code addr).memOk = true := by
  unfold State.accessFault
  split
  next => simp [h]
  next => exact memOk_deferFault h hd _ _ _

theorem memOk_callFire {s : State} (h : s.memOk = true) (code o) : (s.callFire code o).memOk = true := by
  refine memOk_anchorFire h fun u f hu => ?_
  dsimp only
  split <;> simp [hu]

@[simp] theorem memOk_antiAtSource (s : State) (bk j r) : (s.antiAtSource bk j r).memOk = s.memOk := by
  unfold State.antiAtSource
  dsimp only
  repeat' split
  all_goals simp

@[simp] theorem memOk_commitPort {s : State} (h : s.memOk = true) (lk core r) : (s.commitPort lk core r).memOk = true := by
  unfold State.commitPort
  simp +contextual [h]

@[simp] theorem memOk_performFutreg {s : State} (h : s.memOk = true) (commit a pkt q j) : (s.performFutreg commit a pkt q j).memOk = true := by
  unfold State.performFutreg
  dsimp only
  repeat' split
  all_goals simp [h]

@[simp] theorem memOk_performFutres {s : State} (h : s.memOk = true) (commit a v) : (s.performFutres commit a v).memOk = true := by
  unfold State.performFutres
  dsimp only
  repeat' split
  all_goals simp [h]

/-- The parts of an access that can change memory keep its form. -/
structure AccessFiring.KeepsForm (a : AccessFiring) : Prop where
  defer : ∀ go, a.defer = some go → ∀ u f p, u.memOk = true → (go u f p).memOk = true
  stall : ∀ u f ps v, a.stall u f ps = some v → u.memOk = true → v.memOk = true
  act : ∀ u f ps, u.memOk = true → (a.act u f ps).memOk = true

theorem memOk_accessFire {s : State} (h : s.memOk = true) {a : AccessFiring} (ha : a.KeepsForm) : (s.accessFire a).memOk = true := by
  have hfault : ∀ (u : State) f need c x, u.memOk = true → (u.accessFault a f need c x).memOk = true := fun u f need c x hu =>
    memOk_accessFault hu ha.defer f need c x
  unfold State.accessFire
  dsimp only
  repeat' split
  · exact h
  · simp [h]
  · exact h
  · simp [h]
  · exact memOk_deferFault h ha.defer _ _ _
  · exact hfault _ _ _ _ _ h
  · exact hfault _ _ _ _ _ h
  · exact hfault _ _ _ _ _ h
  · exact hfault _ _ _ _ _ h
  · exact hfault _ _ _ _ _ h
  · exact ha.stall _ _ _ _ (by assumption) h
  · exact ha.act _ _ _ (by simp [h])
  · simp [h]
  · simp [h, hfault]
  · exact h
  · exact hfault _ _ _ _ _ (by simp [h])
  · exact hfault _ _ _ _ _ (by simp [h])
  · exact ha.stall _ _ _ _ (by assumption) (by simp [h])
  · exact ha.act _ _ _ (by simp [h])

@[simp] theorem memOk_antiHop (s : State) (bk j q) : (s.antiHop bk j q).memOk = s.memOk := by
  unfold State.antiHop
  dsimp only
  repeat' split
  all_goals simp

@[simp] theorem memOk_performOp {s : State} (h : s.memOk = true) (commit a) : (s.performOp commit a).memOk = true := by
  unfold State.performOp
  dsimp only
  repeat' split
  all_goals simp [h]

@[simp] theorem memOk_resolveFuture {s : State} (h : s.memOk = true) (core x) : (s.resolveFuture core x).memOk = true := by
  unfold State.resolveFuture
  dsimp only
  repeat' split
  all_goals simp [h]

@[simp] theorem memOk_commitOp {s : State} (h : s.memOk = true) (a) : (s.commitOp a).memOk = true := by
  unfold State.commitOp
  simp [h]

@[simp] theorem memOk_undoSwaps {s : State} (h : s.memOk = true) (lk c) : (s.undoSwaps lk c).memOk = true := by
  unfold State.undoSwaps
  split
  · exact h
  · simp only [memOk_mapLaunch]
    exact memOk_foldl _ _ h fun u x hu => memOk_undoSwap hu _ _

@[simp] theorem memOk_handOn {s : State} (h : s.memOk = true) (x) : (s.handOn x).memOk = true := by
  unfold State.handOn
  repeat' split
  · exact h
  · simp [h]
  · exact memOk_atomicStore h _ _ _

theorem AccessFiring.keepsForm_of_act {a : AccessFiring} (hd : a.defer = none) (hs : ∀ u f ps v, a.stall u f ps = some v → v.memOk = u.memOk)
    (ha : ∀ u f ps, u.memOk = true → (a.act u f ps).memOk = true) : a.KeepsForm where
  defer go hgo := by simp [hd] at hgo
  stall u f ps v hv hu := (hs u f ps v hv).trans hu
  act := ha

/-- A wait that asks for nothing leaves the state. -/
theorem eq_of_stall {c : Prop} [Decidable c] {u v : State} (h : (if c then some u else none) = some v) : v.memOk = u.memOk := by
  split at h
  · cases h
    rfl
  · cases h

theorem memOk_loadFire {s : State} (h : s.memOk = true) (o vec fresh vol place) : (s.loadFire o vec fresh vol place).memOk = true :=
  memOk_accessFire h (AccessFiring.keepsForm_of_act rfl (fun _ _ _ _ hv => eq_of_stall hv) fun u f ps hu => by simp [hu])

theorem memOk_of_writeStall {u v : State} {f : Firing} {ps : List Part} (h : writeStall u f ps = some v) : v.memOk = u.memOk := by
  unfold writeStall at h
  split at h
  · cases h
    rfl
  · split at h
    · cases h
    · cases h
      simp

theorem memOk_storeFire {s : State} (h : s.memOk = true) (o vec place) : (s.storeFire o vec place).memOk = true :=
  memOk_accessFire h (AccessFiring.keepsForm_of_act rfl (fun _ _ _ _ hv => memOk_of_writeStall hv) fun u f ps hu => by simp [hu])

theorem memOk_atomicFire {s : State} (h : s.memOk = true) (op o) : (s.atomicFire op o).memOk = true :=
  memOk_accessFire h (AccessFiring.keepsForm_of_act rfl (fun _ _ _ _ hv => eq_of_stall hv) fun u f ps hu => by simp [hu])

@[simp] theorem memOk_snoop {s : State} (h : s.memOk = true) (a) : (s.snoop a).memOk = true := by
  unfold State.snoop
  repeat' split
  all_goals simp [h]

theorem memOk_engineFire {s : State} (h : s.memOk = true) (op o) : (s.engineFire op o).memOk = true :=
  memOk_accessFire h (AccessFiring.keepsForm_of_act rfl (fun _ _ _ _ hv => eq_of_stall hv) fun u f ps hu => by simp [hu])

@[simp] theorem memOk_letGo (s : State) : (s.letGo).memOk = s.memOk := by
  unfold State.letGo
  refine (memOk_foldl_same _ _ _ fun u x => ?_).trans ?_
  · repeat' split
    all_goals simp
  · simp

@[simp] theorem memOk_wakeFences (s : State) : (s.wakeFences).memOk = s.memOk := by
  unfold State.wakeFences
  refine (memOk_foldl_same _ _ _ fun u x => ?_).trans ?_
  · repeat' split
    all_goals simp
  · simp

theorem memOk_rangeFire {s : State} (h : s.memOk = true) (op o r) : (s.rangeFire op o r).memOk = true :=
  memOk_accessFire h (AccessFiring.keepsForm_of_act rfl (fun _ _ _ _ hv => eq_of_stall hv) fun u f ps hu => by simp [hu])

theorem memOk_wordFire {s : State} (h : s.memOk = true) (o need fmt bad stall) {act : State → Firing → State}
    (ha : ∀ u f, u.memOk = true → (act u f).memOk = true) : (s.accessFire (wordFire o need fmt bad stall act)).memOk = true :=
  memOk_accessFire h (AccessFiring.keepsForm_of_act rfl (fun _ _ _ _ hv => eq_of_stall hv) fun u f _ hu => ha u f hu)

theorem memOk_reportFire {s : State} (h : s.memOk = true) (o commit) : (s.reportFire o commit).memOk = true := by
  unfold State.reportFire
  dsimp only
  split
  · exact h
  · refine memOk_wordFire h _ _ _ _ _ fun u f hu => ?_
    split <;> simp [hu]

@[simp] theorem memOk_freeCell {s : State} (h : s.memOk = true) (lk eff p) : (s.freeCell lk eff p).memOk = true := by
  have hw := memOk_homeWrite h p.space p.addr (List.replicate 4 0xFF)
  unfold State.freeCell
  dsimp only
  split
  next c t _ =>
    obtain ⟨hbytes, hsnaps⟩ := (tile_formOk_iff _).mp (mtile_formOk hw (tileKey c t))
    refine memOk_setMtile_parts hw ?_ ?_ _
    · exact hbytes
    intro y hy
    obtain ⟨x, hx, rfl⟩ := List.mem_map.mp hy
    split
    · exact wf_writeBytes _ _ _ (hsnaps x hx)
    · exact hsnaps x hx
  next => exact hw

@[simp] theorem memOk_futresNow {s : State} (h : s.memOk = true) (core lk round key user addr v o) :
    (s.futresNow core lk round key user addr v o).memOk = true := by
  unfold State.futresNow
  split
  · exact memOk_performOp h _ _
  · simp [h]

theorem memOk_taskFire {s : State} (h : s.memOk = true) (o bad) {act : State → Firing → Nat → Task → State}
    (ha : ∀ u f k t, u.memOk = true → (act u f k t).memOk = true) : (s.taskFire o bad act).memOk = true := by
  unfold State.taskFire
  split
  · exact h
  · refine memOk_wordFire h _ _ _ _ _ fun u f hu => ?_
    split
    · exact ha _ _ _ _ hu
    · exact hu

@[simp] theorem memOk_dispatchEffects (s : State) (lk r here) : (s.dispatchEffects lk r here).memOk = s.memOk := by
  unfold State.dispatchEffects
  split
  · rfl
  · simp only [memOk_ite, memOk_mapLaunch, ite_self]
    refine (memOk_foldl_fst_same _ _ _ fun u e => ?_).trans (memOk_foldl_same _ _ _ fun u e => ?_)
    · repeat' split
      all_goals simp
    · split <;> simp

theorem memOk_ctxFire {s : State} (h : s.memOk = true) (op o) : (s.ctxFire op o).memOk = true :=
  memOk_accessFire h (AccessFiring.keepsForm_of_act rfl (fun _ _ _ _ hv => nomatch hv) fun u f ps hu => by simp [hu])

@[simp] theorem memOk_voidRecord {s : State} (h : s.memOk = true) (core lk b) : (s.voidRecord core lk b).memOk = true := by
  unfold State.voidRecord
  repeat' split
  all_goals simp [h]

@[simp] theorem memOk_numberTasks (s : State) (lk ord) : (s.numberTasks lk ord).1.memOk = s.memOk := by
  unfold State.numberTasks
  refine memOk_foldl_fst_same _ _ _ fun u x => ?_
  split
  · rfl
  · simp

@[simp] theorem memOk_launchLate (s : State) (part) : (s.launchLate part).memOk = s.memOk := by
  unfold State.launchLate
  dsimp only
  split
  · rfl
  · refine (memOk_foldl_same _ _ _ fun u x => ?_).trans (memOk_setPart _ _ _)
    split <;> simp

@[simp] theorem memOk_applySettled (s : State) (lk) : (s.applySettled lk).memOk = s.memOk := by
  unfold State.applySettled
  split
  · rfl
  · dsimp only
    split
    · rfl
    · rw [memOk_mapLaunch]
      refine memOk_foldl_same _ _ _ fun u e => ?_
      repeat' split
      all_goals simp

@[simp] theorem memOk_scarabEvict (s : State) (lk bk) : (s.scarabEvict lk bk).memOk = s.memOk := by
  unfold State.scarabEvict
  simp only [memOk_evict]
  refine (memOk_foldl_same _ _ _ fun u a => ?_).trans ?_
  · split <;> simp
  · simp

@[simp] theorem memOk_trDispatch {s : State} (h : s.memOk = true) (part l dseq) : (s.trDispatch part l dseq).memOk = true := by
  refine memOk_foldl _ _ (by simp [h]) fun u x hu => ?_
  split
  · exact memOk_trRecord hu _ _ _ _ _
  · exact hu

@[simp] theorem memOk_moveTiles {s : State} (h : s.memOk = true) (lk src dst round) : (s.moveTiles lk src dst round).memOk = true := by
  unfold State.moveTiles
  refine memOk_foldl _ _ h fun u t hu => ?_
  obtain ⟨haBytes, haSnaps⟩ := (tile_formOk_iff _).mp (mtile_formOk hu (tileKey src t))
  obtain ⟨hdBytes, hdSnaps⟩ := (tile_formOk_iff _).mp (mtile_formOk hu (tileKey dst t))
  have hbytes : Memory.wf (if (u.core src).mtuse.getLsbD t then (u.mtile (tileKey src t)).bytes else (u.mtile (tileKey dst t)).bytes) = true := by
    split
    · exact haBytes
    · exact hdBytes
  refine memOk_setMtile_parts (memOk_setMtile_parts hu ?_ ?_ _) ?_ ?_ _
  · exact hbytes
  rotate_left
  · exact haBytes
  · exact fun c hc => haSnaps c (List.mem_filter.mp hc).1
  intro c hc
  rcases List.mem_append.mp hc with hc | hc
  · exact hdSnaps c (List.mem_filter.mp hc).1
  · cases List.mem_singleton.mp hc
    exact hbytes

@[simp] theorem memOk_servePart {s : State} (h : s.memOk = true) (r hit p) : (s.servePart r hit p).2.memOk = true := by
  unfold State.servePart
  dsimp only
  repeat' split
  all_goals simp [h]

@[simp] theorem memOk_wake (s : State) : (s.wake).memOk = s.memOk := by
  unfold State.wake
  simp

@[simp] theorem memOk_lastEffects (s : State) (lk r here) : (s.lastEffects lk r here).memOk = s.memOk := by
  unfold State.lastEffects
  split <;> simp

@[simp] theorem memOk_voidBop {s : State} (h : s.memOk = true) (lk r core t b) : (s.voidBop lk r core t b).memOk = true := by
  unfold State.voidBop
  simp [h]

@[simp] theorem memOk_completeCut (s : State) (lk l r) : (s.completeCut lk l r).memOk = s.memOk := by
  unfold State.completeCut
  simp

@[simp] theorem memOk_scarabRoom (s : State) (lk core l e) : (s.scarabRoom lk core l e).memOk = s.memOk := by
  unfold State.scarabRoom
  dsimp only
  repeat' split
  all_goals simp

@[simp] theorem memOk_dispatch {s : State} (h : s.memOk = true) (part q ep cores) : (s.dispatch part q ep cores).memOk = true := by
  unfold State.dispatch
  dsimp only
  repeat' split
  all_goals simp +contextual [h]

@[simp] theorem memOk_endLaunch {s : State} (h : s.memOk = true) (lk status) : (s.endLaunch lk status).memOk = true := by
  unfold State.endLaunch
  repeat' split
  all_goals simp [h]

@[simp] theorem memOk_strike {s : State} (h : s.memOk = true) (lk r x blocker) : (s.strike lk r x blocker).memOk = true := by
  unfold State.strike
  dsimp only
  repeat' split
  all_goals simp +contextual [h]

@[simp] theorem memOk_startUndo {s : State} (h : s.memOk = true) (lk r tseq site o) : (s.startUndo lk r tseq site o).1.memOk = true := by
  unfold State.startUndo
  dsimp only
  repeat' split
  all_goals simp +contextual [h]

@[simp] theorem memOk_forwardPort {s : State} (h : s.memOk = true) (lk core) : (s.forwardPort lk core).memOk = true := by
  unfold State.forwardPort
  dsimp only
  repeat' split
  all_goals simp [h]

@[simp] theorem memOk_scarabServe {s : State} (h : s.memOk = true) (lk core tile l ws x) : (s.scarabServe lk core tile l ws x).memOk = true := by
  unfold State.scarabServe
  repeat' split
  all_goals simp [h]

@[simp] theorem memOk_resolveGone {s : State} (h : s.memOk = true) (part) : (s.resolveGone part).memOk = true := by
  unfold State.resolveGone
  simp +contextual [h]

@[simp] theorem memOk_replyUnit {s : State} (h : s.memOk = true) (a) : (s.replyUnit a).memOk = true := by
  unfold State.replyUnit
  dsimp only
  repeat' split
  all_goals simp +contextual [h]

/-- Memory tiles changed one by one, each keeping its form. -/
theorem formOk_mapTiles {mem hostMem peerMem} {mtiles : Map MTile} (h : formOk mem hostMem peerMem mtiles = true) (g : Nat × MTile → Nat × MTile)
    (hg : ∀ x, x.2.formOk = true → (g x).2.formOk = true) : formOk mem hostMem peerMem (mtiles.map g) = true := by
  simp only [formOk, Bool.and_eq_true, List.all_eq_true] at h ⊢
  obtain ⟨hrest, ht⟩ := h
  refine ⟨hrest, fun y hy => ?_⟩
  obtain ⟨x, hx, rfl⟩ := List.mem_map.mp hy
  exact hg x (ht x hx)

theorem wf_drop {x : HomeLog} (h : Memory.wf x.mem = true) (gone : Arrival → Bool) : Memory.wf (x.drop gone).mem = true := wf_settle h

/-- The home of a tile changed. -/
theorem tile_formOk_withHome {m : MTile} (h : m.formOk = true) {x : HomeLog} (hx : Memory.wf x.mem = true) :
    MTile.formOk { m with overlay := x.log, abase := x.base, bytes := x.mem } = true :=
  (tile_formOk_iff _).mpr ⟨hx, ((tile_formOk_iff m).mp h).2⟩

@[simp] theorem memOk_dropLogs {s : State} (h : s.memOk = true) (late) : (s.dropLogs late).memOk = true := by
  unfold State.dropLogs
  refine memOk_foldl _ _ (memOk_retake (memOk_foldl _ _ ?_ fun u x hu => memOk_handOn hu x)) fun u a hu => ?_
  · rw [memOk_mk]
    refine formOk_mapTiles ((formOk_fields _).trans (memOk_setHomeLog h .dev (wf_drop (wf_homeLog h .dev) _))) _ fun x hx => ?_
    exact tile_formOk_withHome hx (wf_drop (x := ⟨_, _, x.2.bytes⟩) ((tile_formOk_iff _).mp hx).1 _)
  · split
    · exact memOk_performOp hu _ _
    · exact hu

@[simp] theorem memOk_serveParts {s : State} (h : s.memOk = true) (r i ps) : (s.serveParts r i ps).2.memOk = true := by
  induction ps generalizing s i with
  | nil => exact h
  | cons p ps ih => exact ih (memOk_servePart h r _ p) (i + 1)

theorem wf_carryBytes {before after m : Memory} (h : Memory.wf m = true) : Memory.wf (carryBytes before after m) = true :=
  List.foldlRecOn _ _ (motive := fun m : Memory => Memory.wf m = true) h fun m hm _ _ => wf_memWrite m _ _ hm

/-- A tile whose committed copies are those it had, with bytes carried into them or not, or its present bytes. -/
theorem memOk_setMtile_cuts {s : State} (h : s.memOk = true) (k : Nat) {m : MTile} (hb : m.bytes = (s.mtile k).bytes)
    (hs : ∀ c ∈ m.snaps, (∃ x ∈ (s.mtile k).snaps, c.bytes = x.bytes ∨ ∃ a b, c.bytes = carryBytes a b x.bytes) ∨ c.bytes = (s.mtile k).bytes) :
    (s.setMtile k m).memOk = true := by
  obtain ⟨hbytes, hsnaps⟩ := (tile_formOk_iff _).mp (mtile_formOk h k)
  refine memOk_setMtile_parts h (hb ▸ hbytes) (fun c hc => ?_) k
  rcases hs c hc with ⟨x, hx, e | ⟨a, b, e⟩⟩ | e
  · exact e ▸ hsnaps x hx
  · exact e ▸ wf_carryBytes (hsnaps x hx)
  · exact e ▸ hbytes

theorem memOk_foldl_commitOp (xs : List Arrival) {s : State} (h : s.memOk = true) : (xs.foldl State.commitOp s).memOk = true :=
  memOk_foldl _ _ h fun _ a hu => memOk_commitOp hu a

@[simp] theorem memOk_commitTile {s : State} (h : s.memOk = true) (lk core t r) : (s.commitTile lk core t r).memOk = true := by
  unfold State.commitTile
  simp only [memOk_wake]
  refine memOk_setMtile_cuts (memOk_foldl_commitOp _ (memOk_setMtile (by simp [h]) ?_ _)) _ rfl fun c hc => ?_
  · exact (tile_formOk_iff _).mpr ((tile_formOk_iff _).mp (mtile_formOk h (tileKey core t)))
  · dsimp only at hc
    split at hc
    · obtain ⟨x, hx, rfl⟩ := List.mem_map.mp hc
      refine .inl ⟨x, hx, ?_⟩
      split
      · exact .inl rfl
      · exact .inr ⟨_, _, rfl⟩
    · rcases List.mem_append.mp hc with hc | hc
      · exact .inl ⟨c, (List.mem_filter.mp hc).1, .inl rfl⟩
      · cases List.mem_singleton.mp hc
        exact .inr rfl

@[simp] theorem memOk_register {s : State} (h : s.memOk = true) (lk r obj tseq kind key undo site flight) :
    (s.register lk r obj tseq kind key undo site flight).memOk = true := by
  have hregs : ∀ regs, ({ s with regs := regs } : State).memOk = true := fun regs => by simp [h]
  unfold State.register
  split
  · dsimp only
    split
    · refine memOk_voidBop ?_ _ _ _ _ _
      split
      · exact memOk_strike h _ _ _ _
      · exact h
    · refine memOk_foldl _ _ ?_ fun u g hu => ?_
      · split
        · exact (memOk_setTask _ _ _ _).trans (hregs _)
        · exact memOk_voidBop (hregs _) _ _ _ _ _
      · split
        · split
          · exact memOk_strike hu _ _ _ _
          · exact hu
        · exact hu
  · exact h

@[simp] theorem memOk_commitTasks {s : State} (h : s.memOk = true) (lk r n) : (s.commitTasks lk r n).memOk = true := by
  induction n generalizing s with
  | zero => exact h
  | succ n ih =>
    unfold State.commitTasks
    split
    · exact h
    · split
      · exact h
      · dsimp only
        split
        · exact h
        · refine ih ?_
          split
          · refine memOk_futresNow ?_ _ _ _ _ _ _ _ _
            split <;> simp [h]
          · split <;> simp [h]

@[simp] theorem memOk_serveReq {s : State} (h : s.memOk = true) (r) : (s.serveReq r).memOk = true := by
  unfold State.serveReq
  dsimp only
  repeat' split
  all_goals simp [h]

@[simp] theorem memOk_forwardTile {s : State} (h : s.memOk = true) (lk core t) : (s.forwardTile lk core t).memOk = true := by
  unfold State.forwardTile
  simp [h]

theorem formOk_restore {m : MTile} (h : m.formOk = true) (lk c : Nat) : (m.restore lk c).formOk = true := by
  obtain ⟨hbytes, hsnaps⟩ := (tile_formOk_iff m).mp h
  have hback : ∀ x : Option TileCut, (∀ y, x = some y → y ∈ m.snaps) → Memory.wf ((x.map TileCut.bytes).getD m.bytes) = true := fun x hx => by
    cases x with
    | none => exact hbytes
    | some y => exact hsnaps y (hx y rfl)
  refine (tile_formOk_iff _).mpr ⟨hback _ fun y hy => ?_, ?_⟩
  · split at hy
    · exact List.mem_of_find?_eq_some hy
    · cases hy
  · exact fun y hy => hsnaps y (List.mem_filter.mp hy).1

@[simp] theorem memOk_restore {s : State} (h : s.memOk = true) (lk) : (s.restore lk).memOk = true := by
  unfold State.restore
  split
  · exact h
  next l _ =>
    simp only [memOk_busyStreams, memOk_mapLaunch, memOk_mk]
    refine (formOk_fields _).trans (memOk_dropLogs ?_ _)
    rw [memOk_mk]
    refine formOk_mapTiles ((formOk_fields _).trans (memOk_undoSwaps h lk l.cut)) _ fun x hx => ?_
    dsimp only
    split
    · exact formOk_restore hx _ _
    · exact hx

theorem memOk_commitUnit {s : State} (h : s.memOk = true) (part : Nat) (xs us : List Arrival) :
    (xs.foldl State.commitOp (State.recall { s.commitCheck part xs with units := us } xs)).memOk = true :=
  memOk_foldl _ _ (memOk_recall (by simp [h]) xs) fun _ a hu => memOk_commitOp hu a

@[simp] theorem memOk_applyUnit {s : State} (h : s.memOk = true) (lk core slice r) : (s.applyUnit lk core slice r).memOk = true := by
  unfold State.applyUnit
  simp only [memOk_sendRinvs, memOk_settle, memOk_wake]
  split
  · split
    · split
      · refine memOk_trRecord ?_ _ _ _ _ _
        rw [memOk_mk]
        exact (formOk_fields _).trans (memOk_commitUnit h _ _ _)
      · rw [memOk_mk]
        exact (formOk_fields _).trans (memOk_commitUnit h _ _ _)
    · rw [memOk_mk]
      exact (formOk_fields _).trans (memOk_commitUnit h _ _ _)
  · rw [memOk_mk]
    exact (formOk_fields _).trans (memOk_commitUnit h _ _ _)

@[simp] theorem memOk_purge {s : State} (h : s.memOk = true) (lk) : (s.purge lk).memOk = true := by
  unfold State.purge
  rw [memOk_mk]
  refine formOk_mapTiles ((formOk_fields _).trans (memOk_dropLogs h _)) _ fun x hx => ?_
  obtain ⟨hbytes, hsnaps⟩ := (tile_formOk_iff _).mp hx
  exact (tile_formOk_iff _).mpr ⟨hbytes, fun c hc => hsnaps c (List.mem_filter.mp hc).1⟩

@[simp] theorem memOk_boostMarker {s : State} (h : s.memOk = true) (lk r) : (s.boostMarker lk r).1.memOk = true := by
  unfold State.boostMarker
  split
  · exact h
  · dsimp only
    rw [memOk_tellBops]
    refine (memOk_foldl_fst_same _ _ _ fun u x => ?_).trans (memOk_commitTasks (memOk_foldl_fst _ _ (memOk_foldl _ _ h fun u e hu => ?_) fun u e hu => ?_) _ _ _)
    · split <;> simp
    · split
      · exact memOk_register hu _ _ _ _ _ _ _ _ _
      · exact hu
    · repeat' split
      all_goals simp [hu]

@[simp] theorem memOk_levelTwo {s : State} (h : s.memOk = true) (lk core) : (s.levelTwo lk core).memOk = true := by
  unfold State.levelTwo
  repeat' split
  all_goals simp [h]

theorem outcomeOk_execGateCreditFiring {s : State} (h : s.memOk = true) (o) : outcomeOk (execGateCreditFiring o s) := by
  unfold execGateCreditFiring
  dsimp only
  repeat' split
  all_goals simp [h]

theorem outcomeOk_execQuietEmit {s : State} (h : s.memOk = true) (e) : outcomeOk (execQuietEmit e s) := by
  unfold execQuietEmit
  dsimp only
  repeat' split
  all_goals simp [h]

theorem outcomeOk_execResidueMismatch {s : State} (h : s.memOk = true) (core tile) : outcomeOk (execResidueMismatch core tile s) := by
  unfold execResidueMismatch
  dsimp only
  repeat' split
  all_goals simp [h]

theorem outcomeOk_execPref {s : State} (h : s.memOk = true) (o) : outcomeOk (execPref o s) := by
  unfold execPref
  dsimp only
  repeat' split
  all_goals simp [h]

theorem outcomeOk_execAtomicPerform {s : State} (h : s.memOk = true) (id) : outcomeOk (execAtomicPerform id s) := by
  unfold execAtomicPerform
  repeat' split
  all_goals simp [h]

theorem outcomeOk_execMemoryAccessServe {s : State} (h : s.memOk = true) (id) : outcomeOk (execMemoryAccessServe id s) := by
  unfold execMemoryAccessServe
  repeat' split
  all_goals simp [h]

theorem outcomeOk_execEngineCompletion {s : State} (h : s.memOk = true) (id) : outcomeOk (execEngineCompletion id s) := by
  unfold execEngineCompletion
  repeat' split
  all_goals simp [h]

theorem outcomeOk_execRangeCommandComplete {s : State} (h : s.memOk = true) (part) : outcomeOk (execRangeCommandComplete part s) := by
  unfold execRangeCommandComplete
  dsimp only
  repeat' split
  all_goals simp [h]

theorem outcomeOk_execReservePhaseClose {s : State} (h : s.memOk = true) (core loop) : outcomeOk (execReservePhaseClose core loop s) := by
  unfold execReservePhaseClose
  repeat' split
  all_goals simp [h]

theorem outcomeOk_execCtabInstall {s : State} (h : s.memOk = true) (part aseq) : outcomeOk (execCtabInstall part aseq s) := by
  unfold execCtabInstall
  dsimp only
  repeat' split
  all_goals simp [h]

theorem outcomeOk_execResultEmit {s : State} (h : s.memOk = true) (e) : outcomeOk (execResultEmit e s) := by
  unfold execResultEmit
  dsimp only
  repeat' split
  all_goals simp [h]

theorem outcomeOk_execTokenHop {s : State} (h : s.memOk = true) (bank arc hop) : outcomeOk (execTokenHop bank arc hop s) := by
  unfold execTokenHop
  simp [h]

theorem outcomeOk_execAntiTokenHop {s : State} (h : s.memOk = true) (bank arc) : outcomeOk (execAntiTokenHop bank arc s) := by
  unfold execAntiTokenHop
  dsimp only
  repeat' split
  all_goals simp [h]

theorem outcomeOk_execCancelledFiring {s : State} (h : s.memOk = true) (e) : outcomeOk (execCancelledFiring e s) := by
  unfold execCancelledFiring
  repeat' split
  all_goals simp [h]

theorem outcomeOk_execMarkerInject {s : State} (h : s.memOk = true) (lk core) : outcomeOk (execMarkerInject lk core s) := by
  unfold execMarkerInject
  dsimp only
  repeat' split
  all_goals simp [h]

theorem outcomeOk_execEntryReaderPop {s : State} (h : s.memOk = true) (bank) : outcomeOk (execEntryReaderPop bank s) := by
  unfold execEntryReaderPop
  dsimp only
  repeat' split
  all_goals simp [h]

theorem outcomeOk_execLoadClose {s : State} (h : s.memOk = true) (lk) : outcomeOk (execLoadClose lk s) := by
  unfold execLoadClose
  repeat' split
  all_goals simp [h]

theorem outcomeOk_execReconfigToken {s : State} (h : s.memOk = true) (lk core) : outcomeOk (execReconfigToken lk core s) := by
  unfold execReconfigToken
  dsimp only
  repeat' split
  all_goals simp +contextual [h]

theorem outcomeOk_execContextParityError {s : State} (h : s.memOk = true) (e second) : outcomeOk (execContextParityError e second s) := by
  unfold execContextParityError
  dsimp only
  repeat' split
  all_goals simp [h]

theorem outcomeOk_execTimingErrorDetect {s : State} (h : s.memOk = true) (e second) : outcomeOk (execTimingErrorDetect e second s) := by
  unfold execTimingErrorDetect
  dsimp only
  repeat' split
  all_goals simp [h]

theorem outcomeOk_execMarginTrimStep {s : State} (h : s.memOk = true) (core step) : outcomeOk (execMarginTrimStep core step s) := by
  unfold execMarginTrimStep
  dsimp only
  repeat' split
  all_goals simp [h]

theorem outcomeOk_execRangeWalk {s : State} (h : s.memOk = true) (core) : outcomeOk (execRangeWalk core s) := by
  unfold execRangeWalk
  dsimp only
  repeat' split
  all_goals simp [h]

theorem outcomeOk_execTraceModeOff {s : State} (h : s.memOk = true) (part) : outcomeOk (execTraceModeOff part s) := by
  unfold execTraceModeOff
  simp [h]

theorem outcomeOk_execTraceModeRecord {s : State} (h : s.memOk = true) (part) : outcomeOk (execTraceModeRecord part s) := by
  unfold execTraceModeRecord
  simp [h]

theorem outcomeOk_execTraceModeBind {s : State} (h : s.memOk = true) (part) : outcomeOk (execTraceModeBind part s) := by
  unfold execTraceModeBind
  simp [h]

theorem outcomeOk_execRndPeriodWrite {s : State} (h : s.memOk = true) (lk value) : outcomeOk (execRndPeriodWrite lk value s) := by
  unfold execRndPeriodWrite
  simp [h]

theorem outcomeOk_execExactModeSet {s : State} (h : s.memOk = true) (part) : outcomeOk (execExactModeSet part s) := by
  unfold execExactModeSet
  simp [h]

theorem outcomeOk_execDirectoryLock {s : State} (h : s.memOk = true) (part) : outcomeOk (execDirectoryLock part s) := by
  unfold execDirectoryLock
  simp [h]

theorem outcomeOk_execRdirCntWrite {s : State} (h : s.memOk = true) (part value) : outcomeOk (execRdirCntWrite part value s) := by
  unfold execRdirCntWrite
  simp [h]

theorem outcomeOk_execRegisterWrite {s : State} (h : s.memOk = true) (part index value) : outcomeOk (execRegisterWrite part index value s) := by
  unfold execRegisterWrite
  simp [h]

theorem outcomeOk_execPartCores {s : State} (h : s.memOk = true) (c) : outcomeOk (execPartCores c s) := by
  unfold execPartCores
  simp [h]

theorem outcomeOk_execPartMem {s : State} (h : s.memOk = true) (c) : outcomeOk (execPartMem c s) := by
  unfold execPartMem
  simp [h]

theorem outcomeOk_execPartReg {s : State} (h : s.memOk = true) (c) : outcomeOk (execPartReg c s) := by
  unfold execPartReg
  simp [h]

theorem outcomeOk_execDmaWin {s : State} (h : s.memOk = true) (c) : outcomeOk (execDmaWin c s) := by
  unfold execDmaWin
  simp [h]

theorem outcomeOk_execPeerSet {s : State} (h : s.memOk = true) (c) : outcomeOk (execPeerSet c s) := by
  unfold execPeerSet
  simp [h]

theorem outcomeOk_execGrpSet {s : State} (h : s.memOk = true) (c) : outcomeOk (execGrpSet c s) := by
  unfold execGrpSet
  simp [h]

theorem outcomeOk_execFenceClr {s : State} (h : s.memOk = true) (c) : outcomeOk (execFenceClr c s) := by
  unfold execFenceClr
  simp [h]

theorem outcomeOk_execResume {s : State} (h : s.memOk = true) (c) : outcomeOk (execResume c s) := by
  unfold execResume
  simp [h]

theorem outcomeOk_execDieWritebackDone {s : State} (h : s.memOk = true) (die) : outcomeOk (execDieWritebackDone die s) := by
  unfold execDieWritebackDone
  dsimp only
  repeat' split
  all_goals simp [h]

theorem outcomeOk_execDieRetrainDone {s : State} (h : s.memOk = true) (die) : outcomeOk (execDieRetrainDone die s) := by
  unfold execDieRetrainDone
  repeat' split
  all_goals simp [h]

theorem outcomeOk_execErrorReply {s : State} (h : s.memOk = true) (id) : outcomeOk (execErrorReply id s) := by
  unfold execErrorReply
  repeat' split
  all_goals simp [h]

theorem outcomeOk_execVfBind {s : State} (h : s.memOk = true) (c) : outcomeOk (execVfBind c s) := by
  unfold execVfBind
  simp [h]

theorem outcomeOk_execRateSet {s : State} (h : s.memOk = true) (c) : outcomeOk (execRateSet c s) := by
  unfold execRateSet
  simp [h]

theorem outcomeOk_execHostHalt {s : State} (h : s.memOk = true) (c) : outcomeOk (execHostHalt c s) := by
  unfold execHostHalt
  simp [h]

theorem outcomeOk_execBootGo {s : State} (h : s.memOk = true) (value) : outcomeOk (execBootGo value s) := by
  unfold execBootGo
  dsimp only
  repeat' split
  all_goals simp [h]

theorem outcomeOk_execBootVerifyDone {s : State} (h : s.memOk = true) : outcomeOk (execBootVerifyDone s) := by
  unfold execBootVerifyDone
  dsimp only
  repeat' split
  all_goals simp [h]

theorem outcomeOk_execGetMeasurements {s : State} (h : s.memOk = true) : outcomeOk (execGetMeasurements s) := by
  unfold execGetMeasurements
  dsimp only
  repeat' split
  all_goals simp [h]

theorem outcomeOk_execFlitReceive {s : State} (h : s.memOk = true) (port flit) : outcomeOk (execFlitReceive port flit s) := by
  unfold execFlitReceive
  dsimp only
  repeat' split
  all_goals simp [h]

theorem outcomeOk_execFlitReplay {s : State} (h : s.memOk = true) (port) : outcomeOk (execFlitReplay port s) := by
  unfold execFlitReplay
  dsimp only
  repeat' split
  all_goals simp [h]

theorem outcomeOk_execThermalClamp {s : State} (h : s.memOk = true) (level) : outcomeOk (execThermalClamp level s) := by
  unfold execThermalClamp
  repeat' split
  all_goals simp [h]

theorem outcomeOk_execMgmtCoreReset {s : State} (h : s.memOk = true) : outcomeOk (execMgmtCoreReset s) := by
  unfold execMgmtCoreReset
  simp [h]

theorem outcomeOk_execEngineWriteStage {s : State} (h : s.memOk = true) (id) : outcomeOk (execEngineWriteStage id s) := by
  unfold execEngineWriteStage
  repeat' split
  all_goals simp [h]

theorem outcomeOk_execHostCxlReply {s : State} (h : s.memOk = true) (id) : outcomeOk (execHostCxlReply id s) := by
  unfold execHostCxlReply
  dsimp only
  repeat' split
  all_goals simp +contextual [h]

@[simp] theorem memOk_flushUnits {s : State} (h : s.memOk = true) (lk core slice n) : (s.flushUnits lk core slice n).memOk = true := by
  induction n generalizing s with
  | zero => exact h
  | succ n ih =>
    unfold State.flushUnits
    split
    · exact ih (memOk_applyUnit h _ _ _ _)
    · exact h

@[simp] theorem memOk_applyEffects {s : State} (h : s.memOk = true) (lk core cores) : (s.applyEffects lk core cores).memOk = true := by
  unfold State.applyEffects
  dsimp only
  refine (memOk_foldl_same _ _ _ fun u k => memOk_snapCore _ _ _ _).trans ?_
  have hb : (((s.mapLaunch lk (fun l => { l with staged := l.staged.filter fun e => decide (e.round ≤ s.effOf lk core) && (lkLid lk != 0 || e.core == core) })).runCtloads
      lk (s.effOf lk core) cores).openLoops lk (s.effOf lk core) cores).memOk = true := by simp [h]
  have hboost := memOk_boostMarker hb lk (s.effOf lk core)
  split <;> simp only [memOk_setCore, memOk_mapLaunch, memOk_dispatchEffects, memOk_snapTasks]
  all_goals
    refine (memOk_foldl_same _ _ _ fun u x => memOk_pushWords _ _ _ _ _ _).trans ?_
    rw [memOk_numberTasks]
    refine (memOk_foldl_same _ _ _ fun u x => memOk_pushWords _ _ _ _ _ _).trans ?_
    refine (memOk_foldl_same _ _ _ fun u e => ?_).trans hboost
    split <;> simp

@[simp] theorem memOk_fold {s : State} (h : s.memOk = true) (lk m l area) : (s.fold lk m l area).memOk = true := by
  unfold State.fold
  dsimp only
  refine (memOk_foldl_same _ _ _ fun u k => memOk_setCore _ _ _).trans (memOk_trRecord ?_ _ _ _ _ _)
  simp only [memOk_busyStreams, memOk_reroute, memOk_mapLaunch]
  refine memOk_foldl _ _ (memOk_foldl _ _ (memOk_restore h lk) fun u i hu => memOk_saveCore hu _ _ _ _) fun u i hu => ?_
  simp [hu]

@[simp] theorem memOk_flushAll {s : State} (h : s.memOk = true) (lk core) : (s.flushAll lk core).memOk = true := by
  unfold State.flushAll
  refine memOk_foldl _ _ (by simp [h]) fun u x hu => ?_
  repeat' split
  all_goals simp [hu]

@[simp] theorem memOk_tryEffects {s : State} (h : s.memOk = true) (lk core) : (s.tryEffects lk core).memOk = true := by
  unfold State.tryEffects
  repeat' split
  all_goals simp [h]

@[simp] theorem memOk_kill {s : State} (h : s.memOk = true) (lk) : (s.kill lk).memOk = true := by
  unfold State.kill
  split
  · exact h
  · refine memOk_endLaunch (memOk_purge ?_ _) _ _
    rw [memOk_mapLaunch]
    split
    · exact (memOk_lastEffects _ _ _ _).trans (memOk_flushAll h _ _)
    · exact memOk_flushAll h _ _

@[simp] theorem memOk_diverge {s : State} (h : s.memOk = true) (part ltag) : (s.diverge part ltag).memOk = true := by
  unfold State.diverge
  simp +contextual [h]

@[simp] theorem memOk_finish {s : State} (h : s.memOk = true) (lk status) : (s.finish lk status).memOk = true := by
  unfold State.finish
  dsimp only
  repeat' split
  all_goals simp [h]

@[simp] theorem memOk_outerWrite {s : State} (h : s.memOk = true) (addr bs) : (s.outerWrite addr bs).memOk = true := by
  unfold State.outerWrite
  repeat' split
  all_goals simp [h]

@[simp] theorem memOk_applyIncoming {s : State} (h : s.memOk = true) (peer core) : (s.applyIncoming peer core).memOk = true := by
  unfold State.applyIncoming
  dsimp only
  repeat' split
  all_goals simp +contextual [h]

theorem outcomeOk_execMarkerForward {s : State} (h : s.memOk = true) (u) : outcomeOk (execMarkerForward u s) := by
  unfold execMarkerForward
  repeat' split
  all_goals simp [h]

theorem outcomeOk_execUnitApply {s : State} (h : s.memOk = true) (lk core slice) : outcomeOk (execUnitApply lk core slice s) := by
  unfold execUnitApply
  dsimp only
  repeat' split
  all_goals simp [h]

theorem outcomeOk_execRemoteUnitApply {s : State} (h : s.memOk = true) (peer core) : outcomeOk (execRemoteUnitApply peer core s) := by
  unfold execRemoteUnitApply
  dsimp only
  repeat' split
  all_goals simp +contextual [h]

theorem outcomeOk_execHostCxlAccess {s : State} (h : s.memOk = true) (a) : outcomeOk (execHostCxlAccess a s) := by
  unfold execHostCxlAccess
  dsimp only
  repeat' split
  all_goals simp [h]

theorem outcomeOk_execScarabDecide {s : State} (h : s.memOk = true) (core tile) : outcomeOk (execScarabDecide core tile s) := by
  unfold execScarabDecide
  dsimp only
  repeat' split
  all_goals simp [h]

theorem outcomeOk_execGraphRetire {s : State} (h : s.memOk = true) (lk) : outcomeOk (execGraphRetire lk s) := by
  unfold execGraphRetire
  repeat' split
  all_goals simp [h]

theorem outcomeOk_execDecide {s : State} (h : s.memOk = true) (part) : outcomeOk (execDecide part s) := by
  unfold execDecide
  dsimp only
  repeat' split
  all_goals simp [h]

theorem outcomeOk_execDieReset {s : State} (h : s.memOk = true) (c) : outcomeOk (execDieReset c s) := by
  unfold execDieReset
  dsimp only
  repeat' split
  all_goals simp +contextual [h]

/-- An instruction that may have to wait. -/
theorem outcomeOk_ite {s t : State} {c : Prop} [Decidable c] (h : s.memOk = true) (ht : t.memOk = true) : outcomeOk (if c then .next s else .next t) := by
  split
  · exact (outcomeOk_next _).mpr h
  · exact (outcomeOk_next _).mpr ht

theorem outcomeOk_execSteer {s : State} (h : s.memOk = true) (o) : outcomeOk (execSteer o s) := by
  unfold execSteer
  dsimp only
  split
  · exact (outcomeOk_next _).mpr (memOk_routeFire h _ _ _ _ fun _ _ hu => hu)
  · exact (outcomeOk_next _).mpr (memOk_pureFire h fun _ _ _ _ hu => hu)

theorem outcomeOk_execMerge {s : State} (h : s.memOk = true) (o) : outcomeOk (execMerge o s) := by
  unfold execMerge
  dsimp only
  split
  · exact (outcomeOk_next _).mpr (memOk_pureFire h fun _ _ _ _ hu => hu)
  · split
    · exact (outcomeOk_next _).mpr h
    · split
      · exact (outcomeOk_next _).mpr (memOk_routeFire h _ _ _ _ fun _ _ hu => hu)
      · exact (outcomeOk_next _).mpr (memOk_pureFire h fun _ _ _ _ hu => hu)

theorem outcomeOk_execGatePassFiring {s : State} (h : s.memOk = true) (o) : outcomeOk (execGatePassFiring o s) := by
  unfold execGatePassFiring
  dsimp only
  split
  · exact (outcomeOk_next _).mpr h
  · refine (outcomeOk_next _).mpr (memOk_routeFire h _ _ _ _ fun u f hu => ?_)
    repeat' split
    all_goals simp [hu]

theorem outcomeOk_execRepeat {s : State} (h : s.memOk = true) (o) : outcomeOk (execRepeat o s) := by
  unfold execRepeat
  dsimp only
  split
  · exact outcomeOk_ite h ((memOk_repeatCopy _ _ _ _ _).trans h)
  · refine (outcomeOk_next _).mpr (memOk_routeFire h _ _ _ _ fun u f hu => ?_)
    split <;> simp [hu]

theorem outcomeOk_execConst {s : State} (h : s.memOk = true) (o) : outcomeOk (execConst o s) := by
  unfold execConst
  dsimp only
  repeat' split
  · exact (outcomeOk_next _).mpr (memOk_pureFire h fun _ _ _ _ hu => hu)
  all_goals simp [h]

theorem outcomeOk_execLaunch {s : State} (h : s.memOk = true) (o) : outcomeOk (execLaunch o s) := by
  unfold execLaunch
  refine (outcomeOk_next _).mpr (memOk_accessGate h _ _ _ _ _ fun t u hu => memOk_anchorFire hu fun v f hv => ?_)
  dsimp only
  split <;> simp [hv]

theorem outcomeOk_execCrd {s : State} (h : s.memOk = true) (o) : outcomeOk (execCrd o s) := by
  unfold execCrd
  dsimp only
  split
  · exact (outcomeOk_next _).mpr h
  · exact (outcomeOk_next _).mpr (memOk_pureFire h fun _ _ _ _ hu => hu)

theorem outcomeOk_execUfrd {s : State} (h : s.memOk = true) (o) : outcomeOk (execUfrd o s) := by
  unfold execUfrd
  split
  · exact (outcomeOk_next _).mpr h
  · exact (outcomeOk_next _).mpr (memOk_pureFire h fun _ _ _ _ hu => hu)

/-- A firing of a matrix node. -/
theorem memOk_mxFire {s : State} (h : s.memOk = true) (o need check hold nums) {act : State → Firing → State}
    (ha : ∀ u f, u.memOk = true → (act u f).memOk = true) : (s.anchorFire (mxAnchor o need check act hold nums)).memOk = true :=
  memOk_anchorFire h ha

theorem outcomeOk_execMxldbHeaderFiring {s : State} (h : s.memOk = true) (o) : outcomeOk (execMxldbHeaderFiring o s) := by
  unfold execMxldbHeaderFiring
  dsimp only
  split
  · exact (outcomeOk_next _).mpr (memOk_mxFire h _ _ _ _ _ fun u f hu => by simp [hu])
  · split
    · simp [h]
    · exact (outcomeOk_next _).mpr (memOk_mxFire h _ _ _ _ _ fun _ _ hu => hu)

theorem outcomeOk_execMxldbPayloadFiring {s : State} (h : s.memOk = true) (o) : outcomeOk (execMxldbPayloadFiring o s) := by
  unfold execMxldbPayloadFiring
  refine (outcomeOk_next _).mpr (memOk_mxFire h _ _ _ _ _ fun u f hu => ?_)
  dsimp only
  split <;> simp [hu]

theorem outcomeOk_execMxrow {s : State} (h : s.memOk = true) (o) : outcomeOk (execMxrow o s) :=
  (outcomeOk_next _).mpr (memOk_mxFire h _ _ _ _ _ fun u f hu => by simp [hu])

theorem outcomeOk_execMxrows {s : State} (h : s.memOk = true) (o) : outcomeOk (execMxrows o s) :=
  (outcomeOk_next _).mpr (memOk_anchorFire h fun u f hu => (memOk_rowAct u o true f).trans hu)

theorem outcomeOk_execMxdrain {s : State} (h : s.memOk = true) (o) : outcomeOk (execMxdrain o s) := by
  unfold execMxdrain
  refine (outcomeOk_next _).mpr (memOk_mxFire h _ _ _ _ _ fun u f hu => ?_)
  dsimp only
  split <;> simp [hu]

theorem outcomeOk_execMxclr {s : State} (h : s.memOk = true) (o) : outcomeOk (execMxclr o s) :=
  (outcomeOk_next _).mpr (memOk_mxFire h _ _ _ _ _ fun u f hu => by simp [hu])

theorem outcomeOk_execMxcfg {s : State} (h : s.memOk = true) (o) : outcomeOk (execMxcfg o s) :=
  (outcomeOk_next _).mpr (memOk_mxFire h _ _ _ _ _ fun u f hu => by simp [hu])

theorem outcomeOk_execStrgo {s : State} (h : s.memOk = true) (o) : outcomeOk (execStrgo o s) := by
  refine (outcomeOk_next _).mpr (memOk_accessFire h ⟨fun go hgo u f p hu => ?_, fun u f ps v hv hu => ?_, fun u f ps hu => ?_⟩)
  · cases hgo
    simp [hu]
  · exact (eq_of_stall hv).trans hu
  · simp [hu]

theorem outcomeOk_execStrgoWrite {s : State} (h : s.memOk = true) (o) : outcomeOk (execStrgoWrite o s) := by
  unfold execStrgoWrite
  dsimp only
  split
  · repeat' split
    all_goals simp [h]
  · exact (outcomeOk_next _).mpr (memOk_accessFire h (AccessFiring.keepsForm_of_act rfl (fun _ _ _ _ hv => eq_of_stall hv) fun u f _ hu => by simp [hu]))

theorem outcomeOk_execRloop {s : State} (h : s.memOk = true) (o) : outcomeOk (execRloop o s) := by
  refine outcomeOk_ite h (memOk_wordFire h _ _ _ _ _ fun u f hu => ?_)
  dsimp only
  split <;> simp [hu]

theorem outcomeOk_execRsv {s : State} (h : s.memOk = true) (o) : outcomeOk (execRsv o s) := by
  refine outcomeOk_ite h (memOk_accessFire h (AccessFiring.keepsForm_of_act rfl (fun _ _ _ _ hv => eq_of_stall hv) fun u f _ hu => ?_))
  dsimp only
  split <;> simp [hu]

theorem outcomeOk_execRsvDone {s : State} (h : s.memOk = true) (o) : outcomeOk (execRsvDone o s) := by
  refine outcomeOk_ite h (memOk_wordFire h _ _ _ _ _ fun u f hu => ?_)
  dsimp only
  repeat' split
  all_goals simp [hu]

theorem outcomeOk_execRchk {s : State} (h : s.memOk = true) (o) : outcomeOk (execRchk o s) :=
  outcomeOk_ite h (memOk_accessFire h (AccessFiring.keepsForm_of_act rfl (fun _ _ _ _ hv => nomatch hv) fun u f _ hu => by simp [hu]))

theorem outcomeOk_execRldone {s : State} (h : s.memOk = true) (o) : outcomeOk (execRldone o s) := by
  refine outcomeOk_ite h (memOk_wordFire h _ _ _ _ _ fun u f hu => ?_)
  dsimp only
  repeat' split
  all_goals simp [hu]

theorem outcomeOk_execCommitPhaseClose {s : State} (h : s.memOk = true) (core loop) : outcomeOk (execCommitPhaseClose core loop s) := by
  unfold execCommitPhaseClose
  split
  · exact (outcomeOk_next _).mpr h
  next l _ =>
    have hfree : (l.log.foldl (fun u y => match u.cellHome core l y.1 with
          | some p => u.freeCell l.lk (s.effOf l.lk core) p
          | none => u) s).memOk = true :=
      memOk_foldl _ _ h fun u y hu => by split <;> simp [hu]
    split
    · exact (outcomeOk_next _).mpr h
    · dsimp only
      split
      · refine (outcomeOk_next _).mpr ((memOk_finishLoop _ _ _ _).trans ?_)
        split
        · exact memOk_futresNow ((memOk_setLoop _ _ _ _).trans hfree) _ _ _ _ _ _ _ _
        · exact (memOk_setLoop _ _ _ _).trans hfree
      · exact (outcomeOk_next _).mpr ((memOk_setLoop _ _ _ _).trans hfree)

theorem outcomeOk_execBtask {s : State} (h : s.memOk = true) (o) : outcomeOk (execBtask o s) := by
  refine outcomeOk_ite h (memOk_wordFire h _ _ _ _ _ fun u f hu => ?_)
  dsimp only
  split <;> simp [hu]

theorem outcomeOk_execBop {s : State} (h : s.memOk = true) (o) : outcomeOk (execBop o s) := by
  refine outcomeOk_ite h (memOk_accessFire h (AccessFiring.keepsForm_of_act rfl (fun u f ps v hv => ?_) fun u f _ hu => ?_))
  · dsimp only at hv
    repeat' split at hv
    · cases hv
      simp
    · exact eq_of_stall hv
    · cases hv
      simp
    · cases hv
  · dsimp only
    repeat' split
    all_goals simp [hu]

theorem outcomeOk_execBstat {s : State} (h : s.memOk = true) (o) : outcomeOk (execBstat o s) := by
  unfold execBstat
  split
  · exact (outcomeOk_next _).mpr h
  · exact (outcomeOk_next _).mpr (memOk_anchorFire h fun u f hu => by simp [hu])

theorem outcomeOk_have {α : Type} {v : α} {f : α → Host.Outcome State Fault Refusal} (h : outcomeOk (f v)) : outcomeOk (have x := v; f x) := h

theorem outcomeOk_execShrinkCut {s : State} (h : s.memOk = true) (lk) : outcomeOk (execShrinkCut lk s) := by
  have hl : (s.releaseLeft lk).memOk = true := (memOk_releaseLeft _ _).trans h
  unfold execShrinkCut
  refine outcomeOk_have ?_
  generalize s.releaseLeft lk = u at hl ⊢
  split
  · exact (outcomeOk_next _).mpr hl
  split
  · exact (outcomeOk_next _).mpr hl
  split
  · exact (outcomeOk_next _).mpr hl
  refine outcomeOk_have (outcomeOk_have ?_)
  split
  · simp [hl]
  split
  · simp [hl]
  split
  · simp [hl]
  refine outcomeOk_have ?_
  have := fun m l a => memOk_fold hl lk m l a
  split
  · split <;> simp [this]
  · simp [this]

theorem memOk_writeMem {s : State} (h : s.memOk = true) (a bs) : ({ s with mem := writeBytes s.mem a bs } : State).memOk = true :=
  memOk_mem h (wf_writeBytes _ _ _ ((memOk_iff s).mp h).1)

theorem outcomeOk_execFaultRecordEnqueue {s : State} (h : s.memOk = true) (core) : outcomeOk (execFaultRecordEnqueue core s) := by
  unfold execFaultRecordEnqueue
  split
  · dsimp only
    repeat' split
    · exact (outcomeOk_next _).mpr h
    · simp [h]
    · rw [outcomeOk_next, memOk_setPart]
      exact memOk_writeMem ((memOk_setCore _ _ _).trans h) _ _
    · rw [outcomeOk_next, memOk_setPart]
      exact memOk_writeMem ((memOk_setCore _ _ _).trans h) _ _
  · exact (outcomeOk_next _).mpr h

theorem outcomeOk_execDebugSetBreakpoint {s : State} (h : s.memOk = true) (e image b) : outcomeOk (execDebugSetBreakpoint e image b s) := by
  unfold execDebugSetBreakpoint
  split
  · exact (outcomeOk_next _).mpr (memOk_writeMem h _ _)
  · exact outcomeOk_ite h ((memOk_setBank _ _ _).trans h)

theorem outcomeOk_execPartClr {s : State} (h : s.memOk = true) (c) : outcomeOk (execPartClr c s) := by
  refine (outcomeOk_next _).mpr (memOk_command h _ _ _ _ _ fun u hu => ?_)
  dsimp only
  simp only [memOk_mk, formOk_fields]
  refine (memOk_foldl_same _ _ _ fun v k => memOk_leaveCore v k).trans ?_
  exact memOk_kill (memOk_foldl _ _ hu fun v lid hv => memOk_kill hv _) _

theorem outcomeOk_execHndStart {s : State} (h : s.memOk = true) (c) : outcomeOk (execHndStart c s) :=
  (outcomeOk_next _).mpr (memOk_command h _ _ _ _ _ fun u hu =>
    memOk_foldl _ _ ((memOk_setPart _ _ _).trans hu) fun v k hv => memOk_configCore hv _ _ _)

theorem forall_filter_tiles {s : State} (h : s.memOk = true) (p : Nat × MTile → Bool) :
    ({ s with mtiles := s.mtiles.filter p } : State).memOk = true := by
  obtain ⟨hm, hh, hp, ht⟩ := (memOk_iff s).mp h
  exact (memOk_iff _).mpr ⟨hm, hh, hp, fun x hx => ht x (List.mem_filter.mp hx).1⟩

theorem outcomeOk_execDieRetrainStart {s : State} (h : s.memOk = true) (die) : outcomeOk (execDieRetrainStart die s) :=
  outcomeOk_ite h (forall_filter_tiles (s := s.setDie die _) ((memOk_setDie _ _ _).trans h) _)

theorem outcomeOk_execVfLaunchDoorbell {s : State} (h : s.memOk = true) (vf queue addr) : outcomeOk (execVfLaunchDoorbell vf queue addr s) := by
  unfold execVfLaunchDoorbell
  dsimp only
  repeat' split
  · exact (outcomeOk_next _).mpr h
  · simp [h]
  · simp [h]
  next t ht => 
    rw [outcomeOk_next, memOk_journal]
    exact (memOk_of_acceptPacket ht).trans h
  · simp [h]

theorem outcomeOk_execColdBoot {s : State} (h : s.memOk = true) : outcomeOk (execColdBoot s) := by
  obtain ⟨-, hh, hp, -⟩ := (memOk_iff s).mp h
  exact (outcomeOk_next _).mpr ((memOk_iff _).mpr ⟨rfl, hh, hp, nofun⟩)

theorem outcomeOk_execPatrolScrub {s : State} (h : s.memOk = true) (u) : outcomeOk (execPatrolScrub u s) := by
  unfold execPatrolScrub
  split
  next core tile line =>
    obtain ⟨hb, hsnaps⟩ := (tile_formOk_iff _).mp (mtile_formOk h (tileKey core tile))
    exact outcomeOk_ite h (memOk_setMtile_parts h (t := { s.mtile (tileKey core tile) with bytes := _ }) (wf_writeBytes _ _ _ hb) hsnaps _)
  · exact outcomeOk_ite h (memOk_writeMem h _ _)

theorem outcomeOk_execCsrr {s : State} (h : s.memOk = true) (o) : outcomeOk (execCsrr o s) := by
  unfold execCsrr
  refine (outcomeOk_next _).mpr (memOk_anchorFire h fun u f hu => ?_)
  dsimp only
  repeat' split
  all_goals simp [hu]

theorem outcomeOk_execCsrw {s : State} (h : s.memOk = true) (o) : outcomeOk (execCsrw o s) := by
  unfold execCsrw
  refine (outcomeOk_next _).mpr (memOk_anchorFire h fun u f hu => ?_)
  dsimp only
  repeat' split
  all_goals simp [hu]

theorem outcomeOk_execTfetch {s : State} (h : s.memOk = true) (o) : outcomeOk (execTfetch o s) := by
  unfold execTfetch
  refine (outcomeOk_next _).mpr (memOk_anchorFire h fun u f hu => ?_)
  dsimp only
  repeat' split
  all_goals simp [hu]

theorem outcomeOk_execReinj {s : State} (h : s.memOk = true) (o) : outcomeOk (execReinj o s) := by
  unfold execReinj
  refine (outcomeOk_next _).mpr (memOk_anchorFire h fun u f hu => ?_)
  dsimp only
  split <;> simp [hu]

theorem outcomeOk_execExtensionOpcode {s : State} (h : s.memOk = true) (i o) : outcomeOk (execExtensionOpcode i o s) := by
  unfold execExtensionOpcode
  dsimp only
  split
  · exact (outcomeOk_next _).mpr (memOk_pureFire h fun _ _ _ _ hu => hu)
  · exact (outcomeOk_next _).mpr (memOk_anchorFire h fun u f hu => by simp [hu])

theorem outcomeOk_execRinv {s : State} (h : s.memOk = true) (o) : outcomeOk (execRinv o s) := by
  unfold execRinv
  refine (outcomeOk_next _).mpr (memOk_accessFire h (AccessFiring.keepsForm_of_act rfl (fun _ _ _ _ hv => nomatch hv) fun u f _ hu => ?_))
  simp [hu]

theorem outcomeOk_execCarry {s : State} (h : s.memOk = true) (o) : outcomeOk (execCarry o s) := by
  unfold execCarry
  dsimp only
  split
  all_goals
    refine (outcomeOk_next _).mpr (memOk_routeFire h _ _ _ _ fun u f hu => ?_)
    split <;> simp [hu]

theorem outcomeOk_execInvar {s : State} (h : s.memOk = true) (o) : outcomeOk (execInvar o s) := by
  unfold execInvar
  split
  all_goals
    refine (outcomeOk_next _).mpr (memOk_routeFire h _ _ _ _ fun u f hu => ?_)
    split <;> simp [hu]

theorem outcomeOk_execFanout {s : State} (h : s.memOk = true) (o) : outcomeOk (execFanout o s) := by
  unfold execFanout
  exact (outcomeOk_next _).mpr (memOk_pureFire h fun _ _ _ _ hu => hu)

theorem outcomeOk_execDrop {s : State} (h : s.memOk = true) (o) : outcomeOk (execDrop o s) := by
  unfold execDrop
  exact (outcomeOk_next _).mpr (memOk_pureFire h fun _ _ _ _ hu => hu)

theorem outcomeOk_execOrdf {s : State} (h : s.memOk = true) (o) : outcomeOk (execOrdf o s) := by
  unfold execOrdf
  refine (outcomeOk_next _).mpr (memOk_routeFire h _ _ _ _ fun u f hu => ?_)
  split <;> simp [hu]

theorem outcomeOk_execOrdj {s : State} (h : s.memOk = true) (o) : outcomeOk (execOrdj o s) := by
  unfold execOrdj
  refine (outcomeOk_next _).mpr (memOk_routeFire h _ _ _ _ fun u f hu => ?_)
  split <;> simp [hu]

theorem outcomeOk_execCountLFiring {s : State} (h : s.memOk = true) (o) : outcomeOk (execCountLFiring o s) := by
  unfold execCountLFiring
  refine (outcomeOk_next _).mpr (memOk_routeFire h _ _ _ _ fun u f hu => ?_)
  split <;> simp [hu]

theorem outcomeOk_execCountPFiring {s : State} (h : s.memOk = true) (o) : outcomeOk (execCountPFiring o s) := by
  unfold execCountPFiring
  refine (outcomeOk_next _).mpr (memOk_routeFire h _ _ _ _ fun u f hu => ?_)
  simp [hu]

theorem outcomeOk_execExit {s : State} (h : s.memOk = true) (o) : outcomeOk (execExit o s) := by
  unfold execExit
  refine (outcomeOk_next _).mpr (memOk_anchorFire h fun u f hu => ?_)
  simp [hu]

theorem outcomeOk_execExitp {s : State} (h : s.memOk = true) (o) : outcomeOk (execExitp o s) := by
  unfold execExitp
  refine (outcomeOk_next _).mpr (memOk_anchorFire h fun u f hu => ?_)
  dsimp only
  repeat' split
  all_goals simp [hu]

theorem outcomeOk_execExitq {s : State} (h : s.memOk = true) (o) : outcomeOk (execExitq o s) := by
  unfold execExitq
  refine (outcomeOk_next _).mpr (memOk_anchorFire h fun u f hu => ?_)
  simp [hu]

theorem outcomeOk_execSpawn {s : State} (h : s.memOk = true) (o) : outcomeOk (execSpawn o s) := by
  unfold execSpawn
  refine (outcomeOk_next _).mpr (memOk_anchorFire h fun u f hu => ?_)
  dsimp only
  repeat' split
  all_goals simp [hu]

theorem outcomeOk_execRetire {s : State} (h : s.memOk = true) (o) : outcomeOk (execRetire o s) := by
  unfold execRetire
  refine (outcomeOk_next _).mpr (memOk_anchorFire h fun u f hu => ?_)
  simp [hu]

theorem outcomeOk_execPatch {s : State} (h : s.memOk = true) (o) : outcomeOk (execPatch o s) := by
  unfold execPatch
  refine (outcomeOk_next _).mpr (memOk_anchorFire h fun u f hu => ?_)
  dsimp only
  repeat' split
  all_goals simp [hu]

theorem outcomeOk_execTrig {s : State} (h : s.memOk = true) (o) : outcomeOk (execTrig o s) := by
  unfold execTrig
  refine (outcomeOk_next _).mpr (memOk_anchorFire h fun u f hu => ?_)
  simp [hu]

theorem outcomeOk_execQpush {s : State} (h : s.memOk = true) (o) : outcomeOk (execQpush o s) := by
  unfold execQpush
  refine (outcomeOk_next _).mpr (memOk_anchorFire h fun u f hu => ?_)
  dsimp only
  repeat' split
  all_goals simp [hu]

theorem outcomeOk_execQpop {s : State} (h : s.memOk = true) (o) : outcomeOk (execQpop o s) := by
  unfold execQpop
  refine (outcomeOk_next _).mpr (memOk_anchorFire h fun u f hu => ?_)
  dsimp only
  repeat' split
  all_goals simp [hu]

theorem outcomeOk_execCwr {s : State} (h : s.memOk = true) (o) : outcomeOk (execCwr o s) := by
  unfold execCwr
  refine (outcomeOk_next _).mpr (memOk_anchorFire h fun u f hu => ?_)
  dsimp only
  repeat' split
  all_goals simp [hu]

theorem outcomeOk_execRmark {s : State} (h : s.memOk = true) (o) : outcomeOk (execRmark o s) := by
  unfold execRmark
  refine (outcomeOk_next _).mpr (memOk_anchorFire h fun u f hu => ?_)
  simp [hu]

theorem outcomeOk_execQuiet {s : State} (h : s.memOk = true) (o) : outcomeOk (execQuiet o s) := by
  unfold execQuiet
  refine (outcomeOk_next _).mpr (memOk_anchorFire h fun u f hu => ?_)
  simp [hu]

theorem outcomeOk_execAdd {s : State} (h : s.memOk = true) (o) : outcomeOk (execAdd o s) := by
  unfold execAdd
  exact (outcomeOk_next _).mpr (memOk_arith h _ _ _ _ _ _ _ _)

theorem outcomeOk_execSub {s : State} (h : s.memOk = true) (o) : outcomeOk (execSub o s) := by
  unfold execSub
  exact (outcomeOk_next _).mpr (memOk_arith h _ _ _ _ _ _ _ _)

theorem outcomeOk_execAdds {s : State} (h : s.memOk = true) (o) : outcomeOk (execAdds o s) := by
  unfold execAdds
  exact (outcomeOk_next _).mpr (memOk_arith h _ _ _ _ _ _ _ _)

theorem outcomeOk_execSubs {s : State} (h : s.memOk = true) (o) : outcomeOk (execSubs o s) := by
  unfold execSubs
  exact (outcomeOk_next _).mpr (memOk_arith h _ _ _ _ _ _ _ _)

theorem outcomeOk_execNeg {s : State} (h : s.memOk = true) (o) : outcomeOk (execNeg o s) := by
  unfold execNeg
  exact (outcomeOk_next _).mpr (memOk_arith h _ _ _ _ _ _ _ _)

theorem outcomeOk_execAbs {s : State} (h : s.memOk = true) (o) : outcomeOk (execAbs o s) := by
  unfold execAbs
  exact (outcomeOk_next _).mpr (memOk_arith h _ _ _ _ _ _ _ _)

theorem outcomeOk_execMul {s : State} (h : s.memOk = true) (o) : outcomeOk (execMul o s) := by
  unfold execMul
  exact (outcomeOk_next _).mpr (memOk_arith h _ _ _ _ _ _ _ _)

theorem outcomeOk_execMulh {s : State} (h : s.memOk = true) (o) : outcomeOk (execMulh o s) := by
  unfold execMulh
  exact (outcomeOk_next _).mpr (memOk_arith h _ _ _ _ _ _ _ _)

theorem outcomeOk_execDiv {s : State} (h : s.memOk = true) (o) : outcomeOk (execDiv o s) := by
  unfold execDiv
  exact (outcomeOk_next _).mpr (memOk_arith h _ _ _ _ _ _ _ _)

theorem outcomeOk_execRem {s : State} (h : s.memOk = true) (o) : outcomeOk (execRem o s) := by
  unfold execRem
  exact (outcomeOk_next _).mpr (memOk_arith h _ _ _ _ _ _ _ _)

theorem outcomeOk_execMin {s : State} (h : s.memOk = true) (o) : outcomeOk (execMin o s) := by
  unfold execMin
  exact (outcomeOk_next _).mpr (memOk_arith h _ _ _ _ _ _ _ _)

theorem outcomeOk_execMax {s : State} (h : s.memOk = true) (o) : outcomeOk (execMax o s) := by
  unfold execMax
  exact (outcomeOk_next _).mpr (memOk_arith h _ _ _ _ _ _ _ _)

theorem outcomeOk_execAnd {s : State} (h : s.memOk = true) (o) : outcomeOk (execAnd o s) := by
  unfold execAnd
  exact (outcomeOk_next _).mpr (memOk_arith h _ _ _ _ _ _ _ _)

theorem outcomeOk_execOr {s : State} (h : s.memOk = true) (o) : outcomeOk (execOr o s) := by
  unfold execOr
  exact (outcomeOk_next _).mpr (memOk_arith h _ _ _ _ _ _ _ _)

theorem outcomeOk_execXor {s : State} (h : s.memOk = true) (o) : outcomeOk (execXor o s) := by
  unfold execXor
  exact (outcomeOk_next _).mpr (memOk_arith h _ _ _ _ _ _ _ _)

theorem outcomeOk_execAndn {s : State} (h : s.memOk = true) (o) : outcomeOk (execAndn o s) := by
  unfold execAndn
  exact (outcomeOk_next _).mpr (memOk_arith h _ _ _ _ _ _ _ _)

theorem outcomeOk_execNot {s : State} (h : s.memOk = true) (o) : outcomeOk (execNot o s) := by
  unfold execNot
  exact (outcomeOk_next _).mpr (memOk_arith h _ _ _ _ _ _ _ _)

theorem outcomeOk_execShl {s : State} (h : s.memOk = true) (o) : outcomeOk (execShl o s) := by
  unfold execShl
  exact (outcomeOk_next _).mpr (memOk_arith h _ _ _ _ _ _ _ _)

theorem outcomeOk_execShr {s : State} (h : s.memOk = true) (o) : outcomeOk (execShr o s) := by
  unfold execShr
  exact (outcomeOk_next _).mpr (memOk_arith h _ _ _ _ _ _ _ _)

theorem outcomeOk_execSar {s : State} (h : s.memOk = true) (o) : outcomeOk (execSar o s) := by
  unfold execSar
  exact (outcomeOk_next _).mpr (memOk_arith h _ _ _ _ _ _ _ _)

theorem outcomeOk_execRotl {s : State} (h : s.memOk = true) (o) : outcomeOk (execRotl o s) := by
  unfold execRotl
  exact (outcomeOk_next _).mpr (memOk_arith h _ _ _ _ _ _ _ _)

theorem outcomeOk_execClz {s : State} (h : s.memOk = true) (o) : outcomeOk (execClz o s) := by
  unfold execClz
  exact (outcomeOk_next _).mpr (memOk_arith h _ _ _ _ _ _ _ _)

theorem outcomeOk_execCtz {s : State} (h : s.memOk = true) (o) : outcomeOk (execCtz o s) := by
  unfold execCtz
  exact (outcomeOk_next _).mpr (memOk_arith h _ _ _ _ _ _ _ _)

theorem outcomeOk_execPopc {s : State} (h : s.memOk = true) (o) : outcomeOk (execPopc o s) := by
  unfold execPopc
  exact (outcomeOk_next _).mpr (memOk_arith h _ _ _ _ _ _ _ _)

theorem outcomeOk_execCmp {s : State} (h : s.memOk = true) (o) : outcomeOk (execCmp o s) := by
  unfold execCmp
  exact (outcomeOk_next _).mpr (memOk_arith h _ _ _ _ _ _ _ _)

theorem outcomeOk_execSel {s : State} (h : s.memOk = true) (o) : outcomeOk (execSel o s) := by
  unfold execSel
  exact (outcomeOk_next _).mpr (memOk_arith h _ _ _ _ _ _ _ _)

theorem outcomeOk_execTrunc {s : State} (h : s.memOk = true) (o) : outcomeOk (execTrunc o s) := by
  unfold execTrunc
  exact (outcomeOk_next _).mpr (memOk_arith h _ _ _ _ _ _ _ _)

theorem outcomeOk_execBfx {s : State} (h : s.memOk = true) (o) : outcomeOk (execBfx o s) := by
  unfold execBfx
  exact (outcomeOk_next _).mpr (memOk_arith h _ _ _ _ _ _ _ _)

theorem outcomeOk_execBfi {s : State} (h : s.memOk = true) (o) : outcomeOk (execBfi o s) := by
  unfold execBfi
  exact (outcomeOk_next _).mpr (memOk_arith h _ _ _ _ _ _ _ _)

theorem outcomeOk_execAddr {s : State} (h : s.memOk = true) (o) : outcomeOk (execAddr o s) := by
  unfold execAddr
  exact (outcomeOk_next _).mpr (memOk_arith h _ _ _ _ _ _ _ _)

theorem outcomeOk_execImad {s : State} (h : s.memOk = true) (o) : outcomeOk (execImad o s) := by
  unfold execImad
  exact (outcomeOk_next _).mpr (memOk_arith h _ _ _ _ _ _ _ _)

theorem outcomeOk_execBswap {s : State} (h : s.memOk = true) (o) : outcomeOk (execBswap o s) := by
  unfold execBswap
  exact (outcomeOk_next _).mpr (memOk_arith h _ _ _ _ _ _ _ _)

theorem outcomeOk_execFadd {s : State} (h : s.memOk = true) (o) : outcomeOk (execFadd o s) := by
  unfold execFadd
  exact (outcomeOk_next _).mpr (memOk_arith h _ _ _ _ _ _ _ _)

theorem outcomeOk_execFsub {s : State} (h : s.memOk = true) (o) : outcomeOk (execFsub o s) := by
  unfold execFsub
  exact (outcomeOk_next _).mpr (memOk_arith h _ _ _ _ _ _ _ _)

theorem outcomeOk_execFmul {s : State} (h : s.memOk = true) (o) : outcomeOk (execFmul o s) := by
  unfold execFmul
  exact (outcomeOk_next _).mpr (memOk_arith h _ _ _ _ _ _ _ _)

theorem outcomeOk_execFma {s : State} (h : s.memOk = true) (o) : outcomeOk (execFma o s) := by
  unfold execFma
  exact (outcomeOk_next _).mpr (memOk_arith h _ _ _ _ _ _ _ _)

theorem outcomeOk_execFdiv {s : State} (h : s.memOk = true) (o) : outcomeOk (execFdiv o s) := by
  unfold execFdiv
  exact (outcomeOk_next _).mpr (memOk_arith h _ _ _ _ _ _ _ _)

theorem outcomeOk_execFsqrt {s : State} (h : s.memOk = true) (o) : outcomeOk (execFsqrt o s) := by
  unfold execFsqrt
  exact (outcomeOk_next _).mpr (memOk_arith h _ _ _ _ _ _ _ _)

theorem outcomeOk_execFrcp {s : State} (h : s.memOk = true) (o) : outcomeOk (execFrcp o s) := by
  unfold execFrcp
  exact (outcomeOk_next _).mpr (memOk_arith h _ _ _ _ _ _ _ _)

theorem outcomeOk_execFrsq {s : State} (h : s.memOk = true) (o) : outcomeOk (execFrsq o s) := by
  unfold execFrsq
  exact (outcomeOk_next _).mpr (memOk_arith h _ _ _ _ _ _ _ _)

theorem outcomeOk_execFexp2 {s : State} (h : s.memOk = true) (o) : outcomeOk (execFexp2 o s) := by
  unfold execFexp2
  exact (outcomeOk_next _).mpr (memOk_arith h _ _ _ _ _ _ _ _)

theorem outcomeOk_execFlog2 {s : State} (h : s.memOk = true) (o) : outcomeOk (execFlog2 o s) := by
  unfold execFlog2
  exact (outcomeOk_next _).mpr (memOk_arith h _ _ _ _ _ _ _ _)

theorem outcomeOk_execFexp {s : State} (h : s.memOk = true) (o) : outcomeOk (execFexp o s) := by
  unfold execFexp
  exact (outcomeOk_next _).mpr (memOk_arith h _ _ _ _ _ _ _ _)

theorem outcomeOk_execFmin {s : State} (h : s.memOk = true) (o) : outcomeOk (execFmin o s) := by
  unfold execFmin
  exact (outcomeOk_next _).mpr (memOk_arith h _ _ _ _ _ _ _ _)

theorem outcomeOk_execFmax {s : State} (h : s.memOk = true) (o) : outcomeOk (execFmax o s) := by
  unfold execFmax
  exact (outcomeOk_next _).mpr (memOk_arith h _ _ _ _ _ _ _ _)

theorem outcomeOk_execFabs {s : State} (h : s.memOk = true) (o) : outcomeOk (execFabs o s) := by
  unfold execFabs
  exact (outcomeOk_next _).mpr (memOk_arith h _ _ _ _ _ _ _ _)

theorem outcomeOk_execFneg {s : State} (h : s.memOk = true) (o) : outcomeOk (execFneg o s) := by
  unfold execFneg
  exact (outcomeOk_next _).mpr (memOk_arith h _ _ _ _ _ _ _ _)

theorem outcomeOk_execFcpys {s : State} (h : s.memOk = true) (o) : outcomeOk (execFcpys o s) := by
  unfold execFcpys
  exact (outcomeOk_next _).mpr (memOk_arith h _ _ _ _ _ _ _ _)

theorem outcomeOk_execFcmp {s : State} (h : s.memOk = true) (o) : outcomeOk (execFcmp o s) := by
  unfold execFcmp
  exact (outcomeOk_next _).mpr (memOk_arith h _ _ _ _ _ _ _ _)

theorem outcomeOk_execFclass {s : State} (h : s.memOk = true) (o) : outcomeOk (execFclass o s) := by
  unfold execFclass
  exact (outcomeOk_next _).mpr (memOk_arith h _ _ _ _ _ _ _ _)

theorem outcomeOk_execFrint {s : State} (h : s.memOk = true) (o) : outcomeOk (execFrint o s) := by
  unfold execFrint
  exact (outcomeOk_next _).mpr (memOk_arith h _ _ _ _ _ _ _ _)

theorem outcomeOk_execFscalb {s : State} (h : s.memOk = true) (o) : outcomeOk (execFscalb o s) := by
  unfold execFscalb
  exact (outcomeOk_next _).mpr (memOk_arith h _ _ _ _ _ _ _ _)

theorem outcomeOk_execFtanh {s : State} (h : s.memOk = true) (o) : outcomeOk (execFtanh o s) := by
  unfold execFtanh
  exact (outcomeOk_next _).mpr (memOk_arith h _ _ _ _ _ _ _ _)

theorem outcomeOk_execFsigm {s : State} (h : s.memOk = true) (o) : outcomeOk (execFsigm o s) := by
  unfold execFsigm
  exact (outcomeOk_next _).mpr (memOk_arith h _ _ _ _ _ _ _ _)

theorem outcomeOk_execVbcast {s : State} (h : s.memOk = true) (o) : outcomeOk (execVbcast o s) := by
  unfold execVbcast
  exact (outcomeOk_next _).mpr (memOk_arith h _ _ _ _ _ _ _ _)

theorem outcomeOk_execVextr {s : State} (h : s.memOk = true) (o) : outcomeOk (execVextr o s) := by
  unfold execVextr
  exact (outcomeOk_next _).mpr (memOk_arith h _ _ _ _ _ _ _ _)

theorem outcomeOk_execVins {s : State} (h : s.memOk = true) (o) : outcomeOk (execVins o s) := by
  unfold execVins
  exact (outcomeOk_next _).mpr (memOk_arith h _ _ _ _ _ _ _ _)

theorem outcomeOk_execVperm {s : State} (h : s.memOk = true) (o) : outcomeOk (execVperm o s) := by
  unfold execVperm
  exact (outcomeOk_next _).mpr (memOk_arith h _ _ _ _ _ _ _ _)

theorem outcomeOk_execVshuf {s : State} (h : s.memOk = true) (o) : outcomeOk (execVshuf o s) := by
  unfold execVshuf
  exact (outcomeOk_next _).mpr (memOk_arith h _ _ _ _ _ _ _ _)

theorem outcomeOk_execVrot {s : State} (h : s.memOk = true) (o) : outcomeOk (execVrot o s) := by
  unfold execVrot
  exact (outcomeOk_next _).mpr (memOk_arith h _ _ _ _ _ _ _ _)

theorem outcomeOk_execVslide {s : State} (h : s.memOk = true) (o) : outcomeOk (execVslide o s) := by
  unfold execVslide
  exact (outcomeOk_next _).mpr (memOk_arith h _ _ _ _ _ _ _ _)

theorem outcomeOk_execVzip {s : State} (h : s.memOk = true) (o) : outcomeOk (execVzip o s) := by
  unfold execVzip
  exact (outcomeOk_next _).mpr (memOk_arith h _ _ _ _ _ _ _ _)

theorem outcomeOk_execVunzip {s : State} (h : s.memOk = true) (o) : outcomeOk (execVunzip o s) := by
  unfold execVunzip
  exact (outcomeOk_next _).mpr (memOk_arith h _ _ _ _ _ _ _ _)

theorem outcomeOk_execVradd {s : State} (h : s.memOk = true) (o) : outcomeOk (execVradd o s) := by
  unfold execVradd
  exact (outcomeOk_next _).mpr (memOk_arith h _ _ _ _ _ _ _ _)

theorem outcomeOk_execVrmin {s : State} (h : s.memOk = true) (o) : outcomeOk (execVrmin o s) := by
  unfold execVrmin
  exact (outcomeOk_next _).mpr (memOk_arith h _ _ _ _ _ _ _ _)

theorem outcomeOk_execVrmax {s : State} (h : s.memOk = true) (o) : outcomeOk (execVrmax o s) := by
  unfold execVrmax
  exact (outcomeOk_next _).mpr (memOk_arith h _ _ _ _ _ _ _ _)

theorem outcomeOk_execVrand {s : State} (h : s.memOk = true) (o) : outcomeOk (execVrand o s) := by
  unfold execVrand
  exact (outcomeOk_next _).mpr (memOk_arith h _ _ _ _ _ _ _ _)

theorem outcomeOk_execVrior {s : State} (h : s.memOk = true) (o) : outcomeOk (execVrior o s) := by
  unfold execVrior
  exact (outcomeOk_next _).mpr (memOk_arith h _ _ _ _ _ _ _ _)

theorem outcomeOk_execVcompr {s : State} (h : s.memOk = true) (o) : outcomeOk (execVcompr o s) := by
  unfold execVcompr
  exact (outcomeOk_next _).mpr (memOk_arith h _ _ _ _ _ _ _ _)

theorem outcomeOk_execVexpnd {s : State} (h : s.memOk = true) (o) : outcomeOk (execVexpnd o s) := by
  unfold execVexpnd
  exact (outcomeOk_next _).mpr (memOk_arith h _ _ _ _ _ _ _ _)

theorem outcomeOk_execVpcnt {s : State} (h : s.memOk = true) (o) : outcomeOk (execVpcnt o s) := by
  unfold execVpcnt
  exact (outcomeOk_next _).mpr (memOk_arith h _ _ _ _ _ _ _ _)

theorem outcomeOk_execVmask {s : State} (h : s.memOk = true) (o) : outcomeOk (execVmask o s) := by
  unfold execVmask
  exact (outcomeOk_next _).mpr (memOk_arith h _ _ _ _ _ _ _ _)

theorem outcomeOk_execCvt {s : State} (h : s.memOk = true) (o) : outcomeOk (execCvt o s) := by
  unfold execCvt
  refine (outcomeOk_next _).mpr (memOk_pureFire h fun u f o pr hu => ?_)
  simp [hu]

theorem outcomeOk_execCvti {s : State} (h : s.memOk = true) (o) : outcomeOk (execCvti o s) := by
  unfold execCvti
  exact (outcomeOk_next _).mpr (memOk_arith h _ _ _ _ _ _ _ _)

theorem outcomeOk_execScaleg {s : State} (h : s.memOk = true) (o) : outcomeOk (execScaleg o s) := by
  unfold execScaleg
  exact (outcomeOk_next _).mpr (memOk_arith h _ _ _ _ _ _ _ _)

theorem outcomeOk_execScales {s : State} (h : s.memOk = true) (o) : outcomeOk (execScales o s) := by
  unfold execScales
  exact (outcomeOk_next _).mpr (memOk_arith h _ _ _ _ _ _ _ _)

theorem outcomeOk_execFmtchk {s : State} (h : s.memOk = true) (o) : outcomeOk (execFmtchk o s) := by
  unfold execFmtchk
  exact (outcomeOk_next _).mpr (memOk_arith h _ _ _ _ _ _ _ _)

theorem outcomeOk_execPack {s : State} (h : s.memOk = true) (o) : outcomeOk (execPack o s) := by
  unfold execPack
  exact (outcomeOk_next _).mpr (memOk_arith h _ _ _ _ _ _ _ _)

theorem outcomeOk_execUnpack {s : State} (h : s.memOk = true) (o) : outcomeOk (execUnpack o s) := by
  unfold execUnpack
  exact (outcomeOk_next _).mpr (memOk_arith h _ _ _ _ _ _ _ _)

theorem outcomeOk_execRng {s : State} (h : s.memOk = true) (o) : outcomeOk (execRng o s) := by
  unfold execRng
  exact (outcomeOk_next _).mpr (memOk_arith h _ _ _ _ _ _ _ _)

theorem outcomeOk_execLd {s : State} (h : s.memOk = true) (o) : outcomeOk (execLd o s) := by
  unfold execLd
  exact (outcomeOk_next _).mpr (memOk_loadFire h _ _ _ _ _)

theorem outcomeOk_execSt {s : State} (h : s.memOk = true) (o) : outcomeOk (execSt o s) := by
  unfold execSt
  exact (outcomeOk_next _).mpr (memOk_storeFire h _ _ _)

theorem outcomeOk_execLdv {s : State} (h : s.memOk = true) (o) : outcomeOk (execLdv o s) := by
  unfold execLdv
  exact (outcomeOk_next _).mpr (memOk_loadFire h _ _ _ _ _)

theorem outcomeOk_execStv {s : State} (h : s.memOk = true) (o) : outcomeOk (execStv o s) := by
  unfold execStv
  exact (outcomeOk_next _).mpr (memOk_storeFire h _ _ _)

theorem outcomeOk_execGath {s : State} (h : s.memOk = true) (o) : outcomeOk (execGath o s) := by
  unfold execGath
  refine (outcomeOk_next _).mpr (memOk_accessFire h (AccessFiring.keepsForm_of_act rfl (fun _ _ _ _ hv => eq_of_stall hv) fun u f ps hu => ?_))
  simp [hu]

theorem outcomeOk_execScat {s : State} (h : s.memOk = true) (o) : outcomeOk (execScat o s) := by
  unfold execScat
  refine (outcomeOk_next _).mpr (memOk_accessFire h (AccessFiring.keepsForm_of_act rfl (fun _ _ _ _ hv => memOk_of_writeStall hv) fun u f ps hu => ?_))
  simp [hu]

theorem outcomeOk_execMtld {s : State} (h : s.memOk = true) (o) : outcomeOk (execMtld o s) := by
  unfold execMtld
  exact (outcomeOk_next _).mpr (memOk_loadFire h _ _ _ _ _)

theorem outcomeOk_execMtst {s : State} (h : s.memOk = true) (o) : outcomeOk (execMtst o s) := by
  unfold execMtst
  exact (outcomeOk_next _).mpr (memOk_storeFire h _ _ _)

theorem outcomeOk_execStrcfg {s : State} (h : s.memOk = true) (o) : outcomeOk (execStrcfg o s) := by
  unfold execStrcfg
  refine (outcomeOk_next _).mpr (memOk_accessFire h (AccessFiring.keepsForm_of_act rfl (fun _ _ _ _ hv => nomatch hv) fun u f ps hu => ?_))
  simp [hu]

theorem outcomeOk_execAadd {s : State} (h : s.memOk = true) (o) : outcomeOk (execAadd o s) := by
  unfold execAadd
  exact (outcomeOk_next _).mpr (memOk_atomicFire h _ _)

theorem outcomeOk_execAfadd {s : State} (h : s.memOk = true) (o) : outcomeOk (execAfadd o s) := by
  unfold execAfadd
  exact (outcomeOk_next _).mpr (memOk_atomicFire h _ _)

theorem outcomeOk_execAmin {s : State} (h : s.memOk = true) (o) : outcomeOk (execAmin o s) := by
  unfold execAmin
  exact (outcomeOk_next _).mpr (memOk_atomicFire h _ _)

theorem outcomeOk_execAmax {s : State} (h : s.memOk = true) (o) : outcomeOk (execAmax o s) := by
  unfold execAmax
  exact (outcomeOk_next _).mpr (memOk_atomicFire h _ _)

theorem outcomeOk_execAand {s : State} (h : s.memOk = true) (o) : outcomeOk (execAand o s) := by
  unfold execAand
  exact (outcomeOk_next _).mpr (memOk_atomicFire h _ _)

theorem outcomeOk_execAor {s : State} (h : s.memOk = true) (o) : outcomeOk (execAor o s) := by
  unfold execAor
  exact (outcomeOk_next _).mpr (memOk_atomicFire h _ _)

theorem outcomeOk_execAxor {s : State} (h : s.memOk = true) (o) : outcomeOk (execAxor o s) := by
  unfold execAxor
  exact (outcomeOk_next _).mpr (memOk_atomicFire h _ _)

theorem outcomeOk_execAxchg {s : State} (h : s.memOk = true) (o) : outcomeOk (execAxchg o s) := by
  unfold execAxchg
  exact (outcomeOk_next _).mpr (memOk_atomicFire h _ _)

theorem outcomeOk_execAcas {s : State} (h : s.memOk = true) (o) : outcomeOk (execAcas o s) := by
  unfold execAcas
  exact (outcomeOk_next _).mpr (memOk_atomicFire h _ _)

theorem outcomeOk_execAtas {s : State} (h : s.memOk = true) (o) : outcomeOk (execAtas o s) := by
  unfold execAtas
  exact (outcomeOk_next _).mpr (memOk_atomicFire h _ _)

theorem outcomeOk_execAtopk {s : State} (h : s.memOk = true) (o) : outcomeOk (execAtopk o s) := by
  unfold execAtopk
  exact (outcomeOk_next _).mpr (memOk_atomicFire h _ _)

theorem outcomeOk_execAincb {s : State} (h : s.memOk = true) (o) : outcomeOk (execAincb o s) := by
  unfold execAincb
  exact (outcomeOk_next _).mpr (memOk_atomicFire h _ _)

theorem outcomeOk_execFence {s : State} (h : s.memOk = true) (o) : outcomeOk (execFence o s) := by
  unfold execFence
  refine (outcomeOk_next _).mpr (memOk_anchorFire h fun u f hu => ?_)
  simp [hu]

theorem outcomeOk_execBar {s : State} (h : s.memOk = true) (o) : outcomeOk (execBar o s) := by
  unfold execBar
  refine (outcomeOk_next _).mpr (memOk_accessFire h (AccessFiring.keepsForm_of_act rfl (fun _ _ _ _ hv => eq_of_stall hv) fun u f ps hu => ?_))
  simp [hu]

theorem outcomeOk_execBarCopy {s : State} (h : s.memOk = true) (o) : outcomeOk (execBarCopy o s) := by
  unfold execBarCopy
  refine (outcomeOk_next _).mpr (memOk_accessFire h (AccessFiring.keepsForm_of_act rfl (fun _ _ _ _ hv => eq_of_stall hv) fun u f ps hu => ?_))
  simp [hu]

theorem outcomeOk_execPermitTake {s : State} (h : s.memOk = true) (o) : outcomeOk (execPermitTake o s) := by
  unfold execPermitTake
  refine (outcomeOk_next _).mpr (memOk_accessFire h (AccessFiring.keepsForm_of_act rfl (fun _ _ _ _ hv => eq_of_stall hv) fun u f ps hu => ?_))
  simp [hu]

theorem outcomeOk_execPermitGive {s : State} (h : s.memOk = true) (o) : outcomeOk (execPermitGive o s) := by
  unfold execPermitGive
  refine (outcomeOk_next _).mpr (memOk_accessFire h (AccessFiring.keepsForm_of_act rfl (fun _ _ _ _ hv => eq_of_stall hv) fun u f ps hu => ?_))
  simp [hu]

theorem outcomeOk_execFutreg {s : State} (h : s.memOk = true) (o) : outcomeOk (execFutreg o s) := by
  unfold execFutreg
  refine (outcomeOk_next _).mpr (memOk_accessFire h (AccessFiring.keepsForm_of_act rfl (fun _ _ _ _ hv => eq_of_stall hv) fun u f ps hu => ?_))
  simp [hu]

theorem outcomeOk_execFutres {s : State} (h : s.memOk = true) (o) : outcomeOk (execFutres o s) := by
  unfold execFutres
  refine (outcomeOk_next _).mpr (memOk_accessFire h (AccessFiring.keepsForm_of_act rfl (fun _ _ _ _ hv => eq_of_stall hv) fun u f ps hu => ?_))
  simp [hu]

theorem outcomeOk_execFutwait {s : State} (h : s.memOk = true) (o) : outcomeOk (execFutwait o s) := by
  unfold execFutwait
  refine (outcomeOk_next _).mpr (memOk_accessFire h (AccessFiring.keepsForm_of_act rfl (fun _ _ _ _ hv => eq_of_stall hv) fun u f ps hu => ?_))
  simp [hu]

theorem outcomeOk_execXcopy {s : State} (h : s.memOk = true) (o) : outcomeOk (execXcopy o s) := by
  unfold execXcopy
  exact (outcomeOk_next _).mpr (memOk_engineFire h _ _)

theorem outcomeOk_execXfill {s : State} (h : s.memOk = true) (o) : outcomeOk (execXfill o s) := by
  unfold execXfill
  exact (outcomeOk_next _).mpr (memOk_engineFire h _ _)

theorem outcomeOk_execXgather {s : State} (h : s.memOk = true) (o) : outcomeOk (execXgather o s) := by
  unfold execXgather
  exact (outcomeOk_next _).mpr (memOk_engineFire h _ _)

theorem outcomeOk_execXcoll {s : State} (h : s.memOk = true) (o) : outcomeOk (execXcoll o s) := by
  unfold execXcoll
  exact (outcomeOk_next _).mpr (memOk_engineFire h _ _)

theorem outcomeOk_execRsplit {s : State} (h : s.memOk = true) (o) : outcomeOk (execRsplit o s) := by
  unfold execRsplit
  exact (outcomeOk_next _).mpr (memOk_rangeFire h _ _ _)

theorem outcomeOk_execRmerge {s : State} (h : s.memOk = true) (o) : outcomeOk (execRmerge o s) := by
  unfold execRmerge
  exact (outcomeOk_next _).mpr (memOk_rangeFire h _ _ _)

theorem outcomeOk_execRcompact {s : State} (h : s.memOk = true) (o) : outcomeOk (execRcompact o s) := by
  unfold execRcompact
  exact (outcomeOk_next _).mpr (memOk_rangeFire h _ _ _)

theorem outcomeOk_execBiasflip {s : State} (h : s.memOk = true) (o) : outcomeOk (execBiasflip o s) := by
  unfold execBiasflip
  exact (outcomeOk_next _).mpr (memOk_rangeFire h _ _ _)

theorem outcomeOk_execRcommit {s : State} (h : s.memOk = true) (o) : outcomeOk (execRcommit o s) := by
  unfold execRcommit
  exact (outcomeOk_next _).mpr (memOk_reportFire h _ _)

theorem outcomeOk_execRretry {s : State} (h : s.memOk = true) (o) : outcomeOk (execRretry o s) := by
  unfold execRretry
  exact (outcomeOk_next _).mpr (memOk_reportFire h _ _)

theorem outcomeOk_execBcommit {s : State} (h : s.memOk = true) (o) : outcomeOk (execBcommit o s) := by
  unfold execBcommit
  refine (outcomeOk_next _).mpr (memOk_taskFire h _ _ fun u f k t hu => ?_)
  simp [hu]

theorem outcomeOk_execBabort {s : State} (h : s.memOk = true) (o) : outcomeOk (execBabort o s) := by
  unfold execBabort
  refine (outcomeOk_next _).mpr (memOk_taskFire h _ _ fun u f k t hu => ?_)
  simp [hu]

theorem outcomeOk_execBundo {s : State} (h : s.memOk = true) (o) : outcomeOk (execBundo o s) := by
  unfold execBundo
  refine (outcomeOk_next _).mpr (memOk_taskFire h _ _ fun u f k t hu => ?_)
  simp [hu]

theorem outcomeOk_execCtload {s : State} (h : s.memOk = true) (o) : outcomeOk (execCtload o s) := by
  unfold execCtload
  refine (outcomeOk_next _).mpr (memOk_wordFire h _ _ _ _ _ fun u f hu => ?_)
  simp [hu]

theorem outcomeOk_execCtq {s : State} (h : s.memOk = true) (o) : outcomeOk (execCtq o s) := by
  unfold execCtq
  refine (outcomeOk_next _).mpr (memOk_anchorFire h fun u f hu => ?_)
  simp [hu]

theorem outcomeOk_execSvc {s : State} (h : s.memOk = true) (o) : outcomeOk (execSvc o s) := by
  unfold execSvc
  exact (outcomeOk_next _).mpr (memOk_callFire h _ _)

theorem outcomeOk_execBrk {s : State} (h : s.memOk = true) (o) : outcomeOk (execBrk o s) := by
  unfold execBrk
  exact (outcomeOk_next _).mpr (memOk_callFire h _ _)

theorem outcomeOk_execTkill {s : State} (h : s.memOk = true) (o) : outcomeOk (execTkill o s) := by
  unfold execTkill
  refine (outcomeOk_next _).mpr (memOk_anchorFire h fun u f hu => ?_)
  simp [hu]

theorem outcomeOk_execCtxsave {s : State} (h : s.memOk = true) (o) : outcomeOk (execCtxsave o s) := by
  unfold execCtxsave
  exact (outcomeOk_next _).mpr (memOk_ctxFire h _ _)

theorem outcomeOk_execCtxload {s : State} (h : s.memOk = true) (o) : outcomeOk (execCtxload o s) := by
  unfold execCtxload
  exact (outcomeOk_next _).mpr (memOk_ctxFire h _ _)

theorem outcomeOk_execShrink {s : State} (h : s.memOk = true) (o) : outcomeOk (execShrink o s) := by
  unfold execShrink
  refine (outcomeOk_next _).mpr (memOk_anchorFire h fun u f hu => ?_)
  simp [hu]

theorem outcomeOk_execHalt {s : State} (h : s.memOk = true) (o) : outcomeOk (execHalt o s) := by
  unfold execHalt
  refine (outcomeOk_next _).mpr (memOk_anchorFire h fun u f hu => ?_)
  simp [hu]

theorem outcomeOk_execIdle {s : State} (h : s.memOk = true) (o) : outcomeOk (execIdle o s) := by
  unfold execIdle
  refine (outcomeOk_next _).mpr (memOk_anchorFire h fun u f hu => ?_)
  simp [hu]

theorem outcomeOk_execRttw {s : State} (h : s.memOk = true) (o) : outcomeOk (execRttw o s) := by
  unfold execRttw
  refine (outcomeOk_next _).mpr (memOk_anchorFire h fun u f hu => ?_)
  simp [hu]

theorem outcomeOk_execRttr {s : State} (h : s.memOk = true) (o) : outcomeOk (execRttr o s) := by
  unfold execRttr
  refine (outcomeOk_next _).mpr (memOk_anchorFire h fun u f hu => ?_)
  simp [hu]

theorem outcomeOk_execRfence {s : State} (h : s.memOk = true) (o) : outcomeOk (execRfence o s) := by
  unfold execRfence
  refine (outcomeOk_next _).mpr (memOk_anchorFire h fun u f hu => ?_)
  simp [hu]

/-! ### The table of instructions, and the step -/

theorem outcomeOk_exec {s : State} (h : s.memOk = true) : ∀ i : Instr, outcomeOk (exec i s)
  | .steer o => outcomeOk_execSteer h o
  | .merge o => outcomeOk_execMerge h o
  | .carry o => outcomeOk_execCarry h o
  | .invar o => outcomeOk_execInvar h o
  | .fanout o => outcomeOk_execFanout h o
  | .drop o => outcomeOk_execDrop h o
  | .ordf o => outcomeOk_execOrdf h o
  | .ordj o => outcomeOk_execOrdj h o
  | .gateCreditFiring o => outcomeOk_execGateCreditFiring h o
  | .gatePassFiring o => outcomeOk_execGatePassFiring h o
  | .countLFiring o => outcomeOk_execCountLFiring h o
  | .countPFiring o => outcomeOk_execCountPFiring h o
  | .repeatCopies o => outcomeOk_execRepeat h o
  | .const o => outcomeOk_execConst h o
  | .exit o => outcomeOk_execExit h o
  | .exitp o => outcomeOk_execExitp h o
  | .exitq o => outcomeOk_execExitq h o
  | .spawn o => outcomeOk_execSpawn h o
  | .retire o => outcomeOk_execRetire h o
  | .launch o => outcomeOk_execLaunch h o
  | .patch o => outcomeOk_execPatch h o
  | .trig o => outcomeOk_execTrig h o
  | .qpush o => outcomeOk_execQpush h o
  | .qpop o => outcomeOk_execQpop h o
  | .crd o => outcomeOk_execCrd h o
  | .cwr o => outcomeOk_execCwr h o
  | .rmark o => outcomeOk_execRmark h o
  | .quiet o => outcomeOk_execQuiet h o
  | .quietEmit e => outcomeOk_execQuietEmit h e
  | .add o => outcomeOk_execAdd h o
  | .sub o => outcomeOk_execSub h o
  | .adds o => outcomeOk_execAdds h o
  | .subs o => outcomeOk_execSubs h o
  | .neg o => outcomeOk_execNeg h o
  | .abs o => outcomeOk_execAbs h o
  | .mul o => outcomeOk_execMul h o
  | .mulh o => outcomeOk_execMulh h o
  | .div o => outcomeOk_execDiv h o
  | .rem o => outcomeOk_execRem h o
  | .min o => outcomeOk_execMin h o
  | .max o => outcomeOk_execMax h o
  | .and o => outcomeOk_execAnd h o
  | .or o => outcomeOk_execOr h o
  | .xor o => outcomeOk_execXor h o
  | .andn o => outcomeOk_execAndn h o
  | .not o => outcomeOk_execNot h o
  | .shl o => outcomeOk_execShl h o
  | .shr o => outcomeOk_execShr h o
  | .sar o => outcomeOk_execSar h o
  | .rotl o => outcomeOk_execRotl h o
  | .clz o => outcomeOk_execClz h o
  | .ctz o => outcomeOk_execCtz h o
  | .popc o => outcomeOk_execPopc h o
  | .cmp o => outcomeOk_execCmp h o
  | .sel o => outcomeOk_execSel h o
  | .trunc o => outcomeOk_execTrunc h o
  | .bfx o => outcomeOk_execBfx h o
  | .bfi o => outcomeOk_execBfi h o
  | .addr o => outcomeOk_execAddr h o
  | .imad o => outcomeOk_execImad h o
  | .bswap o => outcomeOk_execBswap h o
  | .fadd o => outcomeOk_execFadd h o
  | .fsub o => outcomeOk_execFsub h o
  | .fmul o => outcomeOk_execFmul h o
  | .fma o => outcomeOk_execFma h o
  | .fdiv o => outcomeOk_execFdiv h o
  | .fsqrt o => outcomeOk_execFsqrt h o
  | .frcp o => outcomeOk_execFrcp h o
  | .frsq o => outcomeOk_execFrsq h o
  | .fexp2 o => outcomeOk_execFexp2 h o
  | .flog2 o => outcomeOk_execFlog2 h o
  | .fexp o => outcomeOk_execFexp h o
  | .fmin o => outcomeOk_execFmin h o
  | .fmax o => outcomeOk_execFmax h o
  | .fabs o => outcomeOk_execFabs h o
  | .fneg o => outcomeOk_execFneg h o
  | .fcpys o => outcomeOk_execFcpys h o
  | .fcmp o => outcomeOk_execFcmp h o
  | .fclass o => outcomeOk_execFclass h o
  | .frint o => outcomeOk_execFrint h o
  | .fscalb o => outcomeOk_execFscalb h o
  | .ftanh o => outcomeOk_execFtanh h o
  | .fsigm o => outcomeOk_execFsigm h o
  | .vbcast o => outcomeOk_execVbcast h o
  | .vextr o => outcomeOk_execVextr h o
  | .vins o => outcomeOk_execVins h o
  | .vperm o => outcomeOk_execVperm h o
  | .vshuf o => outcomeOk_execVshuf h o
  | .vrot o => outcomeOk_execVrot h o
  | .vslide o => outcomeOk_execVslide h o
  | .vzip o => outcomeOk_execVzip h o
  | .vunzip o => outcomeOk_execVunzip h o
  | .vradd o => outcomeOk_execVradd h o
  | .vrmin o => outcomeOk_execVrmin h o
  | .vrmax o => outcomeOk_execVrmax h o
  | .vrand o => outcomeOk_execVrand h o
  | .vrior o => outcomeOk_execVrior h o
  | .vcompr o => outcomeOk_execVcompr h o
  | .vexpnd o => outcomeOk_execVexpnd h o
  | .vpcnt o => outcomeOk_execVpcnt h o
  | .vmask o => outcomeOk_execVmask h o
  | .cvt o => outcomeOk_execCvt h o
  | .cvti o => outcomeOk_execCvti h o
  | .scaleg o => outcomeOk_execScaleg h o
  | .scales o => outcomeOk_execScales h o
  | .fmtchk o => outcomeOk_execFmtchk h o
  | .ufrd o => outcomeOk_execUfrd h o
  | .pack o => outcomeOk_execPack h o
  | .unpack o => outcomeOk_execUnpack h o
  | .rng o => outcomeOk_execRng h o
  | .mxldbHeaderFiring o => outcomeOk_execMxldbHeaderFiring h o
  | .mxldbPayloadFiring o => outcomeOk_execMxldbPayloadFiring h o
  | .mxrow o => outcomeOk_execMxrow h o
  | .mxrows o => outcomeOk_execMxrows h o
  | .mxdrain o => outcomeOk_execMxdrain h o
  | .mxclr o => outcomeOk_execMxclr h o
  | .mxcfg o => outcomeOk_execMxcfg h o
  | .residueMismatch core tile => outcomeOk_execResidueMismatch h core tile
  | .ld o => outcomeOk_execLd h o
  | .st o => outcomeOk_execSt h o
  | .ldv o => outcomeOk_execLdv h o
  | .stv o => outcomeOk_execStv h o
  | .gath o => outcomeOk_execGath h o
  | .scat o => outcomeOk_execScat h o
  | .mtld o => outcomeOk_execMtld h o
  | .mtst o => outcomeOk_execMtst h o
  | .strcfg o => outcomeOk_execStrcfg h o
  | .strgo o => outcomeOk_execStrgo h o
  | .strgoWrite o => outcomeOk_execStrgoWrite h o
  | .pref o => outcomeOk_execPref h o
  | .aadd o => outcomeOk_execAadd h o
  | .afadd o => outcomeOk_execAfadd h o
  | .amin o => outcomeOk_execAmin h o
  | .amax o => outcomeOk_execAmax h o
  | .aand o => outcomeOk_execAand h o
  | .aor o => outcomeOk_execAor h o
  | .axor o => outcomeOk_execAxor h o
  | .axchg o => outcomeOk_execAxchg h o
  | .acas o => outcomeOk_execAcas h o
  | .atas o => outcomeOk_execAtas h o
  | .atopk o => outcomeOk_execAtopk h o
  | .aincb o => outcomeOk_execAincb h o
  | .atomicPerform id => outcomeOk_execAtomicPerform h id
  | .memoryAccessServe id => outcomeOk_execMemoryAccessServe h id
  | .fence o => outcomeOk_execFence h o
  | .bar o => outcomeOk_execBar h o
  | .barCopy o => outcomeOk_execBarCopy h o
  | .permitTake o => outcomeOk_execPermitTake h o
  | .permitGive o => outcomeOk_execPermitGive h o
  | .futreg o => outcomeOk_execFutreg h o
  | .futres o => outcomeOk_execFutres h o
  | .futwait o => outcomeOk_execFutwait h o
  | .xcopy o => outcomeOk_execXcopy h o
  | .xfill o => outcomeOk_execXfill h o
  | .xgather o => outcomeOk_execXgather h o
  | .xcoll o => outcomeOk_execXcoll h o
  | .engineCompletion id => outcomeOk_execEngineCompletion h id
  | .rsplit o => outcomeOk_execRsplit h o
  | .rmerge o => outcomeOk_execRmerge h o
  | .rcompact o => outcomeOk_execRcompact h o
  | .biasflip o => outcomeOk_execBiasflip h o
  | .rangeCommandComplete part => outcomeOk_execRangeCommandComplete h part
  | .rloop o => outcomeOk_execRloop h o
  | .rsv o => outcomeOk_execRsv h o
  | .rsvDone o => outcomeOk_execRsvDone h o
  | .rchk o => outcomeOk_execRchk h o
  | .rcommit o => outcomeOk_execRcommit h o
  | .rretry o => outcomeOk_execRretry h o
  | .rldone o => outcomeOk_execRldone h o
  | .reservePhaseClose core loop => outcomeOk_execReservePhaseClose h core loop
  | .commitPhaseClose core loop => outcomeOk_execCommitPhaseClose h core loop
  | .btask o => outcomeOk_execBtask h o
  | .bop o => outcomeOk_execBop h o
  | .bcommit o => outcomeOk_execBcommit h o
  | .babort o => outcomeOk_execBabort h o
  | .bundo o => outcomeOk_execBundo h o
  | .bstat o => outcomeOk_execBstat h o
  | .ctload o => outcomeOk_execCtload h o
  | .ctq o => outcomeOk_execCtq h o
  | .ctabInstall part aseq => outcomeOk_execCtabInstall h part aseq
  | .svc o => outcomeOk_execSvc h o
  | .brk o => outcomeOk_execBrk h o
  | .csrr o => outcomeOk_execCsrr h o
  | .csrw o => outcomeOk_execCsrw h o
  | .tfetch o => outcomeOk_execTfetch h o
  | .reinj o => outcomeOk_execReinj h o
  | .tkill o => outcomeOk_execTkill h o
  | .ctxsave o => outcomeOk_execCtxsave h o
  | .ctxload o => outcomeOk_execCtxload h o
  | .shrink o => outcomeOk_execShrink h o
  | .halt o => outcomeOk_execHalt h o
  | .idle o => outcomeOk_execIdle h o
  | .rttw o => outcomeOk_execRttw h o
  | .rttr o => outcomeOk_execRttr h o
  | .rinv o => outcomeOk_execRinv h o
  | .rfence o => outcomeOk_execRfence h o
  | .extensionOpcode ix o => outcomeOk_execExtensionOpcode h ix o
  | .resultEmit e => outcomeOk_execResultEmit h e
  | .tokenHop bank arc hop => outcomeOk_execTokenHop h bank arc hop
  | .antiTokenHop bank arc => outcomeOk_execAntiTokenHop h bank arc
  | .cancelledFiring e => outcomeOk_execCancelledFiring h e
  | .markerInject lk core => outcomeOk_execMarkerInject h lk core
  | .markerForward u => outcomeOk_execMarkerForward h u
  | .unitApply lk core slice => outcomeOk_execUnitApply h lk core slice
  | .remoteUnitApply peer core => outcomeOk_execRemoteUnitApply h peer core
  | .hostCxlAccess a => outcomeOk_execHostCxlAccess h a
  | .entryReaderPop bank => outcomeOk_execEntryReaderPop h bank
  | .scarabDecide core tile => outcomeOk_execScarabDecide h core tile
  | .loadClose lk => outcomeOk_execLoadClose h lk
  | .reconfigToken lk core => outcomeOk_execReconfigToken h lk core
  | .graphRetire lk => outcomeOk_execGraphRetire h lk
  | .decide part => outcomeOk_execDecide h part
  | .shrinkCut lk => outcomeOk_execShrinkCut h lk
  | .contextParityError e second => outcomeOk_execContextParityError h e second
  | .timingErrorDetect e second => outcomeOk_execTimingErrorDetect h e second
  | .marginTrimStep core step => outcomeOk_execMarginTrimStep h core step
  | .faultRecordEnqueue core => outcomeOk_execFaultRecordEnqueue h core
  | .rangeWalk core => outcomeOk_execRangeWalk h core
  | .debugSetBreakpoint e image b => outcomeOk_execDebugSetBreakpoint h e image b
  | .traceModeOff part => outcomeOk_execTraceModeOff h part
  | .traceModeRecord part => outcomeOk_execTraceModeRecord h part
  | .traceModeBind part => outcomeOk_execTraceModeBind h part
  | .rndPeriodWrite lk value => outcomeOk_execRndPeriodWrite h lk value
  | .exactModeSet part => outcomeOk_execExactModeSet h part
  | .directoryLock part => outcomeOk_execDirectoryLock h part
  | .rdirCntWrite part value => outcomeOk_execRdirCntWrite h part value
  | .registerWrite part index value => outcomeOk_execRegisterWrite h part index value
  | .partCores c => outcomeOk_execPartCores h c
  | .partMem c => outcomeOk_execPartMem h c
  | .partClr c => outcomeOk_execPartClr h c
  | .partReg c => outcomeOk_execPartReg h c
  | .hndStart c => outcomeOk_execHndStart h c
  | .dmaWin c => outcomeOk_execDmaWin h c
  | .peerSet c => outcomeOk_execPeerSet h c
  | .grpSet c => outcomeOk_execGrpSet h c
  | .fenceClr c => outcomeOk_execFenceClr h c
  | .resume c => outcomeOk_execResume h c
  | .dieReset c => outcomeOk_execDieReset h c
  | .dieWritebackDone die => outcomeOk_execDieWritebackDone h die
  | .dieRetrainStart die => outcomeOk_execDieRetrainStart h die
  | .dieRetrainDone die => outcomeOk_execDieRetrainDone h die
  | .errorReply id => outcomeOk_execErrorReply h id
  | .vfBind c => outcomeOk_execVfBind h c
  | .rateSet c => outcomeOk_execRateSet h c
  | .hostHalt c => outcomeOk_execHostHalt h c
  | .vfLaunchDoorbell vf queue addr => outcomeOk_execVfLaunchDoorbell h vf queue addr
  | .bootGo value => outcomeOk_execBootGo h value
  | .bootVerifyDone => outcomeOk_execBootVerifyDone h
  | .coldBoot => outcomeOk_execColdBoot h
  | .getMeasurements => outcomeOk_execGetMeasurements h
  | .flitReceive port flit => outcomeOk_execFlitReceive h port flit
  | .flitReplay port => outcomeOk_execFlitReplay h port
  | .thermalClamp level => outcomeOk_execThermalClamp h level
  | .mgmtCoreReset => outcomeOk_execMgmtCoreReset h
  | .patrolScrub u => outcomeOk_execPatrolScrub h u
  | .engineWriteStage id => outcomeOk_execEngineWriteStage h id
  | .hostCxlReply id => outcomeOk_execHostCxlReply h id

/-- What the agenda hands out is in form. -/
def fetchOk : Fetch → Prop
  | .run _ t => t.memOk = true
  | .done t => t.memOk = true
  | .empty => True

theorem memOk_ringPop {s t : State} {c : HostCommand} (h : s.memOk = true) (hp : s.ringPop = some (c, t)) : t.memOk = true := by
  unfold State.ringPop at hp
  dsimp only at hp
  split at hp
  · cases hp
  · cases hp
    exact h

theorem fetchOk_fetchSite {s : State} (h : s.memOk = true) (e : Site) : fetchOk (s.fetchSite e) := by
  unfold State.fetchSite
  split
  · exact h
  split
  · trivial
  · exact h

theorem fetchOk_fetchRing {s : State} (h : s.memOk = true) : fetchOk s.fetchRing := by
  unfold State.fetchRing
  split
  · exact h
  next c t hp =>
    have ht : t.memOk = true := memOk_ringPop h hp
    split
    · exact (memOk_unknownCommand t c).trans ht
    · exact ht

theorem fetchOk_nextAction {s : State} (h : s.memOk = true) : fetchOk s.nextAction := by
  unfold State.nextAction
  split
  · exact (memOk_openFc s).trans h
  next a rest _ =>
    have hr : ({ s with agenda := rest } : State).memOk = true := h
    cases a with
    | fire e => exact fetchOk_fetchSite hr e
    | ev i => exact hr
    | choose => exact (memOk_chooseBanks _).trans hr
    | doorbell tail => exact (memOk_ringDoorbell _ tail).trans hr
    | bootWrite a b => exact (memOk_bootByte _ a b).trans hr
    | ringWrite i c => exact (memOk_ringEntry _ i c).trans hr
    | hostWrite a b => exact memOk_hostByte hr a b
    | eccError sp line => exact hr
    | ringRead => exact fetchOk_fetchRing hr

/-- Settles O60: a step takes the head of the agenda, whose state is in form, and runs an instruction of the table, each of whose arms keeps the form; the only
primitives that write a memory are `memWrite` and what is made of it, and the restored cuts of memory tiles were in form themselves. -/
theorem everyStepKeepsTheFormOfMemory : Obligations.EveryStepKeepsTheFormOfMemory := by
  intro s t hs hstep
  have hf := fetchOk_nextAction hs
  unfold step at hstep
  split at hstep
  next i u hu =>
    rw [hu] at hf
    exact (outcomeOk_next t).mp (hstep ▸ outcomeOk_exec hf i)
  next u hu =>
    rw [hu] at hf
    cases hstep
    exact hf
  · cases hstep

end Sys2Proof.Machine

/-! PROOFS. Logic, shifts and the counts of bits (07 R170 R172): the firing of a computing instruction of one typed operand, the value of an instruction on
codes, and what CLZ, CTZ, POPC and BSWAP count. -/

namespace Sys2Proof.Machine

/-! ### Values and firings of one typed operand -/

theorem codeAt_lt (f : Fmt) (t : Token) (j : Nat) : (codeAt f t j).1 < 2 ^ f.width := by
  unfold codeAt
  split
  · exact Nat.two_pow_pos _
  · exact Nat.mod_lt _ (Nat.two_pow_pos _)

/-- The value of a lane-wise instruction of one typed operand that keeps L's lanes where PM switches them off. -/
theorem un_value {s : State} {o : OpA} {u : Bool} {cls : List Ty} {f : Fmt} {l : Token} {pr : Predicate} (hp : Single s o u cls f l) (fOut : Fmt → Fmt)
    (val : Fmt → Token → Nat → Lane) :
    un o u cls (s.operands (withPm o.fl needL)) pr fOut true val =
      .ok (copies (fOut f) o.v (keptLanes f o.v pr l (val f l)), foldFlags (keptLanes f o.v pr l (val f l))) := by
  obtain ⟨hl, hf, ht⟩ := hp
  unfold un
  simp only [hl, hf, ht, if_true]
  rfl

/-- The value of an integer instruction of one typed operand, from its operation on the code. -/
theorem intUn_value {s : State} {o : OpA} {u : Bool} {cls : List Ty} {f : Fmt} {l : Token} {pr : Predicate} (hp : Single s o u cls f l) {op : Nat} {g : Nat → Nat}
    (hg : ∀ a, a < 2 ^ f.width → intUn op f a = ⟨g a, 0⟩) :
    intUnValue op u cls o (s.operands (withPm o.fl needL)) pr =
      .ok (copies f o.v (keptLanes f o.v pr l (fun j => ⟨g (codeAt f l j).1, (codeAt f l j).2⟩)),
        foldFlags (keptLanes f o.v pr l (fun j => ⟨g (codeAt f l j).1, (codeAt f l j).2⟩))) := by
  have hlane : (fun j => (⟨(intUn op f (codeAt f l j).1).code, (intUn op f (codeAt f l j).1).flags ||| (codeAt f l j).2⟩ : Lane)) =
      fun j => ⟨g (codeAt f l j).1, (codeAt f l j).2⟩ := by
    funext j
    simp [hg _ (codeAt_lt f l j)]
  unfold intUnValue
  rw [un_value hp id]
  simp only [hlane, id]

/-- A COMPUTING INSTRUCTION ON ONE OPERAND emits the lanes of its value in format g. -/
theorem single_emits {s : State} {o : OpA} {u : Bool} {pr : Predicate} {value : Operands → Predicate → Value} {lat : Nat} {early} {g : Fmt} {ls : List Lane} {fl : Nat}
    (hr : s.Runs o.fl o.v needL pr) (hv : value (s.operands (withPm o.fl needL)) pr = .ok (copies g o.v ls, fl)) :
    Emits s (.next (s.arith o u lat false false o.v value early)) (takes o.fl (withPm o.fl needL)) lat (copies g o.v ls) fl :=
  arith_emits s o u lat false false o.v value early pr _ _ hr hv (List.cons_ne_nil _ _) rfl

/-- The value of an integer instruction of two typed operands, from its operation on their codes. -/
theorem codeBin_value {s : State} {o : OpA} {u : Bool} {cls : List Ty} {f : Fmt} {l r : Token} {pr : Predicate} (hp : Pair s o u cls f l r) {op : Nat} {g : Nat → Nat → Nat}
    (hg : ∀ a b, intBin op f a b = ⟨g (a % 2 ^ f.width) (b % 2 ^ f.width), 0⟩) :
    intBinValue op u cls o (s.operands (withPm o.fl { l := true, r := !o.i })) pr =
      .ok (copies f o.v (keptLanes f o.v pr l (codeLane f l r g)), foldFlags (keptLanes f o.v pr l (codeLane f l r g))) := by
  have hlane : (fun j => (⟨(intBin op f (codeAt f l j).1 (codeAt f r j).1).code,
      (intBin op f (codeAt f l j).1 (codeAt f r j).1).flags ||| (codeAt f l j).2 ||| (codeAt f r j).2⟩ : Lane)) = codeLane f l r g := by
    funext j
    simp [codeLane, hg]
  unfold intBinValue
  rw [bin_value s o u cls f l r pr hp id _ rfl]
  simp only [hlane, id]

/-! ### The operations on codes -/

/-- The complement within w bits. -/
theorem xor_ones {w a : Nat} (h : a < 2 ^ w) : a ^^^ (2 ^ w - 1) = 2 ^ w - 1 - a := by
  refine Nat.eq_of_testBit_eq fun i => ?_
  rw [show 2 ^ w - 1 - a = 2 ^ w - (a + 1) by omega, Nat.testBit_two_pow_sub_succ h, Nat.testBit_xor, Nat.testBit_two_pow_sub_one]
  by_cases hi : i < w
  · simp [hi]
  · simp [hi, Nat.testBit_lt_two_pow (Nat.lt_of_lt_of_le h (Nat.pow_le_pow_right Nat.two_pos (Nat.le_of_not_lt hi)))]

theorem mod_pow_lt (a w : Nat) : a % 2 ^ w < 2 ^ w := Nat.mod_lt _ (Nat.two_pow_pos _)

theorem intBin_shl (f : Fmt) (a b : Nat) :
    intBin 0x31 f a b = ⟨if b % 2 ^ f.width < f.width then a % 2 ^ f.width * 2 ^ (b % 2 ^ f.width) % 2 ^ f.width else 0, 0⟩ := by
  by_cases hc : b % 2 ^ f.width < f.width
  · simp [intBin, hc, Nat.not_le.mpr hc, Nat.shiftLeft_eq]
  · simp [intBin, hc, Nat.not_lt.mp hc]

theorem intBin_shr (f : Fmt) (a b : Nat) :
    intBin 0x32 f a b = ⟨if b % 2 ^ f.width < f.width then a % 2 ^ f.width / 2 ^ (b % 2 ^ f.width) else 0, 0⟩ := by
  by_cases hc : b % 2 ^ f.width < f.width
  · simp [intBin, hc, Nat.not_le.mpr hc, Nat.shiftRight_eq_div_pow]
  · simp [intBin, hc, Nat.not_lt.mp hc]

theorem intBin_sar (f : Fmt) (a b : Nat) :
    intBin 0x33 f a b = ⟨ofInt f.width (toSigned f.width (a % 2 ^ f.width) / 2 ^ min (b % 2 ^ f.width) f.width), 0⟩ := by
  simp [intBin]

/-! ### Counts of bits -/

theorem clzW_spec {w a : Nat} (h : a < 2 ^ w) :
    clzW w a ≤ w ∧ (∀ k, w - clzW w a ≤ k → a.testBit k = false) ∧ (a ≠ 0 → a.testBit (w - 1 - clzW w a) = true) ∧ (a = 0 → clzW w a = w) := by
  by_cases h0 : a = 0
  · simp [clzW, h0]
  · have hlog : a.log2 < w := (Nat.log2_lt h0).mpr h
    have hclz : clzW w a = w - 1 - a.log2 := by simp [clzW, lg, Nat.mod_eq_of_lt h, h0]
    refine ⟨by omega, fun k hk => ?_, fun _ => ?_, fun h => absurd h h0⟩
    · exact Nat.testBit_lt_two_pow ((Nat.log2_lt h0).mp (by omega))
    · rw [show w - 1 - clzW w a = a.log2 by omega]
      exact Nat.testBit_log2 h0

theorem ctzGo_spec {w a : Nat} (h : a < 2 ^ w) :
    (∀ k, k < ctzGo w a → a.testBit k = false) ∧ (a ≠ 0 → a.testBit (ctzGo w a) = true) ∧ (a = 0 → ctzGo w a = w) := by
  induction w generalizing a with
  | zero =>
    have h0 : a = 0 := by simpa using h
    simp [ctzGo, h0]
  | succ w ih =>
    unfold ctzGo
    by_cases hodd : a % 2 = 1
    · have hne : a ≠ 0 := by omega
      simp [hodd, hne, Nat.testBit_zero]
    · obtain ⟨hlow, hbit, hzero⟩ := ih (a := a / 2) (by omega)
      simp only [hodd, if_false]
      refine ⟨fun k hk => ?_, fun hne => ?_, fun h0 => ?_⟩
      · cases k with
        | zero => simpa [Nat.testBit_zero] using hodd
        | succ k => exact (Nat.testBit_succ a k).trans (hlow k (by omega))
      · rw [Nat.add_comm, Nat.testBit_succ]
        exact hbit (by omega)
      · rw [hzero (by omega), Nat.add_comm]

theorem popW_eq (w a : Nat) : popW w a = ((List.range w).filter (fun k => a.testBit k)).length := by
  induction w generalizing a with
  | zero => rfl
  | succ w ih =>
    rw [popW, ih, List.range_succ_eq_map, List.filter_cons, List.filter_map, Nat.testBit_zero]
    have hsucc : ((fun k => a.testBit k) ∘ Nat.succ) = fun k => (a / 2).testBit k := funext fun k => Nat.testBit_succ a k
    rw [hsucc]
    have hmod := Nat.mod_two_eq_zero_or_one a
    rcases hmod with hm | hm <;> simp [hm, Nat.add_comm]

/-- Reversing n bytes of c onto acc: byte i below n is byte n - 1 - i of c, and acc stands above. -/
theorem bswapW_byte (n c acc i : Nat) :
    bswapW n c acc / 256 ^ i % 256 = if i < n then c / 256 ^ (n - 1 - i) % 256 else acc / 256 ^ (i - n) % 256 := by
  induction n generalizing c acc with
  | zero => simp [bswapW]
  | succ n ih =>
    rw [bswapW, ih]
    by_cases hi : i < n
    · have hstep : c / 256 / 256 ^ (n - 1 - i) = c / 256 ^ (n - i) := by
        rw [Nat.div_div_eq_div_mul, ← Nat.pow_succ', show (n - 1 - i).succ = n - i by omega]
      simp [hi, hstep, Nat.lt_succ_of_lt hi]
    · by_cases hn : i = n
      · simp [hn, Nat.mul_add_mod_self_right]
      · have hle : ¬ i < n + 1 := by omega
        have hsplit : 256 ^ (i - n) = 256 * 256 ^ (i - (n + 1)) := by
          rw [← Nat.pow_succ', show (i - (n + 1)).succ = i - n by omega]
        have hdiv : (acc * 256 + c % 256) / 256 = acc := by omega
        simp only [hi, hle, if_false]
        rw [hsplit, ← Nat.div_div_eq_div_mul, hdiv]

/-- Settles O2: two operands by the operation on their codes, one operand by the operation on the code, and the counts by what each is of the bits. -/
theorem logicShiftAndBitResults : Obligations.LogicShiftAndBitResults := by
  unfold Obligations.LogicShiftAndBitResults
  refine ⟨fun s o f l pr => ⟨fun r hr => ⟨?logic, ?shift⟩, fun hr => ⟨?sign, fun hp => ?not⟩⟩, fun f _ => ?bits⟩
  case logic =>
    simp only [List.forall_mem_cons]
    refine ⟨?and, ?or, ?xor, ?andn, fun _ h => nomatch h⟩
    case and => exact fun hp => pair_emits hr (codeBin_value (op := 0x2C) hp fun _ _ => rfl)
    case or => exact fun hp => pair_emits hr (codeBin_value (op := 0x2D) hp fun _ _ => rfl)
    case xor => exact fun hp => pair_emits hr (codeBin_value (op := 0x2E) hp fun _ _ => rfl)
    case andn => exact fun hp => pair_emits hr (codeBin_value (op := 0x2F) hp fun a b => by simp [intBin, xor_ones (mod_pow_lt b f.width)])
  case shift =>
    simp only [List.forall_mem_cons]
    refine ⟨?shl, ?shr, ?sar, ?rotl, fun _ h => nomatch h⟩
    case shl => exact fun hp => pair_emits hr (codeBin_value (op := 0x31) hp (intBin_shl f))
    case shr => exact fun hp => pair_emits hr (codeBin_value (op := 0x32) hp (intBin_shr f))
    case sar => exact fun hp => pair_emits hr (codeBin_value (op := 0x33) hp (intBin_sar f))
    case rotl => exact fun hp => pair_emits hr (codeBin_value (op := 0x34) hp fun _ _ => rfl)
  case sign =>
    simp only [List.forall_mem_cons]
    refine ⟨?neg, ?abs, fun _ h => nomatch h⟩
    case neg => exact fun hp => single_emits hr (intUn_value (op := 0x24) (g := fun a => ofInt f.width (-intOf f a)) hp fun _ _ => rfl)
    case abs => exact fun hp => single_emits hr (intUn_value (op := 0x25) (g := fun a => ofInt f.width (if intOf f a < 0 then -intOf f a else intOf f a)) hp fun _ _ => rfl)
  case not =>
    exact single_emits hr (intUn_value (op := 0x30) (g := fun a => 2 ^ f.width - 1 - a % 2 ^ f.width) hp fun a ha => by simp [intUn, xor_ones (mod_pow_lt a f.width)])
  case bits =>
    refine ⟨clzW f.width, ctzGo f.width, popW f.width, fun a => bswapW (f.width / 8) a 0, fun a ha => ⟨clzW_spec ha, ctzGo_spec ha, popW_eq _ a, fun _ i hi => ?_⟩,
      fun s o l pr hr hp => ?_⟩
    · simp [bswapW_byte, hi]
    · have hreduced : ∀ a, a < 2 ^ f.width → a % 2 ^ f.width = a := fun a ha => Nat.mod_eq_of_lt ha
      simp only [List.forall_mem_cons]
      refine ⟨?clz, ?ctz, ?popc, ?bswap, fun _ h => nomatch h⟩
      case clz => exact single_emits hr (intUn_value (op := 0x35) (g := fun a => clzW f.width (a % 2 ^ f.width)) hp fun a ha => by simp [intUn, hreduced a ha])
      case ctz => exact single_emits hr (intUn_value (op := 0x36) (g := fun a => ctzGo f.width (a % 2 ^ f.width)) hp fun a ha => by simp [intUn, hreduced a ha])
      case popc => exact single_emits hr (intUn_value (op := 0x37) (g := fun a => popW f.width (a % 2 ^ f.width)) hp fun a ha => by simp [intUn, hreduced a ha])
      case bswap => exact single_emits hr (intUn_value (op := 0x3F) (g := fun a => bswapW (f.width / 8) (a % 2 ^ f.width) 0) hp fun a ha => by simp [intUn, hreduced a ha])

end Sys2Proof.Machine

/-! PROOFS. Fields and addresses (07 R175 R176) and IMAD (07 R170). -/

namespace Sys2Proof.Machine

/-- Lanes that set no flag set none together. -/
theorem foldFlags_eq_zero {ls : List Lane} (h : ∀ x ∈ ls, x.flags = 0) : foldFlags ls = 0 :=
  List.foldlRecOn ls _ (motive := fun a => a = 0) rfl fun a ha x hx => by rw [ha, h x hx]; rfl

theorem flags_of_keptLanes {f : Fmt} {v : Bool} {pr : Predicate} {l : Token} {val : Nat → Lane} (h : ∀ j, (val j).flags = 0) :
    foldFlags (keptLanes f v pr l val) = 0 := by
  refine foldFlags_eq_zero fun x hx => ?_
  obtain ⟨j, -, rfl⟩ := List.mem_map.mp hx
  split
  · exact h j
  · rfl

theorem copies_quiet (g : Fmt) (v : Bool) {ls : List Lane} (h : foldFlags ls = 0) : (.ok (copies g v ls, foldFlags ls) : Value) = .ok (copies g v ls, 0) := by
  rw [h]

/-! ### TRUNC -/

/-- The lanes of a truncation of f to g. -/
def truncLanes (f g : Fmt) (v : Bool) (pr : Predicate) (l : Token) : List Lane :=
  (List.range (lanesOf g v)).map (fun j => if pr.lane j ∧ j < lanesOf f v then ⟨(codeAt f l j).1 % 2 ^ g.width, 0⟩ else (⟨0, 0⟩ : Lane))

theorem flags_of_truncLanes (f g : Fmt) (v : Bool) (pr : Predicate) (l : Token) : foldFlags (truncLanes f g v pr l) = 0 := by
  refine foldFlags_eq_zero fun x hx => ?_
  obtain ⟨j, -, rfl⟩ := List.mem_map.mp hx
  split <;> rfl

/-- The type that rm names for the result of TRUNC (07 R175). -/
def truncTy (rm : Nat) : Ty :=
  match rm with
  | 0 => .i32
  | 1 => .i16
  | 2 => .i8
  | _ => .int4

theorem trunc_value {s : State} {o : OpA} {f g : Fmt} {l : Token} {pr : Predicate} (hp : Single s o o.u [.i64, .i32, .i16, .i8, .int4] f l)
    (hg : fmtOf (truncTy o.rm) (if o.ty = .tf then !f.signed else o.u) = some g) (hw : g.width < f.width) :
    truncValue o (s.operands (withPm o.fl needL)) pr = .ok (copies g o.v (truncLanes f g o.v pr l), 0) := by
  obtain ⟨hl, hf, ht⟩ := hp
  have hlanes : laneWise g o.v (lanesOf g o.v) pr (fun j => if j < lanesOf f o.v then ⟨(codeAt f l j).1 % 2 ^ g.width, 0⟩ else ⟨0, 0⟩) (fun _ => 0) =
      .ok (copies g o.v (truncLanes f g o.v pr l), 0) := by
    refine Eq.trans ?_ (copies_quiet g o.v (flags_of_truncLanes f g o.v pr l))
    have hmap : (List.range (lanesOf g o.v)).map (fun j => if pr.lane j then (if j < lanesOf f o.v then ⟨(codeAt f l j).1 % 2 ^ g.width, 0⟩ else ⟨0, 0⟩) else (⟨0, 0⟩ : Lane)) =
        (List.range (lanesOf g o.v)).map (fun j => if pr.lane j ∧ j < lanesOf f o.v then ⟨(codeAt f l j).1 % 2 ^ g.width, 0⟩ else ⟨0, 0⟩) :=
      List.map_congr_left fun j _ => by cases pr.lane j <;> simp
    unfold laneWise truncLanes
    simp only [hmap]
    rfl
  have hwide : ¬ f.width ≤ g.width := Nat.not_le.mpr hw
  unfold truncTy at hg
  unfold truncValue
  split at hg
  all_goals
    next hrm =>
      cases hg
      simp only [hl, hf, ht, hrm, hwide, Bool.not_true, Bool.false_eq_true, decide_false, Bool.or_self, if_false]
      exact hlanes

/-! ### BFX and BFI -/

theorem bfx_value {s : State} {o : OpA} {f : Fmt} {l : Token} {pr : Predicate} (hp : Single s o o.u intCls f l)
    (hfit : o.imm.toNat % 64 + (o.imm.toNat / 64 % 64 + 1) ≤ f.width) :
    bfxValue o (s.operands (withPm o.fl needL)) pr =
      un o o.u intCls (s.operands (withPm o.fl needL)) pr id true (fun f l j =>
        let a := codeAt f l j
        let c := bitsAt a.1 (o.imm.toNat % 64) (o.imm.toNat / 64 % 64 + 1)
        ⟨if (if o.ty = .tf then f.signed else !o.u) then ofInt f.width (toSigned (o.imm.toNat / 64 % 64 + 1) c) else c, a.2⟩) := by
  unfold bfxValue
  simp only [hp.left, Option.bind_some, hp.fmt, Nat.not_lt.mpr hfit, if_false]

theorem bfi_value {s : State} {o : OpA} {f : Fmt} {l r : Token} {pr : Predicate} (hp : Pair s o false intCls f l r)
    (hfit : o.imm.toNat % 64 + (o.imm.toNat / 64 % 64 + 1) ≤ f.width) :
    bfiValue o (s.operands (withPm o.fl { l := true, r := !o.i })) pr =
      bin o false intCls (s.operands (withPm o.fl { l := true, r := !o.i })) pr id (fun f l r j =>
        let a := codeAt f l j
        let b := codeAt f r j
        ⟨a.1 - bitsAt a.1 (o.imm.toNat % 64) (o.imm.toNat / 64 % 64 + 1) * 2 ^ (o.imm.toNat % 64) +
          b.1 % 2 ^ (o.imm.toNat / 64 % 64 + 1) * 2 ^ (o.imm.toNat % 64), a.2 ||| b.2⟩) := by
  unfold bfiValue
  simp only [hp.left, Option.bind_some, hp.fmt, Nat.not_lt.mpr hfit, if_false]

/-! ### ADDR -/

theorem width_of_tyAccepts {ty : Ty} {t : Token} {g : Fmt} (h : tyAccepts ty t = true) (hg : t.fmt = some g) : g.width = ty.width := by
  unfold tyAccepts at h
  simp only [hg, Option.any_some, beq_iff_eq] at h
  simp [Fmt.width, h]

/-- Lane j of ADDR in L's format g: R by its sign, times the scale. -/
def addrLane (g : Fmt) (u : Bool) (sc : Int) (l r : Token) (j : Nat) : Lane :=
  ⟨ofInt 64 ((codeAt g l j).1 + (if u then ((codeAt g r j).1 : Int) else toSigned 64 (codeAt g r j).1) * sc), 0⟩

theorem addr_value {s : State} {o : OpA} {f g : Fmt} {l r : Token} {pr : Predicate} (hp : Pair s o o.u [.i64] f l r) (hty : o.ty = .i64) (hg : l.fmt = some g)
    {sc : Int} (hsc : o.rm = 0 ∧ sc = 1 ∨ o.rm = 1 ∧ sc = 4 ∨ o.rm = 2 ∧ sc = 8 ∨ o.rm = 3 ∧ sc = 64) :
    addrValue o (s.operands (withPm o.fl { l := true, r := !o.i })) pr =
      .ok (copies g o.v (keptLanes g o.v pr l (addrLane g o.u sc l r)), 0) := by
  obtain ⟨hl, hf, hsecond, htl, htr⟩ := hp
  have hf64 : f = if o.u then .z64 else .i64 := by
    unfold formatOf at hf
    simp only [hty, reduceCtorEq, if_false] at hf
    exact (Option.some.inj hf).symm
  have htf : (o.ty == .tf) = false := by simp [hty]
  have hdata : ∀ t, typed o l o.v t = dataOk .i64 o.v t := fun t => by simp [typed, dataOk, hty]
  rw [hdata] at htl htr
  rw [hf64, htf, Bool.false_and, Bool.or_false] at hsecond
  have haccepts : tyAccepts .i64 l = true := by
    simp only [dataOk, Bool.and_eq_true] at htl
    exact htl.1.1
  have hw : g.width = 64 := (width_of_tyAccepts haccepts hg).trans rfl
  have hlanes : laneWise g o.v (lanesOf g o.v) pr (addrLane g o.u sc l r) (fun j => laneOf l.pay 64 j) = .ok (copies g o.v (keptLanes g o.v pr l (addrLane g o.u sc l r)), 0) := by
    refine Eq.trans ?_ (copies_quiet g o.v (flags_of_keptLanes fun _ => rfl))
    unfold keptLanes
    rw [hw]
    rfl
  unfold addrValue
  rcases hsc with ⟨hrm, rfl⟩ | ⟨hrm, rfl⟩ | ⟨hrm, rfl⟩ | ⟨hrm, rfl⟩
  all_goals
    simp only [hl, hsecond, htl, htr, hg, hrm, Bool.and_self, Bool.not_true, Bool.false_eq_true, if_false]
    exact hlanes

/-! ### IMAD -/

theorem imad_value {s : State} {o : OpA} {l p : Token} {need : Slots} {pr : Predicate} (hl : (s.operands need).l = some l) (hp : (s.operands need).p = some p)
    (htag : p.tag = l.tag) (hv : p.v = o.v) (hs : scaleOk p = true) :
    imadValue o (s.operands need) pr = bin o o.u intCls (s.operands need) pr id (fun f l r j =>
      let a := codeAt f l j
      let b := codeAt f r j
      let c := codeAt f p j
      ⟨ofInt f.width (intOf f a.1 * intOf f b.1 + intOf f c.1), a.2 ||| b.2 ||| c.2⟩) := by
  unfold imadValue
  simp [hl, hp, htag, hv, hs]

/-- The value of a lane-wise instruction that reads P beside its typed pair. -/
theorem bin_value_of_three {s : State} {o : OpA} {u : Bool} {cls : List Ty} {f : Fmt} {l r : Token} {pr : Predicate} (hp : Pair s o u cls f l r)
    (val : Fmt → Token → Token → Nat → Lane) :
    bin o u cls (s.operands { l := true, r := !o.i, p := true }) pr id val =
      .ok (copies f o.v (keptLanes f o.v pr l (val f l r)), foldFlags (keptLanes f o.v pr l (val f l r))) := by
  obtain ⟨hl, hf, hsecond, htl, htr⟩ := hp
  have hl' : (s.operands { l := true, r := !o.i, p := true }).l = some l := hl
  have hsecond' : secondOf o (u || (o.ty == .tf && !f.signed)) f (s.operands { l := true, r := !o.i, p := true }).r = some r := hsecond
  unfold bin
  simp only [hl', hf, hsecond', htl, htr, Bool.and_self, if_true, id]
  rfl

/-- A firing under a scalar P that the instruction reads itself needs no slot more. -/
theorem withPm_none {fl : Flags} (h : fl.pm = .none) (need : Slots) : withPm fl need = need := by
  simp [withPm, h]

/-- Settles O4: each value is that of the lane-wise scheme on the operands that it checks first. -/
theorem fieldAndAddressResults : Obligations.FieldAndAddressResults := by
  unfold Obligations.FieldAndAddressResults
  intro s o f l r p pr pos len
  refine ⟨fun hr hp g hg hw => single_emits hr (trunc_value hp hg hw), fun hr hp hfit => single_emits hr ((bfx_value hp hfit).trans (un_value hp id _)),
    fun hr hp hi hfit => ?bfi, fun hr hp hty sc g hg hsc => ?addr, fun need hneed hpm hr hp hP htag hv hs => ?imad⟩
  case bfi =>
    have hneed : needLR = { l := true, r := !o.i } := by simp [hi, needLR]
    have hvalue := (bfi_value hp hfit).trans (bin_value s o false intCls f l r pr hp id _ rfl)
    rw [← hneed] at hvalue
    exact arith_emits s o false 1 true false o.v (bfiValue o) _ pr _ _ hr hvalue (List.cons_ne_nil _ _) rfl
  case addr =>
    exact arith_emits s o o.u 1 (!o.i) false o.v (addrValue o) _ pr _ _ hr (addr_value hp hty hg hsc) (List.cons_ne_nil _ _) rfl
  case imad =>
    subst hneed
    have hneed := withPm_none hpm { l := true, r := !o.i, p := true }
    have hl : (s.operands { l := true, r := !o.i, p := true }).l = some l := hp.left
    have hvalue := (imad_value hl hP htag hv hs).trans (bin_value_of_three (pr := .run true 0) hp _)
    have hemits := arith_emits s o o.u 3 (!o.i) true o.v (imadValue o) (fun _ => none) (.run true 0) _ _ hr (hneed.symm ▸ hvalue) (List.cons_ne_nil _ _) rfl
    rw [hneed] at hemits
    exact hemits

end Sys2Proof.Machine

/-! PROOFS. Floating-point arithmetic (07 R177 R178 R181): the lanes of each instruction on effective values. -/

namespace Sys2Proof.Machine

theorem keptLanes_getD {f : Fmt} {v : Bool} {pr : Predicate} {l : Token} {val : Nat → Lane} {j : Nat} (hj : j < lanesOf f v) (d : Lane) :
    (keptLanes f v pr l val).getD j d = if pr.lane j then val j else ⟨laneOf l.pay f.width j, 0⟩ := by
  simp [keptLanes, hj]

theorem keptLanes_length (f : Fmt) (v : Bool) (pr : Predicate) (l : Token) (val : Nat → Lane) : (keptLanes f v pr l val).length = lanesOf f v := by
  simp [keptLanes]

/-- The value of a floating-point instruction of two operands, from its operation on a lane of each. -/
theorem floatBin_value {s : State} {o : OpA} {f : Fmt} {l r : Token} {pr : Predicate} (hp : Pair s o false fltCls f l r) {op : Nat} {val : Nat → Lane}
    (hv : ∀ j, floatBin op f o.rm (valueAt f l j) (valueAt f r j) = val j) :
    floatBinValue op o (s.operands (withPm o.fl { l := true, r := !o.i })) pr =
      .ok (copies f o.v (keptLanes f o.v pr l val), foldFlags (keptLanes f o.v pr l val)) := by
  unfold floatBinValue
  rw [bin_value s o false fltCls f l r pr hp id _ rfl]
  simp only [hv, id]

/-- The value of a floating-point instruction of one operand, from its operation on a lane. -/
theorem floatUn_value {s : State} {o : OpA} {f : Fmt} {l : Token} {pr : Predicate} (hp : Single s o false fltCls f l) {op : Nat} {val : Nat → Lane}
    (hv : ∀ j, floatUn op f o.rm (valueAt f l j) = val j) :
    floatUnValue op o (s.operands (withPm o.fl needL)) pr = .ok (copies f o.v (keptLanes f o.v pr l val), foldFlags (keptLanes f o.v pr l val)) := by
  unfold floatUnValue
  rw [un_value hp id]
  simp only [hv, id]

/-- An operation on exact values rounds its result once (07 R177). -/
theorem exact_emits {s : State} {o : OpA} {f : Fmt} {l r : Token} {pr : Predicate} {op lat : Nat} {g : Exact → Exact → Exact × Nat} {early}
    (hr : s.Runs o.fl o.v { l := true, r := !o.i } pr) (hp : Pair s o false fltCls f l r)
    (hg : ∀ a b : Exact × Nat, floatBin op f o.rm a b = encLane (g a.1 b.1).1 f o.rm ((g a.1 b.1).2 ||| (a.2 ||| b.2))) :
    Emits s (.next (s.arith o false lat (!o.i) false o.v (floatBinValue op o) early)) (takes o.fl (withPm o.fl { l := true, r := !o.i })) lat
      (copies f o.v (keptLanes f o.v pr l (exactLane f o.rm g l r))) (foldFlags (keptLanes f o.v pr l (exactLane f o.rm g l r))) :=
  pair_emits hr (floatBin_value hp fun _ => hg _ _)

theorem fma_value {s : State} {o : OpA} {f : Fmt} {l r p : Token} {pr : Predicate} (hp : Pair s o false fltCls f l r)
    (hP : (s.operands { l := true, r := !o.i, p := true }).p = some p) (htag : p.tag = l.tag) (hv : p.v = o.v) :
    fmaValue o (s.operands { l := true, r := !o.i, p := true }) pr =
      .ok (copies f o.v (keptLanes f o.v pr l fun j => fmaLane f o.rm (valueAt f l j) (valueAt f r j) (valueAt f p j)),
        foldFlags (keptLanes f o.v pr l fun j => fmaLane f o.rm (valueAt f l j) (valueAt f r j) (valueAt f p j))) := by
  have hl : (s.operands { l := true, r := !o.i, p := true }).l = some l := hp.left
  unfold fmaValue
  simp only [hl, hP, htag, hv, ne_eq, not_true_eq_false, or_self, if_false]
  exact bin_value_of_three hp _

theorem frint_lane {f : Fmt} {mode : Nat} {a : Exact × Nat} {n : Bool} {m : Nat} {e : Int} {b : Bool} (h : a.1 = .fin n m e b) :
    floatUn 0x52 f mode a = encLane (.fin n (roundMag mode n m (-e) b).1 0 false) f mode ((if (roundMag mode n m (-e) b).2 then flagNX else 0) ||| a.2) := by
  unfold floatUn
  simp only [h]

theorem scalb_value {o : OpA} {f : Fmt} {l r : Token} {pr : Predicate} {x : Operands} (hl : x.l = some l)
    (hf : formatOf o false fltCls l = some f) (ht : typed o l o.v l = true)
    (hr : (if o.i then some (immTok (if f = .f32 then .i32 else .i16) false o.v o.imm) else x.r) = some r)
    (hok : (o.i || dataOk (if f = .f32 then Fmt.i32 else .i16).ty o.v r) = true) {val : Nat → Lane}
    (hv : ∀ j, val j = encLane ((valueAt f l j).1.scale (if o.i then o.imm.toInt else
      toSigned (if f = .f32 then Fmt.i32 else .i16).width (codeAt (if f = .f32 then .i32 else .i16) r j).1)) f o.rm
        ((valueAt f l j).2 ||| (codeAt (if f = .f32 then .i32 else .i16) r j).2)) :
    scalbValue o x pr = .ok (copies f o.v (keptLanes f o.v pr l val), foldFlags (keptLanes f o.v pr l val)) := by
  unfold scalbValue
  simp only [hl, hf, ht, hr, hok, Bool.and_self, if_true, funext hv]
  rfl

/-- Settles O5: each lane is one rounding of an exact operation on effective values. -/
theorem floatArithmeticResults : Obligations.FloatArithmeticResults := by
  unfold Obligations.FloatArithmeticResults
  intro s o f l r p pr
  refine ⟨?arith, fun need hneed hpm hr hp hP htag hv => ?fma, fun hr hp => ⟨?sqrt, ?frint⟩, fun g hg hr hl hf ht hsecond hok => ?scalb⟩
  case arith =>
    simp only [List.forall_mem_cons]
    refine ⟨?add, ?sub, ?mul, ?div, fun _ h => nomatch h⟩
    case add => exact fun hr hp => exact_emits (op := 0x40) hr hp fun _ _ => rfl
    case sub => exact fun hr hp => exact_emits (op := 0x41) hr hp fun _ _ => rfl
    case mul => exact fun hr hp => exact_emits (op := 0x42) hr hp fun _ _ => rfl
    case div => exact fun hr hp => exact_emits (op := 0x44) hr hp fun _ _ => rfl
  case fma =>
    subst hneed
    have hneed := withPm_none hpm { l := true, r := !o.i, p := true }
    have hemits := arith_emits s o false 4 (!o.i) true o.v (fmaValue o) (fun _ => none) (.run true 0) _ _ hr
      (hneed.symm ▸ fma_value (pr := .run true 0) hp hP htag hv) (List.cons_ne_nil _ _) rfl
    rw [hneed] at hemits
    exact hemits
  case sqrt => exact single_emits hr (floatUn_value (op := 0x45) hp fun _ => rfl)
  case frint =>
    refine ⟨_, fun j hj hon n m e b hfin => ?_, single_emits hr (floatUn_value (op := 0x52) hp fun _ => rfl)⟩
    rw [keptLanes_getD hj, hon, if_pos rfl, frint_lane hfin]
  case scalb =>
    subst hg
    exact arith_emits s o false 4 (!o.i) false o.v (scalbValue o) (fun _ => none) pr _ _ hr (scalb_value hl hf ht hsecond hok fun _ => rfl) (List.cons_ne_nil _ _) rfl

end Sys2Proof.Machine

/-! PROOFS. Minimum and maximum, the sign instructions, comparison and classification (07 R179 R180). -/

namespace Sys2Proof.Machine

/-! ### FMIN and FMAX -/

/-- Lane j of FMIN or FMAX as R179 says it. -/
def minMaxSpec (isMax : Bool) (f : Fmt) (a b : Exact × Nat) : Lane :=
  if a.1.isNan ∧ b.1.isNan then ⟨f.params.nan, a.2 ||| b.2⟩
  else if a.1.isNan ∨ ¬ b.1.isNan ∧ a.1.lt true b.1 = isMax then encLane b.1 f 0 (a.2 ||| b.2)
  else encLane a.1 f 0 (a.2 ||| b.2)

theorem minMaxLane_eq (isMax : Bool) (f : Fmt) (a b : Exact × Nat) : minMaxLane isMax f a b = minMaxSpec isMax f a b := by
  unfold minMaxLane minMaxSpec
  cases a.1.isNan with
  | true => cases b.1.isNan <;> simp
  | false =>
    cases b.1.isNan with
    | true => simp
    | false => by_cases hlt : a.1.lt true b.1 = isMax <;> simp [hlt]

/-! ### FCMP -/

/-- The test of FCMP that sub names (07 R180). -/
def fcmpTest (sub : Nat) (a b : Exact) : Bool :=
  match sub with
  | 0 => !(a.isNan || b.isNan) && !a.lt false b && !b.lt false a
  | 1 => a.lt false b
  | 2 => !(a.isNan || b.isNan) && !b.lt false a
  | _ => a.isNan || b.isNan

theorem fcmpLane_fst (sub : Nat) (a b : Exact × Nat) : (fcmpLane sub a b).1 = fcmpTest sub a.1 b.1 := by
  unfold fcmpLane fcmpTest
  split <;> simp only [*]

/-- The ordered tests signal a NaN. -/
theorem fcmpLane_snd (sub : Nat) (a b : Exact × Nat) :
    (fcmpLane sub a b).2 = if (a.1.isNan || b.1.isNan) && (sub == 1 || sub == 2) then a.2 ||| b.2 ||| flagNV else a.2 ||| b.2 := by
  unfold fcmpLane
  split
  · simp
  · simp
  · simp
  next h1 h2 h3 =>
    have h1' : (sub == 1) = false := beq_false_of_ne h2
    have h2' : (sub == 2) = false := beq_false_of_ne h3
    simp [h1', h2']

/-- The flags of lane j of FCMP. -/
def fcmpFlags (sub : Nat) (a b : Exact × Nat) : Nat :=
  if (a.1.isNan || b.1.isNan) && (sub == 1 || sub == 2) then a.2 ||| b.2 ||| flagNV else a.2 ||| b.2

/-- The lanes of FCMP. -/
def fcmpLanes (o : OpA) (f : Fmt) (pr : Predicate) (l r : Token) : List Lane :=
  zeroLanes f o.v pr fun j => ⟨if fcmpTest o.sub (valueAt f l j).1 (valueAt f r j).1 then 1 else 0, fcmpFlags o.sub (valueAt f l j) (valueAt f r j)⟩

/-- The immediate of a floating-point type is a BF16 value whatever U is (05 R109). -/
theorem secondOf_float {o : OpA} {f : Fmt} {l : Token} (hf : formatOf o false fltCls l = some f) (r : Option Token) :
    secondOf o (false || (o.ty == .tf && !f.signed)) f r = secondOf o false f r := by
  by_cases htf : o.ty = .tf
  · unfold formatOf at hf
    rw [if_pos htf] at hf
    obtain ⟨g, -, hg⟩ := Option.bind_eq_some_iff.mp hf
    have hfloat : f.isFloat = true := by
      split at hg
      next hcls =>
        cases hg
        cases f <;> revert hcls <;> decide
      next => cases hg
    simp [secondOf, immTok, hfloat]
  · simp [beq_false_of_ne htf]

theorem fcmp_value {s : State} {o : OpA} {f : Fmt} {l r : Token} {pr : Predicate} (hp : Pair s o false fltCls f l r) :
    fcmpValue o (s.operands (withPm o.fl { l := true, r := !o.i })) pr = .ok (copies .pred o.v (fcmpLanes o f pr l r), foldFlags (fcmpLanes o f pr l r)) := by
  obtain ⟨hl, hf, hsecond, htl, htr⟩ := hp
  rw [secondOf_float hf] at hsecond
  unfold fcmpValue
  simp only [hl, hf, hsecond, htl, htr, Bool.and_self, if_true, fcmpLane_fst, fcmpLane_snd]
  rfl

/-! ### FABS, FNEG and FCPYS -/

/-- A result keeps L's scale, 127 where L's is the reserved one. -/
def keptScale (l : Token) : BitVec 8 := if l.scale = 255 then 127 else l.scale

theorem rescale_copies (f : Fmt) (v : Bool) (l : Token) (ls : List Lane) (fl : Nat) :
    rescale (some l) (.ok (copies f v ls, fl)) = .ok (fork (mkTok f v (keptScale l) (ls.map Lane.code)), fl) := rfl

/-- A sign instruction of one operand, from the sign it gives to a code. -/
theorem sign_value {s : State} {o : OpA} {f : Fmt} {l : Token} {pr : Predicate} (hp : Single s o false fltCls f l) {neg : Bool} {sgn : Nat → Bool}
    (hsgn : ∀ c, (neg && !bitAt c (f.width - 1)) = sgn c) :
    signValue neg o (s.operands (withPm o.fl needL)) pr =
      .ok (fork (mkTok f o.v (keptScale l) ((keptLanes f o.v pr l fun j =>
          signLane f l.scale.toNat (laneOf l.pay f.width j) (sgn (laneOf l.pay f.width j))).map Lane.code)),
        foldFlags (keptLanes f o.v pr l fun j => signLane f l.scale.toNat (laneOf l.pay f.width j) (sgn (laneOf l.pay f.width j)))) := by
  unfold signValue
  rw [hp.left, un_value hp id]
  simp only [hsgn]
  exact rescale_copies f o.v l _ _

theorem cpys_value {s : State} {o : OpA} {f : Fmt} {l r : Token} {pr : Predicate} (hp : Pair s o false fltCls f l r) :
    cpysValue o (s.operands (withPm o.fl { l := true, r := !o.i })) pr =
      .ok (fork (mkTok f o.v (keptScale l) ((keptLanes f o.v pr l fun j =>
          signLane f l.scale.toNat (laneOf l.pay f.width j) (bitAt (laneOf r.pay f.width j) (f.width - 1))).map Lane.code)),
        foldFlags (keptLanes f o.v pr l fun j => signLane f l.scale.toNat (laneOf l.pay f.width j) (bitAt (laneOf r.pay f.width j) (f.width - 1)))) := by
  unfold cpysValue
  rw [hp.left, bin_value s o false fltCls f l r pr hp id _ rfl]
  exact rescale_copies f o.v l _ _

/-- A lane under a new sign, as R179 says it. -/
theorem signLane_eq (f : Fmt) (l : Token) (c : Nat) (sgn : Bool) : signLane f l.scale.toNat c sgn =
    if l.scale = 255 then ⟨f.params.nan, flagNV⟩
    else if (codeValue f c).1.isNan then ⟨f.params.nan, (codeValue f c).2⟩
    else ⟨c % 2 ^ (f.params.mb + f.params.eb) + (if sgn then 2 ^ (f.params.mb + f.params.eb) else 0), 0⟩ := by
  have hscale : l.scale.toNat = 255 ↔ l.scale = 255 := (BitVec.toNat_inj (x := l.scale) (y := 255))
  unfold signLane
  simp only [hscale]

/-! ### FCLASS -/

/-- The value of a lane-wise instruction of one typed operand whose lanes are 0 where PM switches them off. -/
theorem un_value_zero {s : State} {o : OpA} {u : Bool} {cls : List Ty} {f : Fmt} {l : Token} {pr : Predicate} (hp : Single s o u cls f l) (fOut : Fmt → Fmt)
    (val : Fmt → Token → Nat → Lane) :
    un o u cls (s.operands (withPm o.fl needL)) pr fOut false val =
      .ok (copies (fOut f) o.v (zeroLanes f o.v pr (val f l)), foldFlags (zeroLanes f o.v pr (val f l))) := by
  obtain ⟨hl, hf, ht⟩ := hp
  unfold un
  simp only [hl, hf, ht, if_true]
  rfl

/-- Settles O6: FMIN, FMAX and FCMP by their lane, the sign instructions by the sign that each gives. -/
theorem floatSignAndOrderResults : Obligations.FloatSignAndOrderResults := by
  unfold Obligations.FloatSignAndOrderResults
  intro s o f l r pr
  refine ⟨fun hr hp => ⟨?minmax, ?fcmp, ?fcpys⟩, fun hr hp => ⟨?sign, ?fclass⟩⟩
  case minmax =>
    simp only [List.forall_mem_cons]
    refine ⟨?min, ?max, fun _ h => nomatch h⟩
    case min => exact pair_emits hr (floatBin_value (op := 0x4B) hp fun _ => minMaxLane_eq false f _ _)
    case max => exact pair_emits hr (floatBin_value (op := 0x4C) hp fun _ => minMaxLane_eq true f _ _)
  case fcmp => exact pair_emits hr (fcmp_value hp)
  case fcpys =>
    simp only [← signLane_eq]
    exact arith_emits s o false 1 (!o.i) false o.v (cpysValue o) (fun _ => none) pr _ _ hr (cpys_value hp) (List.cons_ne_nil _ _) rfl
  case sign =>
    simp only [List.forall_mem_cons, ← signLane_eq]
    refine ⟨?fabs, ?fneg, fun _ h => nomatch h⟩
    case fabs =>
      exact arith_emits s o false 1 false false o.v (signValue false o) (fun _ => none) pr _ _ hr (sign_value (sgn := fun _ => false) hp fun _ => rfl) (List.cons_ne_nil _ _) rfl
    case fneg =>
      exact arith_emits s o false 1 false false o.v (signValue true o) (fun _ => none) pr _ _ hr (sign_value (sgn := fun c => !bitAt c (f.width - 1)) hp fun _ => rfl) (List.cons_ne_nil _ _) rfl
  case fclass => exact single_emits hr (un_value_zero hp classFmt _)

end Sys2Proof.Machine

/-! PROOFS. The approximations (07 R182): an operand type outside the class of R182 refutes the statement, which asks for no well-formed word. -/

namespace Sys2Proof.Machine

/-- Two accounts of one firing agree on whether it stages flags. -/
theorem Emits.flags_eq_zero {s : State} {answer : Host.Outcome State Fault Refusal} {take take' : Slots} {lat lat' : Nat} {outs outs' : List (Nat × Token)} {fl : Nat}
    (h : Emits s answer take lat outs 0) (h' : Emits s answer take' lat' outs' fl) : fl = 0 := by
  obtain ⟨t, ht, hf⟩ := h
  obtain ⟨t', ht', hf'⟩ := h'
  have hsame : t = t' := Host.Outcome.next.inj (ht.symm.trans ht')
  subst hsame
  refine Decidable.byContradiction (fun hne => ?_)
  simpa [hne] using hf.flags.symm.trans hf'.flags

/-- FSIGM of the type KF4 at index 0 of bank 0. -/
def kf4Sigmoid : OpA := { ty := .kf4 }

/-- A zero of KF4 on its L. -/
def kf4Zero : Token := scalarTok .kf4 0

/-- The state in which it stands ready. -/
def kf4State : State :=
  { State.reset with banks := [(0, { st := 1, lk := 1, elems := [(0, { l := { latch := some kf4Zero } })] })] }

theorem kf4State_runs : kf4State.Runs kf4Sigmoid.fl kf4Sigmoid.v needL (.run true 0) where
  can := ⟨by decide +kernel, by decide +kernel, by decide +kernel, by decide +kernel⟩
  clean := by decide +kernel
  run := ⟨true, 0, rfl, by decide +kernel⟩

theorem kf4State_single : Single kf4State kf4Sigmoid false fltCls .kf4 kf4Zero := ⟨by decide +kernel, by decide +kernel, by decide +kernel⟩

/-- One half lies below the normal range of KF4, so the approximation sets UF (04 R83). -/
theorem sigmoid_of_kf4_zero : floatUn 0x55 .kf4 0 (valueAt .kf4 kf4Zero 0) = ⟨1, flagUF⟩ := by decide +kernel

/-- Refutes O7: FSIGM of the type KF4 on a zero. Its value one half is a subnormal of KF4, exact, and the lane sets UF, where the statement gives it no flag.
The loader refuses KF4 for FSIGM (07 R182); the statement asks for no well-formed word. -/
theorem not_approximationResults : ¬ Obligations.ApproximationResults := by
  unfold Obligations.ApproximationResults
  intro h
  have hsig := h kf4State kf4Sigmoid .kf4 kf4Zero (.run true 0) kf4State_runs kf4State_single
  simp only [List.forall_mem_cons] at hsig
  obtain ⟨-, -, -, -, -, -, ⟨ls, hlen, hgives, -, hemits⟩, -⟩ := hsig
  have hlane : ls.getD 0 ⟨0, 0⟩ = ⟨1, 0⟩ :=
    ((hgives 0 (by decide) rfl).1 false (-1) false (by decide +kernel)).trans (by decide +kernel)
  have hls : ls = [⟨1, 0⟩] := by
    obtain ⟨x, rfl⟩ := List.length_eq_one_iff.mp (hlen.trans (by decide))
    simpa using hlane
  subst hls
  have hmodel := single_emits (u := false) (lat := 6) (early := fun _ => none) kf4State_runs
    (floatUn_value (op := 0x55) (pr := .run true 0) kf4State_single fun _ => rfl)
  have hflags := Emits.flags_eq_zero hemits hmodel
  exact absurd hflags (by decide +kernel)

end Sys2Proof.Machine

/-! PROOFS. The lane moves (07 R183 R184): the operands that each checks, and the lane that each result lane comes from. -/

namespace Sys2Proof.Machine

/-! ### Operands and firings -/

/-- A COMPUTING INSTRUCTION THAT GIVES ONE CLEAN TOKEN emits it on both targets. -/
theorem token_emits {s : State} {o : OpA} {u : Bool} {pr : Predicate} {r p vres : Bool} {value : Operands → Predicate → Value} {lat : Nat} {early} {tok : Token} {fl : Nat}
    (hr : s.Runs o.fl o.v { l := true, r := r, p := p } pr) (hv : value (s.operands (withPm o.fl { l := true, r := r, p := p })) pr = .ok (fork tok, fl))
    (ht : tok.poison = false) :
    Emits s (.next (s.arith o u lat r p vres value early)) (takes o.fl (withPm o.fl { l := true, r := r, p := p })) lat (fork tok) fl :=
  arith_emits s o u lat r p vres value early pr _ _ hr hv (List.cons_ne_nil _ _) (by simp [fork, ht])

theorem token_emits_L {s : State} {o : OpA} {u vres : Bool} {pr : Predicate} {value : Operands → Predicate → Value} {lat : Nat} {early} {tok : Token} {fl : Nat}
    (hr : s.Runs o.fl o.v needL pr) (hv : value (s.operands (withPm o.fl needL)) pr = .ok (fork tok, fl)) (ht : tok.poison = false) :
    Emits s (.next (s.arith o u lat false false vres value early)) (takes o.fl (withPm o.fl needL)) lat (fork tok) fl :=
  token_emits hr hv ht

theorem token_emits_LR {s : State} {o : OpA} {u vres : Bool} {pr : Predicate} {value : Operands → Predicate → Value} {lat : Nat} {early} {tok : Token} {fl : Nat}
    (hr : s.Runs o.fl o.v needLR pr) (hv : value (s.operands (withPm o.fl needLR)) pr = .ok (fork tok, fl)) (ht : tok.poison = false) :
    Emits s (.next (s.arith o u lat true false vres value early)) (takes o.fl (withPm o.fl needLR)) lat (fork tok) fl :=
  token_emits hr hv ht

theorem vecL_eq {s : State} {o : OpA} {need : Slots} {cls : List Ty} {f : Fmt} {l : Token} (h : VecL s o need cls f l) (k : Fmt → Token → Value) :
    vecL o cls (s.operands (withPm o.fl need)) k = k f l := by
  obtain ⟨hl, hcls, hf, ht⟩ := h
  obtain ⟨g, hg⟩ := Option.isSome_iff_exists.mp hcls
  unfold vecL
  simp only [hl, hg, hf, ht, if_true]

/-- The second vector operand: R of L's tag and scale. -/
structure SecondVec (l r : Token) : Prop where
  tag : r.tag = l.tag
  v : r.v = true
  scaleOk : scaleOk r = true
  scale : l.scale = r.scale

theorem vecLR_eq {s : State} {o : OpA} {need : Slots} {cls : List Ty} {f : Fmt} {l r : Token} (h : VecL s o need cls f l)
    (hr : (s.operands (withPm o.fl need)).r = some r) (h2 : SecondVec l r) (k : Fmt → Token → Token → Value) :
    vecLR o cls (s.operands (withPm o.fl need)) k = k f l r := by
  obtain ⟨htag, hv, hok, hscale⟩ := h2
  have hfmt : r.fmt = some f := by rw [← h.fmt, Token.fmt, Token.fmt, htag]
  have htyped : typed o l true r = true := by
    have htl := h.typeL
    unfold typed at htl ⊢
    simp only [Bool.and_eq_true] at htl ⊢
    obtain ⟨⟨hty, -⟩, -⟩ := htl
    refine ⟨⟨?_, by simp [hv]⟩, hok⟩
    split
    · simp [htag]
    next htf =>
      rw [if_neg htf] at hty
      simpa [tyAccepts, hfmt, h.fmt] using hty
  unfold vecLR
  rw [vecL_eq h]
  simp [hr, htyped, hscale, hfmt]

theorem scalarP_eq {pr : Predicate} (h : ∀ bits, pr ≠ .run false bits) (x : Operands) (k : Value) : scalarP pr x k = k := by
  unfold scalarP
  split
  · exact absurd rfl (h _)
  all_goals rfl

/-! ### VEXTR and VROT: the lane k that the immediate or R names -/

/-- The lane k that a lane instruction names (07 R183), and the flags of reading it. -/
def NamesLane (s : State) (o : OpA) (n k fl : Nat) (r : Token) : Prop :=
  o.i = true ∧ k = o.imm.toNat ∧ k < n ∧ fl = 0 ∨
    o.i = false ∧ (s.operands (withPm o.fl { l := true, r := !o.i })).r = some r ∧ isW32 r = true ∧ k = r.low32 % n ∧ fl = r.numFlags

theorem vextr_value {s : State} {o : OpA} {f : Fmt} {l r : Token} {pr : Predicate} {k fl : Nat} (h : VecL s o { l := true, r := !o.i } anyCls f l)
    (hk : NamesLane s o f.lanes k fl r) (hs : ∀ bits, pr ≠ .run false bits) :
    vextrValue o (s.operands (withPm o.fl { l := true, r := !o.i })) pr = .ok (fork (mkTok f false l.scale [laneOf l.pay f.width k]), fl) := by
  unfold vextrValue
  rw [scalarP_eq hs, vecL_eq h]
  rcases hk with ⟨hi, rfl, hlt, rfl⟩ | ⟨hi, hr, hw, rfl, rfl⟩
  · simp [hi, hlt, one]
  · rw [hi] at hr
    simp only [hi, Bool.not_false, Bool.false_eq_true, if_false] at hr ⊢
    simp [hr, hw, one]

theorem vrot_value {s : State} {o : OpA} {f : Fmt} {l r : Token} {pr : Predicate} {k fl : Nat} (h : VecL s o { l := true, r := !o.i } anyCls f l)
    (hk : NamesLane s o f.lanes k fl r) :
    vrotValue o (s.operands (withPm o.fl { l := true, r := !o.i })) pr = .ok (fork (movedTok f true l fun j =>
      if pr.lane j then laneOf l.pay f.width ((j + k) % f.lanes) else laneOf l.pay f.width j), fl) := by
  unfold vrotValue
  rw [vecL_eq h]
  rcases hk with ⟨hi, rfl, hlt, rfl⟩ | ⟨hi, hr, hw, rfl, rfl⟩
  · simp only [hi, hlt, if_true]
    rfl
  · rw [hi] at hr
    simp only [hi, Bool.not_false, Bool.false_eq_true, if_false] at hr ⊢
    simp only [hr, hw, if_true]
    rfl

/-! ### VPCNT -/

theorem popW_low (n a : Nat) : popW n (a % 2 ^ n) = ((List.range n).filter (fun j => bitAt a j)).length := by
  rw [popW_eq]
  refine congrArg List.length (List.filter_congr fun j hj => ?_)
  rw [Nat.testBit_mod_two_pow, bitAt]
  simp [List.mem_range.mp hj]

/-- Settles O8: each lane move checks its operands and gives the lanes that R183 names. -/
theorem laneMoveResults : Obligations.LaneMoveResults := by
  unfold Obligations.LaneMoveResults
  intro s o f l r pr n lane pair kept two gives
  refine ⟨fun hr hl hf ht => ?vbcast, fun hr h k fl hk => ⟨fun hs => ?vextr, ?vrot⟩,
    fun hr hR => ⟨fun h hs => ⟨fun htag hscale hv hlt => ?vins, fun hp hv => ⟨?vcompr, ?vexpnd⟩⟩, fun h hb => ?vperm, fun h ⟨htag, hv, hok, hscale⟩ => ?two⟩,
    fun p need hneed hpm hr h hR hP ⟨htag, hv, hok, hscale⟩ hb => ?vshuf, fun hr hs hl => ⟨fun hp hv => ?vpcnt, fun hw => ?vmask⟩⟩
  case vbcast =>
    refine token_emits_L hr ?_ rfl
    unfold vbcastValue
    simp only [hl, hf, ht, if_true]
    rfl
  case vextr => exact token_emits hr (vextr_value h hk hs) rfl
  case vrot => exact token_emits hr (vrot_value h hk) rfl
  case vins =>
    refine token_emits_LR hr ?_ rfl
    unfold vinsValue
    rw [scalarP_eq hs, vecL_eq h]
    have hfit : ¬ f.lanes ≤ o.imm.toNat := Nat.not_le.mpr hlt
    simp only [hR, htag, hscale, hv, ne_eq, not_true_eq_false, Bool.false_eq_true, false_or, ge_iff_le, hfit, if_false]
    rfl
  case vcompr =>
    refine token_emits_LR hr ?_ rfl
    unfold vcomprValue
    rw [scalarP_eq hs, vecL_eq h]
    simp only [hR, hp, hv, Bool.and_self, if_true]
    rfl
  case vexpnd =>
    refine token_emits_LR hr ?_ rfl
    unfold vexpndValue
    rw [scalarP_eq hs, vecL_eq h]
    simp only [hR, hp, hv, Bool.and_self, if_true]
    rfl
  case vperm =>
    refine token_emits_LR hr ?_ rfl
    unfold vpermValue
    rw [vecL_eq h]
    simp only [hR, hb, if_true]
    rfl
  case two =>
    have h2 : SecondVec l r := ⟨htag, hv, hok, hscale⟩
    refine ⟨fun hle => token_emits_LR hr ?slide rfl, token_emits_LR hr ?zip rfl, token_emits_LR hr ?unzip rfl⟩
    case slide =>
      unfold vslideValue
      rw [vecLR_eq h hR h2, if_neg (Nat.not_lt.mpr hle)]
      rfl
    case zip =>
      unfold vzipValue
      rw [vecLR_eq h hR h2]
      simp only [kept, lane, apply_ite Token.pay]
      rfl
    case unzip =>
      unfold vunzipValue
      rw [vecLR_eq h hR h2]
      rfl
  case vshuf =>
    subst hneed
    have hslots := withPm_none hpm { l := true, r := true, p := true }
    refine token_emits (value := fun x _ => vshufValue o x) hr ?_ rfl
    unfold vshufValue
    rw [vecLR_eq h (hslots.symm ▸ hR) ⟨htag, hv, hok, hscale⟩, hslots]
    simp only [hP, hb, if_true]
    rfl
  case vpcnt =>
    refine token_emits_L (value := vpcntValue) hr ?_ rfl
    unfold vpcntValue
    rw [scalarP_eq hs]
    simp only [hl, hp, hv, Bool.and_self, if_true, popW_low]
    rfl
  case vmask =>
    refine token_emits_L hr ?_ rfl
    unfold vmaskValue
    rw [scalarP_eq hs]
    simp only [hl, hw, if_true]
    rfl

end Sys2Proof.Machine

/-! PROOFS. The reductions (07 R185): the pairwise tree computes what a fold of its operation over the lanes does. -/

namespace Sys2Proof.Machine

/-! ### The integers of a format -/

theorem width_pos (f : Fmt) : 0 < f.width := by cases f <;> decide

theorem ofInt_lt (w : Nat) (x : Int) : ofInt w x < 2 ^ w := by
  have hpos : (0 : Int) < (2 ^ w : Nat) := by exact_mod_cast Nat.two_pow_pos w
  have hlt := Int.emod_lt_of_pos x hpos
  have hnn := Int.emod_nonneg x (Int.ne_of_gt hpos)
  unfold ofInt
  omega

theorem toSigned_emod (w c : Nat) : toSigned w c % (2 ^ w : Nat) = ((c % 2 ^ w : Nat) : Int) := by
  have hlt : c % 2 ^ w < 2 ^ w := mod_pow_lt c w
  have hself : ((c % 2 ^ w : Nat) : Int) % (2 ^ w : Nat) = ((c % 2 ^ w : Nat) : Int) :=
    Int.emod_eq_of_lt (Int.natCast_nonneg _) (by exact_mod_cast hlt)
  unfold toSigned
  split
  · exact hself
  · rw [Int.sub_emod_right, hself]

/-- The integer of a code is the code modulo 2^w. -/
theorem intOf_emod {f : Fmt} {c : Nat} (h : c < 2 ^ f.width) : intOf f c % (2 ^ f.width : Nat) = (c : Int) := by
  unfold intOf
  split
  · rw [toSigned_emod, Nat.mod_eq_of_lt h]
  · rw [Nat.mod_eq_of_lt h]
    exact Int.emod_eq_of_lt (Int.natCast_nonneg _) (by exact_mod_cast h)

theorem ofInt_intOf {f : Fmt} {c : Nat} (h : c < 2 ^ f.width) : ofInt f.width (intOf f c) = c := by
  unfold ofInt
  rw [intOf_emod h]
  rfl

theorem intOf_bounds (f : Fmt) (c : Nat) : f.lo ≤ intOf f c ∧ intOf f c ≤ f.hi := by
  have hlt : c % 2 ^ f.width < 2 ^ f.width := mod_pow_lt c f.width
  have hhalf : 2 ^ f.width = 2 * 2 ^ (f.width - 1) := by
    rw [← Nat.pow_succ', show (f.width - 1).succ = f.width from Nat.succ_pred_eq_of_pos (width_pos f)]
  unfold intOf Fmt.lo Fmt.hi toSigned
  cases f.signed
  · simp only [Bool.false_eq_true, if_false]
    omega
  · simp only [if_true]
    split <;> omega

theorem intOf_ofInt {f : Fmt} {x : Int} (hlo : f.lo ≤ x) (hhi : x ≤ f.hi) : intOf f (ofInt f.width x) = x := by
  have hc := ofInt_lt f.width x
  have hmod : ((ofInt f.width x : Nat) : Int) = x % (2 ^ f.width : Nat) := by
    have hpos : (0 : Int) < (2 ^ f.width : Nat) := by exact_mod_cast Nat.two_pow_pos f.width
    exact Int.toNat_of_nonneg (Int.emod_nonneg x (Int.ne_of_gt hpos))
  obtain ⟨hlo', hhi'⟩ := intOf_bounds f (ofInt f.width x)
  have hcong : (intOf f (ofInt f.width x) - x) % (2 ^ f.width : Nat) = 0 := by
    rw [Int.sub_emod, intOf_emod hc, hmod]
    simp
  have hrange : f.hi - f.lo < (2 ^ f.width : Nat) := by
    have hhalf : 2 ^ f.width = 2 * 2 ^ (f.width - 1) := by
      rw [← Nat.pow_succ', show (f.width - 1).succ = f.width from Nat.succ_pred_eq_of_pos (width_pos f)]
    unfold Fmt.lo Fmt.hi
    cases f.signed
    · simp only [Bool.false_eq_true, if_false]
      omega
    · simp only [if_true]
      omega
  have hzero := Int.eq_zero_of_dvd_of_natAbs_lt_natAbs (Int.dvd_of_emod_eq_zero hcong) (by omega)
  omega

/-! ### The tree of a reduction -/

/-- A node of a reduction does on codes below 2^w what op does on their values; e is its identity on the values and on what folds of them reach. -/
structure Reduces {X : Type} (w : Nat) (node : Nat → Nat → Lane) (val : Nat → X) (op : X → X → X) (e : X) (reach : X → Prop) : Prop where
  flags : ∀ a b, (node a b).flags = 0
  code : ∀ a b, (node a b).code < 2 ^ w
  node : ∀ a b, a < 2 ^ w → b < 2 ^ w → val (node a b).code = op (val a) (val b)
  assoc : ∀ x y z, op (op x y) z = op x (op y z)
  left : ∀ c, c < 2 ^ w → op e (val c) = val c
  right : ∀ x, reach x → op x e = x
  start : reach e
  step : ∀ x c, reach x → reach (op x (val c))

section
variable {X : Type} {w : Nat} {node : Nat → Nat → Lane} {val : Nat → X} {op : X → X → X} {e : X} {reach : X → Prop}

theorem treeLevel_flags (h : Reduces w node val op e reach) : ∀ cs, foldFlags (treeLevel node cs) = 0 := by
  intro cs
  refine foldFlags_eq_zero ?_
  induction cs using treeLevel.induct with
  | case1 a b rest ih =>
    simp only [treeLevel, List.forall_mem_cons]
    exact ⟨h.flags a b, ih⟩
  | case2 a => simp [treeLevel]
  | case3 => simp [treeLevel]

theorem treeLevel_codes (h : Reduces w node val op e reach) : ∀ cs : List Nat, (∀ c ∈ cs, c < 2 ^ w) → ∀ c ∈ (treeLevel node cs).map Lane.code, c < 2 ^ w := by
  intro cs
  induction cs using treeLevel.induct with
  | case1 a b rest ih =>
    intro hcs
    simp only [treeLevel, List.map_cons, List.forall_mem_cons] at hcs ⊢
    exact ⟨h.code a b, ih hcs.2.2⟩
  | case2 a => simp [treeLevel]
  | case3 => simp [treeLevel]

theorem treeLevel_length : ∀ cs : List Nat, (treeLevel node cs).length = (cs.length + 1) / 2 := by
  intro cs
  induction cs using treeLevel.induct with
  | case1 a b rest ih =>
    simp only [treeLevel, List.length_cons, ih]
    omega
  | case2 a => simp [treeLevel]
  | case3 => simp [treeLevel]

/-- A level keeps the fold of the values. -/
theorem treeLevel_fold (h : Reduces w node val op e reach) : ∀ (cs : List Nat) (x : X), (∀ c ∈ cs, c < 2 ^ w) →
    (((treeLevel node cs).map Lane.code).map val).foldl op x = (cs.map val).foldl op x := by
  intro cs
  induction cs using treeLevel.induct with
  | case1 a b rest ih =>
    intro x hcs
    simp only [List.forall_mem_cons] at hcs
    obtain ⟨ha, hb, hrest⟩ := hcs
    simp only [treeLevel, List.map_cons, List.foldl_cons, h.node a b ha hb, ← h.assoc]
    exact ih _ hrest
  | case2 a => simp [treeLevel]
  | case3 => simp [treeLevel]

/-- The tree's code has the value of the fold, and the tree sets no flag of its own. -/
theorem tree_fold (h : Reduces w node val op e reach) : ∀ (k : Nat) (cs : List Nat) (fl : Nat), cs ≠ [] → cs.length ≤ 2 ^ k → (∀ c ∈ cs, c < 2 ^ w) →
    (tree node k cs fl).1 < 2 ^ w ∧ val (tree node k cs fl).1 = (cs.map val).foldl op e ∧ (tree node k cs fl).2 = fl := by
  intro k
  induction k with
  | zero =>
    intro cs fl hne hlen hcs
    obtain ⟨c, rfl⟩ := List.length_eq_one_iff.mp (show cs.length = 1 by have := List.length_pos_iff.mpr hne; omega)
    have hc : c < 2 ^ w := hcs c (List.mem_singleton.mpr rfl)
    exact ⟨hc, (h.left c hc).symm, rfl⟩
  | succ k ih =>
    intro cs fl hne hlen hcs
    match cs with
    | [] => exact absurd rfl hne
    | [c] =>
      have hc : c < 2 ^ w := hcs c (List.mem_singleton.mpr rfl)
      exact ⟨hc, (h.left c hc).symm, rfl⟩
    | c :: d :: rest =>
      obtain ⟨hlt, hval, hfl⟩ := ih ((treeLevel node (c :: d :: rest)).map Lane.code) (fl ||| foldFlags (treeLevel node (c :: d :: rest)))
        (by simp [treeLevel]) (by rw [List.length_map, treeLevel_length]; omega) (treeLevel_codes h _ hcs)
      refine ⟨hlt, hval.trans (treeLevel_fold h _ e hcs), hfl.trans ?_⟩
      rw [treeLevel_flags h, Nat.or_zero]

/-- Lanes that are off stand as the identity, so the fold goes over those that are on. -/
theorem fold_on (h : Reduces w node val op e reach) (on : Nat → Bool) (code : Nat → Nat) {ident : Nat} (hident : val ident = e) (js : List Nat) :
    ((js.map fun j => if on j then code j else ident).map val).foldl op e = ((js.filter on).map fun j => val (code j)).foldl op e := by
  have hgen : ∀ x, reach x → ((js.map fun j => if on j then code j else ident).map val).foldl op x = ((js.filter on).map fun j => val (code j)).foldl op x := by
    induction js with
    | nil => exact fun _ _ => rfl
    | cons j js ih =>
      intro x hx
      cases hj : on j with
      | true =>
        simp only [List.map_cons, List.foldl_cons, List.filter_cons, hj, if_true]
        exact ih _ (h.step x _ hx)
      | false =>
        simp only [List.map_cons, List.foldl_cons, List.filter_cons, hj, Bool.false_eq_true, if_false, hident, h.right x hx]
        exact ih x hx
  exact hgen e h.start

end

/-! ### The operations of the reductions -/

theorem reduces_add (f : Fmt) : Reduces f.width (intBin 0x20 f) (fun c => (c : Int)) (fun x y => (x + y) % (2 ^ f.width : Nat)) 0 (fun x => x % (2 ^ f.width : Nat) = x) where
  flags _ _ := rfl
  code _ _ := ofInt_lt _ _
  node a b ha hb := by
    have hpos : (0 : Int) < (2 ^ f.width : Nat) := by exact_mod_cast Nat.two_pow_pos f.width
    have hcode : (((intBin 0x20 f a b).code : Nat) : Int) = (intOf f a + intOf f b) % (2 ^ f.width : Nat) :=
      Int.toNat_of_nonneg (Int.emod_nonneg _ (Int.ne_of_gt hpos))
    rw [hcode, Int.add_emod, intOf_emod ha, intOf_emod hb]
  assoc x y z := by simp [Int.add_assoc]
  left c hc := by
    rw [Int.zero_add]
    exact Int.emod_eq_of_lt (Int.natCast_nonneg _) (by exact_mod_cast hc)
  right x hx := by rw [Int.add_zero, hx]
  start := Int.zero_emod _
  step x c _ := Int.emod_emod_of_dvd _ (Int.dvd_refl _)

theorem reduces_min (f : Fmt) : Reduces f.width (intBin 0x2A f) (intOf f) min f.hi (fun x => x ≤ f.hi) where
  flags _ _ := rfl
  code _ _ := ofInt_lt _ _
  node a b _ _ := by
    obtain ⟨hla, hha⟩ := intOf_bounds f a
    obtain ⟨hlb, hhb⟩ := intOf_bounds f b
    exact intOf_ofInt (Int.le_min.mpr ⟨hla, hlb⟩) (Int.le_trans (Int.min_le_left _ _) hha)
  assoc x y z := Int.min_assoc x y z
  left c _ := Int.min_eq_right (intOf_bounds f c).2
  right _ hx := Int.min_eq_left hx
  start := Int.le_refl _
  step _ _ hx := Int.le_trans (Int.min_le_left _ _) hx

theorem reduces_max (f : Fmt) : Reduces f.width (intBin 0x2B f) (intOf f) max f.lo (fun x => f.lo ≤ x) where
  flags _ _ := rfl
  code _ _ := ofInt_lt _ _
  node a b _ _ := by
    obtain ⟨hla, hha⟩ := intOf_bounds f a
    obtain ⟨hlb, hhb⟩ := intOf_bounds f b
    exact intOf_ofInt (Int.le_trans hla (Int.le_max_left _ _)) (Int.max_le.mpr ⟨hha, hhb⟩)
  assoc x y z := Int.max_assoc x y z
  left c _ := Int.max_eq_right (intOf_bounds f c).1
  right _ hx := Int.max_eq_left hx
  start := Int.le_refl _
  step _ _ hx := Int.le_trans hx (Int.le_max_left _ _)

theorem reduces_and (f : Fmt) : Reduces f.width (intBin 0x2C f) id (fun x y => x &&& y) (2 ^ f.width - 1) (fun x => x < 2 ^ f.width) where
  flags _ _ := rfl
  code a _ := Nat.and_lt_two_pow _ (mod_pow_lt _ _)
  node a b ha hb := by simp [intBin, Nat.mod_eq_of_lt ha, Nat.mod_eq_of_lt hb]
  assoc x y z := Nat.and_assoc x y z
  left c hc := by rw [Nat.and_comm, Nat.and_two_pow_sub_one_eq_mod]; exact Nat.mod_eq_of_lt hc
  right x hx := by rw [Nat.and_two_pow_sub_one_eq_mod, Nat.mod_eq_of_lt hx]
  start := Nat.sub_lt (Nat.two_pow_pos _) Nat.one_pos
  step _ _ hx := Nat.lt_of_le_of_lt Nat.and_le_left hx

theorem reduces_or (f : Fmt) : Reduces f.width (intBin 0x2D f) id (fun x y => x ||| y) 0 (fun _ => True) where
  flags _ _ := rfl
  code _ _ := Nat.or_lt_two_pow (mod_pow_lt _ _) (mod_pow_lt _ _)
  node a b ha hb := by simp [intBin, Nat.mod_eq_of_lt ha, Nat.mod_eq_of_lt hb]
  assoc x y z := Nat.or_assoc x y z
  left c _ := Nat.zero_or c
  right x _ := Nat.or_zero x
  start := trivial
  step _ _ _ := trivial

/-- Sums modulo m of congruent numbers. -/
theorem foldl_add_emod (m : Int) (a b : Nat → Int) (h : ∀ j, b j % m = a j) (js : List Nat) (x : Int) :
    ((js.map a).foldl (fun x y => (x + y) % m) (x % m)) = ((js.map b).foldl (fun x y => x + y) x) % m := by
  induction js generalizing x with
  | nil => rfl
  | cons j js ih =>
    simp only [List.map_cons, List.foldl_cons]
    rw [← ih, ← h j, ← Int.add_emod]

/-! ### The value of a reduction -/

/-- The lanes that enter the tree. -/
def leaves (f : Fmt) (l : Token) (pr : Predicate) (ident : Nat) : List Lane :=
  (List.range f.lanes).map fun j => if pr.lane j then ⟨(codeAt f l j).1, (codeAt f l j).2⟩ else (⟨ident, 0⟩ : Lane)

theorem leaves_codes (f : Fmt) (l : Token) (pr : Predicate) (ident : Nat) :
    (leaves f l pr ident).map Lane.code = (List.range f.lanes).map fun j => if pr.lane j then (codeAt f l j).1 else ident := by
  unfold leaves
  rw [List.map_map]
  refine List.map_congr_left fun j _ => ?_
  simp only [Function.comp_apply, apply_ite Lane.code]

/-- A reduction of an integer of the reserved scale reads zeros with NV where some lane is on. -/
theorem leaves_flags (f : Fmt) (l : Token) (pr : Predicate) (ident : Nat) :
    foldFlags (leaves f l pr ident) = if f.isInt = true ∧ l.scale = 255 ∧ (List.range f.lanes).filter (fun j => pr.lane j) ≠ [] then flagNV else 0 := by
  have hfold : ∀ (k : Nat) (js : List Nat) (x : Nat), x = 0 ∨ x = k →
      (js.map fun j => if pr.lane j then (⟨(codeAt f l j).1, k⟩ : Lane) else ⟨ident, 0⟩).foldl (fun a y => a ||| y.flags) x =
        if js.filter (fun j => pr.lane j) = [] then x else k := by
    intro k js
    induction js with
    | nil => simp
    | cons j js ih =>
      intro x hx
      cases hj : pr.lane j with
      | true =>
        have hor : x ||| k = k := by rcases hx with rfl | rfl <;> simp
        simp only [List.map_cons, List.foldl_cons, List.filter_cons, hj, if_true, hor, reduceCtorEq, if_false]
        rw [ih k (Or.inr rfl), ite_self]
      | false =>
        simp only [List.map_cons, List.foldl_cons, List.filter_cons, hj, Bool.false_eq_true, if_false, Nat.or_zero]
        exact ih x hx
  have hflag : ∀ j, (codeAt f l j).2 = if f.isInt && l.scale == 255 then flagNV else 0 := by
    intro j
    unfold codeAt
    split <;> rfl
  unfold foldFlags leaves
  simp only [hflag]
  rw [hfold _ _ _ (Or.inl rfl)]
  by_cases hempty : (List.range f.lanes).filter (fun j => pr.lane j) = []
  · simp [hempty]
  · simp [hempty]

theorem lanes_bounds (f : Fmt) : 0 < f.lanes ∧ f.lanes ≤ 2 ^ 8 := by cases f <;> decide

/-- THE VALUE OF A REDUCTION: the code whose value is the fold over the lanes that are on. -/
theorem reduce_value {X : Type} {o : OpA} {cls : List Ty} {x : Operands} {pr : Predicate} {f : Fmt} {l : Token} {iop ident c : Nat} {val : Nat → X} {op : X → X → X} {e : X}
    {reach : X → Prop} (hl : x.l = some l) (hf : formatOf o false cls l = some f) (ht : typed o l true l = true)
    (h : Reduces f.width (intBin iop f) val op e reach) (hinj : ∀ a b, a < 2 ^ f.width → b < 2 ^ f.width → val a = val b → a = b)
    (hident : val ident = e) (hlt : ident < 2 ^ f.width) (hc : c < 2 ^ f.width)
    (hval : val c = (((List.range f.lanes).filter (fun j => pr.lane j)).map fun j => val (codeAt f l j).1).foldl op e) :
    reduce o cls x pr (fun _ => ident) (fun f l j => let a := codeAt f l j; ⟨a.1, a.2⟩) (fun f a b => intBin iop f a b) =
      .ok (fork (mkTok f false 127 [c]),
        if f.isInt = true ∧ l.scale = 255 ∧ (List.range f.lanes).filter (fun j => pr.lane j) ≠ [] then flagNV else 0) := by
  have hcodes : ∀ d ∈ (leaves f l pr ident).map Lane.code, d < 2 ^ f.width := by
    rw [leaves_codes]
    intro d hd
    obtain ⟨j, -, rfl⟩ := List.mem_map.mp hd
    split
    · exact codeAt_lt f l j
    · exact hlt
  obtain ⟨hpos, hle⟩ := lanes_bounds f
  have hlen : ((leaves f l pr ident).map Lane.code).length = f.lanes := by simp [leaves]
  obtain ⟨htlt, htval, htfl⟩ := tree_fold h 8 ((leaves f l pr ident).map Lane.code) (foldFlags (leaves f l pr ident))
    (fun hnil => by rw [hnil] at hlen; exact absurd hlen (Nat.ne_of_lt hpos)) (hlen ▸ hle) hcodes
  have hcode : (tree (intBin iop f) 8 ((leaves f l pr ident).map Lane.code) (foldFlags (leaves f l pr ident))).1 = c := by
    refine hinj _ _ htlt hc (htval.trans ?_)
    rw [leaves_codes, fold_on h (fun j => pr.lane j) _ hident, hval]
  unfold reduce
  simp only [hl, hf, ht, if_true]
  show (.ok (fork (mkTok f false 127 [(tree (intBin iop f) 8 ((leaves f l pr ident).map Lane.code) (foldFlags (leaves f l pr ident))).1]),
    (tree (intBin iop f) 8 ((leaves f l pr ident).map Lane.code) (foldFlags (leaves f l pr ident))).2) : Value) = _
  rw [hcode, htfl, leaves_flags]

/-! ### The instructions -/

theorem formatOf_mono {o : OpA} {u : Bool} {cls cls' : List Ty} {l : Token} {f : Fmt} (h : formatOf o u cls l = some f) (hsub : o.ty = .tf → cls'.contains f.ty = true) :
    formatOf o u cls' l = some f := by
  unfold formatOf at h ⊢
  split at h
  next htf =>
    rw [if_pos htf]
    obtain ⟨g, hg, hcls⟩ := Option.bind_eq_some_iff.mp h
    split at hcls
    · cases hcls
      simpa [hg] using hsub htf
    · cases hcls
  next htf => rw [if_neg htf, h]

theorem treeLatency_eq {s : State} {o : OpA} {u : Bool} {cls : List Ty} {l : Token} {f : Fmt} (hl : s.firing.ops.l = some l) (hf : formatOf o u cls l = some f) :
    treeLatency o s = lg f.lanes + 1 := by
  have hlanes : laneCount o (some l) = f.lanes := by
    unfold formatOf at hf
    unfold laneCount
    split at hf
    next htf =>
      obtain ⟨g, hg, hcls⟩ := Option.bind_eq_some_iff.mp hf
      split at hcls
      · cases hcls
        simp [htf, hg]
      · cases hcls
    next htf => simp [htf, Fmt.lanes, ty_of_fmtOf hf]
  unfold treeLatency
  rw [hl, hlanes]

/-- The class of an integer format. -/
theorem int_contains {f : Fmt} (h : f.isInt = true) : (intCls ++ bitsCls).contains f.ty = true := by
  revert h
  cases f <;> decide

theorem bits_contains {f : Fmt} (h : f.isFloat = false) : (intCls ++ bitsCls).contains f.ty = true := by
  revert h
  cases f <;> decide

theorem not_isFloat_of_isInt {f : Fmt} (h : f.isInt = true) : f.isFloat = false := by
  revert h
  cases f <;> decide

/-- The node and the identity of a reduction by opcode (07 R185). -/
def reduction (op : Nat) (f : Fmt) : Nat × Nat :=
  match op with
  | 0x69 => (0x20, 0)
  | 0x6A => (0x2A, ofInt f.width f.hi)
  | 0x6B => (0x2B, ofInt f.width f.lo)
  | 0x6C => (0x2C, 2 ^ f.width - 1)
  | _ => (0x2D, 0)

theorem reduceValue_eq (op : Nat) {o : OpA} {x : Operands} {pr : Predicate} {f : Fmt} {l : Token} (hl : x.l = some l)
    (hf : formatOf o false (if op < 0x6C then intCls ++ fltCls else bitsCls) l = some f) (ht : typed o l true l = true) (hfloat : f.isFloat = false) :
    reduceValue op o x pr =
      reduce o (intCls ++ bitsCls) x pr (fun _ => (reduction op f).2) (fun f l j => let a := codeAt f l j; ⟨a.1, a.2⟩) (fun g a b => intBin (reduction op f).1 g a b) := by
  unfold reduceValue reduction
  simp only [hl, hf, ht, hfloat, Bool.not_true, Bool.false_eq_true, if_false] <;> split <;> simp only [*]

/-- A REDUCTION OF INTEGERS OR BITS emits the fold over the lanes that are on. -/
theorem reduction_emits {X : Type} {s : State} {o : OpA} {pr : Predicate} {f : Fmt} {l : Token} {op c : Nat} {val : Nat → X} {g : X → X → X} {e : X} {reach : X → Prop}
    (hr : s.Runs o.fl o.v needL pr) (hl : (s.operands (withPm o.fl needL)).l = some l) (ht : typed o l true l = true) (hfloat : f.isFloat = false)
    (hf : formatOf o false (if op < 0x6C then intCls ++ fltCls else bitsCls) l = some f) (hcls : o.ty = .tf → (intCls ++ bitsCls).contains f.ty = true)
    (h : Reduces f.width (intBin (reduction op f).1 f) val g e reach) (hinj : ∀ a b, a < 2 ^ f.width → b < 2 ^ f.width → val a = val b → a = b)
    (hident : val (reduction op f).2 = e) (hlt : (reduction op f).2 < 2 ^ f.width) (hc : c < 2 ^ f.width)
    (hval : val c = (((List.range f.lanes).filter (fun j => pr.lane j)).map fun j => val (codeAt f l j).1).foldl g e) :
    Emits s (.next (s.arith o false (treeLatency o s) false false false (reduceValue op o))) (takes o.fl (withPm o.fl needL)) (lg f.lanes + 1)
      (fork (mkTok f false 127 [c])) (if f.isInt = true ∧ l.scale = 255 ∧ (List.range f.lanes).filter (fun j => pr.lane j) ≠ [] then flagNV else 0) := by
  rw [treeLatency_eq hl hf]
  have hreduce := reduce_value (iop := (reduction op f).1) (ident := (reduction op f).2) hl (formatOf_mono hf hcls) ht h hinj hident hlt hc hval
  exact token_emits_L hr ((reduceValue_eq op hl hf ht hfloat).trans hreduce) rfl

theorem intOf_inj (f : Fmt) : ∀ a b, a < 2 ^ f.width → b < 2 ^ f.width → intOf f a = intOf f b → a = b := fun a b ha hb hab => by
  rw [← ofInt_intOf ha, hab, ofInt_intOf hb]

/-- A fold of integers of the format that stays within it. -/
theorem foldl_within {f : Fmt} {g : Int → Int → Int} {e : Int} (hg : ∀ x y, f.lo ≤ x → x ≤ f.hi → f.lo ≤ y → y ≤ f.hi → f.lo ≤ g x y ∧ g x y ≤ f.hi)
    (hlo : f.lo ≤ e) (hhi : e ≤ f.hi) (code : Nat → Nat) (js : List Nat) :
    intOf f (ofInt f.width ((js.map fun j => intOf f (code j)).foldl g e)) = (js.map fun j => intOf f (code j)).foldl g e := by
  have hrange : f.lo ≤ (js.map fun j => intOf f (code j)).foldl g e ∧ (js.map fun j => intOf f (code j)).foldl g e ≤ f.hi := by
    refine List.foldlRecOn _ _ (motive := fun x : Int => f.lo ≤ x ∧ x ≤ f.hi) ⟨hlo, hhi⟩ fun x hx y hy => ?_
    obtain ⟨j, -, rfl⟩ := List.mem_map.mp hy
    exact hg x _ hx.1 hx.2 (intOf_bounds f _).1 (intOf_bounds f _).2
  exact intOf_ofInt hrange.1 hrange.2

theorem float_reduction_emits {s : State} {o : OpA} {pr : Predicate} {f : Fmt} {l : Token} (op : Nat) (hr : s.Runs o.fl o.v needL pr)
    (hl : (s.operands (withPm o.fl needL)).l = some l) (ht : typed o l true l = true) (hfloat : f.isFloat = true) (hop : op < 0x6C)
    (hf : formatOf o false (intCls ++ fltCls) l = some f) :
    ∃ c fl, Emits s (.next (s.arith o false (treeLatency o s) false false false (reduceValue op o))) (takes o.fl (withPm o.fl needL)) (lg f.lanes + 1)
      (fork (mkTok f false 127 [c])) fl := by
  have hvalue : ∃ c fl, reduceValue op o (s.operands (withPm o.fl needL)) pr = .ok (fork (mkTok f false 127 [c]), fl) := by
    unfold reduceValue
    simp only [hl, hop, hf, ht, hfloat, if_true, Bool.not_true, Bool.false_eq_true, if_false]
    split <;> exact ⟨_, _, rfl⟩
  obtain ⟨c, fl, hv⟩ := hvalue
  rw [treeLatency_eq hl hf]
  exact ⟨c, fl, token_emits_L hr hv rfl⟩

theorem code_fold_and (f : Fmt) (code : Nat → Nat) (js : List Nat) :
    id (js.foldl (fun a j => a &&& code j) (2 ^ f.width - 1)) = (js.map fun j => id (code j)).foldl (fun x y => x &&& y) (2 ^ f.width - 1) := by
  rw [List.foldl_map]
  rfl

theorem code_fold_or (code : Nat → Nat) (js : List Nat) :
    id (js.foldl (fun a j => a ||| code j) 0) = (js.map fun j => id (code j)).foldl (fun x y => x ||| y) 0 := by
  rw [List.foldl_map]
  rfl

/-- Settles O9: each reduction is the fold that its tree computes; the floating-point ones give one value. -/
theorem reductionResults : Obligations.ReductionResults := by
  unfold Obligations.ReductionResults
  intro s o f l pr hr hl ht on code gives nv
  have hones : 2 ^ f.width - 1 < 2 ^ f.width := Nat.sub_lt (Nat.two_pow_pos _) Nat.one_pos
  refine ⟨fun hf hfloat => ⟨?and, ?or⟩, fun hf hint => ⟨?add, ?min, ?max⟩, fun hf hfloat => ?float⟩
  case and =>
    refine reduction_emits (op := 0x6C) hr hl ht hfloat hf (fun _ => bits_contains hfloat) (reduces_and f) (fun _ _ _ _ hab => hab) rfl hones ?_ (code_fold_and f code on)
    exact List.foldlRecOn on _ (motive := fun a => a < 2 ^ f.width) hones fun a ha j _ => Nat.lt_of_le_of_lt Nat.and_le_left ha
  case or =>
    refine reduction_emits (op := 0x6D) hr hl ht hfloat hf (fun _ => bits_contains hfloat) (reduces_or f) (fun _ _ _ _ hab => hab) rfl (Nat.two_pow_pos _) ?_ (code_fold_or code on)
    exact List.foldlRecOn on _ (motive := fun a => a < 2 ^ f.width) (Nat.two_pow_pos _) fun a ha j _ => Nat.or_lt_two_pow ha (codeAt_lt f l j)
  case add =>
    have hpos : (0 : Int) < (2 ^ f.width : Nat) := by exact_mod_cast Nat.two_pow_pos f.width
    refine reduction_emits (op := 0x69) hr hl ht (not_isFloat_of_isInt hint) hf (fun _ => int_contains hint) (reduces_add f) (fun a b _ _ hab => by exact_mod_cast hab)
      rfl (Nat.two_pow_pos _) (ofInt_lt _ _) ?_
    exact (Int.toNat_of_nonneg (Int.emod_nonneg _ (Int.ne_of_gt hpos))).trans
      (foldl_add_emod (2 ^ f.width : Nat) (fun j => ((codeAt f l j).1 : Int)) (fun j => intOf f (codeAt f l j).1) (fun j => intOf_emod (codeAt_lt f l j)) on 0).symm
  case min =>
    exact reduction_emits (op := 0x6A) hr hl ht (not_isFloat_of_isInt hint) hf (fun _ => int_contains hint) (reduces_min f) (intOf_inj f)
      (intOf_ofInt (fmt_lo_le_hi f) (Int.le_refl _)) (ofInt_lt _ _) (ofInt_lt _ _)
      (foldl_within (fun x y hx hx' hy _ => ⟨Int.le_min.mpr ⟨hx, hy⟩, Int.le_trans (Int.min_le_left _ _) hx'⟩) (fmt_lo_le_hi f) (Int.le_refl _) code on)
  case max =>
    exact reduction_emits (op := 0x6B) hr hl ht (not_isFloat_of_isInt hint) hf (fun _ => int_contains hint) (reduces_max f) (intOf_inj f)
      (intOf_ofInt (Int.le_refl _) (fmt_lo_le_hi f)) (ofInt_lt _ _) (ofInt_lt _ _)
      (foldl_within (fun x y hx hx' _ hy' => ⟨Int.le_trans hx (Int.le_max_left _ _), Int.max_le.mpr ⟨hx', hy'⟩⟩) (Int.le_refl _) (fmt_lo_le_hi f) code on)
  case float =>
    simp only [List.forall_mem_cons]
    exact ⟨float_reduction_emits 0x69 hr hl ht hfloat (by decide) hf, float_reduction_emits 0x6A hr hl ht hfloat (by decide) hf,
      float_reduction_emits 0x6B hr hl ht hfloat (by decide) hf, fun _ h => nomatch h⟩

end Sys2Proof.Machine

/-! PROOFS. The conversions CVT and CVTI (07 R186 R187). -/

namespace Sys2Proof.Machine

/-! ### A pure producer that also keeps a state of its own -/

/-- A PURE PRODUCER THAT EXECUTES: its operands taken, its flags staged, its value emitted, its own state changed. -/
theorem pureFire_runs (s : State) (p : PureFiring) (all : Bool) (bits : Nat) (outs : List (Nat × Token)) (fl : Nat)
    (hc : s.CanFire p.fl (withPm p.fl p.need)) (hp : (s.operands (withPm p.fl p.need)).poison = none)
    (hr : predicate p.fl.pm p.vecP (s.operands (withPm p.fl p.need)).p = .run all bits)
    (hv : p.eval (s.operands (withPm p.fl p.need)) (.run all bits) = .ok (outs, fl))
    (hno : outs ≠ []) (hclean : p.fl.e = false ∨ outs.any (fun x => x.2.poison) = false) :
    s.pureFire p = p.post ((((s.countFiring s.firing).consume s.firing (takes p.fl (withPm p.fl p.need))).stageFlags s.firing fl).result s.firing false p.lat outs)
      s.firing (s.operands (withPm p.fl p.need)) (.run all bits) := by
  obtain ⟨hheld, hstage, hfull, hbreak⟩ := hc
  have hout : decided p s.firing (s.operands (withPm p.fl p.need)) = (outs, fl) := by
    unfold decided pureOutcome
    simp only [hp, hr, hv]
    rcases hclean with hc | hc <;> simp [hc]
  have hanchor : (if toRegister s.firing.b s.firing.e.idx then anchorOutcome p (s.operands (withPm p.fl p.need)) else none) = none := by
    unfold anchorOutcome
    simp [hp, hr, hv]
  have hexec : executes p (s.operands (withPm p.fl p.need)) = true := by
    unfold executes
    simp [hp, hr]
  unfold State.pureFire
  simp only [hheld, hstage, Bool.not_true, Bool.or_self, Bool.false_eq_true, if_false]
  unfold State.operands at hfull hout hanchor hexec hr ⊢
  simp only [hfull, hbreak, Bool.false_eq_true, if_true, if_false, hanchor, hout, hno, hexec, hr]
  rfl

/-! ### CVT -/

/-- The code of lane j of a conversion of f to g at scale t (07 R186). -/
def cvtCode (o : OpA) (f g : Fmt) (l : Token) (pr : Predicate) (t j : Nat) : Nat :=
  if pr.lane j then
    match sourceLane o.v f.lanes g.lanes o.part j with
    | none => 0
    | some i => (encodeValue (valueAt f l i).1 g t o.rm).code
  else if f = g then laneOf l.pay f.width j else 0

/-- The scale that the mode of a conversion names (07 R186, 04 R89). -/
def NamesScale (o : OpA) (f g : Fmt) (l : Token) (x : Operands) (pr : Predicate) (hc t : Nat) : Prop :=
  o.sub = 0 ∧ t = (if f.isInt || l.scale == 255 then 127 else l.scale.toNat) ∨ o.sub = 1 ∧ t = o.imm.toNat % 256 ∨
    (o.sub = 2 ∧ ∃ r, x.r = some r ∧ isW32 r = true ∧ t = r.low32) ∨
    o.sub = 3 ∧ t = autoScale g hc ((List.range (lanesOf g o.v)).filterMap fun j =>
      (if pr.lane j then sourceLane o.v f.lanes g.lanes o.part j else none).map fun i => (valueAt f l i).1)

theorem cvt_value {o : OpA} {f g : Fmt} {l : Token} {x : Operands} {pr : Predicate} {hc t : Nat} (hl : x.l = some l) (hf : convOk o.v l = some f)
    (hpart : o.v = true → partOk f.lanes g.lanes o.part = true) (hg : fmtOf o.ty false = some g) (ht : t ≤ 254) (hscale : NamesScale o f g l x pr hc t) :
    ∃ fl uf, cvtValue o hc x pr = .ok { tok := mkTok g o.v (BitVec.ofNat 8 t) ((List.range (lanesOf g o.v)).map (cvtCode o f g l pr t)), flags := fl, uf := uf } := by
  have hfit : (o.v && !partOk f.lanes g.lanes o.part) = false := by
    cases hv : o.v with
    | false => rfl
    | true => simp [hpart hv]
  have hcodes : (List.range (lanesOf g o.v)).map (fun j => if pr.lane j then
      (((List.range (lanesOf g o.v)).map (fun j => match (if pr.lane j then sourceLane o.v f.lanes g.lanes o.part j else none) with
        | none => (⟨0, 0, false⟩ : Enc)
        | some i => ⟨(encodeValue (valueAt f l i).1 g t o.rm).code, (encodeValue (valueAt f l i).1 g t o.rm).flags ||| (valueAt f l i).2,
            (encodeValue (valueAt f l i).1 g t o.rm).uf⟩)).getD j ⟨0, 0, false⟩).code
      else if f = g ∧ !pr.lane j then laneOf l.pay f.width j else 0) = (List.range (lanesOf g o.v)).map (cvtCode o f g l pr t) := by
    refine List.map_congr_left fun j hj => ?_
    have hj := List.mem_range.mp hj
    unfold cvtCode
    cases hon : pr.lane j with
    | false => simp
    | true =>
      simp only [if_true, List.getD_eq_getElem?_getD, List.getElem?_map, List.getElem?_range hj, Option.map_some, Option.getD_some, hon]
      split <;> rfl
  unfold cvtValue
  simp only [hl, hg, hf, hfit, Bool.false_eq_true, if_false]
  rcases hscale with ⟨hsub, rfl⟩ | ⟨hsub, rfl⟩ | ⟨hsub, r, hr, hw, rfl⟩ | ⟨hsub, rfl⟩
  · simp only [hsub]
    exact ⟨_, _, congrArg (fun cs => Except.ok (Conv.mk (mkTok g o.v _ cs) _ _)) hcodes⟩
  · simp only [hsub]
    exact ⟨_, _, congrArg (fun cs => Except.ok (Conv.mk (mkTok g o.v _ cs) _ _)) hcodes⟩
  · simp only [hsub, hr, Option.bind_some, hw, ht, decide_true, Bool.and_self, if_true]
    exact ⟨_, _, congrArg (fun cs => Except.ok (Conv.mk (mkTok g o.v _ cs) _ _)) hcodes⟩
  · simp only [hsub]
    exact ⟨_, _, congrArg (fun cs => Except.ok (Conv.mk (mkTok g o.v _ cs) _ _)) hcodes⟩

/-- The stream's update changes the instruction's state alone. -/
theorem cvtPost_spec {s u : State} (o : OpA) (f : Firing) (hf : IsFiring s f) (x : Operands) (pr : Predicate) (hw : Within s u) :
    ((cvtPost o u f x pr).elem s.cur).q0 = (u.elem s.cur).q0 ∧ ((cvtPost o u f x pr).bank (siteKey s.cur)).nstage = (u.bank (siteKey s.cur)).nstage ∧
      Within s (cvtPost o u f x pr) := by
  unfold cvtPost
  split
  split
  · exact ⟨rfl, rfl, hw⟩
  · rw [hf.e]
    split
    exact ⟨(congrArg Elem.q0 (setOst_elem s u _)).trans rfl, setOst_nstage s u _, hw.setOst _⟩

/-- The firing of CVT. -/
def cvtFiring (o : OpA) (s : State) : PureFiring :=
  { fl := o.fl, vecP := o.v, lat := 2, need := { l := true, r := o.sub == 2 }, tag := poisonTag o false none, v := o.v,
    eval := fun x pr => match cvtValue o (streamOf o s.firing.el.ost).2 x pr with
      | .error c => .error c
      | .ok v => .ok (fork v.tok, v.flags)
    post := cvtPost o }

theorem exec_cvt (o : OpA) (s : State) : exec (.cvt o) s = .next (s.pureFire (cvtFiring o s)) := rfl

theorem cvtFiring_eval {o : OpA} {s : State} {x : Operands} {pr : Predicate} {v : Conv} (h : cvtValue o (streamOf o s.here.ost).2 x pr = .ok v) :
    (cvtFiring o s).eval x pr = .ok (fork v.tok, v.flags) := by
  have h' : cvtValue o (streamOf o s.firing.el.ost).2 x pr = .ok v := h
  simp only [cvtFiring, h']

/-! ### CVTI -/

theorem cvti_value {o : OpA} {f g : Fmt} {l : Token} {x : Operands} {pr : Predicate} (hl : x.l = some l) (hf : convOk o.v l = some f)
    (hpart : o.v = true → partOk f.lanes g.lanes o.part = true) (hg : fmtOf o.ty o.u = some g) {ls : List Lane}
    (hls : ls = (List.range (lanesOf g o.v)).map fun j =>
      if pr.lane j then
        match sourceLane o.v f.lanes g.lanes o.part j with
        | none => ⟨0, 0⟩
        | some i => toIntLane g o.rm f.isFloat (valueAt f l i)
      else (⟨if f = g then laneOf l.pay f.width j else 0, 0⟩ : Lane)) :
    cvtiValue o x pr = .ok (copies g o.v ls, foldFlags ls) := by
  have hfit : (o.v && !partOk f.lanes g.lanes o.part) = false := by
    cases hv : o.v with
    | false => rfl
    | true => simp [hpart hv]
  subst hls
  unfold cvtiValue
  simp only [hl, hg, hf, hfit, Bool.false_eq_true, if_false]
  rfl

/-- Settles O10: CVT by its codes at the scale of its mode, with its own stream's update beside them; CVTI lane by lane. -/
theorem conversionResults : Obligations.ConversionResults := by
  unfold Obligations.ConversionResults
  intro s o f g l pr hl hf hpart
  refine ⟨?cvt, fun hg _ hr => single_emits hr (cvti_value hl hf hpart hg rfl)⟩
  intro hg hr src xs t ht hscale
  obtain ⟨hcan, hclean, all, bits, rfl, hp⟩ := hr
  obtain ⟨fl, uf, hv⟩ := cvt_value (hc := (streamOf o s.here.ost).2) hl hf hpart hg ht hscale
  have hrun := pureFire_runs s (cvtFiring o s) all bits _ fl hcan hclean hp (cvtFiring_eval hv) (List.cons_ne_nil _ _) (Or.inr rfl)
  have hI := isFiring_firing s
  obtain ⟨hel, hw, hns⟩ := start_spec s s.firing hI (takes o.fl (withPm o.fl { l := true, r := o.sub == 2 }))
  obtain ⟨hel', hw', hns'⟩ := stageFlags_spec s.firing hI fl hw
  obtain ⟨hq0, hstage, hwithin⟩ := cvtPost_spec o s.firing hI (s.operands (withPm o.fl { l := true, r := o.sub == 2 })) (.run all bits)
    (hw'.result s.firing hI 2 (fork (mkTok g o.v (BitVec.ofNat 8 t) ((List.range (lanesOf g o.v)).map (cvtCode o f g l (.run all bits) t)))))
  refine ⟨_, _, congrArg Host.Outcome.next hrun, hq0.trans ?_, (hstage.trans (result_nstage s _ _ hI _ _)).trans (hns'.trans (congrArg (· ++ _) hns)), hwithin⟩
  rw [result_elem s _ _ hI hw'.fc, hel', hel]
  rfl

end Sys2Proof.Machine

/-! PROOFS. Scales, format checks, groups of lanes and random draws (07 R188-R192). -/

namespace Sys2Proof.Machine

/-- A PURE PRODUCER OF LATENCY 1 ON L ALONE, with no state of its own. -/
theorem pure_emits {s : State} {p : PureFiring} {pr : Predicate} {outs : List (Nat × Token)} {fl : Nat} (hr : s.Runs p.fl p.vecP p.need pr)
    (hv : p.eval (s.operands (withPm p.fl p.need)) pr = .ok (outs, fl)) (hno : outs ≠ []) (hclean : outs.any (fun x => x.2.poison) = false)
    (hpost : p.post = fun s _ _ _ => s) : Emits s (.next (s.pureFire p)) (takes p.fl (withPm p.fl p.need)) p.lat outs fl := by
  obtain ⟨hcan, hp, all, bits, rfl, hpred⟩ := hr
  exact ⟨_, rfl, pureFire_value s p all bits outs fl hcan hp hpred hv hno (Or.inr hclean) hpost⟩

/-- The firing of UFRD. -/
def ufrdFiring (o : OpA) (s : State) : PureFiring :=
  { fl := o.fl, vecP := false, lat := 1, need := needL, tag := 5, v := false,
    eval := fun _ _ => one (z64Tok (committedStream s.firing.b (o.imm.toNat % 128))) 0 }

theorem ufrd_emits {s : State} {o : OpA} {pr : Predicate} (hr : s.Runs o.fl false needL pr) (hround : s.firing.round ≤ s.firing.b.mpass) :
    Emits s (exec (.ufrd o) s) (takes o.fl (withPm o.fl needL)) 1 (fork (z64Tok (committedStream (s.bank (siteKey s.cur)) (o.imm.toNat % 128)))) 0 := by
  show Emits s (execUfrd o s) _ _ _ _
  unfold execUfrd
  rw [if_neg (Nat.not_lt.mpr hround)]
  exact pure_emits (p := ufrdFiring o s) hr rfl (List.cons_ne_nil _ _) rfl rfl

/-! ### Scales and formats -/

theorem scaleg_value {o : OpA} {x : Operands} {f : Fmt} {l : Token} (hl : x.l = some l) (hf : l.fmt = some f) (hnum : (f.isInt || f.isFloat) = true) (hv : l.v = o.v)
    (hs : scaleOk l = true) : scalegValue o x = .ok (fork (z32 l.scale.toNat), 0) := by
  unfold scalegValue
  simp only [hl, hf, Option.any_some, hnum, hv, beq_self_eq_true, hs, Bool.and_self, if_true]
  rfl

/-- FMTCHK's test (07 R189). -/
def fmtHit (o : OpA) (l : Token) : Bool := l.tag.toNat == o.imm.toNat % 64 && (bitAt o.imm.toNat 7 || l.v == bitAt o.imm.toNat 6)

theorem fmtchk_value_test {o : OpA} {x : Operands} {l : Token} (hl : x.l = some l) (hb : o.bit 0 = false) : fmtchkValue o x = .ok (fork (predTok (fmtHit o l)), 0) := by
  unfold fmtchkValue
  simp only [hl, hb, Bool.false_eq_true, if_false]
  rfl

theorem fmtchk_value_pass {o : OpA} {x : Operands} {l : Token} (hl : x.l = some l) (hb : o.bit 0 = true) (hhit : fmtHit o l = true) :
    fmtchkValue o x = .ok (fork { l with rv := true }, 0) := by
  unfold fmtHit at hhit
  unfold fmtchkValue
  simp only [hl, hb, hhit, if_true]
  rfl

/-- The scale that SCALES reads, and the flags of reading it (07 R188). -/
def ReadsScale (o : OpA) (x : Operands) (r : Token) (k : Int) (fl : Nat) : Prop :=
  o.i = true ∧ k = o.imm.toInt ∧ fl = 0 ∨
    o.i = false ∧ x.r = some r ∧ isW32 r = true ∧ k = (if o.bit 0 then toSigned 32 r.low32 else r.low32) ∧ fl = r.numFlags

theorem low32_lt (t : Token) : t.low32 < 2 ^ 32 := Nat.mod_lt _ (Nat.two_pow_pos _)

theorem scales_value {o : OpA} {x : Operands} {f : Fmt} {l r : Token} {k t : Int} {fl : Nat} (hl : x.l = some l) (hf : l.fmt = some f) (hfloat : f.isFloat = true)
    (hv : l.v = o.v) (hk : ReadsScale o x r k fl) (ht : o.bit 0 = false ∧ t = k ∨ o.bit 0 = true ∧ l.scale ≠ 255 ∧ t = (l.scale.toNat : Int) + k)
    (hlo : 0 ≤ t) (hhi : t ≤ 254) : scalesValue o x = .ok (fork { l with scale := BitVec.ofNat 8 t.toNat, rv := true }, fl) := by
  have hrange : ¬ (t < 0 ∨ t > 254) := by omega
  have hok : (!(l.fmt.any Fmt.isFloat) || l.v != o.v) = false := by simp [hf, hfloat, hv]
  have hsigned : toSigned 32 r.low32 % 4294967296 = r.low32 := by
    have h := toSigned_emod 32 r.low32
    rw [Nat.mod_eq_of_lt (low32_lt r)] at h
    omega
  unfold scalesValue
  simp only [hl, hok, Bool.false_eq_true, if_false]
  rcases hk with ⟨hi, rfl, rfl⟩ | ⟨hi, hr, hw, rfl, rfl⟩
  · rcases ht with ⟨hb, rfl⟩ | ⟨hb, hne, rfl⟩
    · simp only [hi, hb, Bool.true_or, Bool.false_and, Bool.false_eq_true, if_true, if_false, hrange]
      rfl
    · simp only [hi, hb, Bool.or_self, Bool.true_and, beq_false_of_ne hne, Bool.false_eq_true, if_true, if_false, hrange]
      rfl
  · rcases ht with ⟨hb, rfl⟩ | ⟨hb, hne, rfl⟩
    · simp only [hb, Bool.false_eq_true, if_false] at hrange ⊢
      simp only [hi, hr, hw, Option.bind_some, if_true, Bool.or_self, Bool.false_and, Bool.false_eq_true, if_false, hsigned, hrange]
      rfl
    · simp only [hb, if_true] at hrange ⊢
      simp only [hi, hr, hw, Option.bind_some, if_true, Bool.or_true, Bool.true_and, beq_false_of_ne hne, Bool.false_eq_true, if_false, hrange]
      rfl

/-! ### Groups of lanes -/

theorem groupSize_eq (o : OpA) (n : Nat) : groupSize o n = n / 2 ^ (o.sub + 1) := by
  unfold groupSize
  rw [Nat.shiftLeft_eq, ← Nat.pow_succ']

theorem unpack_value {o : OpA} {x : Operands} {pr : Predicate} {f : Fmt} {l : Token} (hl : x.l = some l) (hf : l.fmt = some f) (ht : typed o l o.v l = true) :
    unpackValue o x pr = .ok (fork (movedTok f o.v l fun j =>
      if pr.lane j then (if j < lanesOf f o.v / 2 ^ (o.sub + 1) then laneOf l.pay f.width (o.part * (lanesOf f o.v / 2 ^ (o.sub + 1)) + j) else 0)
      else laneOf l.pay f.width j), 0) := by
  have hlanes : ∀ (k : Nat), (fun j => if !pr.lane j then laneOf l.pay f.width j else if j < k then laneOf l.pay f.width (o.part * k + j) else 0) =
      fun j => if pr.lane j then (if j < k then laneOf l.pay f.width (o.part * k + j) else 0) else laneOf l.pay f.width j := by
    intro k
    funext j
    cases pr.lane j <;> rfl
  unfold unpackValue packL
  simp only [hl, hf, ht, if_true, groupSize_eq, hlanes]
  rfl

theorem pack_value {o : OpA} {x : Operands} {pr : Predicate} {f : Fmt} {l r : Token} (hl : x.l = some l) (hr : x.r = some r) (hf : l.fmt = some f)
    (ht : typed o l o.v l = true) (htag : r.tag = l.tag) (hscale : r.scale = l.scale) (hv : r.v = o.v) :
    packValue o x pr = .ok (fork (movedTok f o.v l fun j =>
      if pr.lane j ∧ o.part * (lanesOf f o.v / 2 ^ (o.sub + 1)) ≤ j ∧ j < o.part * (lanesOf f o.v / 2 ^ (o.sub + 1)) + lanesOf f o.v / 2 ^ (o.sub + 1)
      then laneOf r.pay f.width (j - o.part * (lanesOf f o.v / 2 ^ (o.sub + 1))) else laneOf l.pay f.width j), 0) := by
  unfold packValue packL
  simp only [hl, hr, hf, ht, htag, hscale, hv, ne_eq, not_true_eq_false, or_self, if_true, if_false, groupSize_eq]
  rfl

/-! ### Random draws -/

/-- The key or the position that a draw reads (04 R74). -/
def drawWord (t : Token) : Nat := if t.scale = 255 then 0 else laneOf t.pay 64 0

theorem drawWord_eq (t : Token) : (codeAt .z64 t 0).1 = drawWord t := by
  unfold codeAt drawWord
  by_cases hs : t.scale = 255
  · simp only [hs, if_true]
    rfl
  · simp only [beq_false_of_ne hs, hs, Bool.and_false, Bool.false_eq_true, if_false]
    rfl

/-- The tokens of a draw. -/
def drawTokens (o : OpA) (pr : Predicate) (k n : Nat) : List (Nat × Token) :=
  if o.v then fork (mkTok .z64 true 127 ((List.range 8).map fun j => if pr.lane j then cyzer k ((n + j) % 2 ^ 64) else 0)) else fork (z64Tok (cyzer k n))

theorem drawTokens_clean (o : OpA) (pr : Predicate) (k n : Nat) : drawTokens o pr k n ≠ [] ∧ (drawTokens o pr k n).any (fun x => x.2.poison) = false := by
  unfold drawTokens
  split <;> exact ⟨List.cons_ne_nil _ _, rfl⟩

theorem rng_value {o : OpA} {x : Operands} {pr : Predicate} {l r : Token} (hl : x.l = some l) (hr : (if o.i then some (z64Tok o.imm.toNat) else x.r) = some r)
    (hal : isAddr l = true) (har : isAddr r = true) : rngValue o x pr = .ok (drawTokens o pr (drawWord l) (drawWord r), 0) := by
  unfold rngValue drawTokens
  simp only [hl, hr, hal, har, Bool.and_self, Bool.not_true, Bool.false_eq_true, if_false, drawWord_eq]
  split
  · have hflags : foldFlags ((List.range 8).map fun j => if pr.lane j then (⟨cyzer (drawWord l) ((drawWord r + j) % 2 ^ 64), 0⟩ : Lane) else ⟨0, 0⟩) = 0 := by
      refine foldFlags_eq_zero fun y hy => ?_
      obtain ⟨j, -, rfl⟩ := List.mem_map.mp hy
      split <;> rfl
    unfold laneWise
    simp only [hflags, List.map_map, Function.comp_def, apply_ite Lane.code]
    rfl
  · rfl

/-- Settles O11: each value by the checks of its operands. -/
theorem formatAndRandomResults : Obligations.FormatAndRandomResults := by
  unfold Obligations.FormatAndRandomResults
  intro s o f l r pr
  refine ⟨fun hr _ hround => ufrd_emits hr hround, fun hr hl => ?one, fun hr hl => ⟨fun k t fl hf hfloat hv hk ht hlo hhi => ?scales, fun hal hsecond har => ?rng⟩,
    fun hr hl hR hf ht htag hscale hv => token_emits_LR hr (pack_value hl hR hf ht htag hscale hv) rfl⟩
  case one =>
    have hclean : l.poison = false := by simpa [hl] using left_not_poison hr.clean
    exact ⟨fun hf hnum hv hs => token_emits_L (value := fun x _ => scalegValue o x) hr (scaleg_value hl hf hnum hv hs) rfl,
      fun hb => token_emits_L (value := fun x _ => fmtchkValue o x) hr (fmtchk_value_test hl hb) rfl,
      fun hb hhit => token_emits_L (value := fun x _ => fmtchkValue o x) hr (fmtchk_value_pass hl hb hhit) hclean,
      fun hf ht => token_emits_L hr (unpack_value hl hf ht) rfl⟩
  case scales =>
    have hclean : l.poison = false := by simpa [hl] using left_not_poison hr.clean
    exact token_emits (value := fun x _ => scalesValue o x) hr (scales_value hl hf hfloat hv hk ht hlo hhi) hclean
  case rng =>
    exact arith_emits s o false 6 (!o.i) false o.v (rngValue o) (fun _ => none) pr _ 0 hr (rng_value hl hsecond hal har) (drawTokens_clean o pr _ _).1 (drawTokens_clean o pr _ _).2

end Sys2Proof.Machine

/-! PROOFS. Poison through a pure producer, and the firing that PM switches off (03 R66, 05 R106). -/

namespace Sys2Proof.Machine

/-! ### The schemes where nothing is evaluated -/

/-- A PURE PRODUCER THAT CAN FIRE and changes no state of its own: it takes its operands and emits what `decided` gives. -/
theorem pureFire_decided {s : State} {p : PureFiring} {outs : List (Nat × Token)} (hc : s.CanFire p.fl (withPm p.fl p.need))
    (hanchor : toRegister s.firing.b s.cur.idx = false ∨ anchorOutcome p (s.operands (withPm p.fl p.need)) = none)
    (hout : decided p s.firing (s.operands (withPm p.fl p.need)) = (outs, 0)) 
    (hpost : executes p (s.operands (withPm p.fl p.need)) = false ∨ p.post = fun s _ _ _ => s) :
    s.pureFire p = if outs = [] then (s.countFiring s.firing).consume s.firing (takes p.fl (withPm p.fl p.need))
      else ((s.countFiring s.firing).consume s.firing (takes p.fl (withPm p.fl p.need))).result s.firing false p.lat outs := by
  obtain ⟨hheld, hstage, hfull, hbreak⟩ := hc
  have hnone : (if toRegister s.firing.b s.firing.e.idx then anchorOutcome p (s.operands (withPm p.fl p.need)) else none) = none := by
    rcases hanchor with h | h
    · exact if_neg (by rw [firing_idx, h]; exact Bool.false_ne_true)
    · rw [h, ite_self]
  unfold State.pureFire
  simp only [hheld, hstage, Bool.not_true, Bool.or_self, Bool.false_eq_true, if_false]
  unfold State.operands at hfull hout hnone hpost
  rcases hpost with hexec | hpost
  · simp only [hfull, hbreak, Bool.false_eq_true, if_true, if_false, hnone, hout, hexec]
    rfl
  · simp only [hfull, hbreak, Bool.false_eq_true, if_true, if_false, hnone, hout, hpost, ite_self]
    rfl

/-- POISON PASSES A PURE PRODUCER that decides nothing early (03 R66). -/
theorem pureFire_poison {s : State} {p : PureFiring} {t : Token} (hc : s.CanFire p.fl (withPm p.fl p.need)) (hreg : toRegister s.firing.b s.cur.idx = false)
    (hp : (s.operands (withPm p.fl p.need)).poison = some t) (hearly : p.early (s.operands (withPm p.fl p.need)) = none) (hfork : p.outs = fork) :
    Emits s (.next (s.pureFire p)) (takes p.fl (withPm p.fl p.need)) p.lat
      (fork { t with tag := BitVec.ofNat 6 p.tag, v := p.v, scale := 127, rv := true, chain := none }) 0 := by
  have hout : decided p s.firing (s.operands (withPm p.fl p.need)) = (fork { t with tag := BitVec.ofNat 6 p.tag, v := p.v, scale := 127, rv := true, chain := none }, 0) := by
    unfold decided pureOutcome
    simp only [hp, hearly, hfork, ite_self]
  have hexec : executes p (s.operands (withPm p.fl p.need)) = false := by
    unfold executes
    simp only [hp, Option.isNone_some, Bool.false_and]
  refine ⟨_, congrArg _ ((pureFire_decided hc (Or.inl hreg) hout (Or.inl hexec)).trans (if_neg (List.cons_ne_nil _ _))), ?_⟩
  exact (fires_start s _ (isFiring_firing s) _).result _ (isFiring_firing s) _ _

/-- A PURE PRODUCER THAT PM SWITCHES OFF takes its operands and emits nothing (05 R106). -/
theorem pureFire_skip {s : State} {p : PureFiring} (hc : s.CanFire p.fl (withPm p.fl p.need)) (hp : (s.operands (withPm p.fl p.need)).poison = none)
    (hskip : predicate p.fl.pm p.vecP (s.operands (withPm p.fl p.need)).p = .skip) :
    Becomes s (.next (s.pureFire p)) (s.firedElem (takes p.fl (withPm p.fl p.need)) s.firing.thr) := by
  have hout : decided p s.firing (s.operands (withPm p.fl p.need)) = ([], 0) := by
    unfold decided pureOutcome
    simp only [hp, hskip, List.any_nil, Bool.and_false, Bool.false_eq_true, if_false]
  have hexec : executes p (s.operands (withPm p.fl p.need)) = false := by
    unfold executes
    simp only [hskip, Bool.and_false]
  have hanchor : anchorOutcome p (s.operands (withPm p.fl p.need)) = none := by
    unfold anchorOutcome
    simp only [hp, hskip]
  exact ⟨_, congrArg _ ((pureFire_decided hc (Or.inr hanchor) hout (Or.inl hexec)).trans (if_pos rfl)), fires_start s _ (isFiring_firing s) _⟩

/-- AN ANCHOR THAT PM SWITCHES OFF takes its operands and does nothing (05 R106). -/
theorem anchorFire_skip {s : State} {a : AnchorFiring} (hc : s.CanFire a.fl (withPm a.fl a.need)) (hp : (s.operands (withPm a.fl a.need)).poison = none)
    (hskip : predicate a.fl.pm false (s.operands (withPm a.fl a.need)).p = .skip) :
    Becomes s (.next (s.anchorFire a)) (s.firedElem (withPm a.fl a.need) s.firing.thr) := by
  obtain ⟨hheld, hstage, hfull, hbreak⟩ := hc
  have hrun : s.anchorFire a = (s.countFiring (s.firingOn (withPm a.fl a.need))).consume (s.firingOn (withPm a.fl a.need)) (withPm a.fl a.need) := by
    unfold State.anchorFire
    simp only [hheld, hstage, Bool.not_true, Bool.or_self]
    unfold State.operands at hfull hp hskip
    simp only [hfull, hbreak, Bool.not_true, Bool.or_self, Bool.false_eq_true, if_false, hp, hskip]
    rfl
  exact ⟨_, congrArg _ hrun, fires_start s _ (isFiring_mask s _) _⟩

/-! ### Which operand is poisoned, and what PM makes of a scalar P -/

theorem poison_of_first {x : Operands} {t : Token}
    (h : (∃ l, x.l = some l ∧ l.poison = true ∧ t = l) ∨
      (∃ l r, x.l = some l ∧ l.poison = false ∧ x.r = some r ∧ r.poison = true ∧ t = r) ∨
      (∃ l p, x.l = some l ∧ l.poison = false ∧ x.r.all (fun y => !y.poison) = true ∧ x.p = some p ∧ p.poison = true ∧ t = p)) :
    x.poison = some t ∧ t.poison = true := by
  rcases h with ⟨l, hl, hpl, rfl⟩ | ⟨l, r, hl, hpl, hr, hpr, rfl⟩ | ⟨l, p, hl, hpl, hr, hp, hpp, rfl⟩
  · simp [Operands.poison, hl, hpl]
  · simp [Operands.poison, hl, hpl, hr, hpr]
  · have hclean : x.r.any Token.poison = false := by
      cases hxr : x.r with
      | none => rfl
      | some r => simpa [hxr] using hr
    simp [Operands.poison, hl, hpl, hclean, hp, hpp]

theorem predicate_skip {pm : PM} {v : Bool} {p : Token} (hpm : pm ≠ .none) (hpred : isPred p = true) (hv : p.v = false) (ht : p.truth ≠ (pm == .onTrue)) :
    predicate pm v (some p) = .skip := by
  unfold predicate
  simp only [hpred, hv, ht, Bool.not_true, Bool.false_eq_true, if_false]

theorem operands_withPm {s : State} {fl : Flags} (need : Slots) (hpm : fl.pm ≠ .none) : (s.operands (withPm fl need)).p = s.firing.ops.p := by
  have hneed : (withPm fl need).p = true := by
    show (need.p || fl.pm != .none) = true
    rw [bne_iff_ne.mpr hpm, Bool.or_true]
  rw [operands_p, hneed, if_pos rfl]

theorem poisonTag_of_fmt {o : OpA} {u : Bool} {f : Fmt} (l : Option Token) (hf : fmtOf o.ty u = some f) : poisonTag o u l = f.tag := by
  unfold poisonTag
  rw [hf]

/-! ### The integer instructions of two operands -/

/-- POISON THROUGH AN INTEGER INSTRUCTION of two operands that decides nothing early. -/
theorem arith_poison {s : State} {o : OpA} {f : Fmt} {t : Token} {eval : Operands → Predicate → Value} (lat : Nat) (hf : fmtOf o.ty o.u = some f)
    (hc : s.CanFire o.fl (withPm o.fl { l := true, r := !o.i })) (hreg : toRegister s.firing.b s.cur.idx = false)
    (hp : (s.operands (withPm o.fl { l := true, r := !o.i })).poison = some t) (hpt : t.poison = true) :
    Emits s (.next (s.arith o o.u lat (!o.i) false o.v eval)) (takes o.fl (withPm o.fl { l := true, r := !o.i })) lat
      (fork { pay := t.pay, tag := BitVec.ofNat 6 f.tag, scale := 127, v := o.v, poison := true, rv := true, chain := none, thr := t.thr }) 0 := by
  have h := pureFire_poison (p := { fl := o.fl, vecP := o.v, lat := lat, need := { l := true, r := !o.i }, tag := poisonTag o o.u s.firing.ops.l, v := o.v, eval := eval })
    hc hreg hp rfl rfl
  rw [show t = { t with poison := true } from by rw [← hpt]] at h
  rwa [← poisonTag_of_fmt s.firing.ops.l hf]

/-- Settles O12: the pure producers by `arith_poison` and `pureFire_skip`, the anchors by `anchorFire_skip`. -/
theorem poisonAndPredication : Obligations.PoisonAndPredication := by
  unfold Obligations.PoisonAndPredication
  refine ⟨fun s o f t hf need hneed hc hreg hfirst x hx => ?_, fun s o p hpm hp hpred hv ht => ⟨fun need hneed hc hclean i hi => ?_, fun need hneed hc hclean i hi => ?_⟩⟩
  · subst hneed
    obtain ⟨_, _, _, rfl, rfl, rfl, hfirst⟩ := hfirst
    obtain ⟨hpoison, hpt⟩ := poison_of_first hfirst
    simp only [List.mem_cons, List.not_mem_nil, or_false] at hx
    rcases hx with rfl | rfl | rfl | rfl | rfl <;> exact arith_poison _ hf hc hreg hpoison hpt
  · subst hneed
    have hskip : predicate o.fl.pm o.v (s.operands (withPm o.fl { l := true, r := !o.i })).p = .skip := by
      rw [operands_withPm _ hpm, hp]
      exact predicate_skip hpm hpred hv ht
    simp only [List.mem_cons, List.not_mem_nil, or_false] at hi
    rcases hi with rfl | rfl | rfl | rfl | rfl | rfl | rfl | rfl <;> exact pureFire_skip hc hclean hskip
  · subst hneed
    have hskip : predicate o.fl.pm false (s.operands (withPm o.fl needL)).p = .skip := by
      rw [operands_withPm _ hpm, hp]
      exact predicate_skip hpm hpred hv ht
    simp only [List.mem_cons, List.not_mem_nil, or_false] at hi
    rcases hi with rfl | rfl | rfl <;> exact anchorFire_skip hc hclean hskip

end Sys2Proof.Machine

/-! PROOFS. Early firing on an operand that decides (03 R48 R50). -/

namespace Sys2Proof.Machine

/-- The operands of L and R where R has not come. -/
theorem operands_leftOnly {s : State} {l : Token} (hl : s.firing.ops.l = some l) (hr : s.firing.ops.r = none) :
    s.operands needLR = { l := some l, r := none, p := none } := by
  unfold State.operands Operands.mask
  simp [needLR, hl, hr]

/-- AN OPERAND DECIDES A PURE PRODUCER EARLY (03 R48 R50): with E, on L alone, it takes L, sends an anti-token up R and emits the decision. -/
theorem pureFire_early {s : State} {p : PureFiring} {l : Token} {outs : List (Nat × Token)} {fl : Nat} (he : p.fl.e = true) (hb : p.fl.b = false)
    (hreg : toRegister s.firing.b s.cur.idx = false) (hheld : s.here.held = false) (hstage : stageFree s.here s.fc = true)
    (hneed : withPm p.fl p.need = needLR) (hl : s.firing.ops.l = some l) (hr : s.firing.ops.r = none) (hanti : antiCanLeave s.firing.b s.cur.idx .r = true)
    (hearly : p.early (s.operands needLR) = some (outs, fl)) (hno : outs ≠ []) :
    Becomes s (.next (s.pureFire p)) (((s.firedElem needL s.firing.thr).sendAnti .r).plus (s.resultOf p.lat s.firing.thr outs)) fl := by
  have hops := operands_leftOnly hl hr
  have hI := isFiring_firing s
  obtain ⟨hcounted, hwithin, hnstage⟩ := countFiring_spec s s.firing hI
  have helem : ((s.countFiring s.firing).elem s.cur).early needLR (s.operands needLR) = (s.firedElem needL s.firing.thr).sendAnti .r := by
    rw [hcounted, hops]
    rfl
  have hready : ready (s.operands needLR) needLR = false := by rw [hops]; rfl
  have hleave : antisCanLeave s.firing needLR (s.operands needLR) = true := by
    unfold antisCanLeave
    rw [hops]
    simpa [needLR, firing_idx] using hanti
  have hrun : s.pureFire p = (((s.countFiring s.firing).setElem s.cur ((s.firedElem needL s.firing.thr).sendAnti .r)).stageFlags s.firing fl).result s.firing false p.lat outs := by
    have hel : s.firing.el.held = false := hheld
    have hst : stageFree s.firing.el s.fc = true := hstage
    unfold State.operands at hearly hready hleave helem
    unfold State.pureFire
    simp only [hneed, hel, hst, hready, Bool.not_true, Bool.or_self, Bool.false_eq_true, if_false, he, hb, firing_idx, hreg, Bool.not_false, Bool.and_self, if_true, hearly,
      hleave, hno]
    rw [← helem]
    rfl
  have hset := hwithin.setElem ((s.firedElem needL s.firing.thr).sendAnti .r)
  obtain ⟨hflagElem, hflagFrame, hflagStage⟩ := stageFlags_spec s.firing hI fl hset
  have hfires : Fires s ((s.firedElem needL s.firing.thr).sendAnti .r) fl
      (((s.countFiring s.firing).setElem s.cur ((s.firedElem needL s.firing.thr).sendAnti .r)).stageFlags s.firing fl) := by
    refine ⟨hflagElem.trans (State.elem_setElem_same _ _ _), ?_, hflagFrame⟩
    rw [hflagStage, State.bank_setElem_same, ← hnstage]
    rfl
  exact ⟨_, congrArg _ hrun, hfires.result _ hI _ _⟩

/-- The decision of a zero on L for AND and MUL (03 R48). -/
theorem zeroEarly_left {o : OpA} {f : Fmt} {l : Token} (hi : o.i = false) (hov : o.v = false) (hf : fmtOf o.ty o.u = some f) (hl : l.fmt = some f) (hv : l.v = false)
    (hp : l.poison = false) (hs : scaleOk l = true) (h0 : (codeAt f l 0).1 = 0) :
    zeroEarly o (fun _ => 0) { l := some l, r := none, p := none } = some (fork (mkTok f false 127 [0]), l.numFlags) := by
  have hdata : dataOk o.ty false l = true := by
    unfold dataOk tyAccepts
    simp [hl, ty_of_fmtOf hf, hv, hs]
  have hlanes : allLanes f l 0 = true := by
    unfold allLanes lanesOf
    simp [hv, h0]
  unfold zeroEarly
  simp [hf, hi, hov, hp, hdata, hlanes, lanesOf, fork]

/-- Settles O13: AND and MUL decide on a zero of L, by `zeroEarly_left` and `pureFire_early`. -/
theorem earlyFiringSendsAnAntiToken : Obligations.EarlyFiringSendsAnAntiToken := by
  unfold Obligations.EarlyFiringSendsAnAntiToken
  intro s o f l he hb _ hpm hi hov hheld hstage hl hr hf hreg hlf hlv hlp _ hs h0 hanti x hx
  have hneed : withPm o.fl { l := true, r := !o.i } = needLR := by
    unfold withPm needLR
    simp [hpm, hi]
  have hops := operands_leftOnly hl hr
  have hearly : zeroEarly o (fun _ => 0) (s.operands needLR) = some (fork (mkTok f false 127 [0]), l.numFlags) := by
    rw [hops]
    exact zeroEarly_left hi hov hf hlf hlv hlp hs h0
  simp only [List.mem_cons, List.not_mem_nil, or_false] at hx
  rcases hx with rfl | rfl <;> exact pureFire_early he hb hreg hheld hstage hneed hl hr hanti hearly (List.cons_ne_nil _ _)

end Sys2Proof.Machine

/-! PROOFS. STEER, MERGE, FANOUT, DROP, ORDF and ORDJ (06 R129-R132). -/

namespace Sys2Proof.Machine

/-- With no PM the slots of a firing are those it names. -/
theorem withPm_off {fl : Flags} (need : Slots) (hpm : fl.pm = .none) : withPm fl need = need := by
  unfold withPm
  rw [hpm]
  simp

/-- The slots that need P already have it under any PM. -/
theorem withPm_of_p {fl : Flags} {need : Slots} (hp : need.p = true) : withPm fl need = need := by
  unfold withPm
  rw [hp, Bool.true_or, ← hp]

theorem poison_step {a b : Option Token} (h : (if a.any Token.poison then a else b) = none) : (∀ t, a = some t → t.poison = false) ∧ b = none := by
  cases a with
  | none => exact ⟨fun _ ht => absurd ht (Option.some_ne_none _).symm, by simpa using h⟩
  | some t =>
    cases hp : t.poison with
    | true => simp [hp] at h
    | false => exact ⟨fun _ hu => by cases hu; exact hp, by simpa [hp] using h⟩

/-- No operand of an executing firing is poison. -/
theorem clean_operand {x : Operands} (h : x.poison = none) :
    (∀ t, x.l = some t → t.poison = false) ∧ (∀ t, x.r = some t → t.poison = false) ∧ (∀ t, x.p = some t → t.poison = false) := by
  unfold Operands.poison at h
  obtain ⟨hl, h⟩ := poison_step h
  obtain ⟨hr, h⟩ := poison_step h
  exact ⟨hl, hr, (poison_step h).1⟩

/-- A PURE PRODUCER whose value is no token takes its operands and emits nothing. -/
theorem pureFire_silent {s : State} {p : PureFiring} {pr : Predicate} (hr : s.Runs p.fl p.vecP p.need pr)
    (hv : p.eval (s.operands (withPm p.fl p.need)) pr = .ok ([], 0)) (hpost : p.post = fun s _ _ _ => s) :
    Becomes s (.next (s.pureFire p)) (s.firedElem (takes p.fl (withPm p.fl p.need)) s.firing.thr) := by
  obtain ⟨hcan, hp, all, bits, rfl, hpred⟩ := hr
  have hout : decided p s.firing (s.operands (withPm p.fl p.need)) = ([], 0) := by
    unfold decided pureOutcome
    simp only [hp, hpred, hv, List.any_nil, Bool.and_false, Bool.false_eq_true, if_false]
  have hanchor : anchorOutcome p (s.operands (withPm p.fl p.need)) = none := by
    unfold anchorOutcome
    simp only [hp, hpred, hv]
  exact ⟨_, congrArg _ ((pureFire_decided hcan (Or.inr hanchor) hout (Or.inr hpost)).trans (if_pos rfl)), fires_start s _ (isFiring_firing s) _⟩

theorem drop_becomes {s : State} {o : OpA} {pr : Predicate} (hpm : o.fl.pm = .none) (hr : s.Runs o.fl false needL pr) :
    Becomes s (exec (.drop o) s) (s.firedElem (takes o.fl needL) s.firing.thr) := by
  have h := pureFire_silent (p := { fl := o.fl, vecP := false, lat := 1, need := needL, tag := 5, v := false, outs := fun _ => [], eval := fun _ _ => .ok ([], 0) }) hr rfl rfl
  rwa [withPm_off needL hpm] at h

/-! ### STEER and MERGE -/

/-- The firing of STEER on a P that is not poison. -/
def steerFiring (o : OpA) (s : State) : PureFiring :=
  { fl := o.fl, vecP := false, lat := 1, need := needLP, tag := routeTag o.ty s.firing.ops.l, v := s.firing.ops.l.any Token.v,
    outs := fun t => [(if s.firing.ops.p.any Token.truth then 0 else 1, t)]
    eval := fun x _ => match x.l, x.p with
      | some l, some p => if isScalarPred p && routeOk o.ty l then .ok ([(if s.firing.ops.p.any Token.truth then 0 else 1, l.pass)], 0) else .error fFormat
      | _, _ => .error fFormat
    early := steerEarly o }

theorem exec_steer_clean {s : State} {o : OpA} (h : s.firing.ops.p.any Token.poison = false) : exec (.steer o) s = .next (s.pureFire (steerFiring o s)) := by
  show execSteer o s = _
  unfold execSteer
  simp only [h, Bool.and_false, Bool.false_eq_true, if_false]
  rfl

theorem steer_emits {s : State} {o : OpA} {l p : Token} {pr : Predicate} (hr : s.Runs o.fl false needLP pr)
    (hl : (s.operands needLP).l = some l) (hp : (s.operands needLP).p = some p) (hpred : isScalarPred p = true) (hok : routeOk o.ty l = true) :
    Emits s (exec (.steer o) s) (takes o.fl needLP) 1 [(if p.truth then 0 else 1, l.pass)] 0 := by
  have hneed : withPm o.fl needLP = needLP := withPm_of_p rfl
  have hclean := hr.clean
  rw [hneed] at hclean
  obtain ⟨hpl, -, hpp⟩ := clean_operand hclean
  have hP : s.firing.ops.p = some p := hp
  rw [exec_steer_clean (by rw [hP]; exact hpp p hp)]
  have hv : (steerFiring o s).eval (s.operands (withPm o.fl needLP)) pr = .ok ([(if p.truth then 0 else 1, l.pass)], 0) := by
    simp only [steerFiring, hneed, hl, hp, hP, hpred, hok, Bool.and_self, if_true, Option.any_some]
  have h := pure_emits (p := steerFiring o s) hr hv (List.cons_ne_nil _ _) (by simp [Token.pass, hpl l hl]) rfl
  rw [show withPm (steerFiring o s).fl (steerFiring o s).need = needLP from hneed] at h
  exact h

/-- The value of MERGE: the input that P chooses. -/
def mergeValue (o : OpA) (x : Operands) (_ : Predicate) : Value :=
  match x.p, mergePick x with
  | some p, some t => if isScalarPred p && routeOk o.ty t then .ok (fork t.pass, 0) else .error fFormat
  | _, _ => .error fFormat

/-- The firing of MERGE: under E both inputs are needed, and without E the one that P chooses. -/
def mergeFiring (o : OpA) (s : State) (need : Slots) (tag : Nat) (early : Operands → Option (List (Nat × Token) × Nat)) : PureFiring :=
  { fl := o.fl, vecP := false, lat := 1, need := need, tag := tag, v := (mergePick s.firing.ops).any Token.v, eval := mergeValue o, early := early }

theorem exec_merge_early {s : State} {o : OpA} (he : o.fl.e = true) :
    exec (.merge o) s = .next (s.pureFire (mergeFiring o s { l := true, r := true, p := true } (routeTag o.ty none) (mergeEarly o))) := by
  show execMerge o s = _
  unfold execMerge
  simp only [he, if_true]
  rfl

theorem exec_merge_late {s : State} {o : OpA} {p : Token} (he : o.fl.e = false) (hp : s.firing.ops.p = some p) (hpp : p.poison = false) :
    exec (.merge o) s = .next (s.pureFire (mergeFiring o s { l := p.truth, r := !p.truth, p := true } (routeTag o.ty (mergePick s.firing.ops)) (fun _ => none))) := by
  show execMerge o s = _
  unfold execMerge
  simp only [he, hp, hpp, Bool.false_and, Bool.false_eq_true, if_false]
  rfl

theorem mergeFiring_emits {s : State} {o : OpA} {p t : Token} {need : Slots} {pr : Predicate} {tag : Nat} {early : Operands → Option (List (Nat × Token) × Nat)}
    (hneed : need.p = true) (hr : s.Runs o.fl false need pr) (hp : s.firing.ops.p = some p) (hpred : isScalarPred p = true)
    (ht : (if p.truth then (s.operands need).l else (s.operands need).r) = some t) (hok : routeOk o.ty t = true) :
    Emits s (.next (s.pureFire (mergeFiring o s need tag early))) (takes o.fl need) 1 (fork t.pass) 0 := by
  have hw : withPm o.fl need = need := withPm_of_p hneed
  have hclean := hr.clean
  rw [hw] at hclean
  obtain ⟨hpl, hpr, -⟩ := clean_operand hclean
  have htp : t.poison = false := by
    split at ht
    · exact hpl t ht
    · exact hpr t ht
  have hopP : (s.operands need).p = some p := by rw [operands_p, hneed, if_pos rfl, hp]
  have hv : (mergeFiring o s need tag early).eval (s.operands (withPm o.fl need)) pr = .ok (fork t.pass, 0) := by
    simp only [mergeFiring, mergeValue, mergePick, hw, hopP, Option.bind_some, ht, hpred, hok, Bool.and_self, if_true]
  have h := pure_emits (p := mergeFiring o s need tag early) hr hv (List.cons_ne_nil _ _) (by simp [fork, Token.pass, htp]) rfl
  rw [show withPm (mergeFiring o s need tag early).fl (mergeFiring o s need tag early).need = need from hw] at h
  exact h

theorem merge_emits {s : State} {o : OpA} {p t : Token} {need : Slots} {pr : Predicate} (hneed : need = { l := o.fl.e || p.truth, r := o.fl.e || !p.truth, p := true })
    (hr : s.Runs o.fl false need pr) (hp : s.firing.ops.p = some p) (hpred : isScalarPred p = true)
    (ht : (if p.truth then (s.operands need).l else (s.operands need).r) = some t) (hok : routeOk o.ty t = true) :
    Emits s (exec (.merge o) s) (takes o.fl need) 1 (fork t.pass) 0 := by
  have hneedP : need.p = true := by rw [hneed]
  have hclean := hr.clean
  rw [withPm_of_p hneedP] at hclean
  have hpp : p.poison = false := (clean_operand hclean).2.2 p (by rw [operands_p, hneedP, if_pos rfl, hp])
  cases he : o.fl.e with
  | true =>
    rw [exec_merge_early he]
    rw [he, Bool.true_or, Bool.true_or] at hneed
    rw [← hneed]
    exact mergeFiring_emits hneedP hr hp hpred ht hok
  | false =>
    rw [exec_merge_late he hp hpp]
    rw [he, Bool.false_or, Bool.false_or] at hneed
    rw [← hneed]
    exact mergeFiring_emits hneedP hr hp hpred ht hok

/-! ### FANOUT and the order operators -/

/-- The firing of FANOUT. -/
def fanoutFiring (o : OpB) (s : State) : PureFiring :=
  { fl := o.fl, vecP := false, lat := 1, need := needL, tag := 1, v := s.firing.ops.l.any Token.v, outs := fun t => [(0, t), (1, t), (2, t), (3, t)]
    eval := fun x _ => match x.l with
      | some l => if tagNamed l && l.tag != 0 && (l.fmt.isNone || scaleOk l) then .ok ([(0, l.pass), (1, l.pass), (2, l.pass), (3, l.pass)], 0) else .error fFormat
      | none => .error fFormat }

theorem fanout_emits {s : State} {o : OpB} {l : Token} {pr : Predicate} (hpm : o.fl.pm = .none) (hr : s.Runs o.fl false needL pr) (hl : (s.operands needL).l = some l)
    (hnamed : tagNamed l = true) (htag : l.tag ≠ 0) (hs : (l.fmt.isNone || scaleOk l) = true) :
    Emits s (exec (.fanout o) s) (takes o.fl needL) 1 ([0, 1, 2, 3].map (fun k => (k, l.pass))) 0 := by
  have hneed : withPm o.fl needL = needL := withPm_off needL hpm
  have hclean := hr.clean
  rw [hneed] at hclean
  have hpl := (clean_operand hclean).1 l hl
  have hv : (fanoutFiring o s).eval (s.operands (withPm o.fl needL)) pr = .ok ([0, 1, 2, 3].map (fun k => (k, l.pass)), 0) := by
    simp only [fanoutFiring, hneed, hl, hnamed, bne_iff_ne.mpr htag, hs, Bool.and_self, if_true]
    rfl
  have h := pure_emits (p := fanoutFiring o s) hr hv (List.cons_ne_nil _ _) (by simp [Token.pass, hpl]) rfl
  rw [show withPm (fanoutFiring o s).fl (fanoutFiring o s).need = needL from hneed] at h
  exact h

theorem ordf_emits {s : State} {o : OpA} {l : Token} (hc : s.CanFire o.fl needL) (hl : (s.operands needL).l = some l) (hord : isOrder l = true) (hp : l.poison = false) :
    Emits s (exec (.ordf o) s) needL 1 (fork l.pass) 0 := by
  show Emits s (execOrdf o s) _ _ _ _
  unfold execOrdf
  refine routeFire_becomes s o.fl needL needL _ _ _ hc ?_ (fun u hu => ?_)
  · simp only [hl, wantOperand_good hp hord]
  · simp only [hl]
    exact hu.result _ (isFiring_mask s _) 1 _

theorem wantOperand_all {bit : Nat} {t : Option Token} {good : Token → Bool} (h : t.all (fun t => good t && !t.poison) = true) : wantOperand bit t good = none := by
  cases t with
  | none => rfl
  | some t =>
    simp only [Option.all_some, Bool.and_eq_true, Bool.not_eq_true'] at h
    exact wantOperand_good h.2 h.1

theorem ordj_emits {s : State} {o : OpA} {l : Token} {need : Slots} (hneed : need = { l := true, r := true, p := o.bit 0 }) (hc : s.CanFire o.fl need)
    (hl : (s.operands need).l = some l)
    (hall : ∀ x ∈ [(s.operands need).l, (s.operands need).r, (s.operands need).p], x.all (fun t => isOrder t && !t.poison) = true) :
    Emits s (exec (.ordj o) s) need 1 [(0, l.pass)] 0 := by
  show Emits s (execOrdj o s) _ _ _ _
  unfold execOrdj
  simp only [← hneed]
  refine routeFire_becomes s o.fl need need _ _ _ hc ?_ (fun u hu => ?_)
  · simp only [wantOperand_all (hall (s.operands need).l (by simp)), wantOperand_all (hall (s.operands need).r (by simp)),
      wantOperand_all (hall (s.operands need).p (by simp)), firstFault]
  · simp only [hl]
    exact hu.result _ (isFiring_mask s _) 1 _

/-- Settles O14, one lemma per operator. -/
theorem steeringAndCopying : Obligations.SteeringAndCopying := by
  unfold Obligations.SteeringAndCopying
  intro s o l p ob
  exact ⟨fun _ hr hl hp hpred hok => steer_emits hr hl hp hpred hok,
    fun _ hp hpred need hneed hr t ht hok => merge_emits hneed hr hp hpred ht hok,
    fun hpm hr hl hnamed htag hs => fanout_emits hpm hr hl hnamed htag hs,
    fun hpm hr => drop_becomes hpm hr,
    fun hc hl hord hp => ordf_emits hc hl hord hp,
    fun need hneed hc hl hall => ordj_emits hneed hc hl hall⟩

end Sys2Proof.Machine

/-! PROOFS. GATE and COUNT (06 R136 R138). -/

namespace Sys2Proof.Machine

theorem Fires.setElem {s t : State} {el : Elem} {fl : Nat} (h : Fires s el fl t) (x : Elem) : Fires s x fl (t.setElem s.cur x) := by
  refine ⟨State.elem_setElem_same _ _ _, ?_, h.frame.setElem x⟩
  rw [State.bank_setElem_same, ← h.flags]
  rfl

/-- Flags staged by a firing that has staged none. -/
theorem Fires.stageFlags {s t : State} {el : Elem} (h : Fires s el 0 t) (f : Firing) (hf : IsFiring s f) (fl : Nat) : Fires s el fl (t.stageFlags f fl) := by
  obtain ⟨helem, hframe, hstage⟩ := stageFlags_spec f hf fl h.frame
  refine ⟨helem.trans h.elem, ?_, hframe⟩
  rw [hstage, h.flags, if_pos rfl, List.append_nil]

/-- A ROUTER OPERATOR THAT EXECUTES, with flags. -/
theorem routeFire_flags {s : State} {fl : Flags} {need take : Slots} {check : Firing → OperandFault} {act : State → Firing → State} {el : Elem} {flags : Nat}
    (hc : s.CanFire fl need) (hk : check (s.firingOn need) = none)
    (ha : ∀ u, Fires s (s.firedElem take s.firing.thr) 0 u → Fires s el flags (act u (s.firingOn need))) :
    Becomes s (.next (s.routeFire fl need take check act)) el flags :=
  ⟨_, congrArg _ (routeFire_runs s fl need take check act hc hk), ha _ (fires_start s _ (isFiring_mask s _) take)⟩

theorem operands_l (s : State) (need : Slots) : (s.operands need).l = if need.l then s.firing.ops.l else none := rfl

theorem readFlags_r (x : Operands) : readFlags x { r := true } = if x.r.any Token.zeroed then flagNV else 0 := by
  unfold readFlags Operands.mask
  simp

/-! ### GATE -/

/-- The credits of a GATE that holds c of them, or of one that is first loaded. -/
theorem gateCredits_eq {o : OpA} {x : OpState} {c : Nat} (h : x = .gate c ∨ (∀ k, x ≠ .gate k) ∧ c = o.imm.toNat) : gateCredits o x = c := by
  rcases h with rfl | ⟨hnot, rfl⟩
  · rfl
  · unfold gateCredits
    split
    next _ k => exact absurd rfl (hnot k)
    next => rfl

theorem gate_credit {s : State} {o : OpA} {r : Token} {c : Nat} (hcr : gateCredits o s.here.ost = c) (hheld : s.here.held = false)
    (hbreak : (o.fl.b && !s.here.bpass) = false) (hr : s.firing.ops.r = some r) (hw : isW32 r = true) (hp : r.poison = false) :
    Becomes s (exec (.gateCreditFiring o) s)
      { s.firedElem { r := true } s.firing.thr with ost := .gate (min (c + r.low32) 0xFFFFFFFF), last := s.here.last } r.numFlags := by
  have hI := isFiring_mask s (s.operands { r := true })
  have hopR : (s.operands { r := true }).r = some r := hr
  have hflags : readFlags (s.operands { r := true }) { r := true } = r.numFlags := by
    rw [readFlags_r, hopR]
    rfl
  have hstart := (fires_start s _ hI { r := true }).stageFlags _ hI r.numFlags
  have hset := hstart.setElem { s.firedElem { r := true } s.firing.thr with ost := .gate (min (c + r.low32) 0xFFFFFFFF), last := s.here.last }
  refine ⟨_, ?_, hset⟩
  have hel : s.firing.el.held = false := hheld
  have hbr : breaks o.fl s.firing.el = false := hbreak
  have hst : gateCredits o s.firing.el.ost = c := hcr
  show execGateCreditFiring o s = _
  unfold execGateCreditFiring
  unfold State.operands at hopR hflags
  simp only [hel, hopR, hbr, Option.isNone_some, Bool.or_self, Bool.false_eq_true, if_false, wantOperand_good hp hw, hflags, hst, Option.map_some, Option.getD_some]
  rw [← hstart.elem]
  rfl

theorem firstFault_two : firstFault [none, none] = none := rfl

/-- The check of GATE's pass firing. -/
theorem gate_pass_check {s : State} {o : OpA} {l p : Token} (hl : s.firing.ops.l = some l) (hok : (l.poison || routeOk o.ty l) = true)
    (hp : s.firing.ops.p = some p) (hpred : isScalarPred p = true) (hpp : p.poison = false) :
    firstFault [wantOperand 2 (s.operands needLP).p isScalarPred, wantData 0 o.ty (s.operands needLP).l] = none := by
  rw [operands_p, operands_l]
  simp only [needLP, if_true, hl, hp, wantOperand_good hpp hpred, wantData_good hok, firstFault_two]

/-- The action of GATE's pass firing, with c credits. -/
def gatePassAct (c : Nat) (s : State) (f : Firing) : State :=
  match f.ops.l, f.ops.p with
  | some l, some p => if p.truth then (s.setOst f.e (.gate (c - 1))).result f false 1 [(0, l.pass)] else s.result f false 1 [(1, l.pass)]
  | _, _ => s

theorem exec_gate_pass {s : State} {o : OpA} {p : Token} {c : Nat} (hcr : gateCredits o s.here.ost = c) (hp : s.firing.ops.p = some p)
    (hgo : (p.truth && c == 0) = false) :
    exec (.gatePassFiring o) s = .next (s.routeFire o.fl needLP needLP
      (fun f => firstFault [wantOperand 2 f.ops.p isScalarPred, wantData 0 o.ty f.ops.l]) (gatePassAct c)) := by
  have hst : gateCredits o s.firing.el.ost = c := hcr
  have hno : (isScalarPred p && !p.poison && p.truth && c == 0) = false := by rw [Bool.and_assoc, hgo, Bool.and_false]
  show execGatePassFiring o s = _
  unfold execGatePassFiring
  simp only [hst, hp, Option.any_some, hno, Bool.false_eq_true, if_false]
  rfl

theorem gate_waits {s : State} {o : OpA} {p : Token} (hcr : gateCredits o s.here.ost = 0) (hp : s.firing.ops.p = some p) (hpred : isScalarPred p = true)
    (hpp : p.poison = false) (ht : p.truth = true) : exec (.gatePassFiring o) s = .next s := by
  have hst : gateCredits o s.firing.el.ost = 0 := hcr
  show execGatePassFiring o s = _
  unfold execGatePassFiring
  simp only [hst, hp, Option.any_some, hpred, hpp, ht, Bool.not_false, Bool.and_self, beq_self_eq_true, if_true]

theorem gate_passes {s : State} {o : OpA} {l p : Token} {c : Nat} (hcr : gateCredits o s.here.ost = c) (hc : s.CanFire o.fl needLP) (hl : s.firing.ops.l = some l)
    (hok : (l.poison || routeOk o.ty l) = true) (hp : s.firing.ops.p = some p) (hpred : isScalarPred p = true) (hpp : p.poison = false) (ht : p.truth = true) (h0 : 0 < c) :
    Becomes s (exec (.gatePassFiring o) s) ({ s.firedElem needLP s.firing.thr with ost := .gate (c - 1) }.plus (s.resultOf 1 s.firing.thr [(0, l.pass)])) := by
  rw [exec_gate_pass hcr hp (by simp [ht, Nat.pos_iff_ne_zero.mp h0])]
  refine routeFire_becomes s o.fl _ _ _ _ _ hc (gate_pass_check hl hok hp hpred hpp) (fun u hu => ?_)
  have hact : gatePassAct c u (s.firingOn needLP) = (u.setOst s.cur (.gate (c - 1))).result (s.firingOn needLP) false 1 [(0, l.pass)] := by
    unfold gatePassAct
    simp only [operands_l, operands_p, needLP, if_true, hl, hp, ht]
    rfl
  rw [hact]
  exact (hu.setOst _).result _ (isFiring_mask s _) 1 _

theorem gate_diverts_false {s : State} {o : OpA} {l p : Token} {c : Nat} (hcr : gateCredits o s.here.ost = c) (hc : s.CanFire o.fl needLP) (hl : s.firing.ops.l = some l)
    (hok : (l.poison || routeOk o.ty l) = true) (hp : s.firing.ops.p = some p) (hpred : isScalarPred p = true) (hpp : p.poison = false) (hf : p.truth = false) :
    Becomes s (exec (.gatePassFiring o) s) ((s.firedElem needLP s.firing.thr).plus (s.resultOf 1 s.firing.thr [(1, l.pass)])) := by
  rw [exec_gate_pass hcr hp (by rw [hf, Bool.false_and])]
  refine routeFire_becomes s o.fl _ _ _ _ _ hc (gate_pass_check hl hok hp hpred hpp) (fun u hu => ?_)
  have hact : gatePassAct c u (s.firingOn needLP) = u.result (s.firingOn needLP) false 1 [(1, l.pass)] := by
    unfold gatePassAct
    simp only [operands_l, operands_p, needLP, if_true, hl, hp, hf, Bool.false_eq_true, if_false]
  rw [hact]
  exact hu.result _ (isFiring_mask s _) 1 _

/-! ### The count of COUNT and REPEAT -/

/-- The count is n, and reading it stages fl: imm18 under I, and otherwise R's low 32 bits (06 R137). -/
def CountIs (s : State) (o : OpA) (n fl : Nat) : Prop :=
  o.i = true ∧ n = o.imm.toNat ∧ fl = 0 ∨
    o.i = false ∧ ∃ r, s.firing.ops.r = some r ∧ isW32 r = true ∧ r.poison = false ∧ n = r.low32 ∧ fl = r.numFlags

/-- What a firing that needs the count reads. -/
theorem CountIs.reads {s : State} {o : OpA} {n fl : Nat} {need : Slots} (h : CountIs s o n fl) (hneed : need.r = !o.i) :
    countOperand o (s.operands need) = n ∧ wantOperand 1 (s.operands need).r isW32 = none ∧ readFlags (s.operands need) { r := true } = fl := by
  rw [readFlags_r, operands_r, hneed]
  rcases h with ⟨hi, rfl, rfl⟩ | ⟨hi, r, hr, hw, hp, rfl, rfl⟩
  · unfold countOperand
    simp only [hi, Bool.not_true, Bool.false_eq_true, if_false, if_true]
    exact ⟨trivial, rfl, rfl⟩
  · unfold countOperand
    rw [operands_r, hneed]
    simp only [hi, Bool.not_false, Bool.false_eq_true, if_false, if_true, hr, wantOperand_good hp hw]
    exact ⟨rfl, trivial, rfl⟩

theorem CountIs.countOperand {s : State} {o : OpA} {n fl : Nat} (h : CountIs s o n fl) : countOperand o s.firing.ops = n := by
  unfold Machine.countOperand
  rcases h with ⟨hi, rfl, rfl⟩ | ⟨hi, r, hr, -, -, rfl, rfl⟩
  · rw [if_pos hi]
  · rw [if_neg (by simp [hi]), hr]
    rfl

/-! ### COUNT -/

theorem groupCount_eq {x : OpState} {c : Nat} (h : x = .count c ∨ (∀ k, x ≠ .count k) ∧ c = 0) : groupCount x = c := by
  rcases h with rfl | ⟨hnot, rfl⟩
  · rfl
  · unfold groupCount
    split
    next _ k => exact absurd rfl (hnot k)
    next => rfl

/-- The check of COUNT's L firing of a group of n. -/
def countLCheck (o : OpA) (n : Nat) (f : Firing) : OperandFault :=
  firstFault [wantOperand 1 f.ops.r isW32, wantData 0 o.ty f.ops.l, if n = 0 then some (if o.i then 0 else 1, fRouting, 0) else none]

/-- Its action: c is the size of the group with this L, and turn tells whether a P firing comes next. -/
def countLAct (n c : Nat) (turn : Bool) (s : State) (f : Firing) : State :=
  let s := s.setElem f.e { s.elem f.e with pturn := turn }
  let s := s.stageFlags f (readFlags f.ops { r := true })
  match f.ops.l with
  | some l =>
    if c = n then (s.setOst f.e (.count 0)).result f false 1 [(0, l.pass), (1, scalarTok .z32 n)]
    else (s.setOst f.e (.count c)).result f false 1 [(0, l.pass)]
  | none => s

theorem exec_countL {s : State} {o : OpA} {n c : Nat} (hn : countOperand o s.firing.ops = n) (hcount : groupCount s.here.ost = c) :
    exec (.countLFiring o) s = .next (s.routeFire o.fl { l := true, r := !o.i } { l := true, r := !o.i && c + 1 == n } (countLCheck o n)
      (countLAct n (c + 1) (countP o s.firing.ops))) := by
  have hst : groupCount s.firing.el.ost = c := hcount
  show execCountLFiring o s = _
  unfold execCountLFiring
  simp only [hn, hst]
  rfl

/-- The start of COUNT's L firing. -/
theorem countL_start {s u : State} {take : Slots} {turn : Bool} {fl : Nat} {f : Firing} (hf : IsFiring s f) (hread : readFlags f.ops { r := true } = fl)
    (hu : Fires s (s.firedElem take s.firing.thr) 0 u) :
    Fires s { s.firedElem take s.firing.thr with pturn := turn } fl ((u.setElem s.cur { u.elem s.cur with pturn := turn }).stageFlags f (readFlags f.ops { r := true })) := by
  rw [hread, hu.elem]
  exact (hu.setElem _).stageFlags f hf fl

theorem countL_check {s : State} {o : OpA} {l : Token} {n fl : Nat} (hn : CountIs s o n fl) (hl : s.firing.ops.l = some l) (hok : (l.poison || routeOk o.ty l) = true) :
    countLCheck o n (s.firingOn { l := true, r := !o.i }) = if n = 0 then some (if o.i then 0 else 1, fRouting, 0) else none := by
  unfold countLCheck
  simp only [(hn.reads (need := { l := true, r := !o.i }) rfl).2.1, operands_l, if_true, hl, wantData_good hok, firstFault]
  split <;> rfl

theorem countL_closes {s : State} {o : OpA} {l : Token} {n c fl : Nat} (hcount : groupCount s.here.ost = c) (hn : CountIs s o n fl)
    (hc : s.CanFire o.fl { l := true, r := !o.i }) (hl : s.firing.ops.l = some l) (hok : (l.poison || routeOk o.ty l) = true) (hlast : c + 1 = n) :
    Becomes s (exec (.countLFiring o) s) ({ s.firedElem { l := true, r := !o.i } s.firing.thr with ost := .count 0, pturn := countP o s.firing.ops }.plus
      (s.resultOf 1 s.firing.thr [(0, l.pass), (1, z32 n)])) fl := by
  have hpos : n ≠ 0 := by omega
  rw [exec_countL hn.countOperand hcount, beq_iff_eq.mpr hlast, Bool.and_true]
  refine routeFire_flags hc ((countL_check hn hl hok).trans (if_neg hpos)) (fun u hu => ?_)
  have hI := isFiring_mask s (s.operands { l := true, r := !o.i })
  unfold countLAct
  simp only [operands_l, if_true, hl]
  rw [if_pos hlast]
  exact ((countL_start (turn := countP o s.firing.ops) hI (hn.reads rfl).2.2 hu).setOst (.count 0)).result _ hI 1 _

theorem countL_goes_on {s : State} {o : OpA} {l : Token} {n c fl : Nat} (hcount : groupCount s.here.ost = c) (hn : CountIs s o n fl)
    (hc : s.CanFire o.fl { l := true, r := !o.i }) (hl : s.firing.ops.l = some l) (hok : (l.poison || routeOk o.ty l) = true) (hpos : 0 < n) (hmore : c + 1 ≠ n) :
    Becomes s (exec (.countLFiring o) s) ({ s.firedElem needL s.firing.thr with ost := .count (c + 1), pturn := countP o s.firing.ops }.plus
      (s.resultOf 1 s.firing.thr [(0, l.pass)])) fl := by
  rw [exec_countL hn.countOperand hcount, beq_false_of_ne hmore, Bool.and_false]
  refine routeFire_flags hc ((countL_check hn hl hok).trans (if_neg (by omega))) (fun u hu => ?_)
  have hI := isFiring_mask s (s.operands { l := true, r := !o.i })
  unfold countLAct
  simp only [operands_l, if_true, hl, hmore, if_false]
  exact ((countL_start (turn := countP o s.firing.ops) hI (hn.reads rfl).2.2 hu).setOst (.count (c + 1))).result _ hI 1 _

theorem countL_of_zero {s : State} {o : OpA} {l : Token} {c fl : Nat} (hcount : groupCount s.here.ost = c) (hn : CountIs s o 0 fl) (hd : s.Diverts)
    (hc : s.CanFire o.fl { l := true, r := !o.i }) (hl : s.firing.ops.l = some l) (hok : (l.poison || routeOk o.ty l) = true) :
    ∃ t, exec (.countLFiring o) s = .next t ∧
      Traps s (s.operands { l := true, r := !o.i }) kindOperand fRouting (if o.i then 1 else 2) 0 0 t := by
  refine ⟨_, exec_countL hn.countOperand hcount, ?_⟩
  have h := routeFire_traps s o.fl { l := true, r := !o.i } { l := true, r := !o.i && c + 1 == 0 } (countLCheck o 0) (countLAct 0 (c + 1) (countP o s.firing.ops))
    (if o.i then 0 else 1) fRouting 0 hd hc ((countL_check hn hl hok).trans (if_pos rfl))
  rwa [show (2 : Nat) ^ (if o.i then 0 else 1) = if o.i then 1 else 2 by split <;> rfl] at h

/-- The check of COUNT's P firing, which closes the group where flush is set. -/
def countPCheck (o : OpA) (flush : Bool) (f : Firing) : OperandFault :=
  firstFault [wantOperand 2 f.ops.p isScalarPred, wantOperand 1 f.ops.r isW32,
    if flush && countOperand o f.ops == 0 then some (if o.i then 2 else 1, fRouting, 0) else none]

/-- Its action. -/
def countPAct (flush : Bool) (s : State) (f : Firing) : State :=
  let s := (s.setElem f.e { s.elem f.e with pturn := false }).stageFlags f (readFlags f.ops { r := true })
  if flush then (s.setOst f.e (.count 0)).result f false 1 [(1, scalarTok .z32 (groupCount f.el.ost))] else s

theorem exec_countP {s : State} {o : OpA} {p : Token} (hp : s.firing.ops.p = some p) (hpred : isScalarPred p = true)
    (hpp : p.poison = false) :
    exec (.countPFiring o) s = .next (s.routeFire o.fl { r := p.truth && !o.i, p := true } { r := p.truth && !o.i, p := true } (countPCheck o p.truth) (countPAct p.truth)) := by
  have hflush : (isScalarPred p && !p.poison && p.truth) = p.truth := by rw [hpred, hpp, Bool.not_false, Bool.true_and, Bool.true_and]
  show execCountPFiring o s = _
  unfold execCountPFiring
  simp only [hp, Option.any_some, hflush]
  rfl

theorem countP_check {s : State} {o : OpA} {p : Token} {n fl : Nat} (hn : CountIs s o n fl) (hp : s.firing.ops.p = some p) (hpred : isScalarPred p = true)
    (hpp : p.poison = false) :
    countPCheck o true (s.firingOn { r := !o.i, p := true }) = if n = 0 then some (if o.i then 2 else 1, fRouting, 0) else none := by
  obtain ⟨hcnt, hwant, -⟩ := hn.reads (need := { r := !o.i, p := true }) rfl
  unfold countPCheck
  simp only [hcnt, hwant, operands_p, if_true, hp, wantOperand_good hpp hpred, firstFault, Bool.true_and, beq_iff_eq]
  split <;> rfl

theorem countP_flushes {s : State} {o : OpA} {p : Token} {n c fl : Nat} (hcount : groupCount s.here.ost = c) (hn : CountIs s o n fl)
    (hp : s.firing.ops.p = some p) (hpred : isScalarPred p = true) (hpp : p.poison = false) (ht : p.truth = true) (hc : s.CanFire o.fl { r := !o.i, p := true }) (hpos : 0 < n) :
    Becomes s (exec (.countPFiring o) s)
      ({ s.firedElem { r := !o.i, p := true } s.firing.thr with ost := .count 0, pturn := false }.plus (s.resultOf 1 s.firing.thr [(1, z32 c)])) fl := by
  rw [exec_countP hp hpred hpp, ht, Bool.true_and]
  refine routeFire_flags hc ((countP_check hn hp hpred hpp).trans (if_neg (by omega))) (fun u hu => ?_)
  have hI := isFiring_mask s (s.operands { r := !o.i, p := true })
  have hst : groupCount (s.firingOn { r := !o.i, p := true }).el.ost = c := hcount
  unfold countPAct
  rw [if_pos rfl, hst]
  exact ((countL_start (turn := false) hI (hn.reads rfl).2.2 hu).setOst (.count 0)).result _ hI 1 _

theorem countP_of_zero {s : State} {o : OpA} {p : Token} {fl : Nat} (hn : CountIs s o 0 fl) (hd : s.Diverts)
    (hp : s.firing.ops.p = some p) (hpred : isScalarPred p = true) (hpp : p.poison = false) (ht : p.truth = true) (hc : s.CanFire o.fl { r := !o.i, p := true }) :
    ∃ t, exec (.countPFiring o) s = .next t ∧
      Traps s (s.operands { r := !o.i, p := true }) kindOperand fRouting (if o.i then 4 else 2) 0 0 t := by
  rw [exec_countP hp hpred hpp, ht, Bool.true_and]
  refine ⟨_, rfl, ?_⟩
  have h := routeFire_traps s o.fl { r := !o.i, p := true } { r := !o.i, p := true } (countPCheck o true) (countPAct true)
    (if o.i then 2 else 1) fRouting 0 hd hc ((countP_check hn hp hpred hpp).trans (if_pos rfl))
  rwa [show (2 : Nat) ^ (if o.i then 2 else 1) = if o.i then 4 else 2 by split <;> rfl] at h

theorem countP_false {s : State} {o : OpA} {p : Token} (hp : s.firing.ops.p = some p) (hpred : isScalarPred p = true) (hpp : p.poison = false) (hf : p.truth = false) (hc : s.CanFire o.fl { p := true }) :
    Becomes s (exec (.countPFiring o) s) { s.firedElem { p := true } s.firing.thr with pturn := false } := by
  rw [exec_countP hp hpred hpp, hf, Bool.false_and]
  refine routeFire_flags hc ?_ (fun u hu => countL_start (turn := false) (isFiring_mask s (s.operands { p := true })) rfl hu)
  unfold countPCheck
  simp only [operands_p, if_true, hp, wantOperand_good hpp hpred, Bool.false_and, Bool.false_eq_true, if_false]
  rfl

/-- Settles O16, one lemma per firing of GATE and COUNT. -/
theorem gateAndCount : Obligations.GateAndCount := by
  unfold Obligations.GateAndCount
  refine ⟨fun s o l r p c hst => ?_, fun s o l p n c fl hst hcnt => ?_⟩
  · have hcr := gateCredits_eq hst
    refine ⟨fun hheld hbreak hr hw hrp => gate_credit hcr hheld hbreak hr hw hrp, fun hc hl hok hp hpred hpp => ⟨fun ht h0 => ?_, fun ht h0 => ?_, fun hf => ?_⟩⟩
    · exact gate_passes hcr hc hl hok hp hpred hpp ht h0
    · exact gate_waits (h0 ▸ hcr) hp hpred hpp ht
    · exact gate_diverts_false hcr hc hl hok hp hpred hpp hf
  · have hcount := groupCount_eq hst
    have hn : CountIs s o n fl := hcnt
    refine ⟨fun need hneed hc hl hok => ?_, fun hp hpred hpp => ⟨fun need hneed ht hc => ?_, fun hf hc => ?_⟩⟩
    · subst hneed
      refine ⟨fun _ hlast => countL_closes hcount hn hc hl hok hlast, fun hpos hmore => countL_goes_on hcount hn hc hl hok hpos hmore, fun h0 hd => ?_⟩
      subst h0
      exact countL_of_zero hcount hn hd hc hl hok
    · subst hneed
      refine ⟨fun hpos => countP_flushes hcount hn hp hpred hpp ht hc hpos, fun h0 hd => ?_⟩
      subst h0
      exact countP_of_zero hn hd hp hpred hpp ht hc
    · exact countP_false hp hpred hpp hf hc

end Sys2Proof.Machine

/-! PROOFS. REPEAT and CONST (06 R133 R137). -/

namespace Sys2Proof.Machine

/-! ### REPEAT -/

/-- The tokens of one copy of a REPEAT: P tells whether another follows. -/
def copyOf (l : Token) (more : Bool) : List (Nat × Token) := [(0, l.pass), (1, predTok more)]

/-- The check of REPEAT's start. -/
def repeatCheck (o : OpA) (f : Firing) : OperandFault := firstFault [wantOperand 1 f.ops.r isW32, wantData 0 o.ty f.ops.l]

/-- The action of REPEAT's start. -/
def repeatAct (need : Slots) (n : Nat) (s : State) (f : Firing) : State :=
  let s := s.stageFlags f (readFlags f.ops { r := true })
  if n = 0 then s else s.repeatCopy f need n 1

theorem exec_repeat_start {s : State} {o : OpA} {n : Nat} (hidle : ∀ j, s.here.ost ≠ .copies j) (hn : countOperand o s.firing.ops = n) :
    exec (.repeatCopies o) s = .next (s.routeFire o.fl { l := true, r := !o.i } (if n = 0 then { l := true, r := !o.i } else {}) (repeatCheck o)
      (repeatAct { l := true, r := !o.i } n)) := by
  show execRepeat o s = _
  unfold execRepeat
  simp only [hn]
  split
  next k hk => exact absurd hk (hidle k)
  next => rfl

/-- The first copy of a REPEAT on a firing that has staged its flags. -/
theorem repeatCopy_first {s u : State} {l : Token} {need : Slots} {n fl : Nat} {ops : Operands} (hl : ops.l = some l) (hu : Fires s (s.firedElem {} s.firing.thr) fl u) :
    (n = 1 → Fires s ({ s.firedElem need s.firing.thr with ost := .none }.plus (s.resultOf 1 s.firing.thr (copyOf l false))) fl
      (u.repeatCopy { s.firing with ops := ops } need n 1)) ∧
    (1 < n → Fires s ({ s.firedElem {} s.firing.thr with ost := .copies 1 }.plus (s.resultOf 1 s.firing.thr (copyOf l true))) fl
      (u.repeatCopy { s.firing with ops := ops } need n 1)) := by
  have hI := isFiring_mask s ops
  refine ⟨fun h1 => ?_, fun h1 => ?_⟩
  · subst h1
    have htaken := hu.setElem ((s.firedElem {} s.firing.thr).consume need)
    have hlast := ((htaken.setOst .none).setElem { s.firedElem need s.firing.thr with ost := .none }).result _ hI 1 (copyOf l false)
    have hcopy : u.repeatCopy { s.firing with ops := ops } need 1 1 =
        (((u.setElem s.cur ((s.firedElem {} s.firing.thr).consume need)).setOst s.cur .none).setElem s.cur { s.firedElem need s.firing.thr with ost := .none }).result
          { s.firing with ops := ops } false 1 (copyOf l false) := by
      unfold State.repeatCopy
      have hfc := ((htaken.setOst .none).frame).fc
      have hel := (htaken.setOst .none).elem
      unfold State.consume
      simp only [hl, Nat.le_refl, if_true, Nat.lt_irrefl, decide_false]
      rw [show ({ s.firing with ops := ops } : Firing).e = s.cur from rfl, hu.elem, hel, hfc]
      rfl
    rw [hcopy]
    exact hlast
  · have hne : ¬ n ≤ 1 := by omega
    have hlast := ((hu.setOst (.copies 1)).setElem { s.firedElem {} s.firing.thr with ost := .copies 1 }).result _ hI 1 (copyOf l true)
    have hcopy : u.repeatCopy { s.firing with ops := ops } need n 1 =
        ((u.setOst s.cur (.copies 1)).setElem s.cur { s.firedElem {} s.firing.thr with ost := .copies 1 }).result { s.firing with ops := ops } false 1 (copyOf l true) := by
      unfold State.repeatCopy
      have hfc := (hu.setOst (.copies 1)).frame.fc
      have hel := (hu.setOst (.copies 1)).elem
      simp only [hl, hne, h1, if_false, if_true, decide_true]
      rw [show ({ s.firing with ops := ops } : Firing).e = s.cur from rfl, hel, hfc]
      rfl
    rw [hcopy]
    exact hlast

theorem repeat_check {s : State} {o : OpA} {l : Token} {n fl : Nat} (hn : CountIs s o n fl) (hl : s.firing.ops.l = some l) (hok : (l.poison || routeOk o.ty l) = true) :
    repeatCheck o (s.firingOn { l := true, r := !o.i }) = none := by
  unfold repeatCheck
  simp only [(hn.reads (need := { l := true, r := !o.i }) rfl).2.1, operands_l, if_true, hl, wantData_good hok, firstFault]

theorem repeat_starts {s : State} {o : OpA} {l : Token} {n fl : Nat} (hn : CountIs s o n fl) (hl : s.firing.ops.l = some l) (hidle : ∀ j, s.here.ost ≠ .copies j)
    (hc : s.CanFire o.fl { l := true, r := !o.i }) (hok : (l.poison || routeOk o.ty l) = true) :
    (n = 0 → Becomes s (exec (.repeatCopies o) s) (s.firedElem { l := true, r := !o.i } s.firing.thr) fl) ∧
    (n = 1 → Becomes s (exec (.repeatCopies o) s) ({ s.firedElem { l := true, r := !o.i } s.firing.thr with ost := .none }.plus (s.resultOf 1 s.firing.thr (copyOf l false))) fl) ∧
    (1 < n → Becomes s (exec (.repeatCopies o) s) ({ s.firedElem {} s.firing.thr with ost := .copies 1 }.plus (s.resultOf 1 s.firing.thr (copyOf l true))) fl) := by
  have hI := isFiring_mask s (s.operands { l := true, r := !o.i })
  have hread := (hn.reads (need := { l := true, r := !o.i }) rfl).2.2
  have hopL : (s.operands { l := true, r := !o.i }).l = some l := hl
  rw [exec_repeat_start hidle hn.countOperand]
  refine ⟨fun h => ?_, fun h => ?_, fun h => ?_⟩ <;> refine routeFire_flags hc (repeat_check hn hl hok) (fun u hu => ?_) <;> unfold repeatAct <;> simp only [hread]
  · rw [if_pos h] at hu
    rw [if_pos h]
    exact hu.stageFlags _ hI fl
  · rw [if_neg (by omega)] at hu
    rw [if_neg (by omega)]
    exact (repeatCopy_first hopL (hu.stageFlags _ hI fl)).1 h
  · rw [if_neg (by omega)] at hu
    rw [if_neg (by omega)]
    exact (repeatCopy_first hopL (hu.stageFlags _ hI fl)).2 h

theorem exec_repeat_next {s : State} {o : OpA} {n k : Nat} (hn : countOperand o s.firing.ops = n) (hk : s.here.ost = .copies k) (hheld : s.here.held = false)
    (hstage : stageFree s.here s.fc = true) :
    exec (.repeatCopies o) s = .next (s.repeatCopy (s.firingOn { l := true, r := !o.i }) { l := true, r := !o.i } n (k + 1)) := by
  have hst : s.firing.el.ost = .copies k := hk
  have hh : s.firing.el.held = false := hheld
  have hs : stageFree s.firing.el s.fc = true := hstage
  show execRepeat o s = _
  unfold execRepeat
  simp only [hn, hst, hh, hs, Bool.not_true, Bool.or_self, Bool.false_eq_true, if_false]
  rfl

/-- The next copy of a REPEAT, which is not the first. -/
theorem repeatCopy_next {s : State} {l : Token} {need : Slots} {n k : Nat} (hl : s.firing.ops.l = some l) (hneed : need.l = true) (h0 : 0 < k) :
    (k + 1 < n → s.repeatCopy (s.firingOn need) need n (k + 1) = s.setElem s.cur
      ({ s.here with ost := .copies (k + 1), last := some s.fc }.plus { s.resultOf 1 s.firing.thr (copyOf l true) with k := s.firing.k - 1 })) ∧
    (k + 1 = n → s.repeatCopy (s.firingOn need) need n (k + 1) = s.setElem s.cur
      ({ s.here.consume need with ost := .none, last := some s.fc }.plus { s.resultOf 1 s.firing.thr (copyOf l false) with k := s.firing.k - 1 })) := by
  have hne : k + 1 ≠ 1 := by omega
  have hopL : (s.operands need).l = some l := by rw [operands_l, hneed, if_pos rfl, hl]
  refine ⟨fun h => ?_, fun h => ?_⟩
  · have hmore : ¬ n ≤ k + 1 := by omega
    unfold State.repeatCopy State.setOst State.result State.pushFlight
    simp only [hopL, hne, hmore, h, if_false, decide_true, Bool.false_eq_true, show (s.firingOn need).e = s.cur from rfl, State.elem_setElem_same, State.setElem_setElem]
    rfl
  · subst h
    unfold State.repeatCopy State.setOst State.result State.pushFlight State.consume
    simp only [hopL, hne, Nat.le_refl, Nat.lt_irrefl, if_true, if_false, decide_false, Bool.false_eq_true, show (s.firingOn need).e = s.cur from rfl, State.elem_setElem_same,
      State.setElem_setElem]
    rfl

/-! ### CONST -/

theorem constToken_typed {o : OpC} {f : Fmt} (hf : fmtOf o.ty false = some f) (l : Option Token) :
    constToken o l = mkTok f false 127 [if f.signed then ofInt 64 o.imm.toInt else o.imm.toNat] := by
  unfold constToken
  rw [hf]
  rfl

/-- The firing of a CONST that has a trigger. -/
def constFiring (o : OpC) (s : State) : PureFiring :=
  { fl := o.fl, vecP := false, lat := 1, need := needL, tag := routeTag o.ty s.firing.ops.l, v := false, outs := fun t => [(0, t)],
    eval := fun x _ => .ok ([(0, constToken o x.l)], 0) }

theorem const_triggered {s : State} {o : OpC} {f : Fmt} {pr : Predicate} (hf : fmtOf o.ty false = some f) (hpm : o.fl.pm = .none)
    (hsrc : hasSource s.firing.b s.cur.idx .l = true) (hr : s.Runs o.fl false needL pr) :
    Emits s (exec (.const o) s) (takes o.fl needL) 1 [(0, mkTok f false 127 [if f.signed then ofInt 64 o.imm.toInt else o.imm.toNat])] 0 := by
  have hneed : withPm o.fl needL = needL := withPm_off needL hpm
  have hexec : exec (.const o) s = .next (s.pureFire (constFiring o s)) := by
    show execConst o s = _
    unfold execConst
    simp only [firing_idx, hsrc, if_true]
    rfl
  rw [hexec, ← constToken_typed hf (s.operands (withPm o.fl needL)).l]
  have h := pure_emits (p := constFiring o s) hr rfl (List.cons_ne_nil _ _) (by rw [constToken_typed hf]; rfl) rfl
  rw [show takes (constFiring o s).fl (withPm (constFiring o s).fl (constFiring o s).need) = takes o.fl needL from congrArg (takes o.fl) hneed] at h
  exact h

theorem const_free {s : State} {o : OpC} {f : Fmt} (hf : fmtOf o.ty false = some f) (hsrc : hasSource s.firing.b s.cur.idx .l = false) (hc : s.CanFire o.fl {})
    (hq : s.here.q0 = []) (hpend : s.here.pend.getD 0 [] = []) (hacc : s.targetAccepts (siteKey s.cur) s.cur.idx 0 o.t0 = true) :
    Becomes s (exec (.const o) s) ((s.firedElem {} s.firing.thr).plus
      { due := s.fc, outs := some [(0, mkTok f false 127 [if f.signed then ofInt 64 o.imm.toInt else o.imm.toNat])], round := none, after := none, id := 0 }) := by
  obtain ⟨hheld, hstage, -, hbreak⟩ := hc
  have hstart : Fires s (s.firedElem {} s.firing.thr) 0 (s.countFiring s.firing) := by
    obtain ⟨helem, hframe, hns⟩ := countFiring_spec s s.firing (isFiring_firing s)
    exact ⟨helem, by simpa using hns, hframe⟩
  have hexec : exec (.const o) s = .next ((s.countFiring s.firing).pushFlight s.cur false { due := s.fc, outs := some [(0, constToken o none)], round := none, after := none, id := 0 }) := by
    have hq' : s.firing.el.q0 = [] := hq
    have hpend' : s.firing.el.pend.getD 0 [] = [] := hpend
    have hacc' : s.targetAccepts s.firing.bk s.firing.e.idx 0 o.t0 = true := hacc
    show execConst o s = _
    unfold execConst
    simp only [firing_idx] at hacc' ⊢
    simp only [hsrc, hheld, hstage, hbreak, hq', hpend', hacc', List.isEmpty_nil, Bool.not_true, Bool.or_self, Bool.false_eq_true, if_false]
    rfl
  refine ⟨_, hexec, ?_⟩
  rw [constToken_typed hf]
  unfold State.pushFlight
  simp only [Bool.false_eq_true, if_false, hstart.elem]
  exact hstart.setElem _

/-- Settles O17: the start of a REPEAT, its next copies, and both forms of CONST. -/
theorem repeatsAndConstants : Obligations.RepeatsAndConstants := by
  unfold Obligations.RepeatsAndConstants
  refine ⟨fun s o l n fl need hneed hl hcnt => ?_, fun s o f hf hpm c hcdef => ?_⟩
  · subst hneed
    have hn : CountIs s o n fl := hcnt
    refine ⟨fun hidle hc hok => repeat_starts hn hl hidle hc hok, fun k h0 hk hheld hstage => ?_⟩
    rw [exec_repeat_next hn.countOperand hk hheld hstage]
    have hnext := repeatCopy_next (need := { l := true, r := !o.i }) (n := n) hl rfl h0
    exact ⟨fun h => congrArg _ (hnext.1 h), fun h => congrArg _ (hnext.2 h)⟩
  · subst hcdef
    exact ⟨fun hsrc hr => const_triggered hf hpm hsrc hr, fun hsrc hc hq hpend hacc => const_free hf hsrc hc hq hpend hacc⟩

end Sys2Proof.Machine

/-! PROOFS. The faults of router operators (06 R127). -/

namespace Sys2Proof.Machine

/-- What is wrong with an operand that must satisfy good: poison, which carries its own code, or a wrong format (03 R67). -/
def Wrong (x : Token) (good : Token → Bool) (code aux : Nat) : Prop :=
  x.poison = true ∧ code = x.word % 256 ∧ aux = x.word ∨ x.poison = false ∧ good x = false ∧ code = fFormat ∧ aux = 0

theorem wantOperand_wrong {bit : Nat} {x : Token} {good : Token → Bool} {code aux : Nat} (h : Wrong x good code aux) :
    wantOperand bit (some x) good = some (bit, code, aux) := by
  rcases h with ⟨hp, rfl, rfl⟩ | ⟨hp, hg, rfl, rfl⟩
  · exact wantOperand_poison hp
  · simp only [wantOperand, hp, hg, Bool.false_eq_true, if_false]

/-- What is wrong is no good operand. -/
theorem Wrong.not_good {x : Token} {good : Token → Bool} {code aux : Nat} (h : Wrong x good code aux) : (good x && !x.poison) = false := by
  rcases h with ⟨hp, -, -⟩ | ⟨-, hg, -, -⟩
  · rw [hp, Bool.not_true, Bool.and_false]
  · rw [hg, Bool.false_and]

theorem steer_poisoned_P_traps {s : State} {o : OpA} {x : Token} {code aux : Nat} (hd : s.Diverts) (hw : Wrong x isScalarPred code aux) (hp : s.firing.ops.p = some x)
    (hpoison : x.poison = true) (hc : s.CanFire o.fl needLP) :
    ∃ t, exec (.steer o) s = .next t ∧ Traps s (s.operands needLP) kindOperand code 4 0 aux t := by
  have hexec : exec (.steer o) s = .next (s.routeFire o.fl needLP needLP (fun f => wantOperand 2 f.ops.p isScalarPred) (fun s _ => s)) := by
    have hready : ready s.firing.ops needLP = true := by
      have h := hc.full
      unfold ready at h ⊢
      rw [operands_l, operands_r, operands_p] at h
      exact h
    have hgo : (ready s.firing.ops needLP && !s.firing.el.held && !breaks o.fl s.firing.el && s.firing.ops.p.any Token.poison) = true := by
      rw [hready, hc.unheld, hc.noBreak, hp, Option.any_some, hpoison]
      rfl
    show execSteer o s = _
    unfold execSteer
    simp only [hgo, if_true]
  refine ⟨_, hexec, routeFire_traps s o.fl _ _ _ _ 2 _ _ hd hc ?_⟩
  simp only [operands_p, needLP, if_true, hp, wantOperand_wrong hw]

theorem merge_poisoned_P_traps {s : State} {o : OpA} {x : Token} {code aux : Nat} (hd : s.Diverts) (hw : Wrong x isScalarPred code aux) (hp : s.firing.ops.p = some x)
    (hpoison : x.poison = true) (he : o.fl.e = false) (hc : s.CanFire o.fl { p := true }) :
    ∃ t, exec (.merge o) s = .next t ∧ Traps s (s.operands { p := true }) kindOperand code 4 0 aux t := by
  have hexec : exec (.merge o) s = .next (s.routeFire o.fl { p := true } { p := true } (fun f => wantOperand 2 f.ops.p isScalarPred) (fun s _ => s)) := by
    show execMerge o s = _
    unfold execMerge
    simp only [he, hp, hpoison, hc.noBreak, Bool.not_false, Bool.and_self, Bool.false_eq_true, if_false, if_true]
  refine ⟨_, hexec, routeFire_traps s o.fl _ _ _ _ 2 _ _ hd hc ?_⟩
  simp only [operands_p, if_true, hp, wantOperand_wrong hw]

theorem carry_wrong_P_traps {s : State} {o : OpA} {x : Token} {code aux : Nat} (hd : s.Diverts) (hw : Wrong x isScalarPred code aux) (hp : s.firing.ops.p = some x)
    (hc : s.CanFire o.fl { p := true }) (hactive : s.here.ost = .carry true) :
    ∃ t, exec (.carry o) s = .next t ∧ Traps s (s.operands { p := true }) kindOperand code 4 0 aux t := by
  refine ⟨_, exec_carry_active s o x hactive hp, ?_⟩
  rw [show carryNeed x = { p := true } by
    unfold carryNeed
    rw [Bool.and_assoc, hw.not_good, Bool.and_false]]
  exact routeFire_traps s o.fl _ _ _ _ 2 _ _ hd hc (by simp only [carryCheck, firstFault, operands_p, if_true, hp, wantOperand_wrong hw])

theorem invar_wrong_P_traps {s : State} {o : OpA} {x v : Token} {code aux : Nat} (hd : s.Diverts) (hw : Wrong x isScalarPred code aux) (hp : s.firing.ops.p = some x)
    (hc : s.CanFire o.fl { p := true }) (hholding : s.here.ost = .invar (some v)) :
    ∃ t, exec (.invar o) s = .next t ∧ Traps s (s.operands { p := true }) kindOperand code 4 0 aux t :=
  ⟨_, exec_invar_holding s o v hholding, routeFire_traps s o.fl _ _ _ _ 2 _ _ hd hc
    (by simp only [invarCheck, operands_p, if_true, hp, wantOperand_wrong hw])⟩

theorem ordf_wrong_L_traps {s : State} {o : OpA} {x : Token} {code aux : Nat} (hd : s.Diverts) (hw : Wrong x isOrder code aux) (hl : s.firing.ops.l = some x)
    (hc : s.CanFire o.fl needL) : ∃ t, exec (.ordf o) s = .next t ∧ Traps s (s.operands needL) kindOperand code 1 0 aux t := by
  refine ⟨_, rfl, routeFire_traps s o.fl _ _ _ _ 0 _ _ hd hc ?_⟩
  simp only [operands_l, needL, if_true, hl, wantOperand_wrong hw]

theorem gate_wrong_R_traps {s : State} {o : OpA} {x : Token} {code aux : Nat} (hd : s.Diverts) (hw : Wrong x isW32 code aux) (hr : s.firing.ops.r = some x)
    (hc : s.CanFire o.fl { r := true }) : ∃ t, exec (.gateCreditFiring o) s = .next t ∧ Traps s (s.operands { r := true }) kindOperand code 2 0 aux t := by
  have hexec : exec (.gateCreditFiring o) s = .next (s.raiseOperand (s.firingOn { r := true }) 1 code aux) := by
    have hopR : (s.firing.ops.mask { r := true }).r = some x := hr
    show execGateCreditFiring o s = _
    unfold execGateCreditFiring
    simp only [hc.unheld, hc.noBreak, hopR, Option.isNone_some, Bool.or_self, Bool.false_eq_true, if_false, wantOperand_wrong hw]
    rfl
  refine ⟨_, hexec, ?_⟩
  unfold State.raiseOperand
  rw [raise_eq_faulted s { r := true } kindOperand code (2 ^ 1) 0 aux hd (by decide)]
  exact faulted_traps s _ _ _ _ _ _

/-- Settles O18, one lemma per operator and operand. -/
theorem routerFaultsTakeTheFaultingOperand : Obligations.RouterFaultsTakeTheFaultingOperand := by
  unfold Obligations.RouterFaultsTakeTheFaultingOperand
  intro s o x code aux hd good hwrong
  refine ⟨?steer, ?merge, ?carry, ?invar, ?ordf, ?gate⟩
  case steer => rintro rfl hp hpoison hc; exact steer_poisoned_P_traps hd hwrong hp hpoison hc
  case merge => rintro rfl hp hpoison he hc; exact merge_poisoned_P_traps hd hwrong hp hpoison he hc
  case carry => rintro rfl hp hc hactive; exact carry_wrong_P_traps hd hwrong hp hc hactive
  case invar => rintro rfl hp hc ⟨v, hholding⟩; exact invar_wrong_P_traps hd hwrong hp hc hholding
  case ordf => rintro rfl hl hc; exact ordf_wrong_L_traps hd hwrong hl hc
  case gate => rintro rfl hr hc; exact gate_wrong_R_traps hd hwrong hr hc

end Sys2Proof.Machine

/-! PROOFS. EXIT, EXITP, EXITQ, SPAWN and RETIRE (06 R143-R147). -/

namespace Sys2Proof.Machine

/-! ### The launch of a firing that has started -/

/-- A started firing changes nothing of its launch but the active rounds. -/
theorem Within.launchOf {s u : State} (h : Within s u) {f : Firing} {ln : Launch} (hl : s.launchOf f = some ln) :
    ∃ l, u.launchOf f = some l ∧ { l with active := [] } = { ln with active := [] } := by
  unfold State.launchOf State.launchOfBank at hl ⊢
  obtain ⟨x, hx, rfl⟩ := Option.map_eq_some_iff.mp hl
  have hsame := h.launches f.b.lk
  unfold sameButActive at hsame
  rw [hx] at hsame
  obtain ⟨y, hy, hyx⟩ := Option.map_eq_some_iff.mp hsame
  refine ⟨_, by rw [hy]; rfl, ?_⟩
  split
  · exact hyx
  · exact congrArg (fun l : Launch => { l with load := f.b.num / 4096 }) hyx

theorem queueTile_of_sameActive (s : State) (q : Nat) {l ln : Launch} (h : { l with active := [] } = { ln with active := [] }) :
    s.queueTile l q = s.queueTile ln q := by
  show s.queueTile { l with active := [] } q = s.queueTile { ln with active := [] } q
  rw [h]

theorem entryQueue_of_sameActive (s : State) (blk : Nat) {l ln : Launch} (h : { l with active := [] } = { ln with active := [] }) :
    s.entryQueue l blk = s.entryQueue ln blk := by
  show s.entryQueue { l with active := [] } blk = s.entryQueue { ln with active := [] } blk
  rw [h]

/-- The queues that a started firing finds are those it found before. -/
theorem Within.queueTile {s u : State} (h : Within s u) {f : Firing} {ln : Launch} (hl : s.launchOf f = some ln) (q : Nat) :
    (u.launchOf f).bind (fun l => u.queueTile l q) = s.queueTile ln q := by
  obtain ⟨l, hu, hsame⟩ := h.launchOf hl
  rw [hu, Option.bind_some, queueTile_of_sameActive u q hsame, h.rest]
  rfl

theorem Within.entryQueue {s u : State} (h : Within s u) {f : Firing} {ln : Launch} (hl : s.launchOf f = some ln) (blk : Nat) :
    (u.launchOf f).bind (fun l => u.entryQueue l blk) = s.entryQueue ln blk := by
  obtain ⟨l, hu, hsame⟩ := h.launchOf hl
  rw [hu, Option.bind_some, entryQueue_of_sameActive u blk hsame, h.rest]
  rfl

/-! ### Anchors whose effect stays within the instruction -/

/-- AN ANCHOR WHOSE ACTION STAYS WITHIN ITS INSTRUCTION becomes what the action makes of the started firing. -/
theorem anchor_becomes {s : State} {a : AnchorFiring} {pr : Predicate} {el : Elem} {fl : Nat} (hr : s.Runs a.fl false a.need pr)
    (hk : a.check s (s.firingOn (withPm a.fl a.need)) = none) (hh : a.hold s (s.firingOn (withPm a.fl a.need)) = false)
    (he : ∀ u, Taken s (withPm a.fl a.need) a.nums u → Fires s el fl (a.act u (s.firingOn (withPm a.fl a.need)))) :
    Becomes s (.next (s.anchorFire a)) el fl := by
  obtain ⟨hcan, hclean, all, bits, rfl, hp⟩ := hr
  exact ⟨_, congrArg _ (anchorFire_runs s a all bits hcan hclean hp hk hh),
    he _ (taken_start s _ (isFiring_mask s (s.operands (withPm a.fl a.need))) (withPm a.fl a.need) a.nums rfl)⟩

theorem readFlags_none (x : Operands) : readFlags x {} = 0 := rfl

/-- An anchor that reads no operand as a number has staged no flags. -/
theorem Taken.fires {s u : State} {take : Slots} (h : Taken s take {} u) : Fires s (s.firedElem take s.firing.thr) 0 u := h

theorem Fires.pushFlight {s t : State} {el : Elem} {fl : Nat} (h : Fires s el fl t) (x : Flight) : Fires s (el.plus x) fl (t.pushFlight s.cur false x) := by
  unfold State.pushFlight
  simp only [Bool.false_eq_true, if_false, h.elem]
  exact h.setElem _

/-- The record on its way to queue k, for a copy of a block or for a data queue. -/
def State.pushedRecord (s : State) (k : Nat) (v : Stored) (copy : Option Nat) : Flight := { s.resultOf 1 s.firing.thr [] with push := some (k, v), copy := copy }

theorem Fires.pushResult {s t : State} {el : Elem} {fl : Nat} (h : Fires s el fl t) (f : Firing) (hf : IsFiring s f) (k : Nat) (v : Stored) (copy : Option Nat) :
    Fires s (el.plus (s.pushedRecord k v copy)) fl (t.pushResult f k v copy) := by
  unfold State.pushResult
  rw [hf.e, hf.round, hf.thr, hf.k, h.frame.fc]
  exact h.pushFlight _

/-! ### The record and its queue -/

/-- Word 0 of the record of BUILD (06 R143). -/
def exitWord (o : OpC) (l : Token) : Nat := bitsAt l.word 59 5 * 2 ^ 59 + liveOut o * 2 ^ 56 + bitsAt l.word 24 32 * 2 ^ 24 + successor o

/-- The live vector that a firing with NLIVE words pushes, and the record that BUILD makes of it (06 R143). -/
def Built (o : OpC) (l : Token) (r : Option Token) (line : Stored) : Prop :=
  buildRecord o l (if liveOut o = 0 then none else r) = line ∧ (liveOut o == 0 || r.all (fun r => r.v && routeOk .tf r)) = true

theorem exitFault_none {o : OpC} {f : Firing} {l : Token} {r : Option Token} {line : Stored} (hb : Built o l r line) (ht : isThread l = true) (hl : f.ops.l = some l)
    (hr : f.ops.r = r) : exitFault o f = none := by
  unfold exitFault
  simp only [hl, hr, Option.all_some, ht, hb.2, Bool.and_self, if_true]

theorem exitPush_fires {s u : State} {o : OpC} {f : Firing} {l : Token} {r : Option Token} {line : Stored} {el : Elem} {k : Nat} (hb : Built o l r line)
    (hf : IsFiring s f) (hl : f.ops.l = some l) (hr : f.ops.r = r) (hu : Fires s el 0 u) (copy : Option Nat) :
    Fires s (el.plus (s.pushedRecord k line copy)) 0 (exitPush o u f (some k) copy) := by
  unfold exitPush
  simp only [hl, hr]
  rw [hb.1]
  exact hu.pushResult f hf k line copy

section
variable {s : State} {o : OpC} {pr : Predicate} {l : Token} {r : Option Token} {line : Stored} {ln : Launch} {k : Nat}

theorem exitCheck_none {f : Firing} (hb : Built o l r line) (ht : isThread l = true) (hln : s.launchOf f = some ln) (hk : s.entryQueue ln (successor o) = some k)
    (hl : f.ops.l = some l) (hr : f.ops.r = r) : exitCheck o s f = none := by
  unfold exitCheck exitQueue
  rw [hln, Option.bind_some, hk]
  exact exitFault_none hb ht hl hr

theorem exit_becomes (hb : Built o l r line) (ht : isThread l = true) (hln : s.launchOf s.firing = some ln) (hrun : s.Runs o.fl false (exitNeed o) pr)
    (hl : (s.operands (withPm o.fl (exitNeed o))).l = some l) (hr : (s.operands (withPm o.fl (exitNeed o))).r = r) (hk : s.entryQueue ln (successor o) = some k) :
    Becomes s (exec (.exit o) s) ((s.firedElem (withPm o.fl (exitNeed o)) s.firing.thr).plus (s.pushedRecord k line (some (s.bank (siteKey s.cur)).origin))) := by
  show Becomes s (execExit o s) _ _
  unfold execExit
  refine anchor_becomes hrun (exitCheck_none hb ht hln hk hl hr) rfl (fun u hu => ?_)
  have hq : exitQueue o u (s.firingOn (withPm o.fl (exitNeed o))) = some k := (hu.frame.entryQueue hln _).trans hk
  show Fires s _ 0 (exitPush o u _ (exitQueue o u (s.firingOn (withPm o.fl (exitNeed o)))) _)
  rw [hq]
  exact exitPush_fires hb (isFiring_mask s _) hl hr hu.fires _

theorem exitq_becomes (hb : Built o l r line) (ht : isThread l = true) (hln : s.launchOf s.firing = some ln) (hrun : s.Runs o.fl false (exitNeed o) pr)
    (hl : (s.operands (withPm o.fl (exitNeed o))).l = some l) (hr : (s.operands (withPm o.fl (exitNeed o))).r = r) (hk : s.queueTile ln (bitsAt o.imm.toNat 27 8) = some k) :
    Becomes s (exec (.exitq o) s) ((s.firedElem (withPm o.fl (exitNeed o)) s.firing.thr).plus (s.pushedRecord k line none)) := by
  show Becomes s (execExitq o s) _ _
  unfold execExitq
  refine anchor_becomes hrun (exitFault_none hb ht hl hr) rfl (fun u hu => ?_)
  show Fires s _ 0 (exitPush o u _ ((u.launchOf s.firing).bind fun l => u.queueTile l (bitsAt o.imm.toNat 27 8)) none)
  rw [hu.frame.queueTile hln, hk]
  exact exitPush_fires hb (isFiring_mask s _) hl hr hu.fires _

theorem spawn_does (hb : Built o l r line) (ht : isThread l = true) (hrun : s.Runs o.fl false (exitNeed o) pr)
    (hl : (s.operands (withPm o.fl (exitNeed o))).l = some l) (hr : (s.operands (withPm o.fl (exitNeed o))).r = r) :
    Does s (exec (.spawn o) s) (withPm o.fl (exitNeed o)) (fun u =>
      s.emitting (s.staging u (withPm o.fl (exitNeed o)) (.spawn (successor o) (liveOut o) line (s.bank (siteKey s.cur)).origin)) 1 [(0, l.pass)]) {} := by
  show Does s (execSpawn o s) _ _ _
  unfold execSpawn
  refine anchor_does s _ pr _ hrun (exitFault_none hb ht hl hr) rfl (fun u hu => ?_)
  simp only [hl, hr]
  rw [hb.1, stageEff_staging s u _ _ hu.nid, result_emitting s _ _ (isFiring_mask s _) ((staging_fc s u _ _).trans hu.fc)]
  rfl

theorem exitp_true (hb : Built o l r line) (ht : isThread l = true) (hln : s.launchOf s.firing = some ln) {p : Token} (hpm : o.fl.pm = .none)
    (hrun : s.Runs o.fl false { exitNeed o with p := true } pr)
    (hl : (s.operands { exitNeed o with p := true }).l = some l) (hr : (s.operands { exitNeed o with p := true }).r = r)
    (hp : (s.operands { exitNeed o with p := true }).p = some p) (hpred : isScalarPred p = true) (htrue : p.truth = true) (hk : s.entryQueue ln (successor o) = some k) :
    Becomes s (exec (.exitp o) s) ((s.firedElem { exitNeed o with p := true } s.firing.thr).plus (s.pushedRecord k line (some (s.bank (siteKey s.cur)).origin))) := by
  have hneed : withPm o.fl { exitNeed o with p := true } = { exitNeed o with p := true } := withPm_off _ hpm
  rw [← hneed] at hl hr hp
  show Becomes s (execExitp o s) _ _
  unfold execExitp
  refine anchor_becomes hrun ?_ rfl (fun u hu => ?_)
  · simp only [hp, Option.all_some, hpred, Option.any_some, htrue, Bool.not_true, Bool.false_eq_true, if_false, if_true]
    exact exitCheck_none hb ht hln hk hl hr
  · have hq : exitQueue o u (s.firingOn (withPm o.fl { exitNeed o with p := true })) = some k := (hu.frame.entryQueue hln _).trans hk
    simp only [hp, Option.any_some, htrue, if_true, hq]
    have hF := exitPush_fires (k := k) hb (isFiring_mask s _) hl hr hu.fires (some (s.bank (siteKey s.cur)).origin)
    rw [hneed] at hF ⊢
    exact hF

theorem exitp_false (hb : Built o l r line) (ht : isThread l = true) {p : Token} (hpm : o.fl.pm = .none)
    (hrun : s.Runs o.fl false { exitNeed o with p := true } pr)
    (hl : (s.operands { exitNeed o with p := true }).l = some l) (hr : (s.operands { exitNeed o with p := true }).r = r)
    (hp : (s.operands { exitNeed o with p := true }).p = some p) (hpred : isScalarPred p = true) (hfalse : p.truth = false) :
    Becomes s (exec (.exitp o) s) ((s.firedElem { exitNeed o with p := true } s.firing.thr).plus (s.resultOf 1 s.firing.thr [(0, l.pass)])) := by
  have hneed : withPm o.fl { exitNeed o with p := true } = { exitNeed o with p := true } := withPm_off _ hpm
  rw [← hneed] at hl hr hp
  show Becomes s (execExitp o s) _ _
  unfold execExitp
  refine anchor_becomes hrun ?_ rfl (fun u hu => ?_)
  · simp only [hp, Option.all_some, hpred, Option.any_some, hfalse, Bool.not_true, Bool.false_eq_true, if_false]
    exact exitFault_none hb ht hl hr
  · simp only [hp, Option.any_some, hfalse, Bool.false_eq_true, if_false, hl]
    have hF := hu.fires.result _ (isFiring_mask s (s.operands (withPm o.fl { exitNeed o with p := true }))) 1 [(0, l.pass)]
    rw [hneed] at hF ⊢
    exact hF

theorem retire_becomes {oa : OpA} (ht : isThread l = true) (hrun : s.Runs oa.fl false needL pr) (hl : (s.operands (withPm oa.fl needL)).l = some l) :
    Becomes s (exec (.retire oa) s) (s.firedElem (withPm oa.fl needL) s.firing.thr) := by
  show Becomes s (execRetire oa s) _ _
  unfold execRetire
  refine anchor_becomes hrun ?_ rfl (fun u hu => hu.fires)
  simp only [hl, Option.all_some, ht, if_true]

/-- The live vector of the statement is what BUILD takes. -/
theorem built_of_line (hline : liveOut o = 0 ∧ r = none ∧ line = { pay := vecPay 64 [exitWord o l], v := true } ∨
      0 < liveOut o ∧ ∃ x, r = some x ∧ x.v = true ∧ routeOk .tf x = true ∧
        line = { pay := vecPay 64 (exitWord o l :: (List.range (liveOut o)).map (laneOf x.pay 64)), tag := x.tag, scale := x.scale, v := true, chain := x.chain }) : Built o l r line := by
  unfold Built
  rcases hline with ⟨h0, rfl, rfl⟩ | ⟨hpos, x, rfl, hv, hok, rfl⟩
  · rw [if_pos h0]
    exact ⟨rfl, by rw [h0]; rfl⟩
  · rw [if_neg (by omega)]
    exact ⟨rfl, by simp [hv, hok]⟩

end

/-- Settles O19, one lemma per instruction. -/
theorem leavingABlock : Obligations.LeavingABlock := by
  unfold Obligations.LeavingABlock
  intro s o oa pr l r line ln nlive succ w0 hline ht hln pushed origin out
  have hb : Built o l r line := built_of_line hline
  refine ⟨fun hrun hl hr => ⟨fun k hk => ?_, fun k hk => ?_, ?_⟩, fun p hpm hrun hl hr hp hpred => ⟨fun k htrue hk => ?_, fun hfalse => ?_⟩, fun hrun hl => ?_⟩
  · exact exit_becomes hb ht hln hrun hl hr hk
  · exact exitq_becomes hb ht hln hrun hl hr hk
  · exact spawn_does hb ht hrun hl hr
  · exact exitp_true hb ht hln hpm hrun hl hr hp hpred htrue hk
  · exact exitp_false hb ht hpm hrun hl hr hp hpred hfalse
  · exact retire_becomes ht hrun hl

end Sys2Proof.Machine

/-! PROOFS. LAUNCH, PATCH, TRIG, QUIET and RMARK (06 R155-R160). -/

namespace Sys2Proof.Machine

/-- THE GATE OF A FIRING WHOSE ADDRESS TRANSLATES (20 R355): the firing is told the translation, and its entries are the latest used. -/
theorem accessGate_ok {s : State} {fl : Flags} {need : Slots} {addr : Operands → Option (Nat × Nat)} {rd wr : Bool} {go : Trans → State → State} {a n : Nat} {ps : List Part}
    (hc : s.CanFire fl (withPm fl need)) (hclean : (s.operands (withPm fl need)).poison = none) (ha : addr (s.operands (withPm fl need)) = some (a, n))
    (ht : s.translate s.cur.core s.firing.part (!isPriv s.firing.b) rd wr a n = .ok ps) :
    s.accessGate fl need addr rd wr go = (go (.ok ps) s).touch s.cur.core ps := by
  obtain ⟨hheld, -, hfull, hbreak⟩ := hc
  unfold State.operands at hfull hclean ha
  unfold State.accessGate
  simp only [hheld, hfull, hbreak, hclean, Option.isSome_none, Bool.not_true, Bool.or_self, Bool.false_eq_true, if_false, ha, firing_core, ht]

/-- L of a started firing goes out on both targets (06 R155-R158). -/
theorem emitL_emitting {s u : State} {need : Slots} {l : Token} (hl : (s.operands need).l = some l) (hfc : u.fc = s.fc) :
    emitL u (s.firingOn need) = s.emitting u 1 (fork l.pass) := by
  unfold emitL
  simp only [hl]
  exact result_emitting s u _ (isFiring_mask s _) hfc 1 _

/-- A started firing stages an effect and emits L. -/
theorem stageEff_emitL {s u : State} {take nums need : Slots} {l : Token} (hu : Taken s take nums u) (hl : (s.operands need).l = some l) (k : EffKind) :
    emitL (u.stageEff (s.firingOn need) k) (s.firingOn need) = s.emitting (s.staging u need k) 1 (fork l.pass) := by
  rw [stageEff_staging s u need k hu.nid]
  exact emitL_emitting hl ((staging_fc s u need k).trans hu.fc)

section
variable {s : State} {o : OpA} {pr : Predicate} {l : Token}

theorem launch_does {ps : List Part} (hr : s.Runs o.fl false needL pr) (hl : (s.operands (withPm o.fl needL)).l = some l) (haddr : isAddr l = true) (hline : l.word % 128 = 0)
    (ht : s.translate s.cur.core s.firing.part (!isPriv s.firing.b) true false l.word 128 = .ok ps) :
    Does s (exec (.launch o) s) (withPm o.fl needL) (fun u =>
      (s.emitting (s.staging u (withPm o.fl needL) (.launch (o.imm.toNat % 64) l.word ps)) 1 (fork l.pass)).touch s.cur.core ps) := by
  show Does s (execLaunch o s) _ _ _
  unfold execLaunch
  dsimp only
  have hok : (isAddr l && l.word % 128 == 0) = true := by simp [haddr, hline]
  rw [accessGate_ok hr.can hr.clean (by simp only [hl, Option.bind_some, hok, if_true]) ht]
  obtain ⟨u, hT, heq⟩ := anchor_does s
    { fl := o.fl, need := needL,
      check := fun _ f => match f.ops.l with
        | some l => if !isAddr l then some (fFormat, 0) else if l.word % 128 ≠ 0 then some (fLaunch, l.word) else (Trans.ok ps).err
        | none => none
      act := fun s f => match f.ops.l with
        | some l => emitL (s.stageEff f (.launch (o.imm.toNat % 64) l.word (Trans.ok ps).parts)) f
        | none => s } pr
    (fun u => s.emitting (s.staging u (withPm o.fl needL) (.launch (o.imm.toNat % 64) l.word ps)) 1 (fork l.pass)) hr
    (by simp only [hl, haddr, hline, Bool.not_true, Bool.false_eq_true, if_false, ne_eq, not_true_eq_false]; rfl) rfl
    (fun u hu => by simp only [hl]; exact stageEff_emitL hu hl _)
  exact ⟨u, hT, congrArg (fun x : State => Host.Outcome.next (x.touch s.cur.core ps)) (Host.Outcome.next.inj heq)⟩

theorem trig_does (hr : s.Runs o.fl false needL pr) (hl : (s.operands (withPm o.fl needL)).l = some l) :
    Does s (exec (.trig o) s) (withPm o.fl needL) (fun u => s.emitting (s.staging u (withPm o.fl needL) .trig) 1 (fork l.pass)) {} := by
  show Does s (execTrig o s) _ _ _
  unfold execTrig
  exact anchor_does s _ pr _ hr rfl rfl (fun u hu => stageEff_emitL hu hl _)

theorem patch_does {r : Token} (hrun : s.Runs o.fl false needLR pr) (hl : (s.operands (withPm o.fl needLR)).l = some l) (hr : (s.operands (withPm o.fl needLR)).r = some r)
    (hla : isAddr l = true) (hra : isAddr r = true) :
    Does s (exec (.patch o) s) (withPm o.fl needLR) (fun u =>
      s.emitting (s.staging u (withPm o.fl needLR) (.patch l.word (o.imm.toNat % 4) (BitVec.ofNat 64 r.word))) 1 (fork l.pass)) := by
  show Does s (execPatch o s) _ _ _
  unfold execPatch
  refine anchor_does s _ pr _ hrun ?_ rfl (fun u hu => ?_)
  · simp only [hl, hr, Option.all_some, hla, hra, Bool.and_self, if_true]
  · simp only [hl, hr]
    exact stageEff_emitL hu hl _

/-- The countdown that QUIET begins (06 R160). -/
def State.quieting (s u : State) (n : Nat) : State :=
  { u.mapLaunch s.firing.lk (fun x => { x with quiets := x.quiets ++ [{ site := s.cur, flight := s.nid, n := n, count := 0, start := s.here.fwd }] }) with nid := s.nid + 1 }

/-- An identity drawn before a launch is changed, or after it, is the same. -/
theorem mapLaunch_nid (s : State) (lk n : Nat) (g : Launch → Launch) : ({ s with nid := n }).mapLaunch lk g = { s.mapLaunch lk g with nid := n } := by
  unfold State.mapLaunch
  show (match s.launch lk with
    | none => { s with nid := n }
    | some l => ({ s with nid := n }).setLaunch lk (g l)) = _
  cases s.launch lk with
  | none => rfl
  | some l =>
    unfold State.setLaunch
    by_cases h0 : lkLid lk = 0
    · simp only [h0, if_true]
      rfl
    · simp only [h0, if_false]
      rfl

theorem quiet_does (hr : s.Runs o.fl false needL pr) :
    Does s (exec (.quiet o) s) (withPm o.fl needL) (fun u => s.awaiting (s.quieting u o.imm.toNat) false s.nid) {} := by
  show Does s (execQuiet o s) _ _ _
  unfold execQuiet
  refine anchor_does s _ pr _ hr rfl rfl (fun u hu => ?_)
  simp only [State.fresh]
  rw [mapLaunch_nid, hu.nid]
  exact await_awaiting s (s.quieting u o.imm.toNat) _ (isFiring_mask s _) ((mapLaunch_fc u _ _).trans hu.fc) false s.nid

/-! ### RMARK -/

/-- The marker that RMARK requests of a launch: the one it has, or one that is due by d (06 R159). -/
def askMarker (d : Nat) (l : Launch) : Launch := if l.rmark.isSome then l else { l with rmark := some d }

theorem requestMarker_eq {lk : Nat} (hlk : lkLid lk ≠ 0) (u : State) (core : Nat) :
    u.requestMarker lk core = (u.mapLaunch lk (askMarker (u.fc + min 16 (Config.rmarkDelay u.tick)))).tickUp := by
  unfold State.requestMarker
  simp only [hlk, if_false]
  rfl

theorem askMarker_rmark {x : Launch} {d : Nat} : ∃ m, (askMarker d x).rmark = some m ∧ (x.rmark = some m ∨ x.rmark = none ∧ m = d) := by
  unfold askMarker
  cases hm : x.rmark with
  | none => exact ⟨d, by simp, Or.inr ⟨rfl, rfl⟩⟩
  | some m => exact ⟨m, by simp [hm], Or.inl rfl⟩

/-- The started firing knows its launch up to the active rounds. -/
theorem Within.launch {u : State} (h : Within s u) {lk : Nat} {ln : Launch} (hl : s.launch lk = some ln) :
    ∃ x, u.launch lk = some x ∧ { x with active := [] } = { ln with active := [] } := by
  have hsame := h.launches lk
  unfold sameButActive at hsame
  rw [hl] at hsame
  exact Option.map_eq_some_iff.mp hsame

theorem mapLaunch_launch_same (u : State) {lk : Nat} {x : Launch} (g : Launch → Launch) (h : u.launch lk = some x) : (u.mapLaunch lk g).launch lk = some (g x) := by
  unfold State.mapLaunch
  rw [h]
  exact launch_setLaunch_same _ _ _

theorem rmark_requests {ln : Launch} (hr : s.Runs o.fl false needL pr) (hl : (s.operands (withPm o.fl needL)).l = some l) (hlk : lkLid s.firing.lk ≠ 0)
    (hln : s.launch s.firing.lk = some ln) :
    ∃ t, exec (.rmark o) s = .next t ∧ t.elem s.cur = (s.firedElem (withPm o.fl needL) s.firing.thr).plus (s.resultOf 1 s.firing.thr (fork l.pass)) ∧
      (∃ n d, t.launch s.firing.lk = some n ∧ n.rmark = some d ∧ (ln.rmark = some d ∨ ln.rmark = none ∧ s.fc ≤ d ∧ d ≤ s.fc + 16)) ∧
      (∀ k, k ≠ siteKey s.cur → t.bank k = s.bank k) ∧ t.mem = s.mem ∧ t.cores = s.cores := by
  obtain ⟨u, hT, heq⟩ : Does s (exec (.rmark o) s) (withPm o.fl needL) (fun u => s.emitting
      (u.mapLaunch s.firing.lk (askMarker (u.fc + min 16 (Config.rmarkDelay u.tick)))).tickUp 1 (fork l.pass)) {} := by
    show Does s (execRmark o s) _ _ _
    unfold execRmark
    refine anchor_does s _ pr _ hr rfl rfl (fun u hu => ?_)
    have hrm := requestMarker_eq hlk u s.cur.core
    show emitL (u.requestMarker s.firing.lk s.cur.core) (s.firingOn (withPm o.fl needL)) = _
    rw [hrm]
    exact emitL_emitting hl ((mapLaunch_fc u _ _).trans hu.fc)
  obtain ⟨x, hx, hsame⟩ := hT.frame.launch hln
  obtain ⟨m, hm, hwhen⟩ := askMarker_rmark (x := x) (d := u.fc + min 16 (Config.rmarkDelay u.tick))
  have hmark := congrArg Launch.rmark hsame
  dsimp only at hmark
  have hmap := mapLaunch_banks u s.firing.lk (askMarker (u.fc + min 16 (Config.rmarkDelay u.tick)))
  refine ⟨_, heq, ?_, ⟨_, m, mapLaunch_launch_same u _ hx, hm, ?_⟩, fun k hk => ?_, ?_, ?_⟩
  · unfold State.emitting
    rw [State.elem_setElem_same, hmap]
    show (u.elem s.cur).plus _ = _
    rw [hT.elem]
  · rw [hmark] at hwhen
    rcases hwhen with h | ⟨h, rfl⟩
    · exact Or.inl h
    · rw [hT.fc]
      exact Or.inr ⟨h, Nat.le_add_right _ _, Nat.add_le_add_left (Nat.min_le_left _ _) _⟩
  · unfold State.emitting
    rw [State.bank_setElem_other _ _ _ _ hk, hmap]
    exact hT.frame.banks k hk
  · exact (congrArg State.mem hmap).trans (show u.mem = s.mem by rw [hT.frame.rest])
  · exact (congrArg State.cores hmap).trans (show u.cores = s.cores by rw [hT.frame.rest])

end

/-- Settles O20, one lemma per instruction. -/
theorem graphEffectsAndMarkerRequests : Obligations.GraphEffectsAndMarkerRequests := by
  unfold Obligations.GraphEffectsAndMarkerRequests
  refine ⟨fun s o pr l => ⟨fun need hneed hr hl => ?_, fun need r hneed hrun hl hr hla hra => ?_⟩, fun s o pr l ln hr hl hlk hln => rmark_requests hr hl hlk hln⟩
  · subst hneed
    exact ⟨fun ps haddr hline ht => launch_does hr hl haddr hline ht, trig_does hr hl, quiet_does hr⟩
  · subst hneed
    exact patch_does hrun hl hr hla hra

end Sys2Proof.Machine

/-! PROOFS. QPUSH, QPOP, CRD and CWR (06 R149-R154). -/

namespace Sys2Proof.Machine

section
variable {s : State} {o : OpA} {pr : Predicate} {l : Token} {ln : Launch} {k : Nat}

/-- The record that QPUSH makes of L (06 R149). -/
def pushedToken (l : Token) : Stored :=
  { pay := if l.v then l.pay else BitVec.ofNat 512 (bitsAt l.pay.toNat 0 64), tag := l.tag, scale := l.scale, v := l.v, poison := l.poison, chain := l.chain }

theorem namedQueue_started {u : State} (h : Within s u) (hln : s.launchOf s.firing = some ln) (hk : s.queueTile ln (o.imm.toNat % 2048) = some k) (ops : Operands) :
    namedQueue o u { s.firing with ops := ops } = some k :=
  (h.queueTile hln _).trans hk

theorem namedQueue_here (hln : s.launchOf s.firing = some ln) (hk : s.queueTile ln (o.imm.toNat % 2048) = some k) (ops : Operands) :
    namedQueue o s { s.firing with ops := ops } = some k := by
  show (s.launchOf s.firing).bind _ = _
  rw [hln]
  exact hk

theorem qpush_becomes (hr : s.Runs o.fl false needL pr) (hl : (s.operands (withPm o.fl needL)).l = some l) (hln : s.launchOf s.firing = some ln)
    (hk : s.queueTile ln (o.imm.toNat % 2048) = some k) (hv : l.v = o.v) (hok : routeOk o.ty l = true) :
    Becomes s (exec (.qpush o) s) ((s.firedElem (withPm o.fl needL) s.firing.thr).plus (s.pushedRecord k (pushedToken l) none)) := by
  show Becomes s (execQpush o s) _ _
  unfold execQpush
  refine anchor_becomes hr ?_ rfl (fun u hu => ?_)
  · simp only [hl, Option.all_some, hv, beq_self_eq_true, hok, Bool.and_self, if_true]
  · simp only [namedQueue_started hu.frame hln hk, hl]
    exact hu.fires.pushResult _ (isFiring_mask s _) k _ none

/-! ### QPOP -/

/-- The head record that QPOP finds at its queue. -/
def popHead (o : OpA) (s : State) (f : Firing) : Option Stored := (namedQueue o s f).bind s.queueHead

/-- The firing of QPOP. -/
def qpopFiring (o : OpA) : AnchorFiring :=
  { fl := o.fl, need := needL, nums := {}
    hold := fun s f => (popHead o s f).isNone
    check := fun s f => match popHead o s f with
      | some r => if r.v == o.v && (r.poison || routeOk o.ty r.token) then none else some (fFormat, 0)
      | none => none
    act := fun s f => match namedQueue o s f, popHead o s f with
      | some k, some r => (s.queuePop k f.lk f.round).result f false 1 (fork r.token)
      | _, _ => s }

theorem exec_qpop : exec (.qpop o) s = .next (s.anchorFire (qpopFiring o)) := rfl

theorem queueHead_cons {u : State} {h : QRec} {rest : List QRec} (hrecs : (u.mtile k).recs = h :: rest) (hkey : h.key = none) : u.queueHead k = some h.val := by
  unfold State.queueHead
  rw [hrecs, List.head?_cons, Option.filter_some, if_pos (by rw [hkey]; rfl)]
  rfl

/-- An anchor that holds does nothing (03 R58). -/
theorem anchorFire_holds {a : AnchorFiring} (hr : s.Runs a.fl false a.need pr) (hk : a.check s (s.firingOn (withPm a.fl a.need)) = none)
    (hh : a.hold s (s.firingOn (withPm a.fl a.need)) = true) : s.anchorFire a = s := by
  obtain ⟨⟨hheld, hstage, hfull, hbreak⟩, hclean, all, bits, rfl, hp⟩ := hr
  unfold State.firingOn at hk hh
  unfold State.operands at hfull hclean hp hk hh
  unfold State.anchorFire
  simp only [hheld, hstage, hfull, hbreak, hclean, hp, hk, hh, Bool.not_true, Bool.or_self, Bool.false_eq_true, if_false, if_true]

theorem qpop_waits (hr : s.Runs o.fl false needL pr) (hln : s.launchOf s.firing = some ln) (hk : s.queueTile ln (o.imm.toNat % 2048) = some k)
    (hempty : (s.mtile k).recs = []) : exec (.qpop o) s = .next s := by
  have hhead : popHead o s (s.firingOn (withPm o.fl needL)) = none := by
    unfold popHead
    rw [namedQueue_here hln hk, Option.bind_some]
    unfold State.queueHead
    rw [hempty]
    rfl
  rw [exec_qpop, anchorFire_holds (a := qpopFiring o) hr]
  · simp only [qpopFiring, hhead]
  · simp only [qpopFiring, hhead, Option.isNone_none]

/-- What a started firing counts as the complete cuts of its launch. -/
theorem Within.cutOf {u : State} (h : Within s u) (lk core : Nat) : u.cutOf lk core = s.cutOf lk core := by
  have hcut : (u.launch lk).map Launch.cut = (s.launch lk).map Launch.cut := by
    have hsame := congrArg (Option.map Launch.cut) (h.launches lk)
    rw [Option.map_map, Option.map_map] at hsame
    exact hsame
  have hcore : u.core core = s.core core := by rw [h.rest]; rfl
  unfold State.cutOf
  rw [hcut, hcore]

/-- The memory tile of a queue once its head record has been popped (06 R150, 21 R380). -/
theorem queuePop_head {u : State} {h : QRec} {rest : List QRec} (hrecs : (u.mtile k).recs = h :: rest) (lk round : Nat) :
    u.queuePop k lk round = u.setMtile k { u.mtile k with recs := rest, popped := (round, h) :: (u.mtile k).popped.filter (fun x => decide (u.cutOf lk (k / 16) ≤ x.1)) } := by
  unfold State.queuePop State.queueTake
  dsimp only
  rw [hrecs]
  rfl

theorem qpop_does {h : QRec} {rest : List QRec} (hr : s.Runs o.fl false needL pr) (hln : s.launchOf s.firing = some ln)
    (hk : s.queueTile ln (o.imm.toNat % 2048) = some k) (hrecs : (s.mtile k).recs = h :: rest) (hkey : h.key = none) (hv : h.val.v = o.v)
    (hok : (h.val.poison || routeOk o.ty h.val.token) = true) :
    Does s (exec (.qpop o) s) (withPm o.fl needL) (fun u => s.emitting (u.setMtile k { s.mtile k with
      recs := rest, popped := (s.here.fwd, h) :: (s.mtile k).popped.filter (fun x => decide (s.cutOf s.firing.lk (k / 16) ≤ x.1)) }) 1 (fork h.val.token)) {} := by
  have hhead : popHead o s (s.firingOn (withPm o.fl needL)) = some h.val := by
    unfold popHead
    rw [namedQueue_here hln hk, Option.bind_some, queueHead_cons hrecs hkey]
  rw [exec_qpop]
  refine anchor_does s (qpopFiring o) pr _ hr ?_ ?_ (fun u hu => ?_)
  · simp only [qpopFiring, hhead, hv, beq_self_eq_true, hok, Bool.and_self, if_true]
  · simp only [qpopFiring, hhead, Option.isNone_some]
  · have htile : u.mtile k = s.mtile k := by
      unfold State.mtile
      rw [hu.mtiles]
    have hq : namedQueue o u (s.firingOn (withPm o.fl needL)) = some k := namedQueue_started hu.frame hln hk _
    have hhead' : popHead o u (s.firingOn (withPm o.fl needL)) = some h.val := by
      unfold popHead
      rw [hq, Option.bind_some, queueHead_cons (by rw [htile, hrecs]) hkey]
    simp only [qpopFiring, hq, hhead']
    rw [queuePop_head (by rw [htile, hrecs]) s.firing.lk s.firing.round, htile, hu.frame.cutOf]
    exact result_emitting s (u.setMtile k _) _ (isFiring_mask s _) hu.fc 1 _

/-! ### Context registers -/

/-- The firing of CRD on the committed register. -/
def crdFiring (o : OpA) (reg : Stored) : PureFiring :=
  { fl := o.fl, vecP := false, lat := 1, need := needL, tag := routeTag o.ty (some reg.token), v := reg.v,
    eval := fun _ _ => if reg.poison || routeOk o.ty reg.token then .ok (fork reg.token, 0) else .error fFormat }

theorem crd_emits {reg : Stored} (hr : s.Runs o.fl false needL pr) (hreg : reg = s.firing.b.creg o.imm.toNat) (hclean : reg.poison = false)
    (hok : routeOk o.ty reg.token = true) (hround : s.here.fwd ≤ s.firing.b.mpass) :
    Emits s (exec (.crd o) s) (takes o.fl (withPm o.fl needL)) 1 (fork reg.token) 0 := by
  have hround' : ¬ s.firing.b.mpass < s.firing.round := Nat.not_lt.mpr hround
  have hexec : exec (.crd o) s = .next (s.pureFire (crdFiring o reg)) := by
    show execCrd o s = _
    unfold execCrd
    simp only [hround', if_false]
    rw [hreg]
    rfl
  rw [hexec]
  refine pure_emits (p := crdFiring o reg) hr ?_ (List.cons_ne_nil _ _) ?_ rfl
  · simp only [crdFiring, hok, Bool.or_true, if_true]
  · simp [fork, Stored.token, hclean]

theorem crd_waits (hround : s.firing.b.mpass < s.here.fwd) : exec (.crd o) s = .next s := by
  show execCrd o s = _
  unfold execCrd
  exact if_pos hround

theorem cwr_does (hr : s.Runs o.fl false needL pr) (hl : (s.operands (withPm o.fl needL)).l = some l) (hv : l.v = decide (16 ≤ o.imm.toNat)) (hok : routeOk o.ty l = true) :
    Does s (exec (.cwr o) s) (withPm o.fl needL) (fun u =>
      s.emitting { u.setBank (siteKey s.cur) { u.bank (siteKey s.cur) with rstage := (u.bank (siteKey s.cur)).rstage ++ [(s.here.fwd,
        { key := s.firing.effKey, seq := s.nid, reg := o.imm.toNat, val := l.stored })] } with nid := s.nid + 1 } 1 (fork l.pass)) {} := by
  show Does s (execCwr o s) _ _ _
  unfold execCwr
  refine anchor_does s _ pr _ hr ?_ rfl (fun u hu => ?_)
  · simp only [hl, Option.all_some, hv, beq_self_eq_true, hok, Bool.and_self, if_true]
  · simp only [hl]
    rw [hu.nid]
    exact emitL_emitting hl hu.fc

end

/-- Settles O21, one lemma per instruction. -/
theorem queuesAndContextRegisters : Obligations.QueuesAndContextRegisters := by
  unfold Obligations.QueuesAndContextRegisters
  intro s o pr l ln k need hneed hr hl hln
  subst hneed
  refine ⟨fun hk => ⟨fun hv hok => qpush_becomes hr hl hln hk hv hok, fun h rest hrecs hkey hv hok => ⟨_, qpop_does hr hln hk hrecs hkey hv hok⟩, fun hempty => ?_⟩,
    fun reg hreg hclean hok => ⟨fun hround => crd_emits hr hreg hclean hok hround, fun hround => crd_waits hround⟩, fun hv hok => cwr_does hr hl hv hok⟩
  exact qpop_waits hr hln hk hempty

end Sys2Proof.Machine

/-! PROOFS. Where an access goes: the table's translation and the place in a memory tile (20 R354, 08 R194 R203). -/

namespace Sys2Proof.Machine

/-! ### The table -/

/-- An access inside one line is one part (08 R195). -/
theorem translate_in_line {s : State} {core part a n : Nat} {user rd wr : Bool} (h : a % 64 + n ≤ 64) :
    s.translate core part user rd wr a n = transPart s core part user rd wr 3 a n 0 := by
  have hmin : min n (64 - a % 64) = n := by omega
  unfold State.translate
  simp only [hmin, Nat.lt_irrefl, if_false]

section
variable {s : State} {core part a n i : Nat} {user rd wr : Bool} {e : Rtt}

/-- A part that hits the core's table, inside its entry: permission, residence, backing (20 R354). -/
theorem transPart_hit (hheld : s.heldAt core part a = false) (hhit : tableHit (s.core core) a = some (i, e)) (hlimit : a + n ≤ entLimit e.words) (fuel off : Nat) :
    transPart s core part user rd wr (fuel + 1) a n off =
      if (user && !entBit e.words atUSR || rd && !entBit e.words atRD || wr && !entBit e.words atWR) = true then .fault fPermission a
      else if a < entRlo e.words ∨ entRhi e.words < a + n then .fault fResidency a
      else backing s part e.words a n off rd wr := by
  have hentry : s.entryAt core part a = some e.words := by
    unfold State.entryAt
    rw [hhit]
  have hin : ¬ entLimit e.words < a + n := by omega
  rw [transPart]
  simp only [hheld, hentry, hin, Bool.false_eq_true, if_false]
  by_cases huser : (user && !entBit e.words atUSR) = true
  · simp only [huser, Bool.true_or, if_true]
  · rw [if_neg huser, Bool.not_eq_true] at *
    rw [huser, Bool.false_or]

/-- The part of an access that device memory backs (20 R354). -/
theorem backing_device (hrdev : entRdev e.words = 0) (hhost : entBit e.words atHOST = false) (hshare : inShare (s.part part) ((a + entOffset e.words) % 2 ^ 64) n = true) :
    ∃ p, backing s part e.words a n 0 rd wr = .ok [p] ∧ p.space = .dev ∧ p.addr = (a + entOffset e.words) % 2 ^ 64 ∧ p.size = n ∧ p.off = 0 ∧
      p.osh = entBit e.words atOSH ∧ p.hostBias = entBit e.words atBIAS := by
  unfold backing
  simp only [hrdev, hhost, hshare, ne_eq, not_true_eq_false, Bool.false_eq_true, if_false, if_true]
  exact ⟨_, rfl, rfl, rfl, rfl, rfl, rfl, rfl⟩

end

/-! ### The place in a memory tile -/

/-- The byte that an access to a memory tile names (08 R194). -/
def tileByte (l : Token) (d : Int) : Nat := ofInt 19 ((bitsAt l.word 0 19 : Nat) + d)

theorem tileByte_eq {l : Token} {d : Int} {b : Nat} (h : (b : Int) = ((bitsAt l.word 0 19 : Int) + d) % 2 ^ 19) : tileByte l d = b := by
  unfold tileByte ofInt
  have hcast : ((2 ^ 19 : Nat) : Int) = 2 ^ 19 := rfl
  rw [hcast, ← h, Int.toNat_natCast]

/-- A memory tile holds bytes: it is neither a FIFO nor a line buffer. -/
def TileCfg.isStore : TileCfg → Bool
  | .store _ => true
  | .lbuf _ => false
  | .fifo _ _ => false

theorem isStore_iff {c : TileCfg} : c.isStore = true ↔ ∃ k, c = .store k := by
  cases c <;> simp [TileCfg.isStore]

/-- The parts of an access of n bytes at byte b of a memory tile, split at the line. -/
def tileParts (core tile b n a : Nat) : List Part :=
  let first := min n (64 - b % 64)
  let p : Part := { space := .tile core tile, addr := b, size := first, off := 0, prog := a }
  if first < n then [p, { p with addr := b + first, size := n - first, off := first }] else [p]

section
variable {s : State} {f : Firing} {l : Token} {d : Int} {n : Nat}

theorem tilePlace_eq (hl : f.ops.l = some l) :
    tilePlace s f d n = if l.word / 2 ^ 23 ≠ 0 ∨ tileByte l d + n > 2 ^ 19 ∨ !(s.mtile (tileKey f.e.core (bitsAt l.word 19 4))).cfg.isStore then .err fTile l.word
      else .tile (tileParts f.e.core (bitsAt l.word 19 4) (tileByte l d) n l.word) := by
  unfold tilePlace
  simp only [hl, Option.map_some, Option.getD_some]
  rfl

end

theorem tileParts_sum (core tile b n a : Nat) : ((tileParts core tile b n a).map Part.size).sum = n := by
  unfold tileParts
  dsimp only
  split
  · simp only [List.map_cons, List.map_nil, List.sum_cons, List.sum_nil]
    omega
  · simp only [List.map_cons, List.map_nil, List.sum_cons, List.sum_nil]
    omega

/-- Each part lies in one line of the tile. -/
theorem tileParts_in_line {core tile b n a : Nat} (h0 : 0 < n) (h64 : n ≤ 64) :
    ∀ p ∈ tileParts core tile b n a, p.space = .tile core tile ∧ p.addr = b + p.off ∧ p.addr / 64 = (p.addr + p.size - 1) / 64 := by
  intro p hp
  unfold tileParts at hp
  dsimp only at hp
  split at hp
  next hsplit =>
    rcases List.mem_cons.mp hp with rfl | hlast
    · exact ⟨rfl, rfl, by dsimp only; omega⟩
    · obtain rfl := List.mem_singleton.mp hlast
      exact ⟨rfl, rfl, by dsimp only; omega⟩
  next hone =>
    obtain rfl := List.mem_singleton.mp hp
    exact ⟨rfl, rfl, by dsimp only; omega⟩

/-- Settles O22: the table by `transPart_hit`, the memory tile by `tilePlace_eq`. -/
theorem whereAnAccessGoes : Obligations.WhereAnAccessGoes := by
  unfold Obligations.WhereAnAccessGoes
  refine ⟨fun s core part a n i user rd wr e _ hline hheld hhit hlimit => ?_, fun s f l d n b hl h0 h64 => ⟨fun w hw hword => ?_, fun hw hb => ⟨fun hfit hstore => ?_, fun hbad => ?_⟩⟩⟩
  · rw [translate_in_line hline, transPart_hit hheld hhit hlimit]
    refine ⟨fun hdenied => if_pos hdenied, fun hallowed => ⟨fun hout => ?_, fun hlo hhi hrdev hhost hshare => ?_⟩⟩
    · rw [if_neg (by rw [hallowed]; exact Bool.false_ne_true), if_pos hout]
    · rw [if_neg (by rw [hallowed]; exact Bool.false_ne_true), if_neg (by omega)]
      exact backing_device hrdev hhost hshare
  · rw [tilePlace_eq hl, hword, if_pos (Or.inl (by omega))]
  · rw [tilePlace_eq hl, tileByte_eq hb, isStore_iff.mpr hstore, if_neg (by simp only [Bool.not_true, Bool.false_eq_true, or_false]; omega)]
    exact ⟨_, rfl, tileParts_sum _ _ _ _ _, tileParts_in_line h0 h64⟩
  · rw [tilePlace_eq hl, tileByte_eq hb]
    refine if_pos ?_
    rcases hbad with hpast | hnot
    · exact Or.inr (Or.inl hpast)
    · right; right
      rw [Bool.not_eq_true', ← Bool.not_eq_true, isStore_iff]
      exact fun ⟨k, hk⟩ => hnot k hk

end Sys2Proof.Machine

/-! PROOFS. LD, LDV, MTLD and GATH (08 R196-R204). -/

namespace Sys2Proof.Machine

section
variable {s : State} {o : OpA} {f : Fmt} {l : Token} {ps : List Part} {sc : Nat}

theorem loadFmt_eq (hf : fmtOf o.ty (o.bit 3) = some f) : loadFmt o = f := by
  unfold loadFmt
  rw [hf]
  rfl

/-- The scale a load gives: 127, or under SC what R names (08 R199). -/
def ScaleIs (o : OpA) (x : Operands) (sc : Nat) : Prop :=
  o.bit 2 = false ∧ sc = 127 ∨ o.bit 2 = true ∧ ∃ r, x.r = some r ∧ isW32 r = true ∧ r.low32 ≤ 254 ∧ sc = r.low32

theorem ScaleIs.operand {g : Firing} (h : ScaleIs o g.ops sc) :
    scaleOperand (o.bit 2) g = sc ∧ (!o.bit 2 || g.ops.r.all (fun r => isW32 r && decide (r.low32 ≤ 254))) = true := by
  unfold scaleOperand
  rcases h with ⟨hb, rfl⟩ | ⟨hb, r, hr, hw, hle, rfl⟩
  · rw [hb]
    exact ⟨rfl, rfl⟩
  · rw [hb, hr]
    exact ⟨rfl, by simp [hw, hle]⟩

/-- A load that nothing holds up: no earlier ordered atomic of its chain overlaps, and its dies are online. -/
def State.LoadFree (u : State) (need : Slots) (ps : List Part) : Prop := u.chainBusy u.firing.lk (u.accessFiring need).chain ps = false ∧ u.dieOff ps = false

theorem LoadFree_touched {need : Slots} (h : (s.touched ps).LoadFree need ps) :
    chainStall (s.touched ps) (s.accessFiring need) ps = none ∧ (s.touched ps).dieOff ps = false := by
  obtain ⟨hchain, hdie⟩ := h
  rw [touched_accessFiring, touched_firing] at hchain
  exact ⟨chainStall_none _ _ _ hchain, hdie⟩

/-- What a load of a value does once it has been placed. -/
def loadAccess (o : OpA) (vec fresh vol : Bool) (place : State → Firing → Place) : AccessFiring :=
  { fl := o.fl, need := { l := true, r := o.bit 2 }, rd := true, wr := false, cancel := if vol then none else some ((loadFmt o).tag, vec),
    check := fun _ f => loadCheck (o.bit 2) f, place := place, stall := chainStall,
    offline := fun s _ ps => s.dieOff ps, act := fun s f ps => s.issueLoad f ps (.load (loadFmt o).tag vec (scaleOperand (o.bit 2) f)) (fresh || vol) (!vol) }

theorem loadFire_eq (s : State) (o : OpA) (vec fresh vol : Bool) (place : State → Firing → Place) : s.loadFire o vec fresh vol place = s.accessFire (loadAccess o vec fresh vol place) := rfl

theorem loadCheck_none {g : Firing} (hl : g.ops.l = some l) (haddr : isAddr l = true) (hsc : ScaleIs o g.ops sc) : loadCheck (o.bit 2) g = none := by
  unfold loadCheck
  simp only [hl, Option.all_some, haddr, hsc.operand.2, Bool.and_self, if_true]

/-- The need of a load: L, and R where it names the scale. -/
def loadNeed (o : OpA) : Slots := { l := true, r := o.bit 2 }

/-- A LOAD OF A VALUE IN GLOBAL MEMORY goes out once it is translated. -/
theorem load_global {vec fresh vol : Bool} {place : State → Firing → Place} {as : List (Nat × Nat × Nat)} (h : s.Accesses o.fl (loadNeed o)) (hf : fmtOf o.ty (o.bit 3) = some f)
    (hl : (s.operands (s.accessNeed (loadNeed o))).l = some l) (haddr : isAddr l = true) (hsc : ScaleIs o (s.operands (s.accessNeed (loadNeed o))) sc)
    (hplace : place s (s.accessFiring (loadNeed o)) = .global as) (hfree : (s.touched ps).LoadFree (loadNeed o) ps) (ht : s.Translated true false as ps) :
    Does (s.touched ps) (.next (s.loadFire o vec fresh vol place)) (s.accessNeed (loadNeed o))
      (fun u => (s.touched ps).loading u (loadNeed o) ps (.load f.tag vec sc) (fresh || vol) (!vol)) := by
  obtain ⟨hstall, hdie⟩ := LoadFree_touched hfree
  rw [loadFire_eq]
  refine global_does s (loadAccess o vec fresh vol place) as ps _ h rfl (loadCheck_none hl haddr hsc) hplace ht rfl hdie hstall (fun u hu => ?_)
  show u.issueLoad (s.accessFiring (loadNeed o)) ps (.load (loadFmt o).tag vec (scaleOperand (o.bit 2) (s.accessFiring (loadNeed o)))) _ _ = _
  rw [loadFmt_eq hf, (ScaleIs.operand (g := s.accessFiring (loadNeed o)) hsc).1, ← touched_accessFiring s ps]
  exact issueLoad_loading (s.touched ps) u (loadNeed o) hu.fc hu.nid hu.reqs hu.tick ps _ _ _

/-- A LOAD OF A VALUE IN A MEMORY TILE. -/
theorem load_tile {vec fresh vol : Bool} {place : State → Firing → Place} (h : s.Accesses o.fl (loadNeed o)) (hf : fmtOf o.ty (o.bit 3) = some f)
    (hl : (s.operands (s.accessNeed (loadNeed o))).l = some l) (haddr : isAddr l = true) (hsc : ScaleIs o (s.operands (s.accessNeed (loadNeed o))) sc)
    (hplace : place s (s.accessFiring (loadNeed o)) = .tile ps) (hfree : s.LoadFree (loadNeed o) ps) :
    Does s (.next (s.loadFire o vec fresh vol place)) (s.accessNeed (loadNeed o)) (fun u => s.loading u (loadNeed o) ps (.load f.tag vec sc) (fresh || vol) (!vol)) := by
  obtain ⟨hchain, hdie⟩ := hfree
  rw [loadFire_eq]
  refine tile_does s (loadAccess o vec fresh vol place) ps _ h rfl (loadCheck_none hl haddr hsc) hplace rfl hdie (chainStall_none _ _ _ hchain) (fun u hu => ?_)
  show u.issueLoad (s.accessFiring (loadNeed o)) ps (.load (loadFmt o).tag vec (scaleOperand (o.bit 2) (s.accessFiring (loadNeed o)))) _ _ = _
  rw [loadFmt_eq hf, (ScaleIs.operand (g := s.accessFiring (loadNeed o)) hsc).1]
  exact issueLoad_loading s u (loadNeed o) hu.fc hu.nid hu.reqs hu.tick ps _ _ _

theorem globalAddr_eq {g : Firing} (hl : g.ops.l = some l) : globalAddr o g = ofInt 64 ((l.word : Int) + o.imm.toInt) := by
  unfold globalAddr
  rw [hl]
  rfl

/-! ### Gathers -/

/-- The lanes of an address vector that are not null, with their place in the value (08 R204). -/
def laneAccesses (l : Token) (n : Nat) : List (Nat × Nat × Nat) :=
  ((List.range 8).map (fun j => (laneOf l.num 64 j, n, n * j))).filter (fun x => x.1 ≠ 2 ^ 64 - 1)

theorem filterMap_lanes (g : Nat → Nat) (n : Nat) (js : List Nat) :
    js.filterMap (fun j => if g j = 2 ^ 64 - 1 then none else some (g j, n, n * j)) = (js.map (fun j => (g j, n, n * j))).filter (fun x => x.1 ≠ 2 ^ 64 - 1) := by
  induction js with
  | nil => rfl
  | cons j js ih =>
    by_cases h : g j = 2 ^ 64 - 1
    · rw [List.filterMap_cons_none (by rw [if_pos h]), ih, List.map_cons, List.filter_cons_of_neg (by simpa using h)]
    · rw [List.filterMap_cons_some (by rw [if_neg h]), ih, List.map_cons, List.filter_cons_of_pos (by simpa using h)]

theorem lanePlace_global {g : Firing} {n : Nat} (hl : g.ops.l = some l) (halign : ∀ x ∈ laneAccesses l n, x.1 % n = 0) : lanePlace n g = .global (laneAccesses l n) := by
  have hlanes : (List.range 8).filterMap (fun j => let a := laneOf ((g.ops.l.map Token.num).getD 0) 64 j; if a = 2 ^ 64 - 1 then none else some (a, n, n * j)) = laneAccesses l n := by
    rw [hl]
    exact filterMap_lanes (fun j => laneOf l.num 64 j) n _
  have hfind : (laneAccesses l n).find? (fun (a, _, _) => a % n != 0) = none := by
    rw [List.find?_eq_none]
    intro x hx
    simp [halign x hx]
  unfold lanePlace
  simp only [hlanes, hfind]

theorem gath_does (h : s.Accesses o.fl (loadNeed o)) (hf : fmtOf o.ty (o.bit 3) = some f) (hl : (s.operands (s.accessNeed (loadNeed o))).l = some l) (hvec : isVec64 l = true)
    (hsc : ScaleIs o (s.operands (s.accessNeed (loadNeed o))) sc) (hfree : (s.touched ps).LoadFree (loadNeed o) ps)
    (halign : ∀ x ∈ laneAccesses l (scalarSize o.ty), x.1 % scalarSize o.ty = 0) (ht : s.Translated true false (laneAccesses l (scalarSize o.ty)) ps) :
    Does (s.touched ps) (exec (.gath o) s) (s.accessNeed (loadNeed o)) (fun u => (s.touched ps).loading u (loadNeed o) ps (.gather f.tag sc) (o.bit 0) true) := by
  obtain ⟨hstall, hdie⟩ := LoadFree_touched hfree
  show Does _ (execGath o s) _ _ _
  unfold execGath
  refine global_does s _ (laneAccesses l (scalarSize o.ty)) ps _ h rfl ?_ (lanePlace_global hl halign) ht rfl hdie hstall (fun u hu => ?_)
  · have hL : (s.accessFiring (loadNeed o)).ops.l = some l := hl
    have hR := (ScaleIs.operand (g := s.accessFiring (loadNeed o)) hsc).2
    exact if_pos (Bool.and_eq_true_iff.mpr ⟨(congrArg (Option.all isVec64) hL).trans hvec, hR⟩)
  · show u.issueLoad (s.accessFiring (loadNeed o)) ps (.gather (loadFmt o).tag (scaleOperand (o.bit 2) (s.accessFiring (loadNeed o)))) _ _ = _
    rw [loadFmt_eq hf, (ScaleIs.operand (g := s.accessFiring (loadNeed o)) hsc).1, ← touched_accessFiring s ps]
    exact issueLoad_loading (s.touched ps) u (loadNeed o) hu.fc hu.nid hu.reqs hu.tick ps _ _ _

end

/-- Settles O23, by `load_global`, `load_tile` and `gath_does`. -/
theorem loadsAreIssued : Obligations.LoadsAreIssued := by
  unfold Obligations.LoadsAreIssued
  intro s o f l ps sc need hneed h hf hl hscale addr t size free
  subst hneed
  have hsc : ScaleIs o (s.operands (s.accessNeed (loadNeed o))) sc := hscale
  have hglobal (n : Nat) : (Place.global [(globalAddr o (s.accessFiring (loadNeed o)), n, 0)]) = .global [(addr, n, 0)] := by
    rw [globalAddr_eq (g := s.accessFiring (loadNeed o)) hl]
  refine ⟨fun haddr hfree => ⟨fun ht => ?_, fun ht => ?_⟩, fun haddr hfree hplace => ?_, fun hvec hfree as has halign ht => ?_⟩
  · exact load_global (place := fun _ f => .global [(globalAddr o f, scalarSize o.ty, 0)]) h hf hl haddr hsc (hglobal _) hfree ht
  · exact load_global (place := fun _ f => .global [(globalAddr o f, 64, 0)]) h hf hl haddr hsc (hglobal _) hfree ht
  · exact load_tile (vec := o.v) (fresh := true) (vol := false) (place := fun s f => tilePlace s f o.imm.toInt (if o.v then 64 else scalarSize o.ty)) h hf hl haddr hsc hplace hfree
  · subst has
    exact gath_does h hf hl hvec hsc hfree halign ht

end Sys2Proof.Machine

/-! PROOFS. ST, STV, MTST and SCAT (08 R197-R204). -/

namespace Sys2Proof.Machine

/-- What a write of bs in the chain c does: its parts are staged, and the order token whose POS is one more goes out on both targets (08 R197). -/
def State.storing (s : State) (c : Chain) (ps : List Part) (bs : List Byte) (u : State) : State :=
  s.emitting (stagingAll u (ps.map (s.stagedPart needLR bs))) 1 (fork (orderTok { c with pos := c.pos + 1 }))

theorem stageParts_storing (s u : State) (ps : List Part) (bs : List Byte) (hfc : u.fc = s.fc) :
    (u.stageParts (s.accessFiring needLR) ps bs).orderAfter (s.accessFiring needLR) = s.storing (s.accessFiring needLR).writeChain ps bs u := by
  rw [stageParts_stagingAll]
  exact result_emitting s _ _ (isFiring_access s needLR) ((stagingAll_fc _ _).trans hfc) 1 _

/-- A write that nothing holds up: no earlier ordered atomic of its chain overlaps, and the staging area has room. -/
def State.WriteFree (u : State) (ps : List Part) : Prop :=
  u.chainBusy u.firing.lk (u.accessFiring needLR).writeChain ps = false ∧ u.stageRoom u.cur.core ps = true

section
variable {s : State} {o : OpA} {l r : Token} {ps : List Part} {bs : List Byte} {as : List (Nat × Nat × Nat)}

theorem writeStall_free (h : s.WriteFree ps) : writeStall s (s.accessFiring needLR) ps = none := writeStall_none s (s.accessFiring needLR) ps h.1 h.2

theorem writeStall_touched (h : (s.touched ps).WriteFree ps) : writeStall (s.touched ps) (s.accessFiring needLR) ps = none := by
  obtain ⟨hchain, hroom⟩ := h
  rw [touched_accessFiring, touched_firing] at hchain
  rw [touched_cur] at hroom
  exact writeStall_none (s.touched ps) (s.accessFiring needLR) ps hchain hroom

/-- A write of the bytes that bytesOf gives. -/
def storeAccess (o : OpA) (check : State → Firing → Option (Nat × Nat)) (place : State → Firing → Place) (bytesOf : Firing → List Byte) : AccessFiring :=
  { fl := o.fl, need := needLR, nums := { l := true }, rd := false, wr := true, check := check, place := place, stall := writeStall,
    act := fun s f ps => (s.stageParts f ps (bytesOf f)).orderAfter f }

/-- A WRITE TO GLOBAL MEMORY is staged once it is translated. -/
theorem store_global {check : State → Firing → Option (Nat × Nat)} {place : State → Firing → Place} {bytesOf : Firing → List Byte} (h : s.Accesses o.fl needLR)
    (hcheck : check s (s.accessFiring needLR) = none) (hplace : place s (s.accessFiring needLR) = .global as) (hbytes : bytesOf (s.accessFiring needLR) = bs)
    (hfree : (s.touched ps).WriteFree ps) (ht : s.Translated false true as ps) :
    Does (s.touched ps) (.next (s.accessFire (storeAccess o check place bytesOf))) (s.accessNeed needLR) ((s.touched ps).storing (s.accessFiring needLR).writeChain ps bs) { l := true } := by
  refine global_does s (storeAccess o check place bytesOf) as ps _ h rfl hcheck hplace ht rfl rfl (writeStall_touched hfree) (fun u hu => ?_)
  show (u.stageParts (s.accessFiring needLR) ps (bytesOf (s.accessFiring needLR))).orderAfter (s.accessFiring needLR) = _
  rw [hbytes, ← touched_accessFiring s ps]
  exact stageParts_storing (s.touched ps) u ps bs hu.fc

/-- A WRITE TO A MEMORY TILE. -/
theorem store_tile {check : State → Firing → Option (Nat × Nat)} {place : State → Firing → Place} {bytesOf : Firing → List Byte} (h : s.Accesses o.fl needLR)
    (hcheck : check s (s.accessFiring needLR) = none) (hplace : place s (s.accessFiring needLR) = .tile ps) (hbytes : bytesOf (s.accessFiring needLR) = bs)
    (hfree : s.WriteFree ps) :
    Does s (.next (s.accessFire (storeAccess o check place bytesOf))) (s.accessNeed needLR) (s.storing (s.accessFiring needLR).writeChain ps bs) { l := true } := by
  refine tile_does s (storeAccess o check place bytesOf) ps _ h rfl hcheck hplace rfl rfl (writeStall_free hfree) (fun u hu => ?_)
  show (u.stageParts (s.accessFiring needLR) ps (bytesOf (s.accessFiring needLR))).orderAfter (s.accessFiring needLR) = _
  rw [hbytes]
  exact stageParts_storing s u ps bs hu.fc

/-- The check of a store of one value. -/
def storeCheck (o : OpA) (vec : Bool) (_ : State) (f : Firing) : Option (Nat × Nat) :=
  if f.ops.l.all isAddr && f.ops.r.all (fun r => tyAccepts o.ty r && r.v == vec && (isPred r || scaleOk r)) then none else some (fFormat, 0)

theorem storeFire_eq (s : State) (o : OpA) (vec : Bool) (place : State → Firing → Place) :
    s.storeFire o vec place = s.accessFire (storeAccess o (storeCheck o vec) place (fun f => storeBytes o.ty vec (f.ops.r.getD {}))) := rfl

theorem storeCheck_none {g : Firing} {vec : Bool} (hl : g.ops.l = some l) (hr : g.ops.r = some r) (haddr : isAddr l = true) (hty : tyAccepts o.ty r = true)
    (hsc : (isPred r || scaleOk r) = true) (hv : r.v = vec) : storeCheck o vec s g = none := by
  unfold storeCheck
  simp only [hl, hr, Option.all_some, haddr, hty, hv, hsc, beq_self_eq_true, Bool.and_self, if_true]

/-- The bytes of a scalar store (08 R200). -/
theorem storeBytes_scalar (ty : Ty) (r : Token) :
    storeBytes ty false r = if ty = .pred then [if r.truth then 1 else 0] else leBytes (scalarSize ty) r.pay.toNat := by
  unfold storeBytes
  simp only [Bool.false_eq_true, if_false]
  cases r.truth <;> rfl

/-- The bytes of a line store (08 R200). -/
theorem storeBytes_line (ty : Ty) (r : Token) : storeBytes ty true r = leBytes 64 (if ty = .kf6 then r.pay.toNat % 2 ^ 384 else r.pay.toNat) := rfl

theorem storeBytes_of {g : Firing} {vec : Bool} (hr : g.ops.r = some r) : storeBytes o.ty vec (g.ops.r.getD {}) = storeBytes o.ty vec r := by
  rw [hr]
  rfl

/-- The check of SCAT. -/
def scatCheck (o : OpA) (_ : State) (f : Firing) : Option (Nat × Nat) :=
  if f.ops.l.all isVec64 && f.ops.r.all (dataOk o.ty true) then none else some (fFormat, 0)

/-- The bytes of SCAT: lane PART × 8 + j of R for address lane j (08 R204). -/
def scatBytes (o : OpA) (r : Token) : List Byte := (List.range 8).flatMap (fun j => leBytes (scalarSize o.ty) (laneOf r.pay o.ty.width (o.part * 8 + j)))

theorem exec_scat : exec (.scat o) s = .next (s.accessFire (storeAccess o (scatCheck o) (fun _ f => lanePlace (scalarSize o.ty) f) (fun f => scatBytes o (f.ops.r.getD {})))) := rfl

theorem scatCheck_none {g : Firing} (hl : g.ops.l = some l) (hr : g.ops.r = some r) (hvec : isVec64 l = true) (hdata : dataOk o.ty true r = true) : scatCheck o s g = none := by
  unfold scatCheck
  simp only [hl, hr, Option.all_some, hvec, hdata, Bool.and_self, if_true]

end

/-- Settles O24, by `store_global` and `store_tile`. -/
theorem storesAreStaged : Obligations.StoresAreStaged := by
  unfold Obligations.StoresAreStaged
  intro s o l r ps h hl hr addr t size free done scalar line
  have hL : (s.accessFiring needLR).ops.l = some l := hl
  have hR : (s.accessFiring needLR).ops.r = some r := hr
  refine ⟨fun haddr hty hsc => ⟨fun hv hfree ht => ?_, fun hv hfree ht => ?_, fun hv hfree hplace => ?_⟩, fun hvec hdata hfree as has halign ht => ?_⟩
  · exact store_global (place := fun _ f => .global [(globalAddr o f, scalarSize o.ty, 0)]) (bytesOf := fun f => storeBytes o.ty false (f.ops.r.getD {})) h (storeCheck_none (s := s) hL hR haddr hty hsc hv)
      (congrArg (fun a => Place.global [(a, scalarSize o.ty, 0)]) (globalAddr_eq hL)) ((storeBytes_of hR).trans (storeBytes_scalar o.ty r)) hfree ht
  · exact store_global (place := fun _ f => .global [(globalAddr o f, 64, 0)]) (bytesOf := fun f => storeBytes o.ty true (f.ops.r.getD {})) h (storeCheck_none (s := s) hL hR haddr hty hsc hv)
      (congrArg (fun a => Place.global [(a, 64, 0)]) (globalAddr_eq hL)) ((storeBytes_of hR).trans (storeBytes_line o.ty r)) hfree ht
  · refine store_tile (place := fun s f => tilePlace s f o.imm.toInt (if o.v then 64 else scalarSize o.ty))
      (bytesOf := fun f => storeBytes o.ty o.v (f.ops.r.getD {})) h (storeCheck_none (s := s) hL hR haddr hty hsc hv) hplace ?_ hfree
    rw [storeBytes_of hR]
    cases o.v with
    | true => exact storeBytes_line o.ty r
    | false => exact storeBytes_scalar o.ty r
  · subst has
    rw [exec_scat]
    exact store_global (place := fun _ f => lanePlace (scalarSize o.ty) f) (bytesOf := fun f => scatBytes o (f.ops.r.getD {})) h (scatCheck_none (s := s) hL hR hvec hdata) (lanePlace_global hL halign) (congrArg (fun x : Option Token => scatBytes o (x.getD {})) hR) hfree ht

end Sys2Proof.Machine

/-! PROOFS. Committed writes and served loads at their homes (12 R270 R273 R274). -/

namespace Sys2Proof.Machine

/-! ### Homes -/

/-- A tile space names one of the sixteen tiles of a core. -/
def Space.Real (sp : Space) : Prop := ∀ c m, sp = .tile c m → m < 16

theorem tileKey_inj {c m c' m' : Nat} (hm : m < 16) (hm' : m' < 16) (h : tileKey c m = tileKey c' m') : c = c' ∧ m = m' := by
  unfold tileKey at h
  omega

/-- What is stored at a home is read there. -/
theorem homeMem_setHomeLog_same (s : State) (sp : Space) (h : HomeLog) : ((s.setHomeLog sp h).homeLog sp).mem = h.mem := by
  cases sp with
  | dev => rfl
  | host => rfl
  | peer p => exact mgetD_mset_same _ _ _ _
  | tile c t =>
    show ((s.setMtile (tileKey c t) _).mtile (tileKey c t)).bytes = h.mem
    rw [State.mtile_setMtile_same]

/-- Another home keeps its bytes. -/
theorem homeMem_setHomeLog_other (s : State) {sp sq : Space} (h : HomeLog) (hne : sq ≠ sp) (hp : sp.Real) (hq : sq.Real) :
    ((s.setHomeLog sp h).homeLog sq).mem = (s.homeLog sq).mem := by
  cases sp with
  | dev => cases sq with
    | dev => exact absurd rfl hne
    | host => rfl
    | peer q => rfl
    | tile c t => rfl
  | host => cases sq with
    | dev => rfl
    | host => exact absurd rfl hne
    | peer q => rfl
    | tile c t => rfl
  | peer p => cases sq with
    | dev => rfl
    | host => rfl
    | peer q => exact mgetD_mset_other _ _ _ _ _ (fun e => hne (by rw [e]))
    | tile c t => rfl
  | tile c t => cases sq with
    | dev => rfl
    | host => rfl
    | peer q => rfl
    | tile c' t' =>
      have hkey : tileKey c' t' ≠ tileKey c t := fun e => by
        obtain ⟨rfl, rfl⟩ := tileKey_inj (hq _ _ rfl) (hp _ _ rfl) e
        exact hne rfl
      show ((s.setMtile (tileKey c t) _).mtile (tileKey c' t')).bytes = (s.mtile (tileKey c' t')).bytes
      rw [State.mtile_setMtile_other _ _ _ _ hkey]

/-! ### Writes -/

theorem put_of_empty {h : HomeLog} (hempty : h.log = []) (e : Arrival) (bs : List Byte) : (h.put e bs).mem = writeBytes h.mem e.addr bs := by
  unfold HomeLog.put
  rw [hempty]
  rfl

theorem memRead_writeBytes {m : Memory} (h : Memory.wf m = true) (a x : Nat) (bs : List Byte) :
    memRead (writeBytes m a bs) x = if a ≤ x ∧ x < a + bs.length then bs.getD (x - a) 0 else memRead m x := by
  split
  next hin =>
    have hx := memRead_writeBytes_same bs m a (x - a) (by omega) h
    rwa [show a + (x - a) = x by omega] at hx
  next hout => exact memRead_writeBytes_other bs m a x (by omega) h

/-- A COMMITTED WRITE puts its bytes in place, and no other byte changes (12 R270). -/
theorem homeByte_commitWrite {s : State} {a : Arrival} (h : s.memOk = true) (hempty : (s.homeLog a.space).log = []) (bs : List Byte) (ha : a.space.Real) {sp : Space}
    (hsp : sp.Real) (x : Nat) : (s.commitWrite a bs).homeByte sp x =
      if sp = a.space ∧ a.addr ≤ x ∧ x < a.addr + bs.length then bs.getD (x - a.addr) 0 else s.homeByte sp x := by
  unfold State.homeByte State.commitWrite
  by_cases hsame : sp = a.space
  · subst hsame
    rw [homeMem_setHomeLog_same, put_of_empty hempty, memRead_writeBytes (wf_homeLog h a.space)]
    simp only [true_and]
  · rw [homeMem_setHomeLog_other s _ hsame ha hsp, if_neg (fun hc => hsame hc.1)]

theorem performOp_write {s : State} {a : Arrival} {bs : List Byte} (commit : Bool) (hop : a.op = .write bs) : s.performOp commit a = (s.commitWrite a bs).forget a.req := by
  unfold State.performOp
  simp only [hop]
  rfl

theorem homeByte_forget (s : State) (id : Nat) (sp : Space) (x : Nat) : (s.forget id).homeByte sp x = s.homeByte sp x := by cases sp <;> rfl

/-! ### Loads -/

section
variable {s : State} {r : Req} {p : Part} {tag scale : Nat} {v : Bool}

/-- A load of one part that its unit may answer: it is due, and no earlier fresh load of its chain waits (12 R273 R274). -/
structure Due (s : State) (r : Req) (p : Part) : Prop where
  load : s.reqs.find? (fun x => x.id == r.id && x.op.isNone) = some r
  found : s.reqs.find? (fun x => x.id == r.id) = some r
  device : r.ofHost = false
  due : r.due ≤ s.fc
  one : r.parts = [p]
  unit : s.servable r p = true
  first : s.freshAhead r = false

/-- What a served load does: its request leaves the table, and the flight that waits for it gets the token. -/
def State.served (s : State) (r : Req) (tok : Token) : State := ({ s with reqs := s.reqs.filter (fun x => x.id ≠ r.id) }).fill r.site r.id s.fc none [(0, tok)]

theorem answer_served (h : Due s r p) (tok : Token) : s.answer r.id none [(0, tok)] = s.served r tok := by
  unfold State.answer
  rw [h.found]
  rfl

theorem spoiltRead_one (hone : r.parts = [p]) (hcache : p.cached r.fresh = false) : s.spoiltRead r = if s.spoilt p.space p.addr p.size then some p else none := by
  unfold State.spoiltRead
  rw [hone]
  cases hsp : s.spoilt p.space p.addr p.size <;> simp [hcache, State.spoiltPart, hsp]

theorem serve_load (h : Due s r p) (hkind : r.kind = .load tag v scale) :
    exec (.memoryAccessServe r.id) s = .next (match s.spoiltRead r with
      | some q => s.replyAccess r fEcc q.addr q.prog
      | none => (s.serveParts r 0 r.parts).2.answer r.id none [(0, loadToken r.kind (s.serveParts r 0 r.parts).1)]) := by
  have hgo : ¬ (s.fc < r.due ∨ (!r.parts.all (s.servable r)) = true ∨ s.freshAhead r = true) := by
    have hdue := h.due
    rw [h.one]
    simp [h.unit, h.first]
    omega
  show execMemoryAccessServe r.id s = _
  unfold execMemoryAccessServe State.serveReq
  simp only [h.load, h.device, Bool.false_eq_true, if_false, hgo, hkind]
  cases s.spoiltRead r <;> rfl

/-- One part that holds all the bytes. -/
theorem assemble_one {n : Nat} {bs : List Byte} (h : bs.length = n) : assemble n [(0, bs)] = bs := by
  subst h
  unfold assemble
  refine List.ext_getElem (by simp) (fun i hi hi' => ?_)
  simp only [List.getElem_map, List.getElem_range]
  simp [hi']

/-- The bytes that a part reads at its home, with the latest earlier writes of its chain over them (08 R196). -/
def State.readUnder (s : State) (r : Req) (p : Part) : List Byte :=
  (List.range p.size).map (fun i => (forwardByte (s.aheadAt r.lk p.space) p.space r.chain (p.addr + i)).getD (s.homeByte p.space (p.addr + i)))

theorem readUnder_length : (s.readUnder r p).length = p.size := by
  unfold State.readUnder
  simp

theorem loadByte_home (hosh : p.osh = false) (a : Nat) :
    s.loadByte r p none a = (forwardByte (s.aheadAt r.lk p.space) p.space r.chain a).getD (s.homeByte p.space a) := by
  unfold State.loadByte
  cases forwardByte (s.aheadAt r.lk p.space) p.space r.chain a with
  | some b => rfl
  | none => simp [hosh]

theorem serveParts_one (hcache : p.cached r.fresh = false) (hhost : (p.hostBias && p.space == .dev) = false) (hosh : p.osh = false) :
    s.serveParts r 0 [p] = ([(p.off, s.readUnder r p)], s) := by
  unfold State.serveParts State.serveParts State.servePart State.readUnder
  simp only [hcache, hhost, Bool.false_eq_true, if_false, loadByte_home hosh]

theorem tag_of_ofTag {f : Fmt} (h : Fmt.ofTag tag = some f) : f.tag = tag := by
  unfold Fmt.ofTag at h
  split at h <;> cases h <;> rfl

/-- The token of a load of one part. -/
theorem loadToken_one {f : Fmt} {bs : List Byte} (hf : Fmt.ofTag tag = some f) (hpred : f ≠ .pred) (hlen : bs.length = if v then 64 else (f.width + 7) / 8) :
    let tok := loadToken (.load tag v scale) [(0, bs)]
    tok.tag = BitVec.ofNat 6 tag ∧ tok.scale = BitVec.ofNat 8 scale ∧ tok.v = v ∧ tok.poison = false ∧
      (v = true → tok.pay = BitVec.ofNat 512 (leNat bs)) ∧ (v = false → tok.pay = scalarPay f (leNat bs)) := by
  unfold loadToken
  cases v with
  | true =>
    rw [if_pos rfl] at hlen
    simp only [if_true, assemble_one hlen, Bool.true_eq_false, false_implies, and_true, true_implies]
  | false =>
    rw [if_neg Bool.false_ne_true] at hlen
    simp only [hf, Option.getD_some, Bool.false_eq_true, if_false, show fmtBytes f = (f.width + 7) / 8 from rfl, assemble_one hlen, hpred, false_implies, true_implies,
      scalarTok, tag_of_ofTag hf, and_true]

/-- A LOAD IS SERVED from its home (12 R273 R274). -/
theorem load_served {f : Fmt} (h : Due s r p) (hkind : r.kind = .load tag v scale) (hf : Fmt.ofTag tag = some f) (hpred : f ≠ .pred) (hoff : p.off = 0)
    (hsize : p.size = if v then 64 else (f.width + 7) / 8) (hcache : p.cached r.fresh = false) (hhost : (p.hostBias && p.space == .dev) = false) (hosh : p.osh = false)
    (hecc : s.spoilt p.space p.addr p.size = false) :
    ∃ tok : Token, exec (.memoryAccessServe r.id) s = .next (s.served r tok) ∧
      tok.tag = BitVec.ofNat 6 tag ∧ tok.scale = BitVec.ofNat 8 scale ∧ tok.v = v ∧ tok.poison = false ∧
      (v = true → tok.pay = BitVec.ofNat 512 (leNat (s.readUnder r p))) ∧ (v = false → tok.pay = scalarPay f (leNat (s.readUnder r p))) := by
  refine ⟨loadToken (.load tag v scale) [(0, s.readUnder r p)], ?_, loadToken_one hf hpred (readUnder_length.trans hsize)⟩
  rw [serve_load h hkind, spoiltRead_one h.one hcache, hecc, h.one, serveParts_one hcache hhost hosh, hoff, hkind]
  exact congrArg _ (answer_served h _)

/-! ### Errors that ECC cannot correct -/

theorem isNone_op (h : Due s r p) : r.op = none := by
  have hop := List.find?_some h.load
  simp only [beq_self_eq_true, Bool.true_and, Option.isNone_iff_eq_none] at hop
  exact hop

theorem poisonTok_code (f : Firing) (tag : Nat) (v : Bool) {code : Nat} (h : code < 256) : (poisonTok f tag v code).word % 256 = code := by
  show bitsAt (BitVec.ofNat 512 (poisonPay f code)).toNat 0 64 % 256 = code
  unfold bitsAt poisonPay
  have hmod (k : Nat) (hk : 256 ∣ 2 ^ k) (x : Nat) : x % 2 ^ k % 256 = x % 256 := Nat.mod_mod_of_dvd x hk
  rw [BitVec.toNat_ofNat, Nat.shiftRight_zero, hmod 64 (Nat.pow_dvd_pow 2 (by decide : 8 ≤ 64)), hmod 512 (Nat.pow_dvd_pow 2 (by decide : 8 ≤ 512))]
  omega

theorem load_spoilt (h : Due s r p) (hkind : r.kind = .load tag v scale) (hcache : p.cached r.fresh = false) (hcancel : r.cancel = true)
    (hecc : s.spoilt p.space p.addr p.size = true) :
    ∃ tok : Token, exec (.memoryAccessServe r.id) s = .next (s.served r tok) ∧ tok.poison = true ∧ tok.tag = BitVec.ofNat 6 tag ∧ tok.v = v ∧ tok.word % 256 = 0x0B := by
  refine ⟨poisonTok { { s with cur := r.site }.firing with thr := r.thr } tag v fEcc, ?_, rfl, rfl, rfl, poisonTok_code _ _ _ (by decide)⟩
  rw [serve_load h hkind, spoiltRead_one h.one hcache, hecc, if_pos rfl]
  unfold State.replyAccess
  simp only [isNone_op h, hcancel, if_true, hkind]
  exact congrArg _ (answer_served h _)

end

/-- Settles O25, by `homeByte_commitWrite`, `load_served` and `load_spoilt`. -/
theorem writesAndLoadsAtTheirHomes : Obligations.WritesAndLoadsAtTheirHomes := by
  unfold Obligations.WritesAndLoadsAtTheirHomes
  refine ⟨?write, ?load, ?spoilt⟩
  case write =>
    intro s a bs commit h hop hempty ha sp x hsp
    rw [performOp_write commit hop, homeByte_forget]
    exact homeByte_commitWrite h hempty bs ha hsp x
  case load =>
    intro s r p f tag v scale hload hfound hdev hdue hone hunit hfirst hkind hf hpred hoff hsize _ hcache hhost hosh hecc bs hbs
    subst hbs
    exact load_served ⟨hload, hfound, hdev, hdue, hone, hunit, hfirst⟩ hkind hf hpred hoff hsize hcache hhost hosh hecc
  case spoilt =>
    intro s r p tag v scale hload hfound hdev hdue hone hunit hfirst hkind hcache hcancel hecc
    exact load_spoilt ⟨hload, hfound, hdev, hdue, hone, hunit, hfirst⟩ hkind hcache hcancel hecc

end Sys2Proof.Machine

/-! PROOFS. STRCFG, STRGO and PREF (08 R206-R208). -/

namespace Sys2Proof.Machine

section
variable {s : State} {o : OpA} {l : Token}

/-- The memory tile whose streamer an instruction names. -/
def strKey (o : OpA) (s : State) : Nat := tileKey s.cur.core (o.imm.toNat / 16)

/-- The place of the streamer in its tile. -/
def strSlot (o : OpA) : Nat := o.imm.toNat / 4 % 4

/-- The streamer that an instruction names. -/
def strNamed (o : OpA) (s : State) : Streamer := (s.mtile (strKey o s)).streamer (strSlot o)

theorem taken_mtile {u : State} {take nums : Slots} (hu : Taken s take nums u) (k : Nat) : u.mtile k = s.mtile k := by
  unfold State.mtile
  rw [hu.mtiles]

theorem strHold_idle {g : Firing} (hg : g.e = s.cur) (hidle : (strNamed o s).busy = none) : strHold o s g = false := by
  unfold strHold strOf
  rw [hg]
  exact congrArg Option.isSome hidle

theorem strcfg_does (h : s.Accesses o.fl needL) (hl : (s.operands (s.accessNeed needL)).l = some l) (haddr : isAddr l = true)
    (hwin : (strWindow (s.mtile (strKey o s)).cfg).isSome = true) (hidle : (strNamed o s).busy = none) :
    Does s (exec (.strcfg o) s) (s.accessNeed needL) (fun u =>
      s.emitting (u.setStreamer (strKey o s) (strSlot o) { strNamed o s with stage := (strNamed o s).stage ++ [
        { lk := s.firing.lk, bank := siteKey s.cur, round := s.here.fwd, word := o.imm.toNat % 4, val := l.word }] }) 1 (fork (orderTok (s.accessFiring needL).chain))) := by
  have hL : (s.accessFiring needL).ops.l = some l := hl
  have hwin' : (strWindow (s.mtile (strOf o (s.accessFiring needL)).1).cfg).isNone = false := by
    rw [← Option.not_isSome]
    exact congrArg not hwin
  show Does s (execStrcfg o s) _ _ _
  unfold execStrcfg
  refine tile_does s _ [] _ h (strHold_idle rfl hidle) ?_ rfl rfl rfl rfl (fun u hu => ?_)
  · show (if !(s.accessFiring needL).ops.l.all isAddr then _ else if (strWindow (s.mtile (strOf o (s.accessFiring needL)).1).cfg).isNone then _ else _) = _
    rw [hL, Option.all_some, haddr, hwin']
    rfl
  · have hres := result_emitting s (u.setStreamer (strKey o s) (strSlot o) { strNamed o s with stage := (strNamed o s).stage ++ [
        { lk := s.firing.lk, bank := siteKey s.cur, round := s.here.fwd, word := o.imm.toNat % 4, val := l.word }] }) _ (isFiring_access s needL) hu.fc 1
        (fork (orderTok (s.accessFiring needL).chain))
    rw [← hres]
    unfold strNamed
    rw [← taken_mtile hu (strKey o s)]
    show State.result (u.setStreamer _ _ { (u.mtile _).streamer _ with stage := ((u.mtile _).streamer _).stage ++ [
        { lk := _, bank := _, round := _, word := _, val := ((s.accessFiring needL).ops.l.map Token.word).getD 0 }] }) _ _ _ _ = _
    rw [hL]
    rfl

/-! ### Streams -/

/-- The request of a stream that starts in read mode (08 R206). -/
def streamReq (o : OpA) (s : State) : Req where
  id := s.nid
  site := s.cur
  lk := s.firing.lk
  round := s.here.fwd
  due := s.fc + (4 + 2 * (gridHops (computeXY (siteTile s.firing)) (memoryXY (strKey o s % 16)) - 1)) - 1
  kind := .answer (strTag (strNamed o s).words)
  fresh := true
  chain := (s.accessFiring needL).chain
  parts := [{ space := .tile s.cur.core (strKey o s % 16), addr := strSlot o, size := 0, off := 0 }]
  thr := s.firing.thr

/-- The streamer is busy with the instruction, which begins a stream in the chain c (08 R206). -/
def State.streaming (s : State) (o : OpA) (c : Chain) (u : State) : State :=
  ({ u with nid := s.nid + 1 }.setStreamer (strKey o s) (strSlot o) { strNamed o s with busy := some (s.cur, 0) }).setOst s.cur
    (.stream 0 (strTotal (strNamed o s).words) none s.nid c s.firing.thr)

theorem startStream_eq {u : State} {take nums : Slots} (hu : Taken s take nums u) :
    u.startStream o (s.accessFiring needL) none =
      (let w := { s.streaming o (s.accessFiring needL).chain u with reqs := s.reqs ++ [streamReq o s] }
       w.setElem s.cur ((w.elem s.cur).plus1 (s.awaited true s.nid))) := by
  have hawait := await1_awaiting1 s { s.streaming o (s.accessFiring needL).chain u with reqs := s.reqs ++ [streamReq o s] } _ (isFiring_access s needL) hu.fc true s.nid
  dsimp only
  rw [← hawait]
  unfold streamReq State.streaming strNamed
  rw [← taken_mtile hu (strKey o s), ← hu.nid, ← hu.reqs, ← hu.fc]
  rfl

theorem strgo_check {nums : Slots} (hfault : strFault (s.mtile (strKey o s)) (strNamed o s).words = false) :
    (if strFault (s.mtile (strOf o (s.accessFiring nums)).1) (strWords o s (s.accessFiring nums)) then some (fStreamer, 0) else none) = none :=
  if_neg (by rw [show strFault (s.mtile (strOf o (s.accessFiring nums)).1) (strWords o s (s.accessFiring nums)) = false from hfault]; exact Bool.false_ne_true)

theorem strgo_does (h : s.Accesses o.fl needL) (hidle : (strNamed o s).busy = none) (hfault : strFault (s.mtile (strKey o s)) (strNamed o s).words = false)
    (hfree : strBusy o s (s.accessFiring needL) (s.accessFiring needL).chain = false) :
    Does s (exec (.strgo o) s) (s.accessNeed needL) (fun u =>
      let w := { s.streaming o (s.accessFiring needL).chain u with reqs := s.reqs ++ [streamReq o s] }
      w.setElem s.cur ((w.elem s.cur).plus1 (s.awaited true s.nid))) {} := by
  show Does s (execStrgo o s) _ _ _
  unfold execStrgo
  refine tile_does s _ [] _ h (strHold_idle rfl hidle) (strgo_check hfault) rfl rfl rfl ?_ (fun u hu => startStream_eq hu)
  exact if_neg (by rw [hfree]; exact Bool.false_ne_true)

theorem strgo_write_starts (h : s.Accesses o.fl needL) (hidle : (strNamed o s).busy = none) (hfault : strFault (s.mtile (strKey o s)) (strNamed o s).words = false)
    (hnot : ∀ n t e f ch th, s.here.ost ≠ .stream n t e f ch th) (hfree : strBusy o s (s.accessFiring needL) (s.accessFiring needL).writeChain = false) :
    Does s (exec (.strgoWrite o) s) (s.accessNeed needL) (fun u => s.awaiting (s.streaming o (s.accessFiring needL).writeChain u) false s.nid) {} := by
  show Does s (execStrgoWrite o s) _ _ _
  unfold execStrgoWrite
  dsimp only
  split
  next n t e id ch th hst => exact absurd hst (hnot n t e id ch th)
  next =>
    refine tile_does s _ [] _ h (strHold_idle rfl hidle) (strgo_check hfault) rfl rfl rfl ?_ (fun u hu => ?_)
    · exact if_neg (by rw [hfree]; exact Bool.false_ne_true)
    · have hstream : ({ u with nid := u.nid + 1 }.setStreamer (strKey o s) (strSlot o) { (u.mtile (strKey o s)).streamer (strSlot o) with busy := some (s.cur, 0) }).setOst s.cur
          (.stream 0 (strTotal (strNamed o s).words) none u.nid (s.accessFiring needL).writeChain s.firing.thr) = s.streaming o (s.accessFiring needL).writeChain u := by
        rw [taken_mtile hu, hu.nid]
        rfl
      show State.await (({ u with nid := u.nid + 1 }.setStreamer (strKey o s) (strSlot o) { (u.mtile (strKey o s)).streamer (strSlot o) with busy := some (s.cur, 0) }).setOst s.cur
          (.stream 0 (strTotal (strNamed o s).words) none u.nid (s.accessFiring needL).writeChain s.firing.thr)) (s.accessFiring needL) false false u.nid = _
      rw [hstream, hu.nid]
      exact await_awaiting s (s.streaming o (s.accessFiring needL).writeChain u) _ (isFiring_access s needL) hu.fc false s.nid

/-! ### An element of a stream in write mode -/

/-- The staged write of element r at a line of the stream (08 R206). -/
def elementWrite (o : OpA) (s : State) (ch : Chain) (line : Nat) (r : Token) : Arrival :=
  { lk := s.firing.lk, core := s.cur.core, round := s.here.fwd, key := ⟨ch.hgsp, ch.thr, ch.k, ch.pos, gsp s.firing.b s.cur.idx⟩, seq := 0,
    space := .tile s.cur.core (strKey o s % 16), addr := 64 * line, op := .write (leBytes 64 r.pay.toNat), req := 0 }

/-- The state once the element has been staged. -/
def State.elementStaged (s : State) (o : OpA) (ch : Chain) (line : Nat) (r : Token) : State :=
  (s.setElem s.cur (s.here.consume { r := true })).stage (elementWrite o s ch line r)

/-- A token that a stream in write mode takes as its next element. -/
structure Element (s : State) (o : OpA) (n line : Nat) (r : Token) : Prop where
  unheld : s.here.held = false
  stage : s.here.last ≠ some s.fc
  here : s.firing.ops.r = some r
  clean : r.poison = false
  vector : r.v = true
  tag : r.tag.toNat = strTag (strNamed o s).words
  scale : r.scale.toNat = strScale (strNamed o s).words
  place : strLine (strNamed o s).words ((strWindow (s.mtile (strKey o s)).cfg).getD 1) n = some line
  room : s.stageRoom s.cur.core [{ space := .tile s.cur.core (strKey o s % 16), addr := 64 * line, size := 64, off := 0 }] = true

theorem strgo_write_element {n total flight line : Nat} {po : Option Payload} {ch : Chain} {th : Nat} {r : Token} (hst : s.here.ost = .stream n total po flight ch th)
    (he : Element s o n line r) :
    (n + 1 < total → exec (.strgoWrite o) s = .next ((s.elementStaged o ch line r).setElem s.cur { (s.elementStaged o ch line r).elem s.cur with
      last := some s.fc, ost := .stream (n + 1) total none flight ch th })) ∧
    (total = n + 1 → exec (.strgoWrite o) s = .next ((((s.elementStaged o ch line r).setElem s.cur { (s.elementStaged o ch line r).elem s.cur with
      last := some s.fc, ost := .none }).setStreamer (strKey o s) (strSlot o) { ((s.elementStaged o ch line r).mtile (strKey o s)).streamer (strSlot o) with busy := none }).fill
        s.cur flight s.fc none (fork (orderTok { ch with pos := ch.pos + 1 })))) := by
  obtain ⟨hheld, hlast, hr, hclean, hv, htag, hscale, hline, hroom⟩ := he
  have hst' : s.firing.el.ost = .stream n total po flight ch th := hst
  have hheld' : s.firing.el.held = false := hheld
  have hlast' : (s.firing.el.last == some s.fc) = false := beq_false_of_ne hlast
  have hr' : (s.firing.ops.mask { r := true }).r = some r := hr
  have hready : ready (s.firing.ops.mask { r := true }) { r := true } = true := by simp [ready, hr']
  have hform : (r.tag.toNat == strTag ((s.mtile (tileKey s.firing.e.core (o.imm.toNat / 16))).streamer (o.imm.toNat / 4 % 4)).words &&
      r.scale.toNat == strScale ((s.mtile (tileKey s.firing.e.core (o.imm.toNat / 16))).streamer (o.imm.toNat / 4 % 4)).words && r.v) = true := by
    simp only [Bool.and_eq_true, beq_iff_eq]
    exact ⟨⟨htag, hscale⟩, hv⟩
  have hline' : strLine ((s.mtile (tileKey s.firing.e.core (o.imm.toNat / 16))).streamer (o.imm.toNat / 4 % 4)).words
      ((strWindow (s.mtile (tileKey s.firing.e.core (o.imm.toNat / 16))).cfg).getD 1) n = some line := hline
  have hroom' : s.stageRoom s.firing.e.core [{ space := .tile s.firing.e.core (tileKey s.firing.e.core (o.imm.toNat / 16) % 16), addr := 64 * line, size := 64, off := 0 }] = true :=
    hroom
  have hexec : exec (.strgoWrite o) s = if n + 1 < total then .next ((s.elementStaged o ch line r).setElem s.cur { (s.elementStaged o ch line r).elem s.cur with
        last := some s.fc, ost := .stream (n + 1) total none flight ch th })
      else .next (((((s.elementStaged o ch line r).setElem s.cur { (s.elementStaged o ch line r).elem s.cur with
        last := some s.fc, ost := .stream (n + 1) total none flight ch th }).setOst s.cur .none).setStreamer (strKey o s) (strSlot o)
          { ((s.elementStaged o ch line r).mtile (strKey o s)).streamer (strSlot o) with busy := none }).fill s.cur flight s.fc none (fork (orderTok { ch with pos := ch.pos + 1 }))) := by
    show execStrgoWrite o s = _
    unfold execStrgoWrite
    simp only [strOf, hst', hheld', hready, hlast', hr', hclean, hform, hline', hroom', Option.getD_some, Bool.not_true, Bool.or_self, Bool.false_eq_true, if_false]
    rfl
  refine ⟨fun hmore => by rw [hexec, if_pos hmore], fun hend => ?_⟩
  rw [hexec, if_neg (by omega)]
  unfold State.setOst
  rw [State.elem_setElem_same, State.setElem_setElem]

/-! ### PREF -/

/-- The start of a PREF and its order token. -/
theorem pref_start (s : State) :
    ∃ u, Taken s (s.accessNeed needL) needL u ∧
      ((((s.countFiring (s.accessFiring needL)).consume (s.accessFiring needL) (s.accessNeed needL)).stageFlags (s.accessFiring needL) (readFlags (s.accessFiring needL).ops needL)).result
        (s.accessFiring needL) false 1 (fork (orderTok (s.accessFiring needL).chain))) = s.emitting u 1 (fork (orderTok (s.accessFiring needL).chain)) := by
  have hT := taken_start s _ (isFiring_access s needL) (s.accessNeed needL) needL rfl
  exact ⟨_, hT, result_emitting s _ _ (isFiring_access s needL) hT.fc 1 _⟩

/-- What a PREF answers once its operands stand: t is its translation, out the state with its order token (08 R208). -/
def prefAnswer (o : OpA) (s : State) (l : Token) (t : Trans) (out : State) : State :=
  if !isAddr l then out
  else match t with
    | .wait w => s.askWalk s.cur.core w
    | .fault _ x => out.dropWalk s.cur.core x
    | .ok [] => out
    | .ok (p :: _) => if p.space == .dev && p.cach && !o.bit 0 then out.fillLine s.cur.core s.firing.lk p.prog p.addr else out

theorem exec_pref {t : Trans} (h : s.Accesses o.fl needL) (hl : (s.operands (s.accessNeed needL)).l = some l)
    (ht : s.translate s.cur.core s.firing.part (!isPriv s.firing.b) true false (ofInt 64 ((l.word : Int) + o.imm.toInt)) 1 = t) :
    ∃ u, Taken s (s.accessNeed needL) needL u ∧ exec (.pref o) s = .next (prefAnswer o s l t (s.emitting u 1 (fork (orderTok (s.accessFiring needL).chain)))) := by
  obtain ⟨u, hT, hout⟩ := pref_start s
  obtain ⟨⟨hheld, hstage, hfull, hbreak⟩, hclean, hord⟩ := h
  refine ⟨u, hT, ?_⟩
  have ht' : s.translate s.cur.core (s.accessFiring needL).part (!isPriv s.firing.b) true false (globalAddr o (s.accessFiring needL)) 1 = t := by
    rw [globalAddr_eq (g := s.accessFiring needL) hl]
    exact ht
  rw [← hout]
  show execPref o s = _
  unfold execPref prefAnswer
  unfold State.accessFiring State.accessNeed at ht' ⊢
  unfold State.accessNeed at hl
  unfold State.operands at *
  simp only [firing_idx, firing_core, hheld, hstage, hfull, hbreak, hclean, hord, hl, ht', Option.isNone_none, Option.isSome_none, Option.all_some, Bool.not_true, Bool.or_self,
    Bool.false_eq_true, if_false, if_true, Bool.false_or, Bool.or_false]
  cases isAddr l with
  | false => rfl
  | true =>
    cases t with
    | wait w => rfl
    | fault c x => rfl
    | ok ps =>
      cases ps with
      | nil => rfl
      | cons p ps => rfl

theorem pref_ok {p : Part} {ps : List Part} (h : s.Accesses o.fl needL) (hl : (s.operands (s.accessNeed needL)).l = some l) (haddr : isAddr l = true)
    (ht : s.translate s.cur.core s.firing.part (!isPriv s.firing.b) true false (ofInt 64 ((l.word : Int) + o.imm.toInt)) 1 = .ok (p :: ps)) :
    Does s (exec (.pref o) s) (s.accessNeed needL) (fun u =>
      let v := s.emitting u 1 (fork (orderTok (s.accessFiring needL).chain))
      if p.space = .dev ∧ p.cach = true ∧ o.bit 0 = false then v.fillLine s.cur.core s.firing.lk p.prog p.addr else v) needL := by
  obtain ⟨u, hT, hexec⟩ := exec_pref h hl ht
  refine ⟨u, hT, hexec.trans ?_⟩
  unfold prefAnswer
  simp only [haddr, Bool.not_true, Bool.false_eq_true, if_false, Bool.and_eq_true, beq_iff_eq, Bool.not_eq_true', and_assoc]

theorem pref_fault {code a : Nat} (h : s.Accesses o.fl needL) (hl : (s.operands (s.accessNeed needL)).l = some l) (haddr : isAddr l = true)
    (ht : s.translate s.cur.core s.firing.part (!isPriv s.firing.b) true false (ofInt 64 ((l.word : Int) + o.imm.toInt)) 1 = .fault code a) :
    Does s (exec (.pref o) s) (s.accessNeed needL) (fun u => (s.emitting u 1 (fork (orderTok (s.accessFiring needL).chain))).dropWalk s.cur.core a) needL := by
  obtain ⟨u, hT, hexec⟩ := exec_pref h hl ht
  refine ⟨u, hT, hexec.trans ?_⟩
  unfold prefAnswer
  simp only [haddr, Bool.not_true, Bool.false_eq_true, if_false]

theorem readFlags_l {need : Slots} (hl : (s.operands need).l = some l) : readFlags (s.operands need) needL = l.numFlags := by
  have hnums : ((s.operands need).mask needL) = { l := some l, r := none, p := none } := by
    unfold Operands.mask
    simp [needL, hl]
  unfold readFlags
  rw [hnums]
  simp only [Option.any_some, Option.any_none, Bool.or_false]
  rfl

/-- A PREF of no address emits its order token (08 R208). -/
theorem pref_no_address (h : s.Accesses o.fl needL) (hl : (s.operands (s.accessNeed needL)).l = some l) (haddr : isAddr l = false) :
    Emits s (exec (.pref o) s) (s.accessNeed needL) 1 (fork (orderTok (s.accessFiring needL).chain)) l.numFlags := by
  obtain ⟨u, hT, hexec⟩ := exec_pref h hl rfl
  refine ⟨_, hexec, ?_⟩
  unfold prefAnswer
  simp only [haddr, Bool.not_false, if_true]
  rw [← result_emitting s u _ (isFiring_access s needL) hT.fc]
  rw [← readFlags_l (need := s.accessNeed needL) hl]
  exact Fires.result hT _ (isFiring_access s needL) 1 _

end

/-- Settles O26, one lemma per instruction and form. -/
theorem streamersAndPrefetch : Obligations.StreamersAndPrefetch := by
  unfold Obligations.StreamersAndPrefetch
  refine ⟨?starts, ?element⟩
  case starts =>
    intro s o l h hl k i x count c w r
    refine ⟨fun haddr hwin hidle => strcfg_does h hl haddr hwin hidle, fun hidle hfault => ⟨fun hfree => strgo_does h hidle hfault hfree,
      fun hnot hfree => strgo_write_starts h hidle hfault hnot hfree⟩, fun t haddr ht => ⟨fun p ps hok => ?_, fun code a hbad => ?_⟩, fun haddr => pref_no_address h hl haddr⟩
    · exact pref_ok h hl haddr (ht.trans hok)
    · exact pref_fault h hl haddr (ht.trans hbad)
  case element =>
    intro s o n total flight line po ch th r k i ws sp hst hheld hlast hr hclean hv htag hscale hline hroom u
    exact strgo_write_element hst ⟨hheld, hlast, hr, hclean, hv, htag, hscale, hline, hroom⟩

end Sys2Proof.Machine

/-! PROOFS. The atomics are issued (08 R209-R213). -/

namespace Sys2Proof.Machine

/-! ### Accesses to either kind of memory -/

/-- The state in which an access goes out: s itself for a memory tile, and once its entries have been touched for global memory (20 R355). -/
structure State.GoesOut (s : State) (a : AccessFiring) (ps : List Part) (t : State) : Prop where
  place : (t = s ∧ a.place s (s.accessFiring a.need) = .tile ps) ∨
    (∃ as, t = s.touched ps ∧ a.place s (s.accessFiring a.need) = .global as ∧ s.Translated a.rd a.wr as ps)

/-- AN ACCESS THAT GOES OUT, to a memory tile or to global memory. -/
theorem access_does {s t : State} {a : AccessFiring} {ps : List Part} {eff : State → State} (h : s.Accesses a.fl a.need) (hgo : s.GoesOut a ps t)
    (hh : a.hold s (s.accessFiring a.need) = false) (hk : a.check s (s.accessFiring a.need) = none) (ha : a.attrs ps = none)
    (ho : a.offline t (s.accessFiring a.need) ps = false) (hs : a.stall t (s.accessFiring a.need) ps = none)
    (he : ∀ u, Taken t (s.accessNeed a.need) a.nums u → a.act u (s.accessFiring a.need) ps = eff u) :
    Does t (.next (s.accessFire a)) (s.accessNeed a.need) eff a.nums := by
  rcases hgo.place with ⟨rfl, hp⟩ | ⟨as, rfl, hp, htr⟩
  · exact tile_does t a ps eff h hh hk hp ha ho hs he
  · exact global_does s a as ps eff h hh hk hp htr ha ho hs he

/-- The state of an access that goes out knows the firing as s does. -/
structure SameFiring (s t : State) : Prop where
  firing : t.firing = s.firing
  access : ∀ need, t.accessFiring need = s.accessFiring need
  nid : t.nid = s.nid

theorem State.GoesOut.same {s t : State} {a : AccessFiring} {ps : List Part} (h : s.GoesOut a ps t) : SameFiring s t := by
  rcases h.place with ⟨rfl, -⟩ | ⟨as, rfl, -⟩
  · exact ⟨rfl, fun _ => rfl, rfl⟩
  · exact ⟨touched_firing s ps, touched_accessFiring s ps, touched_nid s ps⟩

theorem SameFiring.isFiring {s t : State} (h : SameFiring s t) (need : Slots) : IsFiring t (s.accessFiring need) := by
  rw [← h.access]
  exact isFiring_access t need

theorem opStall_free {s t : State} {ps : List Part} {need : Slots} (h : SameFiring s t) (hfree : t.chainBusy t.firing.lk (s.accessFiring need).writeChain ps = false) :
    opStall t (s.accessFiring need) ps = none := by
  rw [h.firing] at hfree
  exact opStall_none t (s.accessFiring need) ps hfree

/-- The place of n aligned bytes (08 R195). -/
theorem wordPlace_aligned {s : State} {f : Firing} {l : Token} {n : Nat} (tile : Bool) (hl : f.ops.l = some l) (halign : l.word % n = 0) :
    wordPlace tile n s f = if tile then tilePlace s f 0 n else .global [(l.word, n, 0)] := by
  unfold wordPlace
  simp only [hl, Option.map_some, Option.getD_some, halign, ne_eq, not_true_eq_false, if_false]

/-! ### Issue -/

/-- Counting a round as active does not change whether a launch is in ordered mode. -/
theorem taken_stagedOp {s u : State} {take nums : Slots} (hu : Taken s take nums u) (lk : Nat) (ps : List Part) : u.stagedOp lk ps = s.stagedOp lk ps := by
  have hord : (u.launch lk).any Launch.ord = (s.launch lk).any Launch.ord := by
    have hsame := congrArg (Option.any Launch.ord) (hu.frame.launches lk)
    rw [Option.any_map, Option.any_map] at hsame
    exact hsame
  unfold State.stagedOp
  rw [hord]

/-- An atomic in ordered mode: it is staged for the marker, the old value is awaited and not owed, and the order token goes out at once (08 R212). -/
def State.orderedAtomic (t : State) (f : Firing) (ps : List Part) (op : HomeOp) (u : State) : State :=
  t.emitting1 (t.awaiting ({ u with nid := t.nid + 2 }.sendOp f ps op t.nid f.writeChain.next) false t.nid) 1 [(1, orderTok f.writeChain.next)]

/-- An atomic in free mode: the old value and the order token both wait for the unit (08 R212). -/
def State.freeAtomic (t : State) (f : Firing) (ps : List Part) (op : HomeOp) (u : State) : State :=
  let w := t.awaiting ({ u with nid := t.nid + 2 }.sendOp f ps op t.nid f.writeChain.next) true t.nid
  w.setElem t.cur ((w.elem t.cur).plus1 (t.awaited true (t.nid + 1)))

theorem issueAtomic_eq {t u : State} {f : Firing} {take nums : Slots} (hf : IsFiring t f) (hu : Taken t take nums u) (ps : List Part) (op : HomeOp) :
    u.issueAtomic f ps op = if t.stagedOp f.lk ps then t.orderedAtomic f ps op u else t.freeAtomic f ps op u := by
  have hstaged : ({ u with nid := u.nid + 1 + 1 }).stagedOp f.lk ps = t.stagedOp f.lk ps := taken_stagedOp hu f.lk ps
  have hfc : ({ u with nid := t.nid + 1 + 1 }.sendOp f ps op t.nid f.writeChain.next).fc = t.fc := (sendOp_fc _ f ps op _ _).trans hu.fc
  unfold State.issueAtomic
  simp only [State.fresh, hstaged]
  rw [hu.nid]
  split
  · rw [await_awaiting t _ f hf hfc]
    exact result_emitting1 t (t.awaiting _ false t.nid) f hf hfc 1 _
  · rw [await_awaiting t _ f hf hfc]
    exact await1_awaiting1 t (t.awaiting _ true t.nid) f hf hfc true (t.nid + 1)

section
variable {s t : State} {o : OpA} {l : Token} {ps : List Part} {op : Nat}

/-- The slots of an atomic. -/
def atomicNeed (o : OpA) : Slots := { l := true, r := !o.i }

/-- The operation that an atomic sends. -/
def atomicOp (op : Nat) (o : OpA) (f : Firing) : HomeOp := .atomic op (atomicFmt op o).tag (o.bit 3) (atomicOperand op o f) (o.imm.toNat % 16)

/-- The firing of an atomic. -/
def atomicAccess (op : Nat) (o : OpA) : AccessFiring :=
  { fl := o.fl, need := atomicNeed o, rd := true, wr := true,
    check := fun _ f => if f.ops.l.all isAddr && (o.i || f.ops.r.all (atomicOperandOk op o)) then none else some (fFormat, 0),
    place := wordPlace (o.bit 0) (atomicSize op o.ty), attrs := atomicAttrs op, stall := opStall,
    offline := fun s f ps => s.dieOff ps && !s.stagedOp f.lk ps, act := fun s f ps => s.issueAtomic f ps (atomicOp op o f) }

theorem atomicFire_eq (s : State) (op : Nat) (o : OpA) : s.atomicFire op o = s.accessFire (atomicAccess op o) := rfl

theorem atomic_check (hl : (s.accessFiring (atomicNeed o)).ops.l = some l) (haddr : isAddr l = true)
    (hoperand : o.i = true ∨ ∃ r, (s.accessFiring (atomicNeed o)).ops.r = some r ∧ atomicOperandOk op o r = true) :
    (atomicAccess op o).check s (s.accessFiring (atomicNeed o)) = none := by
  unfold atomicAccess
  rcases hoperand with hi | ⟨r, hr, hok⟩
  · simp only [hl, Option.all_some, haddr, hi, Bool.true_or, Bool.and_self, if_true]
  · simp only [hl, hr, Option.all_some, haddr, hok, Bool.or_true, Bool.and_self, if_true]

theorem atomic_goesOut (hl : (s.accessFiring (atomicNeed o)).ops.l = some l) (halign : l.word % atomicSize op o.ty = 0)
    (hplace : o.bit 0 = true ∧ t = s ∧ tilePlace s (s.accessFiring (atomicNeed o)) 0 (atomicSize op o.ty) = .tile ps ∨
      o.bit 0 = false ∧ t = s.touched ps ∧ s.Translated true true [(l.word, atomicSize op o.ty, 0)] ps) : s.GoesOut (atomicAccess op o) ps t := by
  have hword := wordPlace_aligned (s := s) (o.bit 0) hl halign
  constructor
  rcases hplace with ⟨hb, rfl, htile⟩ | ⟨hb, rfl, htr⟩
  · rw [hb, if_pos rfl] at hword
    exact Or.inl ⟨rfl, (congrArg (fun b => wordPlace b (atomicSize op o.ty) t (t.accessFiring (atomicNeed o))) hb).trans (hword.trans htile)⟩
  · rw [hb, if_neg Bool.false_ne_true] at hword
    exact Or.inr ⟨_, rfl, (congrArg (fun b => wordPlace b (atomicSize op o.ty) s (s.accessFiring (atomicNeed o))) hb).trans hword, htr⟩

/-- EVERY ATOMIC IS STAGED OR SENT as its mode says (08 R212). -/
theorem atomic_does (h : s.Accesses o.fl (atomicNeed o)) (hl : (s.accessFiring (atomicNeed o)).ops.l = some l) (haddr : isAddr l = true)
    (hoperand : o.i = true ∨ ∃ r, (s.accessFiring (atomicNeed o)).ops.r = some r ∧ atomicOperandOk op o r = true) (hgo : s.GoesOut (atomicAccess op o) ps t)
    (hattrs : atomicAttrs op ps = none) (hfree : t.chainBusy t.firing.lk (s.accessFiring (atomicNeed o)).writeChain ps = false)
    (hdie : (t.dieOff ps && !t.stagedOp t.firing.lk ps) = false) :
    Does t (.next (s.atomicFire op o)) (s.accessNeed (atomicNeed o)) (fun u =>
      if t.stagedOp s.firing.lk ps then t.orderedAtomic (s.accessFiring (atomicNeed o)) ps (atomicOp op o (s.accessFiring (atomicNeed o))) u
      else t.freeAtomic (s.accessFiring (atomicNeed o)) ps (atomicOp op o (s.accessFiring (atomicNeed o))) u) := by
  have hsame := hgo.same
  rw [atomicFire_eq]
  refine access_does (a := atomicAccess op o) h hgo rfl (atomic_check hl haddr hoperand) hattrs ?_ (opStall_free hsame hfree) (fun u hu => ?_)
  · rw [hsame.firing] at hdie
    exact hdie
  · exact issueAtomic_eq (hsame.isFiring _) hu ps _

end

/-- Settles O27, by `atomic_does` for every atomic. -/
theorem atomicsAreIssued : Obligations.AtomicsAreIssued := by
  unfold Obligations.AtomicsAreIssued
  intro s o l need ps hneed h hl haddr x hx f n hoperand halign t hplace hattrs hfree hdie op c
  subst hneed
  have hgo : s.GoesOut (atomicAccess x.2 o) ps t := atomic_goesOut hl halign hplace
  have hdoes := atomic_does h hl haddr hoperand hgo hattrs hfree hdie
  unfold State.orderedAtomic State.freeAtomic at hdoes
  simp only [hgo.same.nid] at hdoes
  simp only [List.mem_cons, List.not_mem_nil, or_false] at hx
  have hcur : t.cur = s.cur := congrArg Firing.e hgo.same.firing
  rw [hcur] at hdoes
  rcases hx with rfl | rfl | rfl | rfl | rfl | rfl | rfl | rfl | rfl | rfl | rfl | rfl <;> exact hdoes

end Sys2Proof.Machine

/-! PROOFS. FENCE, BAR, PERMIT and the futures (08 R215-R220). -/

namespace Sys2Proof.Machine

/-! ### FENCE -/

section
variable {s : State} {o : OpA} {l : Token} {c : Chain} {pr : Predicate}

/-- The slots of a FENCE: R where it has a source. -/
def fenceNeed (s : State) : Slots := { l := true, r := hasSource s.firing.b s.cur.idx .r }

/-- Starting a firing brings no access nearer to its scope. -/
theorem taken_fenceDone {u : State} {take nums : Slots} (hu : Taken s take nums u) (lk scope : Nat) (c : Chain) : u.fenceDone lk scope c = s.fenceDone lk scope c := by
  rw [hu.frame.rest]
  rfl

/-- The request of a FENCE that waits (08 R215). -/
def fenceReq (s : State) (scope : Nat) (c : Chain) (data : Option Token) : Req where
  id := s.nid
  site := s.cur
  lk := s.firing.lk
  round := s.here.fwd
  due := s.fc
  kind := .answer 0
  fresh := true
  chain := c
  parts := []
  thr := s.firing.thr
  op := some (.fence scope data)
  arrived := true

/-- The firing of FENCE. -/
def fenceFiring (o : OpA) (s : State) : AnchorFiring :=
  { fl := o.fl, need := fenceNeed s, nums := {}
    check := fun _ f => if f.ops.l.all isOrder && f.ops.r.all tagNamed then none else some (fFormat, 0)
    act := fun s f =>
      if s.fenceDone f.lk (o.imm.toNat % 8) ((f.ops.l.bind Token.chain).getD f.chain) then
        s.result f false 1 (fenceOuts ((f.ops.l.bind Token.chain).getD f.chain) f.ops.r)
      else
        ({ s with nid := s.nid + 1, reqs := s.reqs ++ [{ id := s.nid, site := f.e, lk := f.lk, round := f.round, due := s.fc, kind := .answer 0, fresh := true, chain := (f.ops.l.bind Token.chain).getD f.chain, parts := [], thr := f.thr, op := some (.fence (o.imm.toNat % 8) f.ops.r), arrived := true }] } : State).await f false false s.nid }

theorem exec_fence : exec (.fence o) s = .next (s.anchorFire (fenceFiring o s)) := rfl

theorem fence_check (hl : (s.operands (withPm o.fl (fenceNeed s))).l = some l) (hord : isOrder l = true) (hdata : (s.operands (withPm o.fl (fenceNeed s))).r.all tagNamed = true) :
    (fenceFiring o s).check s (s.firingOn (withPm o.fl (fenceNeed s))) = none := by
  simp only [fenceFiring, hl, Option.all_some, hord, hdata, Bool.and_self, if_true]

theorem fence_done (hr : s.Runs o.fl false (fenceNeed s) pr) (hl : (s.operands (withPm o.fl (fenceNeed s))).l = some l) (hord : isOrder l = true) (hc : l.chain = some c)
    (hdata : (s.operands (withPm o.fl (fenceNeed s))).r.all tagNamed = true) (hdone : s.fenceDone s.firing.lk (o.imm.toNat % 8) c = true) :
    Becomes s (exec (.fence o) s) ((s.firedElem (withPm o.fl (fenceNeed s)) s.firing.thr).plus (s.resultOf 1 s.firing.thr
      (fenceOuts c (s.operands (withPm o.fl (fenceNeed s))).r))) := by
  rw [exec_fence]
  refine anchor_becomes (a := fenceFiring o s) hr (fence_check hl hord hdata) rfl (fun u hu => ?_)
  simp only [fenceFiring, hl, Option.bind_some, hc, Option.getD_some]
  rw [show u.fenceDone s.firing.lk (o.imm.toNat % 8) c = true from (taken_fenceDone hu _ _ _).trans hdone, if_pos rfl]
  exact hu.fires.result _ (isFiring_mask s _) 1 _

theorem fence_waits (hr : s.Runs o.fl false (fenceNeed s) pr) (hl : (s.operands (withPm o.fl (fenceNeed s))).l = some l) (hord : isOrder l = true) (hc : l.chain = some c)
    (hdata : (s.operands (withPm o.fl (fenceNeed s))).r.all tagNamed = true) (hnot : s.fenceDone s.firing.lk (o.imm.toNat % 8) c = false) :
    Does s (exec (.fence o) s) (withPm o.fl (fenceNeed s)) (fun u =>
      s.awaiting { u with nid := s.nid + 1, reqs := s.reqs ++ [fenceReq s (o.imm.toNat % 8) c (s.operands (withPm o.fl (fenceNeed s))).r] } false s.nid) {} := by
  rw [exec_fence]
  refine anchor_does s (fenceFiring o s) pr _ hr (fence_check hl hord hdata) rfl (fun u hu => ?_)
  simp only [fenceFiring, hl, Option.bind_some, hc, Option.getD_some]
  rw [show u.fenceDone s.firing.lk (o.imm.toNat % 8) c = false from (taken_fenceDone hu _ _ _).trans hnot, if_neg Bool.false_ne_true, hu.nid, hu.reqs, hu.fc]
  exact await_awaiting s { u with fc := s.fc, nid := s.nid + 1, reqs := s.reqs ++ [fenceReq s _ c _] } _ (isFiring_mask s _) rfl false s.nid

end

/-! ### Words -/

/-- An operation on its way to its word (08 R217). -/
def State.wordSent (t : State) (f : Firing) (ps : List Part) (op : HomeOp) (ch : Chain) (u : State) : State := { u with nid := t.nid + 1 }.sendOp f ps op t.nid ch

theorem wordSent_fc {t u : State} {f : Firing} {take nums : Slots} (hu : Taken t take nums u) (ps : List Part) (op : HomeOp) (ch : Chain) :
    (t.wordSent f ps op ch u).fc = t.fc :=
  (sendOp_fc _ f ps op _ _).trans hu.fc

theorem issueWait_eq {t u : State} {f : Firing} {take nums : Slots} (hf : IsFiring t f) (hu : Taken t take nums u) (ps : List Part) (op : HomeOp) (ch : Chain) :
    u.issueWait f ps op ch = t.awaiting (t.wordSent f ps op ch u) false t.nid := by
  unfold State.issueWait
  simp only [State.fresh]
  rw [hu.nid]
  exact await_awaiting t (t.wordSent f ps op ch u) f hf (wordSent_fc hu ps op ch) false t.nid

theorem issueSilent_eq {t u : State} {f : Firing} {take nums : Slots} (hf : IsFiring t f) (hu : Taken t take nums u) (ps : List Part) (op : HomeOp) :
    u.issueSilent f ps op = t.emitting (t.wordSent f ps op f.writeChain.next u) 1 (fork (orderTok f.writeChain.next)) := by
  unfold State.issueSilent
  simp only [State.fresh]
  rw [hu.nid]
  exact result_emitting t (t.wordSent f ps op f.writeChain.next u) f hf (wordSent_fc hu ps op _) 1 _

theorem syncAttrs_none {code : Nat} {ps : List Part} (h : ∀ p ∈ ps, p.space = .dev ∨ ∃ c m, p.space = .tile c m) : syncAttrs code ps = none := by
  unfold syncAttrs
  rw [Option.map_eq_none_iff, List.find?_eq_none]
  intro p hp
  rcases h p hp with hdev | ⟨c, m, htile⟩
  · rw [hdev]
    exact Bool.false_ne_true
  · rw [htile]
    exact Bool.false_ne_true

section
variable {s t : State} {o : OpA} {l : Token} {ps : List Part}

/-- The access of an operation on a word. -/
def wordAccess (o : OpA) (need nums : Slots) (wr tile : Bool) (check : Firing → Bool) (attrs : List Part → Option (Nat × Nat)) (act : State → Firing → List Part → State) : AccessFiring :=
  { fl := o.fl, need := need, nums := nums, rd := true, wr := wr, check := fun _ f => if check f then none else some (fFormat, 0), place := wordPlace tile 8, attrs := attrs,
    stall := opStall, act := act }

/-- Where an operation on a word goes out: in s for a memory tile, and once its entries have been touched for device memory. -/
def WordGoesOut (s : State) (f : Firing) (l : Token) (wr tile : Bool) (ps : List Part) (t : State) : Prop :=
  (t = s ∧ tile = true ∧ tilePlace s f 0 8 = .tile ps) ∨ (tile = false ∧ t = s.touched ps ∧ s.Translated true wr [(l.word, 8, 0)] ps)

/-- AN OPERATION ON A WORD is issued (08 R217-R220). -/
theorem word_issued {need nums : Slots} {wr tile : Bool} {check : Firing → Bool} {attrs : List Part → Option (Nat × Nat)} {act : State → Firing → List Part → State}
    {eff : State → State} (h : s.Accesses o.fl need) (hl : (s.accessFiring need).ops.l = some l) (halign : l.word % 8 = 0) (hgo : WordGoesOut s (s.accessFiring need) l wr tile ps t)
    (hcheck : check (s.accessFiring need) = true) (hattrs : attrs ps = none) (hfree : t.chainBusy s.firing.lk (s.accessFiring need).writeChain ps = false)
    (he : IsFiring t (s.accessFiring need) → ∀ u, Taken t (s.accessNeed need) nums u → act u (s.accessFiring need) ps = eff u) :
    Does t (.next (s.accessFire (wordAccess o need nums wr tile check attrs act))) (s.accessNeed need) eff nums := by
  have hplace : s.GoesOut (wordAccess o need nums wr tile check attrs act) ps t := by
    have hword := wordPlace_aligned (s := s) tile hl halign
    constructor
    rcases hgo with ⟨rfl, rfl, htile⟩ | ⟨rfl, rfl, htr⟩
    · exact Or.inl ⟨rfl, hword.trans htile⟩
    · exact Or.inr ⟨_, rfl, hword, htr⟩
  have hsame := hplace.same
  refine access_does (a := wordAccess o need nums wr tile check attrs act) h hplace rfl (if_pos hcheck) hattrs rfl
    (opStall_free hsame (by rw [hsame.firing]; exact hfree)) (he (hsame.isFiring need))

end

/-- Settles O29: FENCE by `fence_done` and `fence_waits`, the words by `word_issued`. -/
theorem synchronisationIsIssued : Obligations.SynchronisationIsIssued := by
  unfold Obligations.SynchronisationIsIssued
  intro s o l
  refine ⟨fun need pr c hneed hr hl hord hc hdata => ?_, ?_⟩
  · subst hneed
    exact ⟨fun hdone => fence_done hr hl hord hc hdata hdone, fun hnot => ⟨fenceReq s _ c _, rfl, rfl, rfl, fence_waits hr hl hord hc hdata hnot⟩⟩
  · intro need t ps h hl haddr halign hfree hhomes f c word inDev inTile sent waits goes
    have hL : f.ops.l = some l := hl
    have haddrL : f.ops.l.all isAddr = true := by rw [hL]; exact haddr
    have hnid (htile : inTile ∨ ∃ rd wr, inDev rd wr) : t.nid = s.nid := by
      rcases htile with ⟨rfl, -⟩ | ⟨rd, wr, rfl, -⟩
      · rfl
      · exact touched_nid s ps
    have hplace (hwhere : inTile ∨ 2 < o.imm.toNat ∧ inDev true true) : WordGoesOut s f l true (decide (o.imm.toNat ≤ 2)) ps t := by
      rcases hwhere with ⟨ht, hle, htile⟩ | ⟨hlt, ht, htr⟩
      · exact Or.inl ⟨ht, decide_eq_true hle, htile⟩
      · exact Or.inr ⟨decide_eq_false (by omega), ht, htr⟩
    have hnidWhere (hwhere : inTile ∨ 2 < o.imm.toNat ∧ inDev true true) : t.nid = s.nid := hnid (hwhere.imp_right (fun hd => ⟨_, _, hd.2⟩))
    have hnidDev {rd wr : Bool} (hdev : inDev rd wr) : t.nid = s.nid := hnid (Or.inr ⟨_, _, hdev⟩)
    have hwait (i : Instr) (op : HomeOp) (ch : Chain) (n : t.nid = s.nid)
        (hdo : Does t (exec i s) (s.accessNeed need) (fun u => t.awaiting (t.wordSent f ps op ch u) false t.nid)) : waits i op ch := by
      unfold State.wordSent at hdo
      simp only [n] at hdo
      exact hdo
    have hgoes (i : Instr) (op : HomeOp) (nums : Slots) (n : t.nid = s.nid)
        (hdo : Does t (exec i s) (s.accessNeed need) (fun u => t.emitting (t.wordSent f ps op f.writeChain.next u) 1 (fork (orderTok f.writeChain.next))) nums) : goes i op nums := by
      unfold State.wordSent at hdo
      simp only [n] at hdo
      exact hdo
    refine ⟨?bar, ?barCopy, ?permit, ?futwait, ?futreg, ?futres⟩
    case bar =>
      rintro rfl hwhere
      exact hwait _ _ _ (hnidWhere hwhere) (word_issued (o := o) (check := fun f => f.ops.l.all isAddr) (attrs := syncAttrs fBarrier)
        (act := fun s f ps => s.issueWait f ps (.bar false) f.writeChain.next) h hL halign (hplace hwhere) haddrL (syncAttrs_none hhomes) hfree
        (fun hf u hu => issueWait_eq hf hu ps _ _))
    case barCopy =>
      rintro rfl hwhere htag
      exact hgoes _ _ _ (hnidWhere hwhere) (word_issued (o := o) (nums := needL) (check := fun f => f.ops.l.all isAddr && f.ops.r.all tagNamed) (attrs := syncAttrs fBarrier)
        (act := fun s f ps => s.issueSilent f ps (.bar true)) h hL halign (hplace hwhere) (Bool.and_eq_true_iff.mpr ⟨haddrL, htag⟩) (syncAttrs_none hhomes) hfree
        (fun hf u hu => issueSilent_eq hf hu ps _))
    case permit =>
      rintro rfl hdev
      have hgo : WordGoesOut s f l true false ps t := Or.inr ⟨rfl, hdev⟩
      exact ⟨hwait _ _ _ (hnidDev hdev) (word_issued (o := o) (check := fun f => f.ops.l.all isAddr) (attrs := syncAttrs fPermit)
          (act := fun s f ps => s.issueWait f ps (.permit false) f.writeChain.next) h hL halign hgo haddrL (syncAttrs_none hhomes) hfree
          (fun hf u hu => issueWait_eq hf hu ps _ _)),
        hgoes _ _ _ (hnidDev hdev) (word_issued (o := o) (nums := needLR) (check := fun f => f.ops.l.all isAddr) (attrs := syncAttrs fPermit)
          (act := fun s f ps => s.issueSilent f ps (.permit true)) h hL halign hgo haddrL (syncAttrs_none hhomes) hfree
          (fun hf u hu => issueSilent_eq hf hu ps _))⟩
    case futwait =>
      rintro rfl hdev
      exact hwait _ _ _ (hnidDev hdev) (word_issued (o := o) (wr := false) (check := fun f => f.ops.l.all isAddr) (attrs := syncAttrs fFuture)
        (act := fun s f ps => s.issueWait f ps .futwait f.chain) h hL halign (Or.inr ⟨rfl, hdev⟩) haddrL (syncAttrs_none hhomes) hfree
        (fun hf u hu => issueWait_eq hf hu ps _ _))
    case futreg =>
      rintro rfl hdev ⟨r, hr, hraddr⟩ hpkt
      have hcheck : (f.ops.l.all isAddr && f.ops.r.all isAddr) = true := by rw [haddrL, hr]; exact hraddr
      have hattrs : (match syncAttrs fFuture ps with
          | some e => some e
          | none => if (s.firing.ops.r.map Token.word).getD 0 % 128 = 0 then none else some (fFuture, (s.firing.ops.r.map Token.word).getD 0)) = none := by
        rw [syncAttrs_none hhomes]
        exact if_pos hpkt
      exact hgoes _ _ _ (hnidDev hdev) (word_issued (o := o) (nums := needLR) (check := fun f => f.ops.l.all isAddr && f.ops.r.all isAddr)
        (attrs := fun ps => match syncAttrs fFuture ps with
          | some e => some e
          | none => if (s.firing.ops.r.map Token.word).getD 0 % 128 = 0 then none else some (fFuture, (s.firing.ops.r.map Token.word).getD 0))
        (act := fun s f ps => s.issueSilent f ps (.futreg ((f.ops.r.map Token.word).getD 0) (o.imm.toNat % 64) (o.imm.toNat / 64 % 256))) h hL halign (Or.inr ⟨rfl, hdev⟩) hcheck
        hattrs hfree (fun hf u hu => issueSilent_eq hf hu ps _))
    case futres =>
      rintro rfl hdev r hr hw
      have hcheck : (f.ops.l.all isAddr && f.ops.r.all isW32) = true := by rw [haddrL, hr]; exact hw
      have hop : HomeOp.futres ((f.ops.r.map Token.low32).getD 0) = .futres r.low32 := by rw [hr]; rfl
      refine hgoes _ _ _ (hnidDev hdev) (word_issued (o := o) (nums := needLR) (check := fun f => f.ops.l.all isAddr && f.ops.r.all isW32) (attrs := syncAttrs fFuture)
        (act := fun s f ps => s.issueSilent f ps (.futres ((f.ops.r.map Token.low32).getD 0))) h hL halign (Or.inr ⟨rfl, hdev⟩) hcheck (syncAttrs_none hhomes) hfree
        (fun hf u hu => ?_))
      rw [← hop]
      exact issueSilent_eq hf hu ps _

end Sys2Proof.Machine

/-! PROOFS. The value that an atomic leaves and returns, and an integer add at its unit (08 R209 R212). -/

namespace Sys2Proof.Machine

/-! ### New values and old values -/

/-- The location of an integer atomic holds one of four formats (08 R209). -/
theorem format_of_width {f : Fmt} : f.isInt = true → f.width = 32 ∨ f.width = 64 → f = .i64 ∨ f = .z64 ∨ f = .i32 ∨ f = .z32 := by
  cases f <;> decide

/-- The format in which an atomic reads its operands: signed or unsigned as its bit U says. -/
def atomicReads (f : Fmt) (u : Bool) : Fmt :=
  match f.ty, u with
  | .i64, true => .z64
  | .i64, false => .i64
  | .i32, true => .z32
  | .i32, false => .i32
  | _, _ => f

/-- A code as an atomic compares it. -/
def atomicNumber (f : Fmt) (u : Bool) (a : Nat) : Int := if u then (a : Int) else toSigned f.width a

theorem atomicReads_spec {f : Fmt} (hint : f.isInt = true) (hw : f.width = 32 ∨ f.width = 64) (u : Bool) :
    (atomicReads f u).width = f.width ∧ ∀ a, a < 2 ^ f.width → intOf (atomicReads f u) a = atomicNumber f u a := by
  have hunsigned {a w : Nat} (ha : a < 2 ^ w) : ((a % 2 ^ w : Nat) : Int) = a := congrArg Int.ofNat (Nat.mod_eq_of_lt ha)
  cases u with
  | true => rcases format_of_width hint hw with rfl | rfl | rfl | rfl <;> exact ⟨rfl, fun a ha => hunsigned ha⟩
  | false => rcases format_of_width hint hw with rfl | rfl | rfl | rfl <;> exact ⟨rfl, fun _ _ => rfl⟩

theorem laneOf_lt (p : Payload) (w j : Nat) : laneOf p w j < 2 ^ w := Nat.mod_lt _ (Nat.two_pow_pos w)

theorem intOf_mod (f : Fmt) (a : Nat) : intOf f (a % 2 ^ f.width) = intOf f a := by
  simp only [intOf, toSigned, Nat.mod_mod]

/-- The sum of two codes, as the adder of the format forms it. -/
theorem ofInt_add_intOf (f : Fmt) (a b : Nat) : ofInt f.width (intOf f a + intOf f b) = (a + b) % 2 ^ f.width := by
  have hmod (c : Nat) : intOf f c % (2 ^ f.width : Nat) = ((c % 2 ^ f.width : Nat) : Int) := by
    rw [← intOf_mod]
    exact intOf_emod (Nat.mod_lt _ (Nat.two_pow_pos _))
  unfold ofInt
  rw [Int.add_emod, hmod, hmod, Nat.add_mod]
  exact_mod_cast Int.toNat_natCast _

section
variable {f : Fmt} {u : Bool} {m : Nat} {r : Token}

/-- The integer and bit forms answer the old value. -/
theorem atomicValue_old : ∀ op ∈ [0xA0, 0xA2, 0xA3, 0xA4, 0xA5, 0xA6, 0xA7, 0xA8, 0xAB], (atomicValue op f u m r).2.1 = scalarTok f m := by
  simp only [List.forall_mem_cons]
  exact ⟨rfl, rfl, rfl, rfl, rfl, rfl, rfl, rfl, rfl, List.forall_mem_nil _⟩

/-- The integer forms compute in the format that the atomic reads. -/
theorem atomicValue_arith : (atomicValue 0xA0 f u m r).1 = (intBin 0x20 (atomicReads f u) m (laneOf r.pay f.width 0)).code ∧
    (atomicValue 0xA2 f u m r).1 = (intBin 0x2A (atomicReads f u) m (laneOf r.pay f.width 0)).code ∧
    (atomicValue 0xA3 f u m r).1 = (intBin 0x2B (atomicReads f u) m (laneOf r.pay f.width 0)).code ∧
    (atomicValue 0xA4 f u m r).1 = (intBin 0x2C (atomicReads f u) m (laneOf r.pay f.width 0)).code ∧
    (atomicValue 0xA5 f u m r).1 = (intBin 0x2D (atomicReads f u) m (laneOf r.pay f.width 0)).code ∧
    (atomicValue 0xA6 f u m r).1 = (intBin 0x2E (atomicReads f u) m (laneOf r.pay f.width 0)).code := ⟨rfl, rfl, rfl, rfl, rfl, rfl⟩

theorem atomic_add (hint : f.isInt = true) (hw : f.width = 32 ∨ f.width = 64) :
    (atomicValue 0xA0 f u m r).1 = (m + laneOf r.pay f.width 0) % 2 ^ f.width := by
  rw [atomicValue_arith.1, ← (atomicReads_spec hint hw u).1]
  exact ofInt_add_intOf _ _ _

theorem atomic_min_max (hint : f.isInt = true) (hw : f.width = 32 ∨ f.width = 64) (hm : m < 2 ^ f.width) :
    (atomicValue 0xA2 f u m r).1 = (if atomicNumber f u m ≤ atomicNumber f u (laneOf r.pay f.width 0) then m else laneOf r.pay f.width 0) ∧
    (atomicValue 0xA3 f u m r).1 = (if atomicNumber f u m ≤ atomicNumber f u (laneOf r.pay f.width 0) then laneOf r.pay f.width 0 else m) := by
  obtain ⟨hwidth, hread⟩ := atomicReads_spec hint hw u
  have hc := laneOf_lt r.pay f.width 0
  have hmin : (atomicValue 0xA2 f u m r).1 = ofInt (atomicReads f u).width (min (intOf (atomicReads f u) m) (intOf (atomicReads f u) (laneOf r.pay f.width 0))) := atomicValue_arith.2.1
  have hmax : (atomicValue 0xA3 f u m r).1 = ofInt (atomicReads f u).width (max (intOf (atomicReads f u) m) (intOf (atomicReads f u) (laneOf r.pay f.width 0))) := atomicValue_arith.2.2.1
  have hcode (a : Nat) (ha : a < 2 ^ f.width) : ofInt (atomicReads f u).width (intOf (atomicReads f u) a) = a := ofInt_intOf (by rw [hwidth]; exact ha)
  rw [hmin, hmax, ← hread m hm, ← hread _ hc]
  constructor
  · rw [Int.min_def]
    split
    · exact hcode _ hm
    · exact hcode _ hc
  · rw [Int.max_def]
    split
    · exact hcode _ hc
    · exact hcode _ hm

theorem atomic_bits (hint : f.isInt = true) (hw : f.width = 32 ∨ f.width = 64) (hm : m < 2 ^ f.width) :
    (atomicValue 0xA4 f u m r).1 = m &&& laneOf r.pay f.width 0 ∧ (atomicValue 0xA5 f u m r).1 = m ||| laneOf r.pay f.width 0 ∧
      (atomicValue 0xA6 f u m r).1 = m ^^^ laneOf r.pay f.width 0 := by
  obtain ⟨hwidth, -⟩ := atomicReads_spec hint hw u
  have hcode (a : Nat) (ha : a < 2 ^ f.width) : a % 2 ^ (atomicReads f u).width = a := Nat.mod_eq_of_lt (by rw [hwidth]; exact ha)
  have hc := hcode _ (laneOf_lt r.pay f.width 0)
  obtain ⟨-, -, -, hand, hor, hxor⟩ := atomicValue_arith (f := f) (u := u) (m := m) (r := r)
  rw [hand, hor, hxor]
  simp only [intBin, hcode m hm, hc, and_self]

/-- ATAS sets bit R and answers the old bit (08 R210). -/
theorem atomic_test_and_set (h : r.low32 < 64) :
    (atomicValue 0xA9 f u m r).1.testBit r.low32 = true ∧ (∀ k, k ≠ r.low32 → (atomicValue 0xA9 f u m r).1.testBit k = m.testBit k) ∧
      (atomicValue 0xA9 f u m r).2.1 = predTok (m.testBit r.low32) := by
  have hset : (atomicValue 0xA9 f u m r).1 = m ||| 2 ^ (r.low32 % 64) := rfl
  have hold : (atomicValue 0xA9 f u m r).2.1 = predTok (m.testBit (r.low32 % 64)) := rfl
  rw [hset, hold, Nat.mod_eq_of_lt h]
  refine ⟨by simp, fun k hk => ?_, rfl⟩
  rw [Nat.testBit_or, Nat.testBit_two_pow_of_ne (Ne.symm hk), Bool.or_false]

end

/-! ### An operation at its unit -/

theorem find_spoilt_none {s : State} {p : Part} (h : s.spoilt p.space p.addr p.size = false) : [p].find? s.spoiltPart = none := by
  rw [List.find?_singleton, if_neg (by rw [State.spoiltPart, h]; exact Bool.false_ne_true)]

/-- The writes of its own chain that an operation sees come from the staged writes alone (08 R212). -/
theorem logOwn_dev (s : State) (a : Arrival) (ha : a.space = .dev) (reqs : List Req) (banks : Map Bank) :
    ({ s with reqs := reqs, banks := banks }).logOwn a = { s.logOwn a with reqs := reqs, banks := banks } := by
  unfold State.logOwn
  rw [ha]
  dsimp only
  rw [show ({ s with reqs := reqs, banks := banks } : State).stagedAt a.lk .dev = s.stagedAt a.lk .dev from rfl,
    show ({ s with reqs := reqs, banks := banks } : State).homeLog .dev = s.homeLog .dev from rfl]
  split <;> rfl

/-- Taking the writes of its own chain into the log leaves memory as it was. -/
theorem logOwn_dev_fields (s : State) (a : Arrival) (ha : a.space = .dev) :
    (s.logOwn a).mem = s.mem ∧ (s.logOwn a).reqs = s.reqs ∧ (s.logOwn a).nid = s.nid ∧ (s.logOwn a).banks = s.banks ∧ (s.logOwn a).fc = s.fc := by
  unfold State.logOwn
  rw [ha]
  dsimp only
  split
  · exact ⟨rfl, rfl, rfl, rfl, rfl⟩
  · exact ⟨mem_append_foldl _ _ _, rfl, rfl, rfl, rfl⟩

/-- An operation that enters the log of device memory on arrival (log 72). -/
theorem atomicStore_arrival (s : State) (a : Arrival) (ha : a.space = .dev) (bs : List Byte) :
    let t := s.atomicStore false a bs
    t.mem = s.mem ∧ t.reqs = s.reqs ∧ t.banks = s.banks ∧ t.fc = s.fc ∧ t.overlay = s.overlay ++ [{ a with seq := s.nid, res := bs, done := false }] := by
  unfold State.atomicStore
  rw [ha]
  exact ⟨rfl, rfl, rfl, rfl, rfl⟩

section
variable {s : State} {r : Req} {p : Part} {op : HomeOp}

/-- The request once its operation stands at its unit. -/
def State.reached (s : State) (id : Nat) : State := { s with reqs := s.reqs.map (fun (x : Req) => if x.id = id then { x with arrived := true } else x) }

/-- An atomic that has reached its unit is performed there (08 R212). -/
theorem exec_perform {k tag : Nat} {u : Bool} {val : Token} {code : Nat} (hfind : s.reqs.find? (fun x => x.id == r.id && !x.arrived) = some r)
    (hop : r.op = some (.atomic code tag u val k)) (hone : r.parts = [p]) (hdue : r.due ≤ s.fc) (hdie : r.admitted = true ∨ s.dieOff r.parts = false)
    (hport : s.portHolds r.site.core = false) (hecc : s.spoilt p.space p.addr p.size = false) :
    exec (.atomicPerform r.id) s = .next ((((s.reached r.id).fill r.site (r.id + 1) s.fc none [(1, orderTok r.chain)]).logOwn (r.arrival (.atomic code tag u val k))).performAtomic false
      (r.arrival (.atomic code tag u val k)) code tag u val k) := by
  have hgo : ¬ (s.fc < r.due ∨ (!r.admitted && s.dieOff r.parts) = true ∨ s.portHolds r.site.core = true) := by
    rcases hdie with had | had <;> simp [had, hport, hdue]
  show execAtomicPerform r.id s = _
  unfold execAtomicPerform
  simp only [hfind, hop, hgo, if_false]
  rw [hone, find_spoilt_none hecc]
  rfl

end

section
variable {s : State} {r : Req}

/-- The request that waits for the answer, once its operation has arrived. -/
theorem find_reached (hmem : r ∈ s.reqs) (hall : ∀ x ∈ s.reqs, x.id = r.id → x = r) : (s.reached r.id).reqs.find? (fun x => x.id == r.id) = some { r with arrived := true } := by
  obtain ⟨x, hx, hid, hfind⟩ : ∃ x, x ∈ s.reqs ∧ x.id = r.id ∧ s.reqs.find? (fun x => x.id == r.id) = some x := by
    cases hfind : s.reqs.find? (fun x => x.id == r.id) with
    | none => exact absurd (List.find?_eq_none.mp hfind r hmem) (by simp)
    | some x => exact ⟨x, List.mem_of_find?_eq_some hfind, by simpa using List.find?_some hfind, rfl⟩
  have hpred : (fun x : Req => x.id == r.id) ∘ (fun x : Req => if x.id = r.id then { x with arrived := true } else x) = fun x => x.id == r.id := by
    funext y
    by_cases hy : y.id = r.id <;> simp [hy]
  show (s.reqs.map _).find? _ = _
  rw [List.find?_map, hpred, hfind]
  simp [hall x hx hid]

theorem filter_reached : (s.reached r.id).reqs.filter (fun x => x.id ≠ r.id) = s.reqs.filter (fun x => x.id ≠ r.id) := by
  show (s.reqs.map _).filter _ = _
  induction s.reqs with
  | nil => rfl
  | cons x xs ih =>
    by_cases hx : x.id = r.id
    · simpa [hx] using ih
    · simpa [hx] using ih

end

/-- The bytes that an operation on device memory finds do not hang on requests and banks. -/
theorem atomicBytes_dev (s : State) (a : Arrival) (ha : a.space = .dev) (reqs : List Req) (banks : Map Bank) (n : Nat) :
    ({ s with reqs := reqs, banks := banks } : State).atomicBytes a n = s.atomicBytes a n := by
  unfold State.atomicBytes
  rw [ha]
  rfl

/-- The entry that an operation performed on arrival makes in the log of its unit (log 72). -/
def Arrival.logged (a : Arrival) (n : Nat) (bs : List Byte) : Arrival := { a with seq := n, res := bs, done := false }

theorem performAtomic_add {s : State} {a : Arrival} {tag k : Nat} {val : Token} {f : Fmt} (hf : Fmt.ofTag tag = some f) (hint : f.isInt = true) (hw : f.width = 32 ∨ f.width = 64) {m : Nat}
    (hm : m = leNat (s.atomicBytes a (f.width / 8))) : s.performAtomic false a 0xA0 tag false val k =
      (s.atomicStore false a (leBytes (f.width / 8) ((m + laneOf val.pay f.width 0) % 2 ^ f.width))).answer a.req none [(0, scalarTok f m)] := by
  have hbytes : fmtBytes f = f.width / 8 := by
    unfold fmtBytes
    omega
  unfold State.performAtomic
  rw [hf, if_neg (by decide)]
  simp only [Option.getD_some, hbytes, ← hm, atomic_add hint hw]
  rfl

/-- A request whose flight is filled leaves the table. -/
theorem answer_found {s : State} {id : Nat} {r : Req} (h : s.reqs.find? (fun x => x.id == id) = some r) (after : Option Nat) (outs : List (Nat × Token)) :
    s.answer id after outs = ({ s with reqs := s.reqs.filter (fun x => x.id ≠ id) }).fill r.site id s.fc after outs := by
  unfold State.answer
  rw [h]

/-- AN INTEGER ADD IN FREE MODE enters the log of its unit with the sum, answers the old value and lets its order token go (08 R212, log 72). -/
theorem atomic_add_performed {s : State} {r : Req} {p : Part} {val : Token} {k tag : Nat} {f : Fmt} (hfind : s.reqs.find? (fun x => x.id == r.id && !x.arrived) = some r)
    (hall : ∀ x ∈ s.reqs, x.id = r.id → x = r) (hop : r.op = some (.atomic 0xA0 tag false val k)) (hf : Fmt.ofTag tag = some f) (hint : f.isInt = true)
    (hw : f.width = 32 ∨ f.width = 64) (hone : r.parts = [p]) (hdev : p.space = .dev) (hdue : r.due ≤ s.fc) (hdie : r.admitted = true ∨ s.dieOff r.parts = false)
    (hport : s.portHolds r.site.core = false) (hecc : s.spoilt .dev p.addr p.size = false) (a : Arrival) (ha : a = r.arrival (.atomic 0xA0 tag false val k)) (m : Nat)
    (hm : m = leNat ((s.logOwn a).atomicBytes a (f.width / 8))) :
    ∃ t, exec (.atomicPerform r.id) s = .next t ∧ t.mem = s.mem ∧ t.reqs = s.reqs.filter (fun x => x.id ≠ r.id) ∧
      t.overlay = (s.logOwn a).overlay ++ [a.logged s.nid (leBytes (f.width / 8) ((m + laneOf val.pay f.width 0) % 2 ^ f.width))] ∧
      t.elem r.site = (let el := s.elem r.site
        let one := fillFlight (r.id + 1) s.fc none [(1, orderTok r.chain)] 0
        let two := fillFlight r.id s.fc none [(0, scalarTok f m)] 0
        { el with q0 := two (one el.q0), q1 := two (one el.q1) }) := by
  have hspace : a.space = .dev := by
    rw [ha]
    unfold Req.arrival
    rw [hone]
    exact hdev
  have hreq : a.req = r.id := by rw [ha]; rfl
  have hexec := exec_perform hfind hop hone hdue hdie hport (by rw [hdev]; exact hecc)
  rw [← ha] at hexec
  obtain ⟨ownMem, -, ownNid, -, ownFc⟩ := logOwn_dev_fields s a hspace
  generalize hbanks : ((s.reached r.id).fill r.site (r.id + 1) s.fc none [(1, orderTok r.chain)]).banks = banks at *
  have hown : ((s.reached r.id).fill r.site (r.id + 1) s.fc none [(1, orderTok r.chain)]).logOwn a = { s.logOwn a with reqs := (s.reached r.id).reqs, banks := banks } := by
    rw [← hbanks]
    exact logOwn_dev s a hspace _ _
  rw [hown, performAtomic_add (m := m) hf hint hw (by rw [atomicBytes_dev _ _ hspace]; exact hm), hreq] at hexec
  have hstore := atomicStore_arrival { s.logOwn a with reqs := (s.reached r.id).reqs, banks := banks } a hspace (leBytes (f.width / 8) ((m + laneOf val.pay f.width 0) % 2 ^ f.width))
  generalize ({ s.logOwn a with reqs := (s.reached r.id).reqs, banks := banks } : State).atomicStore false a (leBytes (f.width / 8) ((m + laneOf val.pay f.width 0) % 2 ^ f.width)) = t at hstore hexec
  obtain ⟨tMem, tReqs, tBanks, tFc, tLog⟩ := hstore
  dsimp only at tMem tReqs tBanks tFc tLog
  have helem : t.elem r.site = ((s.reached r.id).fill r.site (r.id + 1) s.fc none [(1, orderTok r.chain)]).elem r.site := by
    unfold State.elem State.bank
    rw [tBanks, hbanks]
  rw [answer_found (by rw [tReqs]; exact find_reached (List.mem_of_find?_eq_some hfind) hall), tReqs, filter_reached] at hexec
  refine ⟨_, hexec, ?_, rfl, ?_, ?_⟩
  · show t.mem = s.mem
    rw [tMem, ownMem]
  · show t.overlay = _
    rw [tLog, ownNid]
    rfl
  · unfold State.fill at helem ⊢
    rw [State.elem_setElem_same] at helem ⊢
    show ({ t.elem r.site with q0 := fillFlight r.id t.fc none [(0, scalarTok f m)] 0 (t.elem r.site).q0, q1 := fillFlight r.id t.fc none [(0, scalarTok f m)] 0 (t.elem r.site).q1 } : Elem) = _
    rw [helem, tFc, ownFc]
    rfl

/-- Settles O28: the new value and the old value of every form by its operation on codes, and an integer add that has reached its unit by running it there. -/
theorem atomicsUpdateTheirLocation : Obligations.AtomicsUpdateTheirLocation := by
  unfold Obligations.AtomicsUpdateTheirLocation
  refine ⟨fun f u m r hint hw hm => ?_, fun s r p val k tag f hfind hall hop hf hint hw hone hdev hdue hdie hport hecc a u m ha hu hm => ?_⟩
  · obtain ⟨hmin, hmax⟩ := atomic_min_max (u := u) (r := r) hint hw hm
    obtain ⟨hand, hor, hxor⟩ := atomic_bits (u := u) (r := r) hint hw hm
    have hold := atomicValue_old (f := f) (u := u) (m := m) (r := r)
    simp only [List.forall_mem_cons] at hold ⊢
    obtain ⟨o0, o2, o3, o4, o5, o6, o7, o8, ob, -⟩ := hold
    exact ⟨⟨⟨atomic_add hint hw, o0⟩, ⟨hmin, o2⟩, ⟨hmax, o3⟩, ⟨hand, o4⟩, ⟨hor, o5⟩, ⟨hxor, o6⟩, ⟨rfl, o7⟩, ⟨rfl, o8⟩, ⟨rfl, ob⟩, List.forall_mem_nil _⟩, fun _ h => atomic_test_and_set h⟩
  · subst hu
    exact atomic_add_performed hfind hall hop hf hint hw hone hdev hdue hdie hport hecc a ha m hm

end Sys2Proof.Machine

/-! PROOFS. What a step finds to do at the head of the agenda (02 R21, log 1). -/

namespace Sys2Proof.Machine

/-- The row that fires is one of the rows of its word (06 R136 R138, 09 R229). -/
theorem rowOf_canon (f : Firing) (i : Instr) : (rowOf f i).canon = i.canon := by
  unfold rowOf
  split
  case h_1 | h_2 | h_3 | h_4 => split <;> rfl
  case h_5 | h_6 => split <;> rfl
  case h_7 => rfl

theorem Bank.instr_of_decode {b : Bank} {j : Nat} {w : Word64} {i : Instr} (hw : mget b.words j = some w) (hi : decodeWord w = .ok i) : b.instr j = some i := by
  unfold Bank.instr
  rw [hw]
  dsimp only
  rw [hi]

/-- The word that stands at a site is what the site runs. -/
theorem fetchSite_of_decode {s : State} {e : Site} {w : Word64} {i : Instr} (hw : mget (s.bank (siteKey e)).words e.idx = some w) (hi : decodeWord w = .ok i) :
    s.fetchSite e = .run (rowOf { s with cur := e }.firing i) { s with cur := e } := by
  unfold State.fetchSite State.instrAt
  rw [hw, Bank.instr_of_decode hw hi]
  rfl

theorem nextAction_fire {s : State} {e : Site} {rest : List Action} (h : s.agenda = .fire e :: rest) : s.nextAction = ({ s with agenda := rest } : State).fetchSite e := by
  unfold State.nextAction
  rw [h]

/-- A step at a site runs the instruction that its word decodes to. -/
theorem step_fire {s : State} {e : Site} {rest : List Action} {w : Word64} {i : Instr} (h : s.agenda = .fire e :: rest) (hw : mget (s.bank (siteKey e)).words e.idx = some w)
    (hi : decodeWord w = .ok i) : step s = exec (rowOf { s with agenda := rest, cur := e }.firing i) { s with agenda := rest, cur := e } := by
  unfold step
  rw [nextAction_fire h, fetchSite_of_decode (s := { s with agenda := rest }) hw hi]

theorem step_unit {s : State} {i : Instr} {rest : List Action} (h : s.agenda = .ev i :: rest) : step s = exec i { s with agenda := rest } := by
  unfold step State.nextAction
  rw [h]

theorem step_choose {s : State} {rest : List Action} (h : s.agenda = .choose :: rest) : step s = .next ({ s with agenda := rest }).chooseBanks := by
  unfold step State.nextAction
  rw [h]

theorem step_empty {s : State} (h : s.agenda = []) : step s = .next s.openFc := by
  unfold step State.nextAction
  rw [h]

/-- An instruction that the table decoder reads stands in the whole word. -/
theorem decodeWord_of_decodeTableWord {w : Nat} {i : Instr} (h : decodeTableWord 64 w = some i) : decodeWord (BitVec.ofNat 64 (w % 2 ^ 64)) = .ok i := by
  unfold decodeTableWord at h
  generalize BitVec.ofNat 64 (w % 2 ^ 64) = word at *
  have hbytes := decode_bytesOfWord word []
  rw [List.append_nil] at hbytes
  cases hword : decodeWord word with
  | ok j =>
    rw [hbytes, hword] at h
    exact congrArg Except.ok (Option.some.inj h)
  | error e =>
    rw [hbytes, hword] at h
    exact absurd h.symm (Option.some_ne_none i)

/-- The word that withFetchWord places stands at its site. -/
theorem withFetchWord_word (s : State) (w : Nat) : mget ((s.withFetchWord 64 w).bank (siteKey ⟨0, 0, 0, 0⟩)).words 0 = some (BitVec.ofNat 64 (w % 2 ^ 64)) := by
  have hbank : (s.withFetchWord 64 w).bank (siteKey ⟨0, 0, 0, 0⟩) = { s.bank 0 with st := 1, words := mset (s.bank 0).words 0 (BitVec.ofNat 64 (w % 2 ^ 64)) } :=
    State.bank_setBank_same s 0 _
  rw [hbank]
  exact mget_mset_same _ _ _

/-- Settles O57: by the head of the agenda. -/
theorem stepsRunDecodedInstructions : Obligations.StepsRunDecodedInstructions := by
  unfold Obligations.StepsRunDecodedInstructions
  refine ⟨fun s e rest w i h hw hi => ⟨step_fire h hw hi, rowOf_canon _ _⟩, fun _ _ _ => step_unit, fun _ _ => step_choose, fun s h => ⟨_, step_empty h, rfl, rfl⟩,
    fun s w i h => ⟨_, step_fire (rest := s.agenda) rfl (withFetchWord_word s w) (decodeWord_of_decodeTableWord h), rfl, rfl⟩⟩

end Sys2Proof.Machine

/-! PROOFS. The matrix node: weight loads, rows, drains and status (09 R229-R235). -/

namespace Sys2Proof.Machine

section
variable {s : State} {o : OpA} {l : Token} {pr : Predicate}

/-- A matrix instruction acts once marker r - 1 has passed its node (09 R222). -/
theorem mx_does {need nums : Slots} {check : State → Firing → Option (Nat × Nat)} {act : State → Firing → State} {hold : State → Firing → Bool} {eff : State → State}
    (hpass : s.here.fwd ≤ mgetD (s.ctile (nodeKey s.firing)).pass s.firing.lk 0) (hr : s.Runs o.fl false need pr) (hk : check s (s.firingOn (withPm o.fl need)) = none)
    (hh : hold s (s.firingOn (withPm o.fl need)) = false) (he : ∀ u, Taken s (withPm o.fl need) nums u → act u (s.firingOn (withPm o.fl need)) = eff u) :
    Does s (.next (s.anchorFire (mxAnchor o need check act hold nums))) (withPm o.fl need) eff nums := by
  refine anchor_does s (mxAnchor o need check act hold nums) pr eff hr hk ?_ he
  have hround : ¬ mgetD (s.ctile (nodeKey s.firing)).pass s.firing.lk 0 < s.here.fwd := Nat.not_lt.mpr hpass
  show (decide (mgetD (s.ctile (nodeKey s.firing)).pass s.firing.lk 0 < s.here.fwd) || hold s (s.firingOn (withPm o.fl need))) = false
  rw [hh, decide_eq_false hround]
  rfl

theorem taken_ctile {u : State} {take nums : Slots} (hu : Taken s take nums u) (k : Nat) : u.ctile k = s.ctile k := by
  unfold State.ctile
  rw [hu.ctiles]

/-- Requesting a marker leaves the instructions, the nodes and memory as they are (06 R159). -/
theorem requestMarker_keeps (u : State) (lk core : Nat) :
    (u.requestMarker lk core).banks = u.banks ∧ (u.requestMarker lk core).ctiles = u.ctiles ∧ (u.requestMarker lk core).mem = u.mem := by
  have hmap (lk' : Nat) (g : Launch → Launch) : (u.mapLaunch lk' g).banks = u.banks ∧ (u.mapLaunch lk' g).ctiles = u.ctiles ∧ (u.mapLaunch lk' g).mem = u.mem := by
    rw [mapLaunch_banks]
    exact ⟨rfl, rfl, rfl⟩
  unfold State.requestMarker
  dsimp only
  split
  · exact hmap _ _
  · split <;> exact ⟨rfl, rfl, rfl⟩

/-- A header that is acceptable and waits for nothing else asks for its marker (09 R229). -/
theorem mxldb_asks (hpass : s.here.fwd ≤ mgetD (s.ctile (nodeKey s.firing)).pass s.firing.lk 0) (hv : l.v = true) (hclean : l.poison = false) (hheld : s.here.held = false)
    (hbreak : breaks o.fl s.here = false) (hl : s.firing.ops.l = some l) (hok : mxHeaderOk l.pay = true) (hstate : ((s.ctile (nodeKey s.firing)).slot (o.imm.toNat % 8)).state ≠ 1)
    (hwait : ∀ m, s.here.ost ≠ .mxwait m) :
    exec (.mxldbHeaderFiring o) s = .next ((s.requestMarker s.firing.lk s.cur.core).setOst s.cur (.mxwait (s.injOf s.firing.lk s.cur.core))) := by
  have hwants : (!s.here.held && decide (s.here.fwd ≤ mgetD (s.ctile (nodeKey s.firing)).pass s.firing.lk 0) && s.firing.ops.l.any (fun l => l.v && !l.poison && mxHeaderOk l.pay) &&
      !breaks o.fl s.here && ((s.ctile (nodeKey s.firing)).slot (rowSlot o)).state != 1) = true := by
    rw [hl, hheld, hbreak, decide_eq_true hpass]
    simpa [hv, hclean, hok, rowSlot] using hstate
  show execMxldbHeaderFiring o s = _
  unfold execMxldbHeaderFiring
  dsimp only
  split
  next m h => exact absurd h (hwait m)
  next => exact if_pos hwants

/-- The header that opens a slot (09 R229). -/
def openedSlot (s : State) (l : Token) : WSlot := { mxOpen l.pay with owner := some s.cur }

/-- The header's effect: the slot is LOADING, in the working copy and in every cut that a rollback can return to. -/
def State.slotOpened (s : State) (o : OpA) (l : Token) (u : State) : State :=
  let key := nodeKey s.firing
  ((u.setCtile key { s.ctile key with
    slots := mset (s.ctile key).slots (rowSlot o) (openedSlot s l)
    snaps := (s.ctile key).snaps.map (fun (x : NodeCut) => { x with slots := mset x.slots (rowSlot o) (openedSlot s l) }) }).useNode s.cur.core (siteTile s.firing)).setOst s.cur
    (.mxldb (mxOpen l.pay).len)

theorem mxldb_opens {m : Nat} (hpass : s.here.fwd ≤ mgetD (s.ctile (nodeKey s.firing)).pass s.firing.lk 0) (hv : l.v = true) (hr : s.Runs o.fl false needL pr)
    (hl : (s.operands (withPm o.fl needL)).l = some l) (hok : mxHeaderOk l.pay = true) (hstate : ((s.ctile (nodeKey s.firing)).slot (rowSlot o)).state ≠ 1)
    (hwait : s.here.ost = .mxwait m) (hcut : m < s.cutOf s.firing.lk s.cur.core) :
    Does s (exec (.mxldbHeaderFiring o) s) (withPm o.fl needL) (s.slotOpened o l) {} := by
  show Does s (execMxldbHeaderFiring o s) _ _ _
  unfold execMxldbHeaderFiring
  dsimp only
  rw [show s.firing.el.ost = .mxwait m from hwait]
  refine mx_does hpass hr ?_ ?_ (fun u hu => ?_)
  · show (if !(s.operands (withPm o.fl needL)).l.all Token.v then _ else if (s.operands (withPm o.fl needL)).l.all (fun l => mxHeaderOk l.pay) then _ else _) = none
    rw [hl]
    simp [hv, hok]
  · show ((((s.ctile (nodeKey s.firing)).slot (rowSlot o)).state == 1 && _) || decide (s.cutOf s.firing.lk s.cur.core ≤ m)) = false
    rw [beq_false_of_ne hstate, decide_eq_false (Nat.not_le.mpr hcut)]
    rfl
  · dsimp only
    rw [show (s.firingOn (withPm o.fl needL)).ops.l = some l from hl, show nodeKey (s.firingOn (withPm o.fl needL)) = nodeKey s.firing from rfl, taken_ctile hu]
    rfl

/-- The slot with one more payload line. -/
def WSlot.filled (w : WSlot) (l : Token) : WSlot := { w with lines := mset w.lines w.pos l.pay, pos := w.pos + 1 }

/-- A payload line's effect (09 R229): the slot keeps the line, and the last one makes it VALID. -/
def State.lineKept (s : State) (o : OpA) (l : Token) (u : State) : State :=
  let key := nodeKey s.firing
  let w := ((s.ctile key).slot (rowSlot o)).filled l
  if w.len ≤ w.pos then s.emitting ((u.setCtile key { s.ctile key with slots := mset (s.ctile key).slots (rowSlot o) { w with state := 2, owner := none } }).setOst s.cur .none) 1 (fork (z64Tok w.head.toNat))
  else (u.setCtile key { s.ctile key with slots := mset (s.ctile key).slots (rowSlot o) w }).setOst s.cur (.mxldb (w.len - w.pos))

theorem mxldb_keeps (hpass : s.here.fwd ≤ mgetD (s.ctile (nodeKey s.firing)).pass s.firing.lk 0) (hv : l.v = true) (hr : s.Runs o.fl false needL pr)
    (hl : (s.operands (withPm o.fl needL)).l = some l) : Does s (exec (.mxldbPayloadFiring o) s) (withPm o.fl needL) (s.lineKept o l) {} := by
  show Does s (execMxldbPayloadFiring o s) _ _ _
  unfold execMxldbPayloadFiring
  refine mx_does hpass hr ?_ rfl (fun u hu => ?_)
  · show (if (s.operands (withPm o.fl needL)).l.all Token.v then _ else _) = none
    rw [hl]
    exact if_pos hv
  · unfold State.lineKept
    dsimp only [State.firingOn]
    rw [hl, show nodeKey { s.firing with ops := s.operands (withPm o.fl needL) } = nodeKey s.firing from rfl, taken_ctile hu]
    by_cases hfull : ((s.ctile (nodeKey s.firing)).slot (rowSlot o)).len ≤ ((s.ctile (nodeKey s.firing)).slot (rowSlot o)).pos + 1
    · simp only [WSlot.filled, hfull, decide_true, if_true]
      exact result_emitting s (({ u with ctiles := _ } : State).setOst s.cur .none) _ (isFiring_mask s _) hu.fc 1 _
    · simp only [WSlot.filled, hfull, decide_false, if_false]
      rfl

end

/-- Settles O30: the header's request, the header's effect, and a payload line, each by the one equation of its anchor. -/
theorem weightLoads : Obligations.WeightLoads := by
  unfold Obligations.WeightLoads
  intro s o l lk key hlk hkey hpass hv hclean w
  subst hlk hkey
  refine ⟨fun hheld hbreak hl hok hstate hwait => ?_, fun pr m hr hl hok hstate hwait hcut => mxldb_opens hpass hv hr hl hok hstate hwait hcut, fun pr hr hl => ?_⟩
  · obtain ⟨hbanks, hctiles, hmem⟩ := requestMarker_keeps s s.firing.lk s.cur.core
    refine ⟨_, mxldb_asks hpass hv hclean hheld hbreak hl hok hstate hwait, ?_, fun n hlid hn => ?_, hctiles, hmem⟩
    · unfold State.setOst
      rw [State.elem_setElem_same]
      unfold State.here State.elem State.bank
      rw [hbanks]
    · have hlaunch : (s.requestMarker s.firing.lk s.cur.core).launch s.firing.lk = some (askMarker (s.fc + min 16 (Config.rmarkDelay s.tick)) n) := by
        rw [requestMarker_eq hlid]
        exact mapLaunch_launch_same s _ hn
      obtain ⟨d, hd, -⟩ := askMarker_rmark (x := n) (d := s.fc + min 16 (Config.rmarkDelay s.tick))
      exact ⟨_, d, hlaunch, hd⟩
  · intro lines
    obtain ⟨u, hu, heq⟩ := mxldb_keeps hpass hv hr hl
    refine ⟨fun hmore => ⟨u, hu, heq.trans ?_⟩, fun hfull => ⟨u, hu, heq.trans ?_⟩⟩
    · exact congrArg Host.Outcome.next (if_neg (Nat.not_le.mpr hmore))
    · exact congrArg Host.Outcome.next (if_pos hfull)

end Sys2Proof.Machine

/-! PROOFS. The rows of the matrix node (09 R230). -/

namespace Sys2Proof.Machine

section
variable {s : State} {o : OpA} {l : Token} {pr : Predicate}

/-- The rows that the node remembers behind one more (09 R235, log 50). -/
def CTile.withRow (t : CTile) (row : Nat × Nat × Nat × Token × Nat) : CTile := { t with kept := (t.kept ++ [row]).drop ((t.kept ++ [row]).length - 6) }

/-- The node behind a row of MXROW, whose pointer advances. -/
def CTile.advance (t : CTile) (a m : Nat) : CTile := { t with acc := t.acc.set a { t.accOf a with rowp := (m + 1) % 64 } }

/-- The row of the accumulator that a row acts on (09 R230). -/
def rowIndex (o : OpA) (indexed : Bool) (t : CTile) (r : Option Token) : Nat := if indexed then (r.map Token.low32).getD 0 else (t.accOf (rowAcc o)).rowp

theorem stageFlags_fc (u : State) (f : Firing) (fl : Nat) : (u.stageFlags f fl).fc = u.fc := by
  unfold State.stageFlags
  split <;> rfl

/-- A row takes effect on its node and goes on. -/
theorem rowAct_eq {indexed : Bool} {take nums : Slots} {u : State} (hu : Taken s take nums u) {need : Slots} (hl : (s.firingOn need).ops.l = some l) {m : Nat}
    (hm : rowIndex o indexed (s.ctile (nodeKey s.firing)) (s.firingOn need).ops.r = m) :
    rowAct o indexed u (s.firingOn need) = (let r := (s.ctile (nodeKey s.firing)).row (rowSlot o) (rowAcc o) m l
      let t := if indexed then r.1 else r.1.advance (rowAcc o) m
      s.emitting ((u.setCtile (nodeKey s.firing) (t.withRow (rowSlot o, rowAcc o, m, l, r.1.rowFc s.fc))).stageFlags s.firing r.2) 1 (fork l)) := by
  unfold rowIndex at hm
  unfold rowAct
  rw [hl, show nodeKey (s.firingOn need) = nodeKey s.firing from rfl, taken_ctile hu, hu.fc]
  dsimp only [Option.getD_some]
  rw [hm]
  refine (result_emitting s _ _ (isFiring_mask s _) ?_ 1 _).trans ?_
  · rw [stageFlags_fc]
    exact hu.fc
  · cases indexed <;> rfl

/-- A row that its slot and accumulator admit passes the checks. -/
theorem rowCheck_none {indexed : Bool} {need : Slots} (hl : (s.firingOn need).ops.l = some l) (hdata : dataOk o.ty true l = true)
    (hslot : ((s.ctile (nodeKey s.firing)).slot (rowSlot o)).state = 2) (hpair : rowPairOk (s.ctile (nodeKey s.firing)) (rowSlot o) (rowAcc o) l = true)
    (hindex : indexed = true → ∃ x, (s.firingOn need).ops.r = some x ∧ isW32 x = true ∧ x.low32 ≤ 63) : rowCheck o indexed s (s.firingOn need) = none := by
  unfold rowCheck
  generalize (s.firingOn need).ops.r = r at hindex ⊢
  rw [hl, show nodeKey (s.firingOn need) = nodeKey s.firing from rfl]
  cases indexed with
  | false => simp [hdata, hslot, hpair]
  | true =>
    obtain ⟨x, hx, hw, hle⟩ := hindex rfl
    simp [hdata, hslot, hpair, hx, hw, hle]

/-- The firing of MXROWS. -/
def rowsFiring (o : OpA) : AnchorFiring := { mxAnchor o needLR (rowCheck o true) (rowAct o true) (rowHold o) { r := true } with culprit := some (rowCulprit o) }

/-- A row that waits for nothing acts once marker r - 1 has passed its node (09 R222). -/
theorem row_acts {need : Slots} (hpass : s.here.fwd ≤ mgetD (s.ctile (nodeKey s.firing)).pass s.firing.lk 0) (hhold : rowHold o s s.firing = false) :
    (rowsFiring o).hold s (s.firingOn need) = false := by
  show (decide (mgetD (s.ctile (nodeKey s.firing)).pass s.firing.lk 0 < s.here.fwd) || rowHold o s s.firing) = false
  rw [hhold, decide_eq_false (Nat.not_lt.mpr hpass)]
  rfl

end

/-- Settles O31: both row instructions by the one equation of a row's action. -/
theorem matrixRows : Obligations.MatrixRows := by
  unfold Obligations.MatrixRows
  intro s o l pr key m nd hkey hnd hpass hdata hslot hpair hhold a r all kept
  subst hkey hnd
  refine ⟨fun hrv => ?_, fun hr hl hm => ?_, fun x hr hl hx hw hm hle => ?_⟩
  · show (CTile.row _ _ _ _ _) = _
    unfold CTile.row
    rw [hrv]
    rfl
  · show Does s (.next (s.anchorFire (mxAnchor o needL (rowCheck o false) (rowAct o false) (rowHold o)))) _ _ _
    refine mx_does hpass hr (rowCheck_none hl hdata hslot hpair nofun) hhold (fun u hu => ?_)
    exact rowAct_eq (indexed := false) (need := withPm o.fl needL) hu hl hm.symm
  · have hindex : rowIndex o true (s.ctile (nodeKey s.firing)) (s.firingOn (withPm o.fl needLR)).ops.r = m := by
      rw [show (s.firingOn (withPm o.fl needLR)).ops.r = some x from hx]
      exact hm
    have hcheck := rowCheck_none (indexed := true) (need := withPm o.fl needLR) hl hdata hslot hpair (fun _ => ⟨x, hx, hw, Nat.le_trans (Nat.le_of_eq hm) hle⟩)
    refine anchor_does s (rowsFiring o) pr _ hr hcheck (row_acts hpass hhold) (fun u hu => ?_)
    exact rowAct_eq (indexed := true) (need := withPm o.fl needLR) hu hl hindex

end Sys2Proof.Machine

/-! PROOFS. Drains, clears and the status of the matrix node (09 R231-R233). -/

namespace Sys2Proof.Machine

section
variable {s : State} {o : OpA} {l : Token} {pr : Predicate}

theorem setElem_fc (u : State) (e : Site) (x : Elem) : (u.setElem e x).fc = u.fc := rfl

/-- Results that join output 0 one after another, and a last one on output 1. -/
theorem results_join {f : Firing} (hf : IsFiring s f) (last : Nat) (tok : Token) (toks : List Token) : ∀ (n : Nat) {u : State}, u.fc = s.fc →
    ((toks.zipIdx n).foldl (fun s (x : Token × Nat) => s.result f false (3 + x.2) [(0, x.1)]) u).result f true last [(1, tok)] =
      u.setElem s.cur { u.elem s.cur with
        q0 := (u.elem s.cur).q0 ++ (toks.zipIdx n).map (fun x => s.resultOf (3 + x.2) s.firing.thr [(0, x.1)])
        q1 := (u.elem s.cur).q1 ++ [s.resultOf last s.firing.thr [(1, tok)]] } := by
  induction toks with
  | nil =>
    intro n u hfc
    rw [List.zipIdx_nil, List.foldl_nil, result_emitting1 s u f hf hfc, List.map_nil, List.append_nil]
    rfl
  | cons t toks ih =>
    intro n u hfc
    rw [List.zipIdx_cons, List.foldl_cons, ih, result_emitting s u f hf hfc]
    · unfold State.emitting
      rw [State.elem_setElem_same, State.setElem_setElem]
      simp only [Elem.plus, List.map_cons, List.append_assoc, List.singleton_append]
    · rw [result_emitting s u f hf hfc]
      exact hfc

theorem zipIdx_range_map {α : Type} (g : Nat → α) (n : Nat) : ((List.range n).map g).zipIdx = (List.range n).map (fun i => (g i, i)) := by
  refine List.ext_getElem (by simp) (fun i h1 h2 => ?_)
  simp

/-- The rows of a drain leave on output 0, and pred true behind them on output 1 (09 R231). -/
def State.drained (s u : State) (t : Acc) (m0 c : Nat) : State :=
  u.setElem s.cur { u.elem s.cur with
    q0 := (u.elem s.cur).q0 ++ (List.range (4 * c)).map (fun i => s.resultOf (3 + i) s.firing.thr [(0,
      { pay := vecPay 32 ((List.range 16).map (fun j => t.lane (m0 + i / 4) (16 * (i % 4) + j))), tag := if t.i32 then 2 else 0x10, v := true })])
    q1 := (u.elem s.cur).q1 ++ [s.resultOf (3 + 4 * c) s.firing.thr [(1, predTok true)]] }

theorem drainTokens_leave {f : Firing} (hf : IsFiring s f) {u : State} (hfc : u.fc = s.fc) (t : Acc) (m0 c : Nat) :
    ((drainTokens t m0 c).zipIdx.foldl (fun s (x : Token × Nat) => s.result f false (3 + x.2) [(0, x.1)]) u).result f true (3 + 4 * c) [(1, predTok true)] = s.drained u t m0 c := by
  rw [results_join hf (3 + 4 * c) (predTok true) (drainTokens t m0 c) 0 hfc]
  unfold drainTokens State.drained
  rw [zipIdx_range_map, List.map_map]
  rfl

theorem mxdrain_does {a m0 c : Nat} (ha : a = o.imm.toNat % 4) (hm0 : m0 = o.imm.toNat / 4 % 64) (hc : c = o.imm.toNat / 256 % 64 + 1)
    (hpass : s.here.fwd ≤ mgetD (s.ctile (nodeKey s.firing)).pass s.firing.lk 0) (hr : s.Runs o.fl false needL pr)
    (hdrain : s.draining s.cur.core (siteTile s.firing) a = false) (hrow : (s.ctile (nodeKey s.firing)).rowUnderway a s.fc = false) :
    Does s (exec (.mxdrain o) s) (withPm o.fl needL) (fun u =>
      let nd := s.ctile (nodeKey s.firing)
      let v := s.drained u (nd.accOf a) m0 c
      if o.bit 0 then v.setCtile (nodeKey s.firing) { nd with acc := nd.acc.set a ((List.range (64 * c)).foldl (fun x i => x.setLane (m0 + i / 64) (i % 64) 0) (nd.accOf a)) } else v) {} := by
  subst ha hm0 hc
  show Does s (execMxdrain o s) _ _ _
  refine mx_does hpass hr rfl ?_ (fun u hu => ?_)
  · show (s.draining s.cur.core (siteTile s.firing) _ || (s.ctile (nodeKey s.firing)).rowUnderway _ s.fc) = false
    rw [hdrain, hrow]
    rfl
  · dsimp only
    rw [show nodeKey (s.firingOn (withPm o.fl needL)) = nodeKey s.firing from rfl, taken_ctile hu, drainTokens_leave (isFiring_mask s _) hu.fc]

/-- The one way in which MXCLR and MXCFG end: the node changes, and a result goes out at once. -/
theorem node_emits {u : State} {take nums : Slots} (hu : Taken s take nums u) (need : Slots) (k : Nat) (t : CTile) (outs : List (Nat × Token)) :
    (u.setCtile k t).result (s.firingOn need) false 1 outs = s.emitting (u.setCtile k t) 1 outs :=
  result_emitting s (u.setCtile k t) _ (isFiring_mask s _) hu.fc 1 outs

theorem mxclr_does {a : Nat} (ha : a = o.imm.toNat % 4) (hpass : s.here.fwd ≤ mgetD (s.ctile (nodeKey s.firing)).pass s.firing.lk 0) (hr : s.Runs o.fl false needL pr)
    (hl : (s.operands (withPm o.fl needL)).l = some l) (hrow : (s.ctile (nodeKey s.firing)).kept.any (fun x => x.2.2.2.2 == s.fc) = false)
    (hshut : (s.ctile (nodeKey s.firing)).shut s.fc = false) :
    Does s (exec (.mxclr o) s) (withPm o.fl needL) (fun u =>
      let nd := s.ctile (nodeKey s.firing)
      s.emitting (u.setCtile (nodeKey s.firing) { nd with acc := nd.acc.set a { i32 := o.ty == .i32, lanes := [], rowp := 0 }, busyTill := max nd.busyTill s.fc }) 1 (fork l.pass)) {} := by
  subst ha
  show Does s (execMxclr o s) _ _ _
  refine mx_does hpass hr rfl ?_ (fun u hu => ?_)
  · show ((s.ctile (nodeKey s.firing)).shut s.fc || (s.ctile (nodeKey s.firing)).kept.any (fun x => x.2.2.2.2 == s.fc)) = false
    rw [hshut, hrow]
    rfl
  · dsimp only
    rw [node_emits hu, show nodeKey (s.firingOn (withPm o.fl needL)) = nodeKey s.firing from rfl, taken_ctile hu, hu.fc, show (s.firingOn (withPm o.fl needL)).ops.l = some l from hl]
    rfl

/-- The node behind MXCFG, which sets the row pointer under bit 0 (09 R233). -/
def CTile.pointed (t : CTile) (o : OpA) (a p : Nat) : CTile := if o.bit 0 then { t with acc := t.acc.set a { t.accOf a with rowp := p } } else t

theorem mxcfg_does {a : Nat} (ha : a = o.imm.toNat % 4) (hpass : s.here.fwd ≤ mgetD (s.ctile (nodeKey s.firing)).pass s.firing.lk 0) (hr : s.Runs o.fl false needL pr)
    (hl : (s.operands (withPm o.fl needL)).l = some l) (hptr : o.bit 0 = true → isAddr l = true ∧ l.word < 64) :
    Does s (exec (.mxcfg o) s) (withPm o.fl needL) (fun u =>
      let t := (s.ctile (nodeKey s.firing)).pointed o a l.word
      s.emitting (u.setCtile (nodeKey s.firing) t) 1 (fork (z64Tok (t.status a)))) { l := o.bit 0 } := by
  subst ha
  show Does s (execMxcfg o s) _ _ _
  refine mx_does hpass hr ?_ rfl (fun u hu => ?_)
  · show (if o.bit 0 && !(s.operands (withPm o.fl needL)).l.all (fun l => isAddr l && decide (l.word < 64)) then some (fFormat, 0) else none) = none
    rw [hl]
    cases hbit : o.bit 0 with
    | false => rfl
    | true =>
      obtain ⟨haddr, hword⟩ := hptr hbit
      simp [haddr, hword]
  · dsimp only
    rw [node_emits hu, show nodeKey (s.firingOn (withPm o.fl needL)) = nodeKey s.firing from rfl, taken_ctile hu, show (s.firingOn (withPm o.fl needL)).ops.l = some l from hl]
    rfl

end

/-- Settles O32: MXDRAIN by the results that join its two outputs, MXCLR and MXCFG by the change of their node. -/
theorem matrixDrainsAndStatus : Obligations.MatrixDrainsAndStatus := by
  unfold Obligations.MatrixDrainsAndStatus
  intro s o l pr key a nd hkey hnd ha hpass hr hl m0 c
  subst hkey hnd
  refine ⟨fun hdrain hrow => mxdrain_does ha rfl rfl hpass hr hdrain hrow, fun hrow hshut => mxclr_does ha hpass hr hl hrow hshut, fun hbit => ?_, fun hbit haddr hword n hn => ?_⟩
  · have h := mxcfg_does ha hpass hr hl (fun hb => absurd (hbit.symm.trans hb) Bool.false_ne_true)
    rw [hbit] at h
    unfold CTile.pointed at h
    simp only [hbit, Bool.false_eq_true, if_false] at h
    exact h
  · have h := mxcfg_does ha hpass hr hl (fun _ => ⟨haddr, hword⟩)
    rw [hbit] at h
    unfold CTile.pointed at h
    simp only [hbit, if_true, ← hn] at h
    exact h

end Sys2Proof.Machine

/-! PROOFS. The acceptance of engine and directory commands (09 R236 R239, 20 R366). -/

namespace Sys2Proof.Machine

section
variable {s : State} {o : OpA} {l : Token}

/-- The command that an accepted firing leaves with its engine. -/
def State.commandOf (s : State) (need : Slots) (op : Nat) (ws : List Nat) (user : Bool) : Cmd :=
  { id := s.nid, site := s.cur, lk := s.firing.lk, core := s.cur.core, round := s.here.fwd, thr := s.firing.thr, op := op, words := ws, key := (s.accessFiring need).writeKey,
    user := user, org := (s.accessFiring need).origin }

/-- The two results of an accepted command: the completion token is awaited, the order token goes out at once. -/
def State.acceptedBy (s : State) (need : Slots) (v : State) : State := s.emitting1 (s.awaiting v false s.nid) 1 [(1, orderTok (s.accessFiring need).writeChain.next)]

theorem accepted_results {need : Slots} {v : State} (hfc : v.fc = s.fc) :
    (v.await (s.accessFiring need) false false s.nid).orderSecond (s.accessFiring need) = s.acceptedBy need v := by
  have hf := isFiring_access s need
  unfold State.orderSecond
  rw [await_awaiting s v _ hf hfc]
  exact result_emitting1 s (s.awaiting v false s.nid) _ hf hfc 1 _

/-- An engine command joins its core's list. -/
theorem acceptCmd_eq {take nums : Slots} {u : State} (hu : Taken s take nums u) (need : Slots) (op : Nat) (ws : List Nat) :
    u.acceptCmd (s.accessFiring need) op ws = s.acceptedBy need ({ u with nid := s.nid + 1 }.setCore s.cur.core { s.core s.cur.core with
      cmds := (s.core s.cur.core).cmds ++ [s.commandOf need op ws (!isPriv s.firing.b)] }) := by
  have hcore : u.core s.cur.core = s.core s.cur.core := by
    unfold State.core
    rw [hu.cores]
  rw [← accepted_results (need := need) (v := ({ u with nid := s.nid + 1 } : State).setCore _ _) hu.fc]
  unfold State.acceptCmd State.fresh
  dsimp only
  rw [hu.nid]
  show (((({ u with nid := s.nid + 1 } : State).setCore s.cur.core { u.core s.cur.core with cmds := (u.core s.cur.core).cmds ++ [_] }).await _ _ _ _).orderSecond _) = _
  rw [hcore]
  rfl

/-- The firing of an engine command whose descriptor and port are right. -/
theorem engine_accepts {op far} (h : s.Accesses o.fl needL) (hl : (s.operands (s.accessNeed needL)).l = some l) (hvec : isVec64 l = true)
    (hport : s.portCommands s.cur.core s.firing.part < 16) (hdesc : s.descCheck s.cur.core s.firing.part (!isPriv s.firing.b) op l.words = .ok far) :
    Does s (.next (s.engineFire op o)) (s.accessNeed needL) (fun u => s.acceptedBy needL ({ u with nid := s.nid + 1 }.setCore s.cur.core { s.core s.cur.core with
      cmds := (s.core s.cur.core).cmds ++ [s.commandOf needL op l.words (!isPriv s.firing.b)] })) := by
  have hL : (s.accessFiring needL).ops.l = some l := hl
  have hcheck : s.descCheck s.cur.core s.firing.part (!isPriv s.firing.b) op ((s.accessFiring needL).ops.l.getD {}).words = .ok far := by
    rw [hL]
    exact hdesc
  unfold State.engineFire
  dsimp only
  refine tile_does s _ [] _ h rfl ?_ rfl rfl rfl ?_ (fun u hu => ?_)
  · show (if !(s.accessFiring needL).ops.l.all isVec64 then some (fFormat, 0)
      else match s.descCheck s.cur.core s.firing.part (!isPriv s.firing.b) op ((s.accessFiring needL).ops.l.getD {}).words with
        | .bad a => some (fEngine, a)
        | .wait => none
        | .ok _ => none) = none
    rw [hcheck, hL]
    exact if_neg (by simpa using hvec)
  · show (if s.descCheck s.cur.core s.firing.part (!isPriv s.firing.b) op ((s.accessFiring needL).ops.l.getD {}).words == .wait || decide (16 ≤ s.portCommands s.cur.core s.firing.part)
      then some s else none) = none
    rw [hcheck, decide_eq_false (Nat.not_le.mpr hport)]
    rfl
  · show u.acceptCmd (s.accessFiring needL) op ((s.accessFiring needL).ops.l.getD {}).words = _
    rw [hL]
    exact acceptCmd_eq hu needL op l.words

/-- A directory command joins the list of its partition. -/
def State.ranged (s : State) (need : Slots) (op base w1 : Nat) (u : State) : State :=
  s.acceptedBy need ({ u with nid := s.nid + 1 }.setPart s.firing.part { u.part s.firing.part with
    rcmds := (u.part s.firing.part).rcmds ++ [RCmd.mk (s.commandOf need op [base, w1] false) 0 base] })

theorem range_accepts {need : Slots} {op w1 : Nat} {r : Option (Token → Bool)} (hneed : need = { l := true, r := r.isSome }) (h : s.Accesses o.fl need)
    (hl : (s.operands (s.accessNeed need)).l = some l) (hz : isZ64 l = true) (hport : s.portCommands s.cur.core s.firing.part < 16)
    (hr : r.all (fun p => (s.operands (s.accessNeed need)).r.all p) = true) (hw : ((s.operands (s.accessNeed need)).r.map Token.word).getD 0 = w1) :
    Does s (.next (s.rangeFire op o r)) (s.accessNeed need) (s.ranged need op l.word w1) := by
  subst hneed
  have hL : (s.accessFiring { l := true, r := r.isSome }).ops.l = some l := hl
  unfold State.rangeFire
  dsimp only
  refine tile_does s _ [] _ h rfl ?_ rfl rfl rfl (if_neg (Nat.not_le.mpr hport)) (fun u hu => ?_)
  · show (if (s.accessFiring { l := true, r := r.isSome }).ops.l.all isZ64 && r.all (fun p => (s.operands (s.accessNeed { l := true, r := r.isSome })).r.all p) then none
      else some (fFormat, 0)) = none
    rw [hL, hr]
    exact if_pos (by simpa using hz)
  · unfold State.ranged
    rw [← accepted_results (need := { l := true, r := r.isSome }) (v := ({ u with nid := s.nid + 1 } : State).setPart _ _) hu.fc]
    unfold State.fresh
    dsimp only
    rw [hu.nid, hL, show ((s.accessFiring { l := true, r := r.isSome }).ops.r.map Token.word).getD 0 = w1 from hw]
    rfl

end

/-- Settles O33: the two acceptances, of the engines and of the directory, with the operands of each command. -/
theorem engineCommandsAreAccepted : Obligations.EngineCommandsAreAccepted := by
  unfold Obligations.EngineCommandsAreAccepted
  intro s o l hport cmd next accepted
  refine ⟨fun h hl hvec => ?_, fun hz => ?_⟩
  · simp only [List.forall_mem_cons]
    exact ⟨fun _ hdesc => engine_accepts h hl hvec hport hdesc, fun _ hdesc => engine_accepts h hl hvec hport hdesc, fun _ hdesc => engine_accepts h hl hvec hport hdesc,
      fun _ hdesc => engine_accepts h hl hvec hport hdesc, List.forall_mem_nil _⟩
  · intro ranged
    refine ⟨fun h hl => ?_, fun r h hl hr => ?_⟩
    · have hnone : ((s.operands (s.accessNeed needL)).r.map Token.word).getD 0 = 0 := rfl
      exact ⟨range_accepts (r := none) rfl h hl hz hport rfl hnone, range_accepts (r := none) rfl h hl hz hport rfl hnone⟩
    · have hword : ((s.operands (s.accessNeed needLR)).r.map Token.word).getD 0 = r.word := by rw [hr]; rfl
      refine ⟨fun htag hv hscale => range_accepts (r := some (fun t => t.tag == 1 && !t.v && scaleOk t)) rfl h hl hz hport ?_ hword,
        fun hrz => range_accepts (r := some isZ64) rfl h hl hz hport ?_ hword⟩
      · rw [hr]
        simp [htag, hv, hscale]
      · rw [hr]
        exact hrz

end Sys2Proof.Machine

/-! PROOFS. The work of an engine: a part that it stages, and its completion (09 R240 R241). -/

namespace Sys2Proof.Machine

theorem readBytes_eq_map (m : Memory) (n : Nat) : ∀ a, readBytes m a n = (List.range n).map (fun i => memRead m (a + i)) := by
  induction n with
  | zero => exact fun _ => rfl
  | succ n ih =>
    intro a
    rw [List.range_succ_eq_map, List.map_cons, List.map_map, readBytes, ih]
    simp only [Function.comp_def, Nat.add_zero, Nat.succ_eq_add_one, Nat.add_assoc, Nat.add_comm 1]

theorem ofNat_bitsAt (w lo n : Nat) : BitVec.ofNat n (bitsAt w lo n) = BitVec.ofNat n (w / 2 ^ lo) := by
  unfold bitsAt
  rw [Nat.shiftRight_eq_div_pow]
  exact BitVec.eq_of_toNat_eq (by simp)

/-- Opening a view changes the views alone (08 R203). -/
theorem viewTouch_core (s : State) (core lk : Nat) (ps : List Part) (k : Nat) : (s.viewTouch core lk ps).core k = s.core k := by
  rw [viewTouch_eq]
  rfl

section
variable {s : State} {x : Cmd}

/-- The bytes of the next part of a copy or a fill (09 R240). -/
def Cmd.partBytes (x : Cmd) (dst n : Nat) : List Byte :=
  (List.range n).map (fun i => if x.op = 0xB8 then memRead x.buf (x.prog + i) else BitVec.ofNat 8 (x.words.getD 1 0 / 2 ^ (8 * ((dst + i) % 8))))

/-- A copy or a fill goes on with the part up to the next line boundary of its destination. -/
theorem nextPart_copy_fill {dst n : Nat} (hop : x.op = 0xB8 ∨ x.op = 0xB9) (hdst : dst = (x.words.getD 2 0 + x.prog) % 2 ^ 64) (hn : n = min (x.total - x.prog) (64 - dst % 64)) :
    x.nextPart = (dst, n, x.partBytes dst n) := by
  subst hdst hn
  unfold Cmd.nextPart Cmd.partBytes
  rcases hop with hop | hop
  · simp only [hop, if_true, readBytes_eq_map]
    rfl
  · simp only [hop, ofNat_bitsAt]
    rfl

theorem numberColl_other (hop : x.op ≠ 0xBB) (core : Nat) : s.numberColl core x = (s, x) := by
  unfold State.numberColl
  exact if_neg (fun h => hop h.1)

theorem stageCmd_eq (core : Nat) (ps : List Part) (bs : List Byte) (n : Nat) :
    (s.viewTouch core x.lk ps).stageCmd core x ps bs n = (let round := mgetD (s.core core).pass x.lk 0
      (stagingAll ((s.viewTouch core x.lk ps).touch core ps) (ps.map (fun p =>
        { lk := x.lk, core := core, round := round, key := x.key, seq := 0, space := p.space, addr := p.addr, op := .write ((bs.drop p.off).take p.size), req := 0, osh := p.osh }))).setCmd
          core { x with prog := x.prog + n, hist := (round, x.prog) :: x.hist }) := by
  unfold State.stageCmd stagingAll
  dsimp only
  rw [viewTouch_core, List.foldl_map]
  rfl

/-- A copy that has read its sources, or a fill, stages its next part (09 R240). -/
theorem engine_stages {dst n : Nat} {ps : List Part} (hcmd : s.cmdOf x.id = some (x.core, x)) (hhalt : (s.part (lkPart x.lk)).halted = false) (hfin : x.finished = false)
    (hfar : s.roundFar x.lk x.core x.round = true) (hport : s.portHolds x.core = false) (hold : s.underOld x.core x = false) (hload : x.loaded = true) (hmore : x.prog < x.total)
    (hop : x.op = 0xB8 ∨ x.op = 0xB9) (hdst : dst = (x.words.getD 2 0 + x.prog) % 2 ^ 64) (hn : n = min (x.total - x.prog) (64 - dst % 64))
    (htr : s.translate x.core (lkPart x.lk) x.user false true dst n = .ok ps) (hview : s.viewFull x.lk ps = false) (hroom : s.stageRoom x.core ps = true) :
    exec (.engineWriteStage x.id) s = .next ((s.viewTouch x.core x.lk ps).stageCmd x.core x ps (x.partBytes dst n) n) := by
  have hnot : x.op ≠ 0xBB := by omega
  have hpart : s.cmdPart x.core x dst n = .ok ps := by
    unfold State.cmdPart
    rw [hold]
    exact htr
  have hstage : s.engineStage x.core x = (s.viewTouch x.core x.lk ps).stageCmd x.core x ps (x.partBytes dst n) n := by
    unfold State.engineStage
    simp only [hfin, hfar, hport, numberColl_other hnot, hload, Nat.not_le.mpr hmore, nextPart_copy_fill hop hdst hn, hpart, hview, hroom, Bool.not_true, Bool.or_self,
      Bool.false_eq_true, if_false]
  show execEngineWriteStage x.id s = _
  unfold execEngineWriteStage
  rw [hcmd, ← hstage]
  simp only [hfin, hhalt, hport, Bool.or_self, Bool.false_eq_true, if_false]
  rcases hop with hop | hop <;> rw [hop] <;> rfl

/-- A command whose every byte has committed, and which resolves no future, emits its completion token (09 R241). -/
theorem engine_completes (hcmd : s.cmdOf x.id = some (x.core, x)) (hfin : x.finished = true) (hemit : x.emitted = none) (hport : s.portHolds x.core = false)
    (hdone : s.cmdCommitted x = true) (hfut : dFut x.words = false) :
    exec (.engineCompletion x.id) s = .next (((s.setCmd x.core { x with emitted := some (mgetD (s.core x.core).pass x.lk 0) }).fill x.site x.id s.fc none
      [(0, completionTok x.status x.done)]).wake) := by
  have hres : x.resolves = false := by
    unfold Cmd.resolves
    rw [hfut, Bool.and_false, Bool.false_and]
  show execEngineCompletion x.id s = _
  unfold execEngineCompletion
  rw [hcmd]
  simp only [hfin, hemit, hport, hres, hdone, Option.isSome_none, Bool.not_true, Bool.or_self, Bool.false_and, Bool.false_eq_true, if_false]

end

/-- Settles O34: the next part of a copy or fill, and the completion. -/
theorem engineCommandsRun : Obligations.EngineCommandsRun := by
  unfold Obligations.EngineCommandsRun
  intro s x hcmd hhalt
  refine ⟨fun hfin hfar hport hold hload hmore hop => ?_, fun hfin hemit hport hdone hfut _ _ => engine_completes hcmd hfin hemit hport hdone hfut⟩
  intro dst n bs ps htr hview hroom round
  rw [engine_stages hcmd hhalt hfin hfar hport hold hload hmore hop rfl rfl htr hview hroom, stageCmd_eq]
  rfl

end Sys2Proof.Machine

/-! PROOFS. RSPLIT and RMERGE at their turn (20 R366 R367). -/

namespace Sys2Proof.Machine

section
variable {s : State} {part : Nat} {r : RCmd} {rest : List RCmd}

theorem dirStore_fc (s : State) (part i : Nat) (es : List (List Nat)) (cnt : Nat) : (s.dirStore part i es cnt).fc = s.fc := by
  have hfold (xs : List (List Nat × Nat)) : ∀ t : State, (xs.foldl (fun s (w, j) => dirWrite s (s.part part) (i + j) w) t).fc = t.fc := by
    induction xs with
    | nil => exact fun _ => rfl
    | cons x xs ih =>
      intro t
      rw [List.foldl_cons, ih]
      rfl
  exact hfold es.zipIdx s

/-- The oldest command of a partition opens. -/
theorem exec_rangeOpens (hlist : (s.part part).rcmds = r :: rest) (hhalt : (s.part part).halted = false) (hphase : r.phase = 0) (hop : r.cmd.op = 0xBC ∨ r.cmd.op = 0xBD) :
    exec (.rangeCommandComplete part) s = .next (s.rangePhase part r 2 true) := by
  show execRangeCommandComplete part s = _
  unfold execRangeCommandComplete
  simp only [hlist, hhalt, hphase, Bool.false_eq_true, if_false]
  exact congrArg _ (if_pos hop)

/-- The oldest command of a partition has its turn. -/
theorem exec_rangeTurn (hlist : (s.part part).rcmds = r :: rest) (hhalt : (s.part part).halted = false) (hphase : r.phase = 2) :
    exec (.rangeCommandComplete part) s = .next (if r.cmd.op = 0xBC then s.doSplit part r else s.doMerge part r) := by
  show execRangeCommandComplete part s = _
  unfold execRangeCommandComplete
  simp only [hlist, hhalt, hphase, Bool.false_eq_true, if_false]

theorem doSplit_eq {i : Nat} (halign : r.base % 64 = 0) (hfind : (dirEntries s (s.part part)).findIdx? (fun w => decide (entBase w < r.base ∧ r.base < entLimit w)) = some i)
    (hroom : (s.part part).rdirCnt ≠ (s.part part).rdirCap) :
    s.doSplit part r = (s.dirStore part i (splitEntries ((dirEntries s (s.part part)).getD i []) r.base ++ (dirEntries s (s.part part)).drop (i + 1)) ((s.part part).rdirCnt + 1)).rangeDone part r 0 1 := by
  unfold State.doSplit
  simp only [halign, hfind, hroom, ne_eq, not_true_eq_false, if_false]

/-- Two entries that meet at l with windows that are not empty, and agree, become one. -/
theorem doMerge_eq {i : Nat} {a b : List Nat} (halign : r.base % 64 = 0) (hlow : (dirEntries s (s.part part)).findIdx? (fun w => entLimit w == r.base) = some i)
    (hhigh : (dirEntries s (s.part part)).findIdx? (fun w => entBase w == r.base) = some (i + 1)) (ha : (dirEntries s (s.part part)).getD i [] = a)
    (hb : (dirEntries s (s.part part)).getD (i + 1) [] = b) (hoff : entOffset a = entOffset b) (hattr : entAttr a = entAttr b) (hrhi : entRhi a = r.base) (hrlo : entRlo b = r.base)
    (hfullA : entRlo a ≠ entRhi a) (hfullB : entRlo b ≠ entRhi b) :
    s.doMerge part r = (s.dirStore part i (((a.set 1 (entLimit b)).set 3 (entRlo a)).set 4 (entRhi b) :: (dirEntries s (s.part part)).drop (i + 2)) ((s.part part).rdirCnt - 1)).rangeDone part r 0 1 := by
  have hwindows : (!(entRhi a == r.base && entRlo b == r.base)) = false := by
    rw [hrhi, hrlo, beq_self_eq_true]
    rfl
  unfold State.doMerge
  simp only [halign, hlow, hhigh, ha, hb, hoff, hattr, hwindows, beq_false_of_ne hfullA, beq_false_of_ne hfullB, ne_eq, not_true_eq_false, if_false, Bool.and_false, Bool.false_eq_true, or_self,
    Bool.not_false, Bool.and_self, if_true]

theorem misaligned (halign : r.base % 64 ≠ 0) : s.doSplit part r = s.rangeDone part r fRange 2 ∧ s.doMerge part r = s.rangeDone part r fRange 2 :=
  ⟨if_pos halign, if_pos halign⟩

end

/-- Settles O35: the three steps of a split or merge, by what doSplit and doMerge leave. -/
theorem rangeCommandsRun : Obligations.RangeCommandsRun := by
  unfold Obligations.RangeCommandsRun
  intro s part r rest hlist hhalt es done
  have hdone (i : Nat) (xs : List (List Nat)) (cnt status n : Nat) : (s.dirStore part i xs cnt).rangeDone part r status n = done (s.dirStore part i xs cnt) status n := by
    unfold State.rangeDone
    rw [dirStore_fc]
    rfl
  have hturn := exec_rangeTurn hlist hhalt
  refine ⟨exec_rangeOpens hlist hhalt, fun hphase hop halign => ?_, fun hphase hop halign i w hfind hw hroom => ?_, fun hphase hop halign i a b hlow hhigh ha hb hoff hattr hrhi hrlo hfullA hfullB => ?_⟩
  · obtain ⟨hsplit, hmerge⟩ := misaligned (s := s) (part := part) halign
    rw [hturn hphase, hsplit, hmerge, ite_self]
    rfl
  · subst hw
    rw [hturn hphase, if_pos hop, doSplit_eq halign hfind hroom, hdone]
    rfl
  · rw [hturn hphase, if_neg (by omega), doMerge_eq halign hlow hhigh ha hb hoff hattr hrhi hrlo hfullA hfullB, hdone]

end Sys2Proof.Machine

/-! PROOFS. The reserving loop engine: RLOOP, RSV, RSV.done and RCHK (10 R245-R249). -/

namespace Sys2Proof.Machine

/-! ### What a firing that has been taken leaves of translation -/

section
variable {s u : State} {take nums : Slots}

/-- A walk reads device memory, the place of the directory and its count. -/
theorem walkResult_same {p q : Partition} (hmem : u.mem = s.mem) (hbase : q.rdirBase = p.rdirBase) (hcnt : q.rdirCnt = p.rdirCnt) (a : Nat) : walkResult u q a = walkResult s p a := by
  have hentry (i : Nat) : dirEntry u q i = dirEntry s p i := by
    unfold dirEntry
    rw [hmem, hbase]
  have hsearch (n : Nat) : ∀ lo hi, walkSearch u q a n lo hi = walkSearch s p a n lo hi := by
    induction n with
    | zero => exact fun _ _ => rfl
    | succ n ih =>
      intro lo hi
      simp only [walkSearch, hentry, ih]
  unfold walkResult
  simp only [hcnt, hentry, hsearch]

theorem taken_part (hu : Taken s take nums u) (n : Nat) : u.part n = { s.part n with launches := (u.part n).launches, handler := (u.part n).handler } := hu.frame.parts n

theorem taken_core (hu : Taken s take nums u) (n : Nat) : u.core n = s.core n := by
  unfold State.core
  rw [hu.cores]

theorem taken_backing (hu : Taken s take nums u) (part : Nat) (w : List Nat) (a n off : Nat) (rd wr : Bool) : backing u part w a n off rd wr = backing s part w a n off rd wr := by
  have hpart := taken_part hu part
  have hhub : u.hub = s.hub := by rw [hu.frame.rest]
  unfold backing inWindow inShare
  rw [hpart, hhub]

theorem taken_physAt (hu : Taken s take nums u) (core part a n : Nat) : u.physAt core part a n = s.physAt core part a n := by
  have hpart := taken_part hu part
  have hwalk : walkResult u (u.part part) a = walkResult s (s.part part) a :=
    walkResult_same (by rw [hu.frame.rest]) (by rw [hpart]) (by rw [hpart]) a
  unfold State.physAt
  simp only [taken_core hu, hwalk, taken_backing hu]

theorem taken_latencyOf (hu : Taken s take nums u) (core tile : Nat) (ps : List Part) : u.latencyOf core tile ps = s.latencyOf core tile ps := by
  obtain ⟨banks, parts, rfl⟩ := hu.shape
  rfl

end

/-! ### Firings of the word -/

section
variable {s : State} {o : OpA} {l : Token}

/-- A firing that touches no memory: its words are right, and it waits for nothing. -/
theorem wordFire_does {need : Slots} {fmt : Firing → Bool} {bad : State → Firing → Option (Nat × Nat)} {stall : State → Firing → Bool} {act : State → Firing → State} {eff : State → State}
    (h : s.Accesses o.fl need) (hfmt : fmt (s.accessFiring need) = true) (hbad : bad s (s.accessFiring need) = none) (hstall : stall s (s.accessFiring need) = false)
    (he : ∀ u, Taken s (s.accessNeed need) { l := true, r := true } u → act u (s.accessFiring need) = eff u) :
    Does s (.next (s.accessFire (wordFire o need fmt bad stall act))) (s.accessNeed need) eff := by
  refine tile_does s (wordFire o need fmt bad stall act) [] eff h rfl (if_pos hfmt) ?_ rfl rfl (if_neg (fun hs => Bool.false_ne_true (hstall.symm.trans hs))) he
  unfold wordFire
  dsimp only
  rw [hbad]

theorem loopOf_same {s u : State} {f : Firing} (hcore : (u.core f.e.core).loops = (s.core f.e.core).loops) (w : Nat) : u.loopOf f w = s.loopOf f w := by
  unfold State.loopOf
  rw [hcore]

theorem taken_loopOf {u : State} {take nums : Slots} (hu : Taken s take nums u) (f : Firing) (w : Nat) : u.loopOf f w = s.loopOf f w :=
  loopOf_same (by rw [taken_core hu]) w

theorem taken_cellHome {u : State} {take nums : Slots} (hu : Taken s take nums u) (core : Nat) (x : Loop) (a : Nat) : u.cellHome core x a = s.cellHome core x a := by
  unfold State.cellHome
  rw [taken_physAt hu]

/-- The two order tokens of a firing that writes nothing. -/
theorem orderSame_emitting {need : Slots} {v : State} (hfc : v.fc = s.fc) : v.orderSame (s.accessFiring need) = s.emitting v 1 (fork (orderTok (s.accessFiring need).chain)) :=
  result_emitting s v _ (isFiring_access s need) hfc 1 _

end

/-! ### RLOOP -/

section
variable {s : State} {o : OpA} {l : Token}

/-- The fill of a loop's cells, line by line. -/
def State.cellsFilled (s : State) (need : Slots) (cells : Nat) (p : Part) (u : State) : State :=
  stagingAll u ((linesOf (cells + 1) p.addr (4 * cells)).map (fun y => (s.accessFiring need).arrival { p with addr := y.1, size := y.2 } (.write (List.replicate y.2 0xFF)) 0))

theorem rloop_does {i : Nat} {p : Part} {x : Loop} (hready : s.effReady s.firing = true) (h : s.Accesses o.fl needL) (hl : (s.operands (s.accessNeed needL)).l = some l)
    (hvec : isVec64 l = true) (hbad : rloopBad s (s.accessFiring needL) = none) (hx : x = loopOfDesc l.words (s.accessFiring needL))
    (hcells : s.cellsOk s.cur.core s.firing.part x ≠ .wait) (hfut : s.futureOk s.cur.core s.firing.part x.user x.fut x.faddr ≠ .wait)
    (hslot : s.freeLoop s.cur.core s.firing.b.origin = some i) (hhome : s.cellHome s.cur.core x x.cellbase = some p) :
    Does s (exec (.rloop o) s) (s.accessNeed needL) (fun u =>
      s.emitting1 (s.emitting ((s.cellsFilled needL x.cellcnt p u).setLoop s.cur.core (loopKey s.firing.b.origin i) x) 1 [(0, z64Tok (ticketWord s.firing.b.origin i (2 ^ 32 - 1)))])
        1 [(1, orderTok (s.accessFiring needL).writeChain.next)]) := by
  have hL : (s.accessFiring needL).ops.l = some l := hl
  have hf := isFiring_access s needL
  show Does s (execRloop o s) _ _
  unfold execRloop
  rw [if_neg (by rw [hready]; exact Bool.false_ne_true)]
  refine wordFire_does h (by rw [hL]; exact hvec) hbad ?_ (fun u hu => ?_)
  · dsimp only
    rw [hL, Option.getD_some, ← hx]
    show (s.cellsOk s.cur.core s.firing.part x == .wait || s.futureOk s.cur.core s.firing.part x.user x.fut x.faddr == .wait || (s.freeLoop s.cur.core s.firing.b.origin).isNone) = false
    rw [beq_false_of_ne hcells, beq_false_of_ne hfut, hslot]
    rfl
  · have hfree : u.freeLoop s.cur.core s.firing.b.origin = some i := by
      unfold State.freeLoop
      rw [taken_core hu]
      exact hslot
    have hfc : ((s.cellsFilled needL x.cellcnt p u).setLoop s.cur.core (loopKey s.firing.b.origin i) x).fc = s.fc := (stagingAll_fc u _).trans hu.fc
    dsimp only
    rw [hL, Option.getD_some, ← hx]
    rw [show u.freeLoop (s.accessFiring needL).e.core (s.accessFiring needL).b.origin = some i from hfree,
      show u.cellHome (s.accessFiring needL).e.core x x.cellbase = some p from (taken_cellHome hu _ _ _).trans hhome]
    have hresult := result_emitting s _ _ hf hfc 1 [(0, z64Tok (ticketWord s.firing.b.origin i (2 ^ 32 - 1)))]
    have hsecond := result_emitting1 s (s.emitting ((s.cellsFilled needL x.cellcnt p u).setLoop s.cur.core (loopKey s.firing.b.origin i) x) 1
      [(0, z64Tok (ticketWord s.firing.b.origin i (2 ^ 32 - 1)))]) _ hf hfc 1 [(1, orderTok (s.accessFiring needL).writeChain.next)]
    rw [← hsecond, ← hresult]
    unfold State.cellsFilled stagingAll State.orderSecond
    rw [List.foldl_map]
    rfl

end

/-! ### Cells and tickets -/

section
variable {s : State} {o : OpA} {l r : Token} {k : Nat} {lp : Loop}

/-- A TICKET of the window, in the phase it is for (10 R246 R248 R249). -/
theorem ticketBad_false {f : Firing} {phase w : Nat} (hloop : s.loopOf f w = some (k, lp)) (hphase : lp.phase = phase) (hwin : lp.win.contains (w % 2 ^ 32) = true) :
    ticketBad s f w phase = false := by
  unfold ticketBad
  rw [hloop]
  show (lp.phase != phase || !lp.win.contains (w % 2 ^ 32)) = false
  rw [hwin, hphase, bne_self_eq_false]
  rfl

/-- An aligned cell of the loop's range (10 R248). -/
theorem cellBad_false {f : Firing} {mt : Bool} {a w : Nat} (hloop : s.loopOf f w = some (k, lp)) (hmt : lp.mt = mt) (halign : a % 4 = 0) (hlo : lp.cellbase ≤ a)
    (hhi : a < lp.cellbase + 4 * lp.cellcnt) : cellBad s f mt a w = false := by
  unfold cellBad
  rw [hloop]
  simp [hmt, halign, hlo, hhi]

theorem touched_loops (s : State) (ps : List Part) (n : Nat) : ((s.touched ps).core n).loops = (s.core n).loops := by
  unfold State.touched
  rw [viewTouch_core]
  unfold State.touch
  by_cases h : n = s.cur.core
  · rw [h, State.core_setCore_same]
  · rw [State.core_setCore_other _ _ _ _ h]

/-- An operation that leaves a state with the firing's fc and identity goes out with its order token. -/
theorem issueSilent_of {t v : State} {f : Firing} (hf : IsFiring t f) (hfc : v.fc = t.fc) (hnid : v.nid = t.nid) (ps : List Part) (op : HomeOp) :
    v.issueSilent f ps op = t.emitting (t.wordSent f ps op f.writeChain.next v) 1 (fork (orderTok f.writeChain.next)) := by
  unfold State.issueSilent
  simp only [State.fresh]
  rw [hnid]
  exact result_emitting t (t.wordSent f ps op f.writeChain.next v) f hf ((sendOp_fc _ f ps op _ _).trans hfc) 1 _

/-- A cell of four bytes, in a memory tile or in device memory, is where the operation goes (10 R248). -/
def CellGoesOut (s : State) (f : Firing) (l : Token) (wr tile : Bool) (ps : List Part) (t : State) : Prop :=
  tile = true ∧ t = s ∧ tilePlace s f 0 4 = .tile ps ∨ tile = false ∧ t = s.touched ps ∧ s.Translated true wr [(l.word, 4, 0)] ps

theorem CellGoesOut.place {f : Firing} {wr tile : Bool} {ps : List Part} {t : State} (h : CellGoesOut s f l wr tile ps t) (hl : f.ops.l = some l) (halign : l.word % 4 = 0) {p : Place}
    (hp : p = wordPlace tile 4 s f) : (t = s ∧ p = .tile ps) ∨ (∃ as, t = s.touched ps ∧ p = .global as ∧ s.Translated true wr as ps) := by
  rw [hp, wordPlace_aligned tile hl halign]
  rcases h with ⟨rfl, rfl, htile⟩ | ⟨rfl, rfl, htr⟩
  · exact Or.inl ⟨rfl, htile⟩
  · exact Or.inr ⟨_, rfl, rfl, htr⟩

/-- What a reservation and a check share: the words, and the cell. -/
structure CellFiring (s : State) (o : OpA) (l r : Token) (k : Nat) (lp : Loop) : Prop where
  ready : s.effReady s.firing = true
  acc : s.Accesses o.fl needLR
  left : (s.accessFiring needLR).ops.l = some l
  right : (s.accessFiring needLR).ops.r = some r
  addrL : isAddr l = true
  addrR : isAddr r = true
  loop : s.loopOf (s.accessFiring needLR) r.word = some (k, lp)
  window : lp.win.contains (r.word % 2 ^ 32) = true
  align : l.word % 4 = 0
  low : lp.cellbase ≤ l.word
  high : l.word < lp.cellbase + 4 * lp.cellcnt
  space : lp.mt = o.bit 0

theorem CellFiring.words (h : CellFiring s o l r k lp) : (s.accessFiring needLR).lw = l.word ∧ (s.accessFiring needLR).rw' = r.word := by
  unfold Firing.lw Firing.rw'
  rw [h.left, h.right]
  exact ⟨rfl, rfl⟩

theorem CellFiring.format (h : CellFiring s o l r k lp) :
    (if (s.accessFiring needLR).ops.l.all isAddr && (s.accessFiring needLR).ops.r.all isAddr then none else some (fFormat, 0)) = (none : Option (Nat × Nat)) := by
  rw [h.left, h.right, Option.all_some, Option.all_some, h.addrL, h.addrR]
  rfl

theorem CellGoesOut.same {f : Firing} {wr tile : Bool} {ps : List Part} {t : State} (h : CellGoesOut s f l wr tile ps t) : SameFiring s t := by
  rcases h with ⟨-, rfl, -⟩ | ⟨-, rfl, -⟩
  · exact ⟨rfl, fun _ => rfl, rfl⟩
  · exact ⟨touched_firing s ps, touched_accessFiring s ps, touched_nid s ps⟩

/-- The place of a cell that its TICKET admits is that of the word. -/
theorem CellFiring.place {phase : Nat} {full : Bool} (h : CellFiring s o l r k lp) (hphase : lp.phase = phase) (hroom : full = false) :
    (if ticketBad s (s.accessFiring needLR) (s.accessFiring needLR).rw' phase || full then .err fLoop 0
      else if cellBad s (s.accessFiring needLR) (o.bit 0) (s.accessFiring needLR).lw (s.accessFiring needLR).rw' then .err fLoop (s.accessFiring needLR).lw
      else wordPlace (o.bit 0) 4 s (s.accessFiring needLR)) = wordPlace (o.bit 0) 4 s (s.accessFiring needLR) := by
  obtain ⟨hlw, hrw⟩ := h.words
  rw [hlw, hrw, ticketBad_false h.loop hphase h.window, cellBad_false h.loop h.space h.align h.low h.high, hroom]
  rfl

theorem rsv_does {t : State} {ps : List Part} (h : CellFiring s o l r k lp) (hphase : lp.phase = 1) (hroom : lp.log.length < 65536)
    (hgo : CellGoesOut s (s.accessFiring needLR) l true (o.bit 0) ps t) (hfree : t.chainBusy s.firing.lk (s.accessFiring needLR).writeChain ps = false)
    (hloop : t.loopOf (s.accessFiring needLR) r.word = some (k, lp)) :
    Does t (exec (.rsv o) s) (s.accessNeed needLR) (fun u => t.emitting
      (t.wordSent (s.accessFiring needLR) ps (.rsv (r.word % 2 ^ 32)) (s.accessFiring needLR).writeChain.next (u.setLoop s.cur.core k { lp with log := lp.log ++ [(l.word, r.word % 2 ^ 32)] }))
      1 (fork (orderTok (s.accessFiring needLR).writeChain.next))) := by
  obtain ⟨hlw, hrw⟩ := h.words
  have hsame := hgo.same
  show Does t (execRsv o s) _ _
  unfold execRsv
  rw [if_neg (by rw [h.ready]; exact Bool.false_ne_true)]
  refine access_does h.acc ⟨hgo.place h.left h.align (h.place hphase ?_)⟩ rfl h.format rfl rfl (opStall_free hsame (by rw [hsame.firing]; exact hfree)) (fun u hu => ?_)
  · rw [hrw, h.loop]
    exact decide_eq_false (Nat.not_le.mpr hroom)
  · dsimp only
    rw [hrw, hlw, taken_loopOf hu, hloop]
    exact issueSilent_of (v := u.setLoop s.cur.core k _) (hsame.isFiring needLR) hu.fc hu.nid ps _

theorem rchk_does {t : State} {ps : List Part} (h : CellFiring s o l r k lp) (hphase : lp.phase = 2) (hgo : CellGoesOut s (s.accessFiring needLR) l false (o.bit 0) ps t) :
    Does t (exec (.rchk o) s) (s.accessNeed needLR) (fun u => (t.emitting1 (t.emitting u (t.latencyOf s.cur.core (siteTile s.firing) ps) [(0, predTok (lp.cell l.word == r.word % 2 ^ 32))]) 1
      [(1, orderTok (s.accessFiring needLR).chain)]).tickUp) := by
  obtain ⟨hlw, hrw⟩ := h.words
  have hsame := hgo.same
  have hloop : t.loopOf (s.accessFiring needLR) r.word = some (k, lp) := by
    rcases hgo with ⟨-, rfl, -⟩ | ⟨-, rfl, -⟩
    · exact h.loop
    · rw [loopOf_same (touched_loops s ps _), h.loop]
  show Does t (execRchk o s) _ _
  unfold execRchk
  rw [if_neg (by rw [h.ready]; exact Bool.false_ne_true)]
  refine access_does h.acc ⟨hgo.place h.left h.align ?_⟩ rfl h.format rfl rfl rfl (fun u hu => ?_)
  · exact (ite_congr (by rw [Bool.or_false]) (fun _ => rfl) (fun _ => rfl)).trans (h.place (full := false) hphase rfl)
  · dsimp only
    rw [hrw, hlw, taken_loopOf hu, hloop, taken_latencyOf hu]
    exact congrArg State.tickUp ((congrArg (fun v : State => v.result (s.accessFiring needLR) true 1 [(1, orderTok (s.accessFiring needLR).chain)])
      (result_emitting t u _ (hsame.isFiring needLR) hu.fc _ _)).trans (result_emitting1 t (t.emitting u _ _) _ (hsame.isFiring needLR) hu.fc 1 _))

/-- A report of the reserve phase, with its note (10 R248). -/
def Loop.noted (lp : Loop) (off note : Nat) : Loop := { lp with notes := mset lp.notes off note, reports := mset lp.reports off true }

theorem rsvDone_does (hready : s.effReady s.firing = true) (h : s.Accesses o.fl needLR) (hl : (s.operands (s.accessNeed needLR)).l = some l) (hr : (s.operands (s.accessNeed needLR)).r = some r)
    (haddrL : isAddr l = true) (haddrR : isAddr r = true) (hloop : s.loopOf (s.accessFiring needLR) l.word = some (k, lp)) (hphase : lp.phase = 1)
    (hwin : lp.win.contains (l.word % 2 ^ 32) = true) (hfirst : mget lp.reports (l.word % 2 ^ 32) = none) :
    Does s (exec (.rsvDone o) s) (s.accessNeed needLR) (fun u =>
      let y := lp.noted (l.word % 2 ^ 32) r.word
      let v := s.emitting (u.setLoop s.cur.core k y) 1 (fork (orderTok (s.accessFiring needLR).chain))
      if y.win.all (fun i => (mget y.reports i).isSome) then v.requestMarker s.firing.lk s.cur.core else v) := by
  have hL : (s.accessFiring needLR).ops.l = some l := hl
  have hR : (s.accessFiring needLR).ops.r = some r := hr
  have hlw : (s.accessFiring needLR).lw = l.word := by unfold Firing.lw; rw [hL]; rfl
  have hrw : (s.accessFiring needLR).rw' = r.word := by unfold Firing.rw'; rw [hR]; rfl
  show Does s (execRsvDone o s) _ _
  unfold execRsvDone
  dsimp only
  rw [if_neg (by rw [hready]; exact Bool.false_ne_true)]
  refine wordFire_does h (by rw [hL, hR, Option.all_some, Option.all_some, haddrL, haddrR]; rfl) ?_ rfl (fun u hu => ?_)
  · refine if_neg ?_
    rw [hlw, ticketBad_false hloop hphase hwin, hloop]
    show ¬ (false || (mget lp.reports (l.word % 2 ^ 32)).isSome) = true
    rw [hfirst]
    exact Bool.false_ne_true
  · rw [hlw, hrw, taken_loopOf hu, hloop]
    have hfc : (u.setLoop s.cur.core k (lp.noted (l.word % 2 ^ 32) r.word)).fc = s.fc := hu.fc
    dsimp only
    rw [← orderSame_emitting hfc]
    rfl

end

/-- Settles O36: RLOOP by the fill of its cells, RSV and RCHK by the cell that they share, RSV.done by its report. -/
theorem loopsReserve : Obligations.LoopsReserve := by
  unfold Obligations.LoopsReserve
  intro s o l hready core
  refine ⟨fun i p h hl hvec hbad => ?_, fun r k lp h hl hr haddrL haddrR => ?_⟩
  · intro x hcells hfut hslot hhome
    exact rloop_does hready h hl hvec hbad rfl hcells hfut hslot hhome
  · intro f off
    refine ⟨fun hloop hwin halign hlow hhigh hmt => ?_, fun hloop hphase hwin hfirst => rsvDone_does hready h hl hr haddrL haddrR hloop hphase hwin hfirst⟩
    have hcell : CellFiring s o l r k lp := ⟨hready, h, hl, hr, haddrL, haddrR, hloop, hwin, halign, hlow, hhigh, hmt⟩
    refine ⟨fun hphase hroom t ps hgo hfree hat => ?_, fun hphase t ps hgo => ⟨_, rchk_does hcell hphase hgo⟩⟩
    have hnid : t.nid = s.nid := CellGoesOut.same hgo |>.nid
    rw [← hnid]
    exact rsv_does hcell hphase hroom hgo hfree hat

end Sys2Proof.Machine

/-! PROOFS. The reserving loop engine: reports of the commit phase, and the closes of both phases (10 R247 R249 R250). -/

namespace Sys2Proof.Machine

section
variable {s : State} {o : OpA} {l : Token} {k : Nat} {lp : Loop}

theorem firing_lw {need : Slots} (hl : (s.operands (s.accessNeed need)).l = some l) : (s.accessFiring need).lw = l.word := by
  unfold Firing.lw
  rw [show (s.accessFiring need).ops.l = some l from hl]
  rfl

/-- A report of the commit phase (10 R249). -/
theorem report_does {commit : Bool} (hready : s.effReady s.firing = true) (h : s.Accesses o.fl needL) (hl : (s.operands (s.accessNeed needL)).l = some l) (haddr : isAddr l = true)
    (hloop : s.loopOf (s.accessFiring needL) l.word = some (k, lp)) (hphase : lp.phase = 2) (hwin : lp.win.contains (l.word % 2 ^ 32) = true)
    (hfirst : mget lp.reports (l.word % 2 ^ 32) = none) (hholds : commit = true → lp.holds.contains (l.word % 2 ^ 32) = true) :
    Does s (.next (s.reportFire o commit)) (s.accessNeed needL) (fun u =>
      s.emitting (u.setLoop s.cur.core k { lp with reports := mset lp.reports (l.word % 2 ^ 32) commit }) 1 (fork (orderTok (s.accessFiring needL).chain))) := by
  have hlw := firing_lw hl
  unfold State.reportFire
  dsimp only
  rw [if_neg (by rw [hready]; exact Bool.false_ne_true)]
  refine wordFire_does h (by rw [show (s.accessFiring needL).ops.l = some l from hl]; exact haddr) ?_ rfl (fun u hu => ?_)
  · refine if_neg ?_
    rw [hlw, ticketBad_false hloop hphase hwin, hloop]
    show ¬ (false || ((mget lp.reports (l.word % 2 ^ 32)).isSome || (commit && !lp.holds.contains (l.word % 2 ^ 32)))) = true
    rw [hfirst]
    cases commit with
    | false => exact Bool.false_ne_true
    | true =>
      rw [hholds rfl]
      exact Bool.false_ne_true
  · rw [hlw, taken_loopOf hu, hloop]
    dsimp only
    rw [← orderSame_emitting (s := s) (need := needL) (v := u.setLoop s.cur.core k _) hu.fc]
    rfl

theorem rldone_does (hready : s.effReady s.firing = true) (h : s.Accesses o.fl needL) (hl : (s.operands (s.accessNeed needL)).l = some l) (haddr : isAddr l = true)
    (hloop : s.loopOf (s.accessFiring needL) l.word = some (k, lp)) (hhandle : l.word % 2 ^ 32 = 2 ^ 32 - 1) (hnone : lp.rldone = none) (hrun : lp.phase ≠ 3) :
    Does s (exec (.rldone o) s) (s.accessNeed needL) (fun u =>
      s.emitting1 (s.awaiting ({ u with nid := s.nid + 1 }.setLoop s.cur.core k { lp with rldone := some (s.cur, s.nid) }) false s.nid) 1 [(1, orderTok (s.accessFiring needL).chain)]) := by
  have hlw := firing_lw hl
  have hf := isFiring_access s needL
  show Does s (execRldone o s) _ _
  unfold execRldone
  rw [if_neg (by rw [hready]; exact Bool.false_ne_true)]
  refine wordFire_does h (by rw [show (s.accessFiring needL).ops.l = some l from hl]; exact haddr) ?_ rfl (fun u hu => ?_)
  · rw [hlw, hloop]
    show (if lp.rldone.isSome || l.word % 2 ^ 32 != 2 ^ 32 - 1 then some (fLoop, 0) else none) = none
    rw [hnone, hhandle]
    rfl
  · rw [hlw, taken_loopOf hu, hloop]
    dsimp only [State.fresh]
    rw [if_neg hrun, hu.nid]
    have hfc : (({ u with nid := s.nid + 1 } : State).setLoop s.cur.core k { lp with rldone := some (s.cur, s.nid) }).fc = s.fc := hu.fc
    have hawait := await_awaiting s _ _ hf hfc false s.nid
    have hsecond := result_emitting1 s (s.awaiting (({ u with nid := s.nid + 1 } : State).setLoop s.cur.core k { lp with rldone := some (s.cur, s.nid) }) false s.nid) _ hf hfc 1
      [(1, orderTok (s.accessFiring needL).chain)]
    rw [← hsecond, ← hawait]
    rfl

end

/-! ### The closes -/

theorem mem_insertBy {α : Type} (before : α → α → Bool) (x y : α) (xs : List α) : y ∈ insertBy before x xs ↔ y = x ∨ y ∈ xs := by
  induction xs with
  | nil => simp [insertBy]
  | cons z xs ih =>
    unfold insertBy
    split
    · rw [List.mem_cons, ih, List.mem_cons]
      exact or_left_comm
    · simp

theorem mem_sortBy {α : Type} (before : α → α → Bool) (y : α) (xs : List α) : y ∈ sortBy before xs ↔ y ∈ xs := by
  induction xs with
  | nil => rfl
  | cons x xs ih =>
    show y ∈ insertBy before x (sortBy before xs) ↔ _
    rw [mem_insertBy, ih, List.mem_cons]

section
variable {s : State} {core k : Nat} {lp : Loop}

theorem exec_reserveClose (hloop : mget (s.core core).loops k = some lp) (hdue : s.closeDue core k 1 = true) :
    exec (.reservePhaseClose core k) s = .next (s.setLoop core k { { lp with cells := s.cellsNow core lp } with
      phase := 2, openAt := s.effOf lp.lk core + 1, reports := []
      holds := lp.win.filter (fun i => (lp.log.filter (fun y => y.2 == i)).all (fun y => ({ lp with cells := s.cellsNow core lp } : Loop).cell y.1 == i)) }) := by
  show execReservePhaseClose core k s = _
  unfold execReservePhaseClose
  rw [hloop]
  dsimp only
  rw [hdue]
  rfl

/-- Every logged cell is free again (10 R249). -/
def State.cellsFreed (s : State) (core : Nat) (lp : Loop) : State :=
  lp.log.foldl (fun t y => match t.cellHome core lp y.1 with
    | some p => t.freeCell lp.lk (s.effOf lp.lk core) p
    | none => t) s

/-- The iterations that asked for another window (10 R249). -/
def Loop.retried (lp : Loop) : List Nat := (lp.reports.filter (fun r => !r.2)).map Prod.fst

/-- One more window has been closed. -/
def Loop.counted (lp : Loop) : Loop := { lp with windows := lp.windows + 1 }

theorem exec_commitClose (hloop : mget (s.core core).loops k = some lp) (hdue : s.closeDue core k 2 = true) :
    exec (.commitPhaseClose core k) s = (if lp.retried = [] ∧ lp.hi - lp.lo ≤ lp.next then
        let v := (s.cellsFreed core lp).setLoop core k { lp.counted with phase := 3, win := [], log := [] }
        .next ((if lp.fut then v.futresNow core lp.lk (s.effOf lp.lk core) lp.key lp.user lp.faddr lp.fval lp.org else v).finishLoop core k (some (s.effOf lp.lk core)))
      else .next ((s.cellsFreed core lp).setLoop core k { lp.counted.refill lp.retried with phase := 1, openAt := s.effOf lp.lk core + 1 })) := by
  show execCommitPhaseClose core k s = _
  unfold execCommitPhaseClose
  rw [hloop]
  dsimp only
  rw [hdue]
  rfl

/-- A loop that nobody awaits yet is not finished. -/
theorem finishLoop_unawaited {y : Loop} (u : State) (after : Option Nat) (h : y.rldone = none) : (u.setLoop core k y).finishLoop core k after = u.setLoop core k y := by
  have hget : mget ((u.setLoop core k y).core core).loops k = some y := by
    unfold State.setLoop
    rw [State.core_setCore_same]
    exact mget_mset_same _ _ _
  unfold State.finishLoop
  rw [hget]
  dsimp only
  rw [h]

end

/-- Settles O37: the reports by their word, and the closes by what each leaves of the loop. -/
theorem loopsCommit : Obligations.LoopsCommit := by
  unfold Obligations.LoopsCommit
  refine ⟨fun s o l k lp hready h hl haddr hloop => ?_, fun s core k lp hloop => ?_⟩
  · intro off reported
    refine ⟨fun hphase hwin hfirst => ⟨fun hholds => ?_, ?_⟩, fun hhandle hnone hrun => rldone_does hready h hl haddr hloop hhandle hnone hrun⟩
    · exact report_does hready h hl haddr hloop hphase hwin hfirst (fun _ => hholds)
    · exact report_does hready h hl haddr hloop hphase hwin hfirst (fun hf => absurd hf Bool.false_ne_true)
  · intro eff kept
    refine ⟨exec_reserveClose hloop, fun hdue => ?_⟩
    intro freed retried
    rw [exec_commitClose hloop hdue]
    refine ⟨fun hmore => ?_, fun hnone hend hfut hunawaited => ?_⟩
    · have hnot : ¬ (lp.retried = [] ∧ lp.hi - lp.lo ≤ lp.next) := fun hend => hmore.elim (fun h => h hend.1) (fun h => absurd hend.2 (Nat.not_le.mpr h))
      exact ⟨_, if_neg hnot, rfl, rfl, rfl, rfl, rfl, rfl, rfl, rfl, _, _, rfl, fun i => mem_sortBy _ i _, rfl, rfl⟩
    · rw [if_pos ⟨hnone, hend⟩]
      dsimp only
      rw [if_neg (by rw [hfut]; exact Bool.false_ne_true)]
      exact congrArg Host.Outcome.next (finishLoop_unawaited (y := { lp.counted with phase := 3, win := [], log := [] }) _ _ hunawaited)

end Sys2Proof.Machine

/-! PROOFS. The boost unit: tasks, their commit, abort and undo, and their status (10 R254-R262). -/

namespace Sys2Proof.Machine

section
variable {s : State} {o : OpA} {l : Token} {k : Nat} {t : Task}

/-- A result that an agent fills later, and the order token of the firing on output 1. -/
theorem await_order {need : Slots} {v : State} (hfc : v.fc = s.fc) (id : Nat) :
    (v.await (s.accessFiring need) false false id).result (s.accessFiring need) true 1 [(1, orderTok (s.accessFiring need).chain)] =
      s.emitting1 (s.awaiting v false id) 1 [(1, orderTok (s.accessFiring need).chain)] := by
  have hf := isFiring_access s need
  rw [await_awaiting s v _ hf hfc]
  exact result_emitting1 s (s.awaiting v false id) _ hf hfc 1 _

/-- A staged effect, and the two order tokens of the firing. -/
theorem stageEff_order {need : Slots} {v : State} (hfc : v.fc = s.fc) (hnid : v.nid = s.nid) (e : EffKind) :
    (v.stageEff (s.accessFiring need) e).orderSame (s.accessFiring need) = s.emitting (s.staging v (s.accessNeed need) e) 1 (fork (orderTok (s.accessFiring need).chain)) := by
  rw [← orderSame_emitting ((staging_fc s v _ e).trans hfc)]
  exact congrArg (fun x : State => x.orderSame (s.accessFiring need)) (stageEff_staging s v (s.accessNeed need) e hnid)

/-! ### BTASK -/

/-- The task that a descriptor describes (10 R254). -/
def State.describedTask (s : State) (l : Token) (i : Nat) : Task :=
  let w (j : Nat) : Nat := l.words.getD j 0
  let f := s.accessFiring needL
  { lk := s.firing.lk, origin := s.firing.b.origin, slot := i, key := f.effKey, seq := s.nid, user := !isPriv s.firing.b, eblk := w 0 % 2 ^ 24, fut := bitAt (w 0) 32, ubase := w 1, ulen := w 2,
    arg := w 3, faddr := w 4, fval := w 5, site := s.cur, flight := s.nid, org := f.origin }

theorem btask_does {i : Nat} (hready : s.effReady s.firing = true) (hl : (s.operands (s.accessNeed needL)).l = some l) (h : s.Accesses o.fl needL) (hvec : isVec64 l = true)
    (hbad : btaskBad s (s.accessFiring needL) = none) (hslot : s.freeTask s.cur.core s.firing.b.origin = some i) (hloads : (s.part s.firing.part).ctloads = [])
    (hundo : s.undoOk s.cur.core s.firing.part (!isPriv s.firing.b) (l.words.getD 1 0) (l.words.getD 2 0) ≠ .wait)
    (hfut : s.futureOk s.cur.core s.firing.part (!isPriv s.firing.b) (bitAt (l.words.getD 0 0) 32) (l.words.getD 4 0) ≠ .wait) :
    Does s (exec (.btask o) s) (s.accessNeed needL) (fun u =>
      s.emitting1 (s.awaiting ({ u with nid := s.nid + 1 }.setTask s.cur.core (taskKey s.firing.b.origin i) (s.describedTask l i)) false s.nid) 1
        [(1, orderTok (s.accessFiring needL).chain)]) := by
  have hL : (s.accessFiring needL).ops.l = some l := hl
  show Does s (execBtask o s) _ _
  unfold execBtask
  rw [if_neg (by rw [hready]; exact Bool.false_ne_true)]
  refine wordFire_does h (by rw [hL]; exact hvec) hbad ?_ (fun u hu => ?_)
  · dsimp only
    rw [hL, Option.getD_some]
    show (s.undoOk s.cur.core s.firing.part (!isPriv s.firing.b) (l.words.getD 1 0) (l.words.getD 2 0) == .wait ||
      s.futureOk s.cur.core s.firing.part (!isPriv s.firing.b) (bitAt (l.words.getD 0 0) 32) (l.words.getD 4 0) == .wait || (s.freeTask s.cur.core s.firing.b.origin).isNone ||
      !(s.part s.firing.part).ctloads.isEmpty) = false
    rw [beq_false_of_ne hundo, beq_false_of_ne hfut, hslot, hloads]
    rfl
  · have hfree : u.freeTask s.cur.core s.firing.b.origin = some i := by
      unfold State.freeTask
      rw [taken_core hu]
      exact hslot
    rw [show u.freeTask (s.accessFiring needL).e.core (s.accessFiring needL).b.origin = some i from hfree]
    dsimp only [State.fresh]
    rw [hL, hu.nid]
    exact await_order (v := ({ u with nid := s.nid + 1 } : State).setTask s.cur.core (taskKey s.firing.b.origin i) (s.describedTask l i)) hu.fc s.nid

/-! ### Firings on a TASK word -/

theorem taken_taskOf {u : State} {take nums : Slots} (hu : Taken s take nums u) (f : Firing) (w : Nat) : u.taskOf f w = s.taskOf f w := by
  unfold State.taskOf
  rw [taken_core hu]

theorem taskFire_does {bad : Task → Bool} {act : State → Firing → Nat → Task → State} {eff : State → State} (hready : s.effReady s.firing = true)
    (hl : (s.operands (s.accessNeed needL)).l = some l) (h : s.Accesses o.fl needL) (haddr : isAddr l = true) (htask : s.taskOf (s.accessFiring needL) l.word = some (k, t))
    (hbad : bad t = false) (he : ∀ u, Taken s (s.accessNeed needL) { l := true, r := true } u → act u (s.accessFiring needL) k t = eff u) :
    Does s (.next (s.taskFire o bad act)) (s.accessNeed needL) eff := by
  have hlw := firing_lw hl
  unfold State.taskFire
  rw [if_neg (by rw [hready]; exact Bool.false_ne_true)]
  refine wordFire_does h (by rw [show (s.accessFiring needL).ops.l = some l from hl]; exact haddr) ?_ rfl (fun u hu => ?_)
  · rw [hlw, htask]
    exact if_neg (by rw [hbad]; exact Bool.false_ne_true)
  · rw [hlw, taken_taskOf hu, htask]
    exact he u hu

/-- The results of BCOMMIT: the pred is awaited, the order token goes out. -/
def State.commitAwaited (s u : State) : State := s.emitting1 (s.awaiting { u with nid := s.nid + 1 } false s.nid) 1 [(1, orderTok (s.accessFiring needL).chain)]

theorem bcommit_does (hready : s.effReady s.firing = true) (hl : (s.operands (s.accessNeed needL)).l = some l) (h : s.Accesses o.fl needL) (haddr : isAddr l = true)
    (htask : s.taskOf (s.accessFiring needL) l.word = some (k, t)) (hstate : t.state = 1 ∨ t.state = 2) :
    Does s (exec (.bcommit o) s) (s.accessNeed needL) (fun u => if t.state = 2 then (s.commitAwaited u).fill s.cur s.nid s.fc (some s.here.fwd) [(0, predTok false)]
      else (s.commitAwaited u).setTask s.cur.core k { t with state := 5, commitFl := some (s.cur, s.nid) }) := by
  refine taskFire_does hready hl h haddr htask ?_ (fun u hu => ?_)
  · rcases hstate with hs | hs <;> rw [hs] <;> rfl
  · dsimp only [State.fresh]
    rw [hu.nid, await_order (v := { u with nid := s.nid + 1 }) hu.fc]
    rw [show (s.emitting1 (s.awaiting { u with nid := s.nid + 1 } false s.nid) 1 [(1, orderTok (s.accessFiring needL).chain)]).fc = s.fc from hu.fc]
    rfl

theorem babort_does (hready : s.effReady s.firing = true) (hl : (s.operands (s.accessNeed needL)).l = some l) (h : s.Accesses o.fl needL) (haddr : isAddr l = true)
    (htask : s.taskOf (s.accessFiring needL) l.word = some (k, t)) (hstate : t.state = 1 ∨ t.state = 2) :
    Does s (exec (.babort o) s) (s.accessNeed needL) (fun u =>
      s.emitting (s.staging u (s.accessNeed needL) (.babort (t.tseq.getD 0) s.cur)) 1 (fork (orderTok (s.accessFiring needL).chain))) := by
  refine taskFire_does hready hl h haddr htask ?_ (fun u hu => stageEff_order hu.fc hu.nid _)
  rcases hstate with hs | hs <;> rw [hs] <;> rfl

theorem bundo_does (hready : s.effReady s.firing = true) (hl : (s.operands (s.accessNeed needL)).l = some l) (h : s.Accesses o.fl needL) (haddr : isAddr l = true)
    (htask : s.taskOf (s.accessFiring needL) l.word = some (k, t)) (hstate : t.state = 3) (hout : t.undoOut = true) :
    Does s (exec (.bundo o) s) (s.accessNeed needL) (fun u =>
      s.emitting (s.staging (u.setTask s.cur.core k { t with undoOut := false }) (s.accessNeed needL) (.bundo (t.tseq.getD 0))) 1 (fork (orderTok (s.accessFiring needL).chain))) := by
  refine taskFire_does hready hl h haddr htask ?_ (fun u hu => ?_)
  · rw [hstate, hout]
    rfl
  · exact stageEff_order (v := u.setTask s.cur.core k { t with undoOut := false }) hu.fc hu.nid _

/-! ### BSTAT and CTQ -/

theorem taken_taskStatus {u : State} {take nums : Slots} (hu : Taken s take nums u) (lk w : Nat) : u.taskStatus lk w = s.taskStatus lk w := by
  have hdone : (u.launch lk).map Launch.tdone = (s.launch lk).map Launch.tdone := by
    have h := congrArg (Option.map Launch.tdone) (taken_launch hu lk)
    simpa only [Option.map_map, Function.comp_def] using h
  have hseq (q : Nat) : u.taskBySeq lk q = s.taskBySeq lk q := by
    unfold State.taskBySeq State.tasksOf
    rw [hu.cores]
  unfold State.taskStatus
  rw [hdone]
  simp only [hseq]

theorem bstat_does {pr : Predicate} (hready : s.effReady s.firing = true) (hr : s.Runs o.fl false needL pr) (hl : (s.operands (withPm o.fl needL)).l = some l) (haddr : isAddr l = true)
    (hword : l.word < 2 ^ 58) : Does s (exec (.bstat o) s) (withPm o.fl needL) (fun u =>
      s.emitting1 (s.emitting u 1 [(0, z64Tok (s.taskStatus s.firing.lk l.word))]) 1 [(1, z64Tok (s.taskStatus s.firing.lk l.word))]) := by
  have hL : (s.firingOn (withPm o.fl needL)).ops.l = some l := hl
  have hlw : (s.firingOn (withPm o.fl needL)).lw = l.word := by unfold Firing.lw; rw [hL]; rfl
  have hf := isFiring_mask s (s.operands (withPm o.fl needL))
  show Does s (execBstat o s) _ _
  unfold execBstat
  rw [if_neg (by rw [hready]; exact Bool.false_ne_true)]
  refine anchor_does s _ pr _ hr ?_ rfl (fun u hu => ?_)
  · show (if !(s.firingOn (withPm o.fl needL)).ops.l.all isAddr then some (fFormat, 0) else if (s.firingOn (withPm o.fl needL)).lw / 2 ^ 58 ≠ 0 then some (fBoost, 0) else none) = none
    rw [hL, hlw, Nat.div_eq_of_lt hword]
    simp [haddr]
  · show ((u.result (s.firingOn (withPm o.fl needL)) false 1 [(0, z64Tok (u.taskStatus s.firing.lk (s.firingOn (withPm o.fl needL)).lw))]).result (s.firingOn (withPm o.fl needL)) true 1
      [(1, z64Tok (u.taskStatus s.firing.lk (s.firingOn (withPm o.fl needL)).lw))]) = _
    rw [hlw, taken_taskStatus hu, result_emitting s u _ hf hu.fc]
    exact result_emitting1 s (s.emitting u 1 [(0, z64Tok (s.taskStatus s.firing.lk l.word))]) _ hf hu.fc 1 _

theorem ctq_does {pr : Predicate} (hr : s.Runs o.fl false needL pr) : Does s (exec (.ctq o) s) (withPm o.fl needL) (fun u =>
    let p := s.part s.firing.part
    let a := o.imm.toNat % 64
    let b := o.imm.toNat / 64 % 64
    s.emitting u 1 (fork (z32 (garnetEntry p a b + (if p.nkind ≤ a ∨ p.nkind ≤ b then 4 else 0))))) := by
  show Does s (execCtq o s) _ _
  refine anchor_does s _ pr _ hr rfl rfl (fun u hu => ?_)
  have hpart := taken_part hu s.firing.part
  dsimp only
  rw [result_emitting s u _ (isFiring_mask s _) hu.fc, show (s.firingOn (withPm o.fl needL)).part = s.firing.part from rfl, hpart]
  rfl

end

/-- Settles O38: one lemma per instruction; the firings on a TASK word share their check. -/
theorem tasksOfTheBoostUnit : Obligations.TasksOfTheBoostUnit := by
  unfold Obligations.TasksOfTheBoostUnit
  intro s o l need hneed hready hl f order
  subst hneed
  refine ⟨fun i h hvec hbad hslot hloads => ?_, fun k t h haddr htask => ⟨fun hstate => ?_, fun hstate => ?_, fun hstate => ?_, fun hstate hout => ?_⟩, fun pr n hn hr hln => ?_⟩
  · intro w hundo hfut
    exact btask_does hready hl h hvec hbad hslot hloads hundo hfut
  · have hdo := bcommit_does hready hl h haddr htask (Or.inl hstate)
    simp only [hstate] at hdo
    exact hdo
  · have hdo := bcommit_does hready hl h haddr htask (Or.inr hstate)
    simp only [hstate] at hdo
    exact hdo
  · exact babort_does hready hl h haddr htask hstate
  · exact bundo_does hready hl h haddr htask hstate hout
  · subst hn
    exact ⟨fun haddr hword => bstat_does hready hr hln haddr hword, ctq_does hr⟩

end Sys2Proof.Machine

/-! PROOFS. BOP, CTLOAD and the table of a host packet (10 R257 R258, 17 R305). -/

namespace Sys2Proof.Machine

/-! ### Translation under a frame -/

/-- Two states translate alike: they differ in what no translation reads. -/
structure Translates (s u : State) : Prop where
  mem : u.mem = s.mem
  cores : u.cores = s.cores
  hub : u.hub = s.hub
  part : ∀ n, ∃ ls h, u.part n = { s.part n with launches := ls, handler := h }

theorem Taken.translates {s u : State} {take nums : Slots} (h : Taken s take nums u) : Translates s u where
  mem := by rw [h.frame.rest]
  cores := h.cores
  hub := by rw [h.frame.rest]
  part := fun n => ⟨_, _, h.frame.parts n⟩

section
variable {s u : State} (h : Translates s u)
include h

theorem Translates.core (n : Nat) : u.core n = s.core n := by
  unfold State.core
  rw [h.cores]

theorem Translates.dirEntry {p q : Partition} (hbase : q.rdirBase = p.rdirBase) (i : Nat) : Machine.dirEntry u q i = Machine.dirEntry s p i := by
  unfold Machine.dirEntry
  rw [h.mem, hbase]

theorem Translates.walkSearch {p q : Partition} (hbase : q.rdirBase = p.rdirBase) (a n : Nat) : ∀ lo hi, Machine.walkSearch u q a n lo hi = Machine.walkSearch s p a n lo hi := by
  induction n with
  | zero => exact fun _ _ => rfl
  | succ n ih =>
    intro lo hi
    simp only [Machine.walkSearch, h.dirEntry hbase, ih]

theorem Translates.heldAt (core part a : Nat) : u.heldAt core part a = s.heldAt core part a := by
  obtain ⟨ls, hd, hpart⟩ := h.part part
  have hbase : (u.part part).rdirBase = (s.part part).rdirBase := by rw [hpart]
  unfold State.heldAt
  simp only [h.core, h.dirEntry hbase, h.walkSearch hbase]
  rw [hpart]

theorem Translates.entryAt (core part a : Nat) : u.entryAt core part a = s.entryAt core part a := by
  obtain ⟨ls, hd, hpart⟩ := h.part part
  have hwalk : walkResult u (u.part part) a = walkResult s (s.part part) a := walkResult_same h.mem (by rw [hpart]) (by rw [hpart]) a
  unfold State.entryAt
  rw [h.core, hwalk, hpart]

theorem Translates.backing (part : Nat) (w : List Nat) (a n off : Nat) (rd wr : Bool) : Machine.backing u part w a n off rd wr = Machine.backing s part w a n off rd wr := by
  obtain ⟨ls, hd, hpart⟩ := h.part part
  unfold Machine.backing inWindow inShare
  rw [hpart, h.hub]

theorem Translates.transPart (core part : Nat) (user rd wr : Bool) (fuel : Nat) :
    ∀ a n off, Machine.transPart u core part user rd wr fuel a n off = Machine.transPart s core part user rd wr fuel a n off := by
  induction fuel with
  | zero => exact fun _ _ _ => rfl
  | succ fuel ih =>
    intro a n off
    simp only [Machine.transPart, h.heldAt, h.entryAt, h.core, h.backing, ih]

theorem Translates.translate (core part : Nat) (user rd wr : Bool) (a n : Nat) : u.translate core part user rd wr a n = s.translate core part user rd wr a n := by
  unfold State.translate
  simp only [h.transPart]

end

/-! ### BOP -/

/-- The translation of a BOP's undo record, as the model asks for it. -/
def State.undoPlace (s : State) (f : Firing) : Trans :=
  match s.taskOf f (bopLane f 0) with
  | some (_, t) => if t.state = 1 then s.translate f.e.core f.part (!isPriv f.b) false true (t.ubase + 32 * t.udepth) 32 else .ok []
  | none => .ok []

section
variable {s : State} {o : OpA} {l r : Token} {k : Nat} {t : Task}

theorem undoPlace_running {f : Firing} (htask : s.taskOf f (bopLane f 0) = some (k, t)) (hstate : t.state = 1) :
    s.undoPlace f = s.translate f.e.core f.part (!isPriv f.b) false true (t.ubase + 32 * t.udepth) 32 := by
  unfold State.undoPlace
  rw [htask]
  exact if_pos hstate

/-- A lane of R, as BOP reads it. -/
theorem bopLane_of {f : Firing} (hr : f.ops.r = some r) (i : Nat) : bopLane f i = laneOf r.num 64 i := by
  unfold bopLane
  rw [hr]
  rfl

/-- What a BOP of a running task finds: its operands, its task, its object's place p and its undo record's places us. -/
structure BopFiring (s : State) (o : OpA) (l r : Token) (k : Nat) (t : Task) (p : Part) (us : List Part) (v : State) : Prop where
  ready : s.effReady s.firing = true
  acc : s.Accesses o.fl needLR
  left : (s.accessFiring needLR).ops.l = some l
  right : (s.accessFiring needLR).ops.r = some r
  addr : isAddr l = true
  vec : isVec64 r = true
  good : bopBad s (s.accessFiring needLR) = none
  task : s.taskOf (s.accessFiring needLR) (laneOf r.num 64 0) = some (k, t)
  running : t.state = 1
  object : s.Translated false false [(l.word, 8, 0)] [p]
  dev : p.space = .dev
  goes : v = s.touched [p]
  taskThere : v.taskOf (s.accessFiring needLR) (laneOf r.num 64 0) = some (k, t)
  undo : s.translate s.cur.core s.firing.part (!isPriv s.firing.b) false true (t.ubase + 32 * t.udepth) 32 = .ok us
  undoThere : v.translate s.cur.core s.firing.part (!isPriv s.firing.b) false true (t.ubase + 32 * t.udepth) 32 = .ok us
  room : v.stageRoom s.cur.core us = true
  free : v.chainBusy s.firing.lk (s.accessFiring needLR).writeChain [p] = false

/-- The registration that a BOP stages (10 R258). -/
def State.registration (s : State) (o : OpA) (r : Token) (t : Task) (p : Part) (seq : Nat) : Eff :=
  { round := s.here.fwd, key := (s.accessFiring needLR).writeKey, seq := seq, core := s.cur.core, org := (s.accessFiring needLR).origin
    kind := .bop p.addr (t.tseq.getD 0) (o.imm.toNat % 64) (laneOf r.num 64 1) (t.ubase + 32 * t.udepth) s.cur s.nid }

/-- The state behind a BOP's undo record and registration. -/
def State.registered (s v : State) (o : OpA) (r : Token) (k : Nat) (t : Task) (p : Part) (us : List Part) (bs : List Byte) (u : State) : State :=
  let x := (stagingAll { u with nid := s.nid + 1 } (us.map (v.stagedPart needLR bs))).setTask s.cur.core k { t with udepth := t.udepth + 1 }
  { x.mapLaunch s.firing.lk (fun n => { n with staged := n.staged ++ [s.registration o r t p x.nid] }) with nid := x.nid + 1 }

variable {p : Part} {us : List Part} {v : State}

theorem BopFiring.same (h : BopFiring s o l r k t p us v) : SameFiring s v := by
  rw [h.goes]
  exact ⟨touched_firing s _, touched_accessFiring s _, touched_nid s _⟩

/-- A part of the undo record as BOP stages it. -/
theorem BopFiring.staged (h : BopFiring s o l r k t p us v) (bs : List Byte) : v.stagedPart needLR bs = fun q => (s.accessFiring needLR).arrival q (.write (splitBytes bs q)) 0 := by
  rw [h.goes, touched_eq]
  rfl

/-- R stands in the latch as the firing sees it. -/
theorem BopFiring.latchR (h : BopFiring s o l r k t p us v) : s.firing.ops.r = some r := by
  have hr := h.right
  rw [show (s.accessFiring needLR).ops.r = if (s.accessNeed needLR).r then s.firing.ops.r else none from rfl] at hr
  exact hr

theorem undoBytes_of {f : Firing} (hr : f.ops.r = some r) (kind : Nat) : undoBytes f kind = (if laneOf r.num 64 2 = 0 then List.replicate 32 0
    else leBytes 8 (laneOf r.num 64 2 + kind * 2 ^ 24) ++ leBytes 8 (laneOf r.num 64 3) ++ leBytes 8 (laneOf r.num 64 4) ++ leBytes 8 (laneOf r.num 64 5)) := by
  unfold undoBytes
  simp only [bopLane_of hr]

theorem registered_fc (h : BopFiring s o l r k t p us v) {take nums : Slots} {u : State} (hu : Taken v take nums u) (bs : List Byte) :
    (s.registered v o r k t p us bs u).fc = v.fc :=
  (mapLaunch_fc _ _ _).trans ((stagingAll_fc _ _).trans hu.fc)

theorem bop_does {bs : List Byte} (h : BopFiring s o l r k t p us v) (hbs : bs = undoBytes (s.accessFiring needLR) (o.imm.toNat % 64)) :
    Does v (exec (.bop o) s) (s.accessNeed needLR) (fun u =>
      v.emitting1 (v.awaiting (s.registered v o r k t p us bs u) false s.nid) 1 [(1, orderTok (s.accessFiring needLR).writeChain.next)]) := by
  have hsame := h.same
  have hf := hsame.isFiring needLR
  have hlane := bopLane_of h.right
  have hbad := h.good
  have hlw : (s.accessFiring needLR).lw = l.word := firing_lw h.left
  have hplaceS : s.undoPlace s.firing = .ok us := (undoPlace_running (f := s.firing) (by rw [bopLane_of h.latchR]; exact h.task) h.running).trans h.undo
  have hplaceV : v.undoPlace (s.accessFiring needLR) = .ok us := (undoPlace_running (by rw [hlane]; exact h.taskThere) h.running).trans h.undoThere
  show Does v (execBop o s) _ _
  unfold execBop
  rw [if_neg (by rw [h.ready]; exact Bool.false_ne_true)]
  refine access_does h.acc ⟨Or.inr ⟨[(l.word, 8, 0)], h.goes, ?_, h.object⟩⟩ rfl ?_ ?_ rfl ?_ (fun u hu => ?_)
  · dsimp only
    rw [hbad, hlw]
  · show (if (s.accessFiring needLR).ops.l.all isAddr && (s.accessFiring needLR).ops.r.all isVec64 then none else some (fFormat, 0)) = none
    rw [h.left, h.right, Option.all_some, Option.all_some, h.addr, h.vec]
    rfl
  · dsimp only
    rw [syncAttrs_none (fun q hq => Or.inl (by rw [List.mem_singleton.mp hq]; exact h.dev))]
    show (s.undoPlace s.firing).err = none
    rw [hplaceS]
    rfl
  · show (match v.undoPlace (s.accessFiring needLR) with
      | .wait w => some (v.askWalk s.cur.core w)
      | .ok us => if v.stageRoom s.cur.core us then opStall v (s.accessFiring needLR) [p] else some (v.requestMarker s.firing.lk s.cur.core)
      | .fault _ _ => none) = none
    rw [hplaceV]
    exact (if_pos h.room).trans (opStall_free hsame (by rw [hsame.firing]; exact h.free))
  · have htaskU : u.taskOf (s.accessFiring needLR) (bopLane (s.accessFiring needLR) 0) = some (k, t) := by rw [taken_taskOf hu, hlane, h.taskThere]
    have hundoU : ({ u with nid := u.nid + 1 } : State).undoPlace (s.accessFiring needLR) = .ok us := by
      have htr : Translates v { u with nid := u.nid + 1 } := ⟨hu.translates.mem, hu.translates.cores, hu.translates.hub, hu.translates.part⟩
      rw [undoPlace_running (s := { u with nid := u.nid + 1 }) htaskU h.running, htr.translate]
      exact h.undoThere
    have hcall : (v.awaiting (s.registered v o r k t p us bs u) false s.nid).result (s.accessFiring needLR) true 1 [(1, orderTok (s.accessFiring needLR).writeChain.next)] = _ :=
      result_emitting1 v (v.awaiting (s.registered v o r k t p us bs u) false s.nid) _ hf (registered_fc h hu bs) 1 _
    rw [← hcall, ← await_awaiting v _ _ hf (registered_fc h hu bs) false s.nid]
    show (match u.taskOf (s.accessFiring needLR) (bopLane (s.accessFiring needLR) 0), [p] with
      | some (k, t), p :: _ => _
      | _, _ => u) = _
    rw [htaskU]
    dsimp only [State.fresh]
    rw [if_neg (by rw [h.running]; decide)]
    generalize hparts : Trans.parts _ = ws
    obtain rfl : us = ws := (congrArg Trans.parts hundoU).symm.trans hparts
    unfold State.registered stagingAll
    rw [List.foldl_map, bopLane_of h.right, hu.nid, hsame.nid, h.staged, hbs]
    rfl

/-! ### Tables -/

/-- A CTLOAD that waits for its marker (10 R257). -/
def State.waitingLoad (s : State) (l : Token) : CtLoad := ⟨l.word, s.cur, s.nid, (s.accessFiring needL).origin, s.firing.lk, s.here.fwd, (s.accessFiring needL).chain⟩

theorem ctload_does (h : s.Accesses o.fl needL) (hl : (s.operands (s.accessNeed needL)).l = some l) (haddr : isAddr l = true) (halign : l.word % 64 = 0) :
    Does s (exec (.ctload o) s) (s.accessNeed needL) (fun u => s.awaiting ({ u with nid := s.nid + 1 }.setPart s.firing.part { u.part s.firing.part with
      ctloads := (u.part s.firing.part).ctloads ++ [s.waitingLoad l] }) false s.nid) := by
  have hlw := firing_lw hl
  show Does s (execCtload o s) _ _
  unfold execCtload
  refine wordFire_does h (by rw [show (s.accessFiring needL).ops.l = some l from hl]; exact haddr) ?_ rfl (fun u hu => ?_)
  · rw [hlw]
    exact if_pos halign
  · dsimp only [State.fresh]
    rw [hlw, hu.nid]
    exact await_awaiting s (({ u with nid := s.nid + 1 } : State).setPart _ _) _ (isFiring_access s needL) hu.fc false s.nid

end

theorem partNotice_queue (s : State) (part lid code w2 info aux n : Nat) : ((s.partNotice part lid code w2 info aux).part n).queue = (s.part n).queue := by
  unfold State.partNotice
  dsimp only
  split
  · unfold State.halt
    dsimp only
    split
    · rfl
    · by_cases hn : n = part
      · rw [hn, State.part_setPart_same]
      · rw [State.part_setPart_other _ _ _ _ hn]
  · rfl

section
variable {s : State} {part : Nat} {q : Packet}

/-- A host packet's table is installed, or its packet leaves (17 R305). -/
theorem exec_ctabInstall (hfind : (s.part part).queue.find? (fun x => x.aseq == q.aseq) = some q) (hctab : q.words.getD 6 0 ≠ 0)
    (hready : s.packetReady' part { q with ctabDone := true } = true) (hnone : (s.part part).queue.any Packet.ctabDone = false) (htasks : s.tasksLive part = false)
    (hmark : s.atMarker part = true) (hheld : s.tableHeld part ((s.part part).cores.headD 0) (q.words.getD 6 0) = false) {t : State} {ok : Bool}
    (hinstall : s.installTable part ((s.part part).cores.headD 0) (q.words.getD 6 0) = (t, ok)) :
    exec (.ctabInstall part q.aseq) s = .next (if ok then t.setPart part { t.part part with
        queue := (t.part part).queue.map (fun x => if x.aseq = q.aseq then { x with ctabDone := true } else x) }
      else (t.setPart part { t.part part with queue := (t.part part).queue.filter (fun x => x.aseq ≠ q.aseq)
                                              cfuts := (t.part part).cfuts ++ if pkCfut q.words = 0 then [] else [(pkCfut q.words, 2)] }).partNotice
        part 0 fBoost 0 (q.words.getD 6 0) 0) := by
  have hfresh : q.ctabDone = false := by
    have h := List.any_eq_false.mp hnone q (List.mem_of_find?_eq_some hfind)
    simpa using h
  have hgo : ¬ (q.words.getD 6 0 = 0 ∨ q.ctabDone = true ∨ (!s.packetReady' part { q with ctabDone := true }) = true ∨ (s.part part).queue.any Packet.ctabDone = true ∨ s.tasksLive part = true ∨
      (!s.atMarker part) = true ∨ s.tableHeld part ((s.part part).cores.headD 0) (q.words.getD 6 0) = true) := by
    simp only [hctab, hfresh, hready, hnone, htasks, hmark, hheld, Bool.not_true, Bool.false_eq_true, or_self, not_false_eq_true]
  show execCtabInstall part q.aseq s = _
  unfold execCtabInstall
  dsimp only
  rw [hfind]
  dsimp only
  rw [show pkCtab q.words = q.words.getD 6 0 from rfl, if_neg hgo, hinstall]
  cases ok <;> rfl

end

/-- Settles O39: BOP by its undo record and registration, CTLOAD by its list, the packet's table by both outcomes of its check. -/
theorem registrationsAndTables : Obligations.RegistrationsAndTables := by
  unfold Obligations.RegistrationsAndTables
  intro s o l
  refine ⟨fun r k t ps us p v hready h hl hr haddr hvec => ?_, ctload_does, fun part q hfind hctab hready hnone htasks hmark hheld t ok hinstall => ⟨fun hok => ?_, fun hok => ?_⟩⟩
  · intro f w hgood htask hrun htr hps hdev hv htaskV hundo hroom hfree bs
    subst hps
    have hbop : BopFiring s o l r k t p us v := ⟨hready, h, hl, hr, haddr, hvec, hgood, htask, hrun, htr, hdev, hv, htaskV, hundo.1, hundo.2, hroom, hfree⟩
    exact bop_does hbop (undoBytes_of hr _).symm
  · rw [exec_ctabInstall hfind hctab hready hnone htasks hmark hheld hinstall, hok]
    rfl
  · refine ⟨_, exec_ctabInstall hfind hctab hready hnone htasks hmark hheld hinstall, ?_⟩
    rw [hok, if_neg Bool.false_ne_true, partNotice_queue, State.part_setPart_same]

end Sys2Proof.Machine

/-! PROOFS. The argument of a system call that has the reserved scale (18 R325, 04 R74). -/

namespace Sys2Proof.Machine

/-- An i64 of the reserved scale: its payload is 1, and read as a number it is 0 (04 R74). -/
def reservedOne : Token := { scalarTok .i64 1 with scale := 255 }

/-- SVC stands ready at index 0 of bank 0 with that argument, in a partition whose faults are diverted. -/
def reservedCall : State :=
  { State.reset with
    parts := [(0, { en := true })]
    banks := [(0, { st := 1, lk := 1, elems := [(0, { l := { latch := some reservedOne } })] })] }

theorem reservedCall_runs : reservedCall.Runs {} false needL (.run true 0) where
  can := ⟨by decide +kernel, by decide +kernel, by decide +kernel, by decide +kernel⟩
  clean := by decide +kernel
  run := ⟨true, 0, rfl, by decide +kernel⟩

theorem reservedCall_diverts : reservedCall.Diverts := ⟨by decide +kernel, by decide +kernel, by decide +kernel⟩

/-- The words of the records that stand at the port of core 0. -/
def recordsAtPort (x : Host.Outcome State Fault Refusal) : List (List Word64) :=
  match x with
  | .next t => (t.core 0).frecs.map FRec.rest
  | _ => []

/-- The record carries the payload of the argument. -/
theorem svc_of_reservedOne : (recordsAtPort (exec (.svc {}) reservedCall)).map (fun ws => ws.head?) = [some 1] := by decide +kernel

/-- Refutes O40: SVC on an i64 of the reserved scale. The record carries the argument's payload as it is (18 R321), and the statement puts there what the
argument reads as, which is 0 for the reserved scale (04 R74). -/
theorem not_callsAndHeldFirings : ¬ Obligations.CallsAndHeldFirings := by
  unfold Obligations.CallsAndHeldFirings
  rintro ⟨hcalls, -⟩
  obtain ⟨hdiverts, -⟩ := hcalls reservedCall {} reservedOne (.run true 0) needL (by decide +kernel) reservedCall_runs (by decide +kernel) (by decide +kernel) (by decide +kernel)
    (.svc, 0x40) List.mem_cons_self
  obtain ⟨t, hexec, hcall⟩ := hdiverts reservedCall_diverts
  have hword : ((t.core 0).frecs.map FRec.rest).map (fun ws => ws.head?) = [some 1] := by
    have h := svc_of_reservedOne
    rw [hexec] at h
    exact h
  rw [show t.core 0 = _ from hcall.record] at hword
  exact absurd hword (by decide +kernel)

end Sys2Proof.Machine

/-! PROOFS. Register reads and writes, context commands and SHRINK (18 R315-R332). -/

namespace Sys2Proof.Machine

section
variable {s : State} {o : OpA} {l r : Token} {pr : Predicate}

/-! ### CSRR -/

/-- What a firing that has been taken leaves of the registers that have one place (18 R315). -/
theorem taken_csr_fields {u : State} {take nums : Slots} (hu : Taken s take nums u) :
    (∀ n, u.core n = s.core n) ∧ (∀ n, ∃ ls h, u.part n = { s.part n with launches := ls, handler := h }) ∧ u.hub = s.hub :=
  ⟨taken_core hu, hu.translates.part, hu.translates.hub⟩

/-- CSRR emits the register's value once it may read it. -/
theorem csrr_emits {v : Nat} (hr : s.Runs o.fl false needL pr) (hpass : o.imm.toNat % 2 ^ 12 ≤ 1 → s.here.fwd ≤ (s.bank (siteKey s.cur)).mpass)
    (hv : ∀ u, Taken s (withPm o.fl needL) {} u → u.csrValue (s.firingOn (withPm o.fl needL)) (o.imm.toNat % 2 ^ 12) = v) :
    Emits s (exec (.csrr o) s) (withPm o.fl needL) 1 (fork (z64Tok v)) 0 := by
  show Emits s (execCsrr o s) _ _ _ _
  refine anchor_emits s _ pr 1 (fork (z64Tok v)) hr rfl ?_ (fun u hu => ?_)
  · show decide (o.imm.toNat % 2 ^ 12 ≤ 1 ∧ (s.bank (siteKey s.cur)).mpass < s.here.fwd) = false
    exact decide_eq_false (fun h => absurd h.2 (Nat.not_lt.mpr (hpass h.1)))
  · dsimp only
    rw [hv u hu]

/-- A flag at its place in a register. -/
def bitIn (x : Bool) (k : Nat) : Nat := if x then 2 ^ k else 0

/-- The registers that a firing reads without regard to markers: those of its place, its partition, its core and the hub (18 R317-R320, 20 R356, 21 R377 R379). -/
def placeRegisters (part tile round jrn : Nat) (e : Site) (p : Partition) (c : Core) : List (Nat × Nat) :=
  [(0x002, round % 2 ^ 48), (0x004, part * 2 ^ 13 + e.bank * 2 ^ 11 + tile * 2 ^ 7 + e.core), (0x020, p.fqlog * 2 ^ 20 + bitIn p.en 7 + p.hcore), (0x021, p.fqBase.toNat), (0x023, p.hndMsg.toNat),
    (0x100, p.rdirBase), (0x101, p.rdirCnt), (0x102, p.rdirCap), (0x103, bitIn p.dlock 0 + bitIn p.busy 1), (0x181, p.rbmax), (0x182, bitIn p.exact 0 + c.step * 2 + p.tlim * 2 ^ 4),
    (0x184, p.shrBase.toNat), (0x185, p.shrLen.toNat), (0x200, p.trcMode), (0x201, p.trcBase.toNat), (0x202, p.trcLen.toNat),
    (0x203, p.trcPos % 2 ^ 32 + bitIn p.trcOvf 32 + bitIn p.trcDiv 33 + bitIn p.trcErr 34), (0x282, jrn)]

theorem csrValue_place (u : State) (f : Firing) : ∀ x ∈ placeRegisters f.part (siteTile f) f.round u.hub.jrnSeq f.e (u.part f.part) (u.core f.e.core), u.csrValue f x.1 = x.2 ∧ 1 < x.1 := by
  simp only [placeRegisters, List.forall_mem_cons]
  exact ⟨⟨rfl, by decide⟩, ⟨rfl, by decide⟩, ⟨rfl, by decide⟩, ⟨rfl, by decide⟩, ⟨rfl, by decide⟩, ⟨rfl, by decide⟩, ⟨rfl, by decide⟩, ⟨rfl, by decide⟩, ⟨rfl, by decide⟩, ⟨rfl, by decide⟩,
    ⟨rfl, by decide⟩, ⟨rfl, by decide⟩, ⟨rfl, by decide⟩, ⟨rfl, by decide⟩, ⟨rfl, by decide⟩, ⟨rfl, by decide⟩, ⟨rfl, by decide⟩, ⟨rfl, by decide⟩, List.forall_mem_nil _⟩

theorem csrr_place {x : Nat × Nat} (hr : s.Runs o.fl false needL pr)
    (hx : x ∈ placeRegisters s.firing.part (siteTile s.firing) s.here.fwd s.hub.jrnSeq s.cur (s.part s.firing.part) (s.core s.cur.core)) (hix : o.imm.toNat % 2 ^ 12 = x.1) :
    Emits s (exec (.csrr o) s) (withPm o.fl needL) 1 (fork (z64Tok x.2)) 0 := by
  have hlow : 1 < x.1 := (csrValue_place s s.firing x hx).2
  refine csrr_emits hr (fun h => absurd h (by omega)) (fun u hu => ?_)
  have hvalue := csrValue_place u (s.firingOn (withPm o.fl needL)) x
  obtain ⟨ls, h, hp⟩ := hu.translates.part s.firing.part
  rw [show (s.firingOn (withPm o.fl needL)).part = s.firing.part from rfl, hp, taken_core hu, hu.translates.hub] at hvalue
  rw [hix]
  exact (hvalue hx).1

/-- The registers of the bank, once marker r - 1 has passed it (18 R317). -/
theorem csrr_bank {x : Nat × Nat} (hr : s.Runs o.fl false needL pr) (hpass : s.here.fwd ≤ (s.bank (siteKey s.cur)).mpass)
    (hx : x ∈ [(0x000, (s.bank (siteKey s.cur)).numf.toNat), (0x001, ctxState s.firing)]) (hix : o.imm.toNat % 2 ^ 12 = x.1) :
    Emits s (exec (.csrr o) s) (withPm o.fl needL) 1 (fork (z64Tok x.2)) 0 := by
  refine csrr_emits hr (fun _ => hpass) (fun u _ => ?_)
  rw [hix]
  revert x
  simp only [List.forall_mem_cons]
  exact ⟨fun _ => rfl, fun _ => rfl, List.forall_mem_nil _⟩

/-! ### CSRW -/

/-- The write that CSRW stages (18 R316). -/
def State.stagedCsr (s : State) (o : OpA) (l : Token) : CsrWrite :=
  { key := s.firing.effKey, seq := s.nid, bank := siteKey s.cur, round := s.here.fwd, index := o.imm.toNat % 2 ^ 12, mode := o.fn.toNat % 4, val := BitVec.ofNat 64 l.word }

theorem csrw_does (hr : s.Runs o.fl false needL pr) (hl : (s.operands (withPm o.fl needL)).l = some l) (haddr : isAddr l = true) :
    Does s (exec (.csrw o) s) (withPm o.fl needL) (fun u => s.emitting ({ u with nid := s.nid + 1 }.setCore s.cur.core { s.core s.cur.core with
      csrStage := (s.core s.cur.core).csrStage ++ [s.stagedCsr o l] }) 1 (fork l.pass)) := by
  have hL : (s.firingOn (withPm o.fl needL)).ops.l = some l := hl
  show Does s (execCsrw o s) _ _
  refine anchor_does s _ pr _ hr ?_ rfl (fun u hu => ?_)
  · show (if (s.firingOn (withPm o.fl needL)).ops.l.all isAddr then none else some (fFormat, 0)) = none
    rw [hL]
    exact if_pos haddr
  · rw [← emitL_emitting (s := s) (u := ({ u with nid := s.nid + 1 } : State).setCore _ _) hl hu.fc]
    dsimp only
    rw [hl, hu.nid, show u.core (s.firingOn (withPm o.fl needL)).e.core = s.core s.cur.core from taken_core hu _]
    rfl

/-! ### CTXSAVE and CTXLOAD -/

/-- The bank that a selector names (18 R329). -/
theorem selBank_eq (sel : Nat) : selBank sel = bankKeyOf (sel % 2 ^ 7) (sel / 2 ^ 7 % 2 ^ 4) (sel / 2 ^ 11 % 2 ^ 2) := by
  unfold selBank bitsAt
  simp only [Nat.shiftRight_eq_div_pow, Nat.pow_zero, Nat.div_one]

theorem ctxRefused_iff {part a sel : Nat} : ctxRefused s part a sel = true ↔ sel % 2 ^ 7 ∉ (s.part part).cores ∨ 2 ^ 13 ≤ sel ∨ a % 64 ≠ 0 := by
  have hsel : sel / 2 ^ 13 ≠ 0 ↔ 2 ^ 13 ≤ sel := by omega
  unfold ctxRefused
  rw [Bool.or_eq_true, Bool.or_eq_true, bne_iff_ne, bne_iff_ne, hsel, or_assoc, Bool.not_eq_true', List.contains_eq_mem, decide_eq_false_iff_not]

theorem taken_bank_st {u : State} {take nums : Slots} (hu : Taken s take nums u) (k : Nat) : (u.bank k).st = (s.bank k).st := by
  by_cases hk : k = siteKey s.cur
  · obtain ⟨es, ns, hb⟩ := hu.frame.bank
    rw [hk, hb]
  · rw [hu.frame.banks k hk]

/-- A context command (18 R329 R331): the address, the selector, the launch whose markers the port counts, and how many have passed. -/
def State.ctxCommand (s : State) (l r : Token) (op : Nat) (bad : Bool) : Cmd :=
  let port := ((s.core (r.word % 2 ^ 7)).lk).getD (s.firing.part * 65536)
  { id := s.nid, site := s.cur, lk := s.firing.lk, core := s.cur.core, round := s.here.fwd, thr := s.firing.thr, op := op
    words := [l.word, r.word, port, mgetD (s.core (r.word % 2 ^ 7)).pass port 0], key := (s.accessFiring needLR).writeKey, user := false, org := (s.accessFiring needLR).origin
    finished := bad, status := if bad then fContext else 0 }

/-- A context command joins its core's list. -/
def State.ctxAccepted (s : State) (l r : Token) (op : Nat) (bad : Bool) (u : State) : State :=
  s.acceptedBy needLR ({ u with nid := s.nid + 1 }.setCore s.cur.core { s.core s.cur.core with cmds := (s.core s.cur.core).cmds ++ [s.ctxCommand l r op bad] })

theorem ctx_does {op : Nat} {bad : Bool} (h : s.Accesses o.fl needLR) (hl : (s.operands (s.accessNeed needLR)).l = some l) (hr : (s.operands (s.accessNeed needLR)).r = some r)
    (haddr : isAddr l = true) (hz : isZ64 r = true) (hbad : (ctxRefused s s.firing.part l.word r.word || (op == 0xD8 && (s.bank (selBank r.word)).st != 0)) = bad) :
    Does s (.next (s.ctxFire op o)) (s.accessNeed needLR) (fun u =>
      if op = 0xD8 ∧ bad = false then (s.ctxAccepted l r op bad u).setBank (selBank r.word) { st := 2, lk := s.firing.lk } else s.ctxAccepted l r op bad u) := by
  have hL : (s.accessFiring needLR).ops.l = some l := hl
  have hR : (s.accessFiring needLR).ops.r = some r := hr
  unfold State.ctxFire
  refine tile_does s _ [] _ h rfl ?_ rfl rfl rfl rfl (fun u hu => ?_)
  · show (if (s.accessFiring needLR).ops.l.all isAddr && (s.accessFiring needLR).ops.r.all isZ64 then none else some (fFormat, 0)) = none
    rw [hL, hR, Option.all_some, Option.all_some, haddr, hz]
    rfl
  · have hlist : (u.part s.firing.part).cores = (s.part s.firing.part).cores := by rw [taken_part hu]
    have hrefused : ctxRefused u s.firing.part l.word r.word = ctxRefused s s.firing.part l.word r.word := by
      unfold ctxRefused
      rw [hlist]
    unfold State.ctxAccepted
    rw [← accepted_results (need := needLR) (v := ({ u with nid := s.nid + 1 } : State).setCore _ _) hu.fc]
    show u.ctxAccept (s.accessFiring needLR) op = _
    unfold State.ctxAccept State.portLaunch State.fresh
    dsimp only
    rw [hL, hR]
    simp only [Option.map_some, Option.getD_some, taken_bank_st hu]
    have hcore (k : Nat) : ({ u with nid := s.nid + 1 } : State).core k = s.core k := taken_core hu k
    rw [show (s.accessFiring needLR).part = s.firing.part from rfl, hrefused, hbad, hu.nid]
    simp only [hcore, taken_core hu]
    rfl

/-! ### SHRINK -/

theorem Translates.pinned {u : State} (h : Translates s u) (part a n : Nat) (wr : Bool) : u.pinned part a n wr = s.pinned part a n wr := by
  obtain ⟨ls, hd, hpart⟩ := h.part part
  have hwalk : walkResult u (u.part part) a = walkResult s (s.part part) a := walkResult_same h.mem (by rw [hpart]) (by rw [hpart]) a
  unfold State.pinned
  simp only [hwalk, h.backing]

theorem Translates.trNext {u : State} (h : Translates s u) (part : Nat) (mine : Nat → Nat → Bool) : u.trNext part mine = s.trNext part mine := by
  obtain ⟨ls, hd, hpart⟩ := h.part part
  have hread (i : Nat) : u.trRead part i = s.trRead part i := by
    unfold State.trRead trAddr
    rw [h.pinned, h.mem, hpart]
  unfold State.trNext
  simp only [hread]
  rw [hpart]

/-- What forbids a shrink of a launch to m cores (18 R332). -/
def State.shrinkForbidden (s : State) (part m : Nat) (l : Launch) : Bool :=
  !variantSizes.contains m || decide (l.cores.length ≤ m) || !s.foldsTo l m || l.l3 ||
  (s.trBound part l.trk && !(s.trNext part (fun w b => trTag w == l.ltag && trType w == trSHRINK && trA w % 256 == m && b % 2 ^ 48 == l.round)).isSome)

theorem shrinkRefused_eq (s : State) (part lid m : Nat) : s.shrinkRefused part lid m = ((if lid = 0 then none else mget (s.part part).launches lid).map (s.shrinkForbidden part m)).getD true := by
  unfold State.shrinkRefused State.shrinkForbidden
  cases (if lid = 0 then none else mget (s.part part).launches lid) <;> rfl

/-- The rounds that a launch counts as active do not bear on it. -/
theorem shrinkForbidden_idle (part m : Nat) (l : Launch) : s.shrinkForbidden part m l = s.shrinkForbidden part m { l with active := [] } := rfl

theorem taken_shrinkForbidden {u : State} {take nums : Slots} (hu : Taken s take nums u) (part m : Nat) (l : Launch) : u.shrinkForbidden part m l = s.shrinkForbidden part m l := by
  have hmode : (u.part part).trcMode = (s.part part).trcMode := by rw [taken_part hu]
  have hmem : u.mem = s.mem := hu.translates.mem
  unfold State.shrinkForbidden State.foldsTo State.trBound
  simp only [hu.translates.trNext, hmode, hmem]

theorem lk_of_part (part lid : Nat) (h : lid < 65536) : lkPart (part * 65536 + lid) = part ∧ lkLid (part * 65536 + lid) = lid := by
  unfold lkPart lkLid
  omega

theorem taken_shrinkRefused {u : State} {take nums : Slots} (hu : Taken s take nums u) (part lid m : Nat) (hlid : lid < 65536) : u.shrinkRefused part lid m = s.shrinkRefused part lid m := by
  rw [shrinkRefused_eq, shrinkRefused_eq]
  by_cases hzero : lid = 0
  · rw [if_pos hzero, if_pos hzero]
    rfl
  · obtain ⟨hpart, hlk⟩ := lk_of_part part lid hlid
    have hof (v : State) : v.launch (part * 65536 + lid) = mget (v.part part).launches lid := by
      unfold State.launch
      rw [hpart, hlk, if_neg hzero]
    have hsame := taken_launch hu (part * 65536 + lid)
    rw [hof, hof] at hsame
    rw [if_neg hzero, if_neg hzero]
    have hforbid := congrArg (Option.map (s.shrinkForbidden part m)) hsame
    rw [Option.map_map, Option.map_map, show (s.shrinkForbidden part m ∘ fun l => { l with active := [] }) = s.shrinkForbidden part m from rfl] at hforbid
    rw [show u.shrinkForbidden part m = s.shrinkForbidden part m from funext (taken_shrinkForbidden hu part m), hforbid]

theorem shrink_runs (hr : s.Runs o.fl false needLR pr) (hl : (s.operands (withPm o.fl needLR)).l = some l) (hrr : (s.operands (withPm o.fl needLR)).r = some r) (hzl : isZ64 l = true)
    (hzr : isZ64 r = true) (hfree : s.shrinking s.firing.part (bitsAt l.word 40 16) = false) :
    Does s (exec (.shrink o) s) (withPm o.fl needLR) (fun u =>
      if s.shrinkRefused s.firing.part (bitsAt l.word 40 16) r.word then s.emitting u 1 (fork (predTok false))
      else s.awaiting ({ u with nid := s.nid + 1 }.mapLaunch (s.firing.part * 65536 + bitsAt l.word 40 16) (fun n => { n with shrink := some (r.word, n.round, some (s.cur, s.nid)) })) false s.nid) := by
  have hL : (s.firingOn (withPm o.fl needLR)).ops.l = some l := hl
  have hR : (s.firingOn (withPm o.fl needLR)).ops.r = some r := hrr
  have hlid : launchWordLid (s.firingOn (withPm o.fl needLR)).ops.l = bitsAt l.word 40 16 := by
    unfold launchWordLid
    rw [hL]
    rfl
  have hf := isFiring_mask s (s.operands (withPm o.fl needLR))
  show Does s (execShrink o s) _ _
  refine anchor_does s _ pr _ hr ?_ ?_ (fun u hu => ?_)
  · show (if (s.firingOn (withPm o.fl needLR)).ops.l.all isZ64 && (s.firingOn (withPm o.fl needLR)).ops.r.all isZ64 then none else some (fFormat, 0)) = none
    rw [hL, hR, Option.all_some, Option.all_some, hzl, hzr]
    rfl
  · show s.shrinking s.firing.part (launchWordLid (s.firingOn (withPm o.fl needLR)).ops.l) = false
    rw [hlid]
    exact hfree
  · have hword : ((s.firingOn (withPm o.fl needLR)).ops.r.map Token.word).getD 0 = r.word := by rw [hR]; rfl
    have hlt : bitsAt l.word 40 16 < 65536 := Nat.mod_lt _ (by decide)
    dsimp only [State.fresh]
    rw [hlid, hword, show (s.firingOn (withPm o.fl needLR)).part = s.firing.part from rfl, taken_shrinkRefused hu _ _ _ hlt, hu.nid]
    cases s.shrinkRefused s.firing.part (bitsAt l.word 40 16) r.word with
    | true => exact result_emitting s u _ hf hu.fc 1 _
    | false => exact await_awaiting s (({ u with nid := s.nid + 1 } : State).mapLaunch _ _) _ hf ((mapLaunch_fc _ _ _).trans hu.fc) false s.nid

end

/-- An effect that is one result alone. -/
theorem Does.emits {s : State} {answer : Host.Outcome State Fault Refusal} {take nums : Slots} {lat : Nat} {outs : List (Nat × Token)} (h : Does s answer take (fun u => s.emitting u lat outs) nums) :
    Emits s answer take lat outs (readFlags (s.operands take) nums) := by
  obtain ⟨u, hu, hanswer⟩ := h
  have hf := isFiring_mask s (s.operands take)
  refine ⟨_, hanswer, ?_⟩
  show Fires s _ _ (s.emitting u lat outs)
  rw [← result_emitting s u _ hf hu.fc lat outs]
  exact Fires.result hu _ hf lat outs

/-- Settles O42: CSRR by the table of its registers, CSRW by its staged write, the context commands by their acceptance, SHRINK by its check. -/
theorem registersAndContexts : Obligations.RegistersAndContexts := by
  unfold Obligations.RegistersAndContexts
  intro s o l pr
  refine ⟨fun need hneed hr hl => ?_, fun r h hl hr haddr hz => ?_, fun r need hneed hr hl hrr hzl hzr => ?_⟩
  · subst hneed
    exact ⟨fun x hx hix => csrr_place hr hx hix, fun hpass x hx hix => csrr_bank hr hpass hx hix, fun haddr => csrw_does hr hl haddr⟩
  · intro f a sel k port wrong accepted
    have hsave (bad : Bool) (hbad : ctxRefused s s.firing.part l.word r.word = bad) : Does s (exec (.ctxsave o) s) (s.accessNeed needLR) (accepted 0xD7 bad) :=
      ctx_does h hl hr haddr hz (by rw [hbad]; exact Bool.or_false bad)
    have hrefused : ctxRefused s s.firing.part l.word r.word = true ↔ wrong := ctxRefused_iff
    refine ⟨fun hw => ⟨hsave true (hrefused.mpr hw), ?_⟩, fun hw => ?_⟩
    · exact ctx_does (bad := true) h hl hr haddr hz (by rw [hrefused.mpr hw]; rfl)
    · have hgood : ctxRefused s s.firing.part l.word r.word = false := Bool.eq_false_iff.mpr (fun ht => hw (hrefused.mp ht))
      have hbank : selBank r.word = k := selBank_eq r.word
      refine ⟨hsave false hgood, fun hst => ?_, fun hst => ?_⟩
      · refine ctx_does (bad := true) h hl hr haddr hz ?_
        rw [hgood, hbank]
        exact bne_iff_ne.mpr hst
      · have hdo := ctx_does (op := 0xD8) (bad := false) h hl hr haddr hz (by rw [hgood, hbank, hst]; rfl)
        rw [hbank] at hdo
        exact hdo
  · subst hneed
    intro lid hfree
    have hdo := shrink_runs hr hl hrr hzl hzr hfree
    refine ⟨fun hrefused => ?_, fun hallowed => ?_⟩
    · rw [show s.shrinkRefused s.firing.part (bitsAt l.word 40 16) r.word = true from hrefused] at hdo
      exact Does.emits hdo
    · rw [show s.shrinkRefused s.firing.part (bitsAt l.word 40 16) r.word = false from hallowed] at hdo
      exact hdo

end Sys2Proof.Machine

/-! PROOFS. The range table: RTTW, RTTR, RINV, RFENCE and the invalidation marker (20 R363-R365). -/

namespace Sys2Proof.Machine

section
variable {s : State} {o : OpA} {l r : Token} {pr : Predicate}

/-! ### RTTW and RTTR -/

/-- Two stretches that are not empty overlap unless one ends before the other begins. -/
theorem overlap_iff {a b c d : Nat} (hab : a < b) (hcd : c < d) : overlap a (b - a) c (d - c) = true ↔ ¬ (d ≤ a ∨ b ≤ c) := by
  unfold overlap
  simp only [decide_eq_true_eq]
  omega

theorem entOk_nonempty {w : List Nat} (h : entOk w = true) : entBase w < entLimit w := by
  unfold entOk at h
  simp only [Bool.and_eq_true, decide_eq_true_eq] at h
  omega

/-- Entry i of a table is apart from the others, were it to hold the words w (20 R365). -/
def EntryApart (c : Core) (i : Nat) (w : List Nat) : Prop := ∀ x ∈ c.rtt, x.1 = i ∨ entLimit x.2.words ≤ entBase w ∨ entLimit w ≤ entBase x.2.words

theorem overlapping_iff {c : Core} {i : Nat} {w : List Nat} (hw : entBase w < entLimit w) (hne : ∀ x ∈ c.rtt, entBase x.2.words < entLimit x.2.words) :
    c.rtt.any (fun (j, r) => j != i && overlap (entBase w) (entLimit w - entBase w) (entBase r.words) (entLimit r.words - entBase r.words)) = true ↔ ¬ EntryApart c i w := by
  unfold EntryApart
  rw [List.any_eq_true]
  constructor
  · rintro ⟨x, hx, hboth⟩ hap
    obtain ⟨hi, hov⟩ := Bool.and_eq_true_iff.mp hboth
    exact (hap x hx).elim (fun h => bne_iff_ne.mp hi h) (fun h => (overlap_iff hw (hne x hx)).mp hov h)
  · intro hnot
    obtain ⟨x, hx⟩ := Classical.not_forall.mp hnot
    obtain ⟨hmem, hno⟩ := Classical.not_imp.mp hx
    obtain ⟨hi, hap⟩ := not_or.mp hno
    exact ⟨x, hmem, Bool.and_eq_true_iff.mpr ⟨bne_iff_ne.mpr hi, (overlap_iff hw (hne x hmem)).mpr hap⟩⟩

theorem rttwRefused_iff {part sel : Nat} {ws : List Nat} (hne : ∀ x ∈ (s.core (sel % 128)).rtt, entBase x.2.words < entLimit x.2.words) :
    rttwRefused s part sel ws = true ↔ sel % 128 ∉ (s.part part).cores ∨ 2 ^ 13 ≤ sel ∨
      bitAt (ws.getD 7 0) 0 = true ∧ (entOk (ws.take 7 ++ [0]) = false ∨ entState (ws.take 7 ++ [0]) ≠ 0 ∨ ¬ EntryApart (s.core (sel % 128)) (sel / 128 % 32) (ws.take 7 ++ [0])) := by
  have hsel : sel / 2 ^ 13 ≠ 0 ↔ 2 ^ 13 ≤ sel := by omega
  unfold rttwRefused
  dsimp only
  generalize ws.take 7 ++ [0] = w
  rw [Bool.or_eq_true, Bool.or_eq_true, bne_iff_ne, hsel, or_assoc, Bool.not_eq_true', List.contains_eq_mem, decide_eq_false_iff_not, Bool.and_eq_true, Bool.or_eq_true, Bool.or_eq_true,
    Bool.not_eq_true', bne_iff_ne, or_assoc]
  cases hok : entOk w with
  | false => simp only [true_or]
  | true => rw [overlapping_iff (entOk_nonempty hok) hne]

theorem taken_rttwRefused {u : State} {take nums : Slots} (hu : Taken s take nums u) (part sel : Nat) (ws : List Nat) : rttwRefused u part sel ws = rttwRefused s part sel ws := by
  have hlist : (u.part part).cores = (s.part part).cores := by rw [taken_part hu]
  unfold rttwRefused
  dsimp only
  rw [hlist, taken_core hu]

/-- The write that RTTW stages (20 R365). -/
def State.stagedRtt (s : State) (l r : Token) : RttWrite :=
  { site := s.cur, flight := s.nid, entry := r.word / 128 % 32, words := l.words.take 7 ++ [0], v := bitAt (l.words.getD 7 0) 0, lock := bitAt r.word 12, lk := s.firing.lk, round := s.here.fwd }

theorem rttw_does (hr : s.Runs o.fl false needLR pr) (hl : (s.operands (withPm o.fl needLR)).l = some l) (hrr : (s.operands (withPm o.fl needLR)).r = some r) (hz : isZ64 r = true)
    (htag : l.tag = 5) (hv : l.v = true) (hscale : scaleOk l = true) :
    Does s (exec (.rttw o) s) (withPm o.fl needLR) (fun u =>
      if rttwRefused s s.firing.part r.word l.words then s.emitting u 1 (fork (predTok false))
      else s.awaiting ({ u with nid := s.nid + 1 }.setCore (r.word % 128) { s.core (r.word % 128) with rttStage := (s.core (r.word % 128)).rttStage ++ [s.stagedRtt l r] }) false s.nid) := by
  have hL : (s.firingOn (withPm o.fl needLR)).ops.l = some l := hl
  have hR : (s.firingOn (withPm o.fl needLR)).ops.r = some r := hrr
  have hf := isFiring_mask s (s.operands (withPm o.fl needLR))
  show Does s (execRttw o s) _ _
  refine anchor_does s _ pr _ hr ?_ rfl (fun u hu => ?_)
  · show (if (s.firingOn (withPm o.fl needLR)).ops.l.all (fun l => l.tag == 5 && l.v && scaleOk l) && (s.firingOn (withPm o.fl needLR)).ops.r.all isZ64 then none else some (fFormat, 0)) = none
    rw [hL, hR, Option.all_some, Option.all_some, htag, hv, hscale, hz]
    rfl
  · dsimp only [State.fresh]
    rw [hl, hrr, Option.map_some, Option.getD_some, Option.getD_some, show (s.firingOn (withPm o.fl needLR)).part = s.firing.part from rfl, taken_rttwRefused hu, hu.nid, show ({ u with nid := s.nid + 1 } : State).core (r.word % 128) = s.core (r.word % 128) from taken_core hu _]
    cases rttwRefused s s.firing.part r.word l.words with
    | true => exact result_emitting s u _ hf hu.fc 1 _
    | false => exact await_awaiting s (({ u with nid := s.nid + 1 } : State).setCore _ _) _ hf hu.fc false s.nid

/-- The image that RTTR gives for a selector (20 R365). -/
def State.tableImage (s : State) (part sel : Nat) : List Nat :=
  if sel / 2 ^ 12 = 0 ∧ (s.part part).cores.contains (sel % 128) then (s.core (sel % 128)).rttImage (sel / 128 % 32) else List.replicate 8 0

theorem rttr_emits (hr : s.Runs o.fl false needLR pr) (hrr : (s.operands (withPm o.fl needLR)).r = some r) (hz : isZ64 r = true) :
    Emits s (exec (.rttr o) s) (withPm o.fl needLR) 1 (fork (vecTok (s.tableImage s.firing.part r.word))) r.numFlags := by
  have hR : (s.firingOn (withPm o.fl needLR)).ops.r = some r := hrr
  have hflags : readFlags (s.operands (withPm o.fl needLR)) { r := true } = r.numFlags := by
    rw [readFlags_r, hrr]
    rfl
  rw [← hflags]
  show Emits s (execRttr o s) _ _ _ _
  refine anchor_emits s _ pr 1 _ hr ?_ rfl (fun u hu => ?_)
  · show (if (s.firingOn (withPm o.fl needLR)).ops.r.all isZ64 then none else some (fFormat, 0)) = none
    rw [hR]
    exact if_pos hz
  · have hlist : (u.part s.firing.part).cores = (s.part s.firing.part).cores := by rw [taken_part hu]
    dsimp only
    rw [hrr, Option.map_some, Option.getD_some, taken_core hu, show (s.firingOn (withPm o.fl needLR)).part = s.firing.part from rfl, hlist]
    rfl

theorem tableImage_named {part sel : Nat} (hsel : sel < 2 ^ 12) (hcore : sel % 128 ∈ (s.part part).cores) : s.tableImage part sel = (s.core (sel % 128)).rttImage (sel / 128 % 32) :=
  if_pos ⟨Nat.div_eq_of_lt hsel, List.contains_iff_mem.mpr hcore⟩

theorem tableImage_none {part sel : Nat} (h : 2 ^ 12 ≤ sel ∨ sel % 128 ∉ (s.part part).cores) : s.tableImage part sel = List.replicate 8 0 :=
  if_neg (fun hboth => h.elim (fun hle => by have := hboth.1; omega) (fun hno => hno (List.contains_iff_mem.mp hboth.2)))

/-- The commit of one staged write (20 R365). -/
theorem rttCommit_one {core lk round : Nat} {x : RttWrite} (hx : (s.core core).rttStage = [x]) :
    ((s.rttCommit core lk round).core core) = { s.core core with
      rttStage := [], rtt := if x.v then mset (s.core core).rtt x.entry { words := x.words, lock := x.lock, used := s.fc } else mdel (s.core core).rtt x.entry } := by
  unfold State.rttCommit
  dsimp only
  rw [hx, List.foldl_cons, List.foldl_nil, State.core_setCore_same]
  exact State.core_setCore_same _ _ _

/-! ### Invalidations -/

/-- The invalidation that RINV sends (20 R364). -/
def State.invalOf (s : State) (need : Slots) (all : Bool) (lo hi : Nat) : RInv :=
  { id := s.nid, site := s.cur, flight := s.nid, chain := (s.accessFiring need).chain, all := all, lo := lo, hi := hi, sent := false, left := (s.part s.firing.part).cores }

theorem rinv_does {need : Slots} {lo hi : Nat} (hneed : need = (if o.bit 0 then {} else needLR)) (h : s.Accesses o.fl need)
    (hlo : ((s.operands (s.accessNeed need)).l.map Token.word).getD 0 = lo) (hhi : lo + ((s.operands (s.accessNeed need)).r.map Token.word).getD 0 = hi)
    (hcheck : o.bit 0 = true ∨ (s.operands (s.accessNeed need)).l.all isZ64 = true ∧ (s.operands (s.accessNeed need)).r.all isZ64 = true ∧ lo % 64 = 0 ∧ (hi - lo) % 64 = 0 ∧ hi - lo ≠ 0) :
    Does s (exec (.rinv o) s) (s.accessNeed need) (fun u =>
      (s.awaiting ({ u with nid := s.nid + 1 }.setPart s.firing.part { u.part s.firing.part with rinvs := (u.part s.firing.part).rinvs ++ [s.invalOf need (o.bit 0) lo hi] }) false s.nid).sendRinvs
        s.firing.part) := by
  subst hneed
  have hf := isFiring_access s (if o.bit 0 then {} else needLR)
  show Does s (execRinv o s) _ _
  refine tile_does s _ [] _ h rfl ?_ rfl rfl rfl rfl (fun u hu => ?_)
  · subst hlo hhi
    rcases hcheck with hall | ⟨hzl, hzr, hl64, hr64, hr0⟩
    · exact if_pos (Bool.or_eq_true_iff.mpr (.inl hall))
    · rw [Nat.add_sub_cancel_left] at hr64 hr0
      refine if_pos (Bool.or_eq_true_iff.mpr (.inr ?_))
      simp only [Bool.and_eq_true, beq_iff_eq, bne_iff_ne]
      exact ⟨⟨⟨⟨hzl, hzr⟩, hl64⟩, hr64⟩, hr0⟩
  · have hlist : (u.part s.firing.part).cores = (s.part s.firing.part).cores := by rw [taken_part hu]
    have hinval : s.invalOf (if o.bit 0 then {} else needLR) (o.bit 0) lo hi = { s.invalOf (if o.bit 0 then {} else needLR) (o.bit 0) lo hi with id := u.nid, flight := u.nid, left := (u.part s.firing.part).cores } := by
      rw [hlist, hu.nid]
      rfl
    rw [hinval, ← await_awaiting s (({ u with nid := s.nid + 1 } : State).setPart _ _) _ hf hu.fc false s.nid, ← hu.nid]
    subst hlo hhi
    rfl

theorem dropped_rtt (part : Nat) (vs : List Inval) (c : Core) :
    (vs.foldl (fun (c : Core) v => if s.keepsLines part v then c else c.dropLines v.all v.lo v.hi) c).rtt = c.rtt := by
  induction vs generalizing c with
  | nil => rfl
  | cons v vs ih =>
    rw [List.foldl_cons, ih]
    split <;> rfl

theorem invalMarker_rtt (core part lk r : Nat) :
    ((s.invalMarker core part lk r).core core).rtt = (s.core core).rtt.filter (fun (_, x) => !((s.core core).invals.filter (fun v => v.marker.isNone)).any (fun v => v.hits x.words)) := by
  unfold State.invalMarker
  dsimp only
  rw [State.core_setCore_same, dropped_rtt]

theorem misses_of {v : Inval} {w : List Nat} (h : v.hits w = false) : v.all = false ∧ ¬ (entBase w < v.hi ∧ v.lo < entLimit w ∧ v.lo < v.hi ∧ entBase w < entLimit w) := by
  unfold Inval.hits overlap at h
  rw [Bool.or_eq_false_iff, Bool.and_eq_false_iff, decide_eq_false_iff_not, decide_eq_false_iff_not] at h
  exact ⟨h.1, by omega⟩

theorem invalMarker_misses {core part lk r : Nat} {x : Nat × Rtt} (hx : x ∈ ((s.invalMarker core part lk r).core core).rtt) :
    x ∈ (s.core core).rtt ∧ ∀ v ∈ (s.core core).invals, v.marker = none → v.hits x.2.words = false := by
  rw [invalMarker_rtt, List.mem_filter, Bool.not_eq_true', List.any_eq_false] at hx
  exact ⟨hx.1, fun v hv hnone => Bool.eq_false_iff.mpr (hx.2 v (List.mem_filter.mpr ⟨hv, by rw [hnone]; rfl⟩))⟩

/-! ### RFENCE -/

/-- An RINV descends from the chain (20 R364). -/
def RInv.ofChain (c : Chain) (v : RInv) : Bool := v.chain.hgsp == c.hgsp && v.chain.thr == c.thr && v.chain.k == c.k

/-- The request that RFENCE leaves in the table. -/
def State.fenceReq (s : State) (c : Chain) : Req :=
  { id := s.nid, site := s.cur, lk := s.firing.lk, round := s.here.fwd, due := s.fc, kind := .answer 0, fresh := true, chain := c, parts := [], thr := s.firing.thr, op := some .rfence, arrived := true }

theorem rfence_does {c : Chain} (hr : s.Runs o.fl false needL pr) (hl : (s.operands (withPm o.fl needL)).l = some l) (hord : isOrder l = true) (hc : l.chain = some c) :
    Does s (exec (.rfence o) s) (withPm o.fl needL) (fun u =>
      if (s.part s.firing.part).rinvs.any (RInv.ofChain c) then s.awaiting { u with nid := s.nid + 1, reqs := s.reqs ++ [s.fenceReq c] } false s.nid
      else s.emitting u 1 (fork (orderTok c))) {} := by
  have hL : (s.firingOn (withPm o.fl needL)).ops.l = some l := hl
  have hf := isFiring_mask s (s.operands (withPm o.fl needL))
  show Does s (execRfence o s) _ _ _
  refine anchor_does s _ pr _ hr ?_ rfl (fun u hu => ?_)
  · show (if (s.firingOn (withPm o.fl needL)).ops.l.all isOrder then none else some (fFormat, 0)) = none
    rw [hL]
    exact if_pos hord
  · have hlist : (u.part s.firing.part).rinvs = (s.part s.firing.part).rinvs := by rw [taken_part hu]
    dsimp only [State.fresh]
    rw [hl, Option.bind_some, hc, Option.getD_some, show (s.firingOn (withPm o.fl needL)).part = s.firing.part from rfl, hlist, hu.nid, hu.reqs, hu.fc]
    cases hany : (s.part s.firing.part).rinvs.any (RInv.ofChain c) with
    | true => exact (if_pos hany).trans (await_awaiting s ({ u with fc := s.fc, nid := s.nid + 1, reqs := s.reqs ++ [s.fenceReq c] } : State) _ hf rfl false s.nid)
    | false => exact (if_neg (fun h => Bool.false_ne_true (hany.symm.trans h))).trans (result_emitting s u _ hf hu.fc 1 _)

end

/-- Settles O43: RTTW by its check and its staged entry, RTTR by the table's image, RINV by the invalidation it sends, RFENCE by the RINVs of its chain. -/
theorem rangeTableInstructions : Obligations.RangeTableInstructions := by
  unfold Obligations.RangeTableInstructions
  refine ⟨?_, fun s core lk round x hx => ?_, ?_, fun s core part lk r x hx => ?_, ?_⟩
  · intro s o l r pr need hneed hr hl hrr hz
    subst hneed
    intro part core i ws w v apart staged
    refine ⟨fun hne htag hv hscale => ?_, fun hsel hcore => ?_, fun hnone => ?_⟩
    · have hdo := rttw_does hr hl hrr hz htag hv hscale
      have hiff : rttwRefused s part r.word ws = true ↔ _ := rttwRefused_iff hne
      refine ⟨fun hrefused => ?_, fun hcore hsel hgood => ?_⟩
      · rw [show rttwRefused s s.firing.part r.word l.words = true from hiff.mpr hrefused] at hdo
        exact Does.emits hdo
      · have hallowed : rttwRefused s s.firing.part r.word l.words = false := by
          refine Bool.eq_false_iff.mpr (fun ht => ?_)
          rcases hiff.mp ht with hno | hbig | ⟨hval, hbad⟩
          · exact hno hcore
          · exact absurd hsel (Nat.not_lt.mpr hbig)
          · rcases hgood with hclear | ⟨hok, hstate, hap⟩
            · exact Bool.false_ne_true (hclear.symm.trans hval)
            · exact hbad.elim (fun h => Bool.false_ne_true (h.symm.trans hok)) (fun h => h.elim (fun h => h hstate) (fun h => h hap))
        rw [hallowed] at hdo
        exact hdo
    · have hemit := rttr_emits hr hrr hz
      rw [tableImage_named hsel hcore] at hemit
      exact hemit
    · have hemit := rttr_emits hr hrr hz
      rw [tableImage_none hnone] at hemit
      exact hemit
  · have hcommit := rttCommit_one (lk := lk) (round := round) hx
    exact ⟨by rw [hcommit], by rw [hcommit]⟩
  · rintro s o all need lo hi hall hneed h hnamed
    subst hall
    rcases hnamed with ⟨hall, rfl, rfl⟩ | ⟨-, l, r, hl, hr, hzl, hzr, hl64, hr64, hr0, rfl, rfl⟩
    · have hnone : need = {} := by rw [hneed, if_pos hall]
      refine rinv_does hneed h ?_ ?_ (.inl hall)
      · rw [hnone]; rfl
      · rw [hnone]; rfl
    · rw [← Nat.add_sub_cancel_left (n := l.word) (m := r.word)] at hr64 hr0
      refine rinv_does hneed h ?_ ?_ (.inr ⟨?_, ?_, hl64, hr64, hr0⟩)
      · rw [hl]; rfl
      · rw [hr]; rfl
      · rw [hl]; exact hzl
      · rw [hr]; exact hzr
  · obtain ⟨hold, hmiss⟩ := invalMarker_misses hx
    exact ⟨hold, fun v hv hnone => misses_of (hmiss v hv hnone)⟩
  · intro s o l pr c need hneed hr hl hord hc
    subst hneed
    intro mine
    have hdo := rfence_does hr hl hord hc
    refine ⟨fun hnone => ?_, fun hsome => ⟨s.fenceReq c, rfl, rfl, rfl, rfl, ?_⟩⟩
    · rw [show (s.part s.firing.part).rinvs.any (RInv.ofChain c) = false from hnone] at hdo
      exact Does.emits hdo
    · rw [show (s.part s.firing.part).rinvs.any (RInv.ofChain c) = true from hsome] at hdo
      exact hdo

end Sys2Proof.Machine

/-! PROOFS. A walk of the range directory (20 R357 R358). -/

namespace Sys2Proof.Machine

section
variable {s : State} {p : Partition} {a : Nat}

/-! ### The binary search -/

/-- The entries of a directory stand in order (20 R353). -/
def DirectoryInOrder (s : State) (p : Partition) : Prop :=
  ∀ i j, i < j → j < p.rdirCnt → entBase (dirEntry s p i) ≤ entLimit (dirEntry s p i) ∧ entLimit (dirEntry s p i) ≤ entBase (dirEntry s p j)

theorem entHas_iff (w : List Nat) (a : Nat) : entHas w a = true ↔ entBase w ≤ a ∧ a < entLimit w := decide_eq_true_iff

/-- In a directory in order, an entry begins at or below an address just where it is not past the entry that contains it. -/
theorem begins_below_iff (hord : DirectoryInOrder s p) {j mid : Nat} (hj : j < p.rdirCnt) (hhas : entHas (dirEntry s p j) a = true) (hmid : mid < p.rdirCnt) :
    entBase (dirEntry s p mid) ≤ a ↔ mid ≤ j := by
  obtain ⟨hlow, hhigh⟩ := (entHas_iff _ _).mp hhas
  constructor
  · intro hle
    refine Decidable.byContradiction (fun hnot => ?_)
    have hsep := (hord j mid (by omega) hmid).2
    omega
  · intro hle
    rcases Nat.lt_or_eq_of_le hle with hlt | rfl
    · have hsep := hord mid j hlt hj
      omega
    · exact hlow

theorem walkSearch_finds (hord : DirectoryInOrder s p) {j : Nat} (hj : j < p.rdirCnt) (hhas : entHas (dirEntry s p j) a = true) (n : Nat) :
    ∀ lo hi, lo ≤ j → j < hi → hi ≤ p.rdirCnt → hi - lo ≤ 2 ^ n → walkSearch s p a n lo hi = j := by
  induction n with
  | zero =>
    intro lo hi hlo hhi _ hn
    show lo = j
    omega
  | succ n ih =>
    intro lo hi hlo hhi hcnt hn
    unfold walkSearch
    by_cases hwide : hi - lo > 1
    · have hhalf : 2 ^ (n + 1) = 2 * 2 ^ n := by rw [Nat.pow_succ, Nat.mul_comm]
      have hmid := begins_below_iff hord hj hhas (mid := (lo + hi) / 2) (by omega)
      rw [if_pos hwide]
      dsimp only
      by_cases hbelow : entBase (dirEntry s p ((lo + hi) / 2)) ≤ a
      · rw [if_pos hbelow]
        exact ih _ _ (hmid.mp hbelow) hhi hcnt (by omega)
      · have hj' : j < (lo + hi) / 2 := Nat.lt_of_not_le (fun h => hbelow (hmid.mpr h))
        rw [if_neg hbelow]
        exact ih _ _ hlo hj' (by omega) (by omega)
    · rw [if_neg hwide]
      omega

theorem walkSearch_lt (n : Nat) : ∀ lo hi, lo < hi → walkSearch s p a n lo hi < hi := by
  induction n with
  | zero => exact fun _ _ h => h
  | succ n ih =>
    intro lo hi h
    unfold walkSearch
    dsimp only
    split
    · split
      · exact ih _ _ (by omega)
      · exact Nat.lt_of_lt_of_le (ih _ _ (by omega)) (by omega)
    · exact h

theorem walkResult_empty (h : p.rdirCnt = 0) : walkResult s p a = .error fTranslation := if_pos h

theorem walkResult_misses (hcnt : 0 < p.rdirCnt) (h : ∀ i, i < p.rdirCnt → entHas (dirEntry s p i) a = false) : walkResult s p a = .error fTranslation := by
  unfold walkResult
  rw [if_neg (Nat.pos_iff_ne_zero.mp hcnt)]
  dsimp only
  rw [h _ (walkSearch_lt 64 0 _ hcnt)]
  rfl

/-- Where the directory is in order, a walk's result is that of the entry that contains the address. -/
theorem walkResult_of_has (hord : DirectoryInOrder s p) (hcap : p.rdirCnt ≤ 2 ^ 20) {j : Nat} (hj : j < p.rdirCnt) (hhas : entHas (dirEntry s p j) a = true) :
    walkResult s p a = if entOk (dirEntry s p j) then .ok (dirEntry s p j) else .error fDirectory := by
  unfold walkResult
  rw [if_neg (Nat.ne_of_gt (Nat.zero_lt_of_lt hj)), walkSearch_finds hord hj hhas 64 0 _ (Nat.zero_le _) hj (Nat.le_refl _) (by omega)]
  dsimp only
  rw [hhas]
  cases entOk (dirEntry s p j) <;> rfl

/-! ### The walk -/

variable {core lk : Nat} {w : Walk}

theorem exec_walk_waits (hlk : (s.core core).lk = some lk) (h : (s.part (lkPart lk)).dlock = true ∨ (s.part (lkPart lk)).busy = true) : exec (.rangeWalk core) s = .next s := by
  show execRangeWalk core s = _
  unfold execRangeWalk
  dsimp only
  rw [hlk]
  exact if_pos (Bool.or_eq_true_iff.mpr h)

/-- A walk that ends, by its result. -/
theorem exec_walk_ends (hlk : (s.core core).lk = some lk) (hd : (s.part (lkPart lk)).dlock = false) (hb : (s.part (lkPart lk)).busy = false)
    (hw : (s.core core).walks.find? (fun x => x.fault.isNone) = some w) :
    exec (.rangeWalk core) s = match walkResult s (s.part (lkPart lk)) w.addr with
      | .ok e => .next (s.setCore core { (s.core core).install s.fc e with walks := ((s.core core).install s.fc e).walks.filter (fun x => x.fault.isSome || !entHas e x.addr) })
      | .error code => .next (s.setCore core { s.core core with walks := (s.core core).walks.map (fun x => if x = w then { x with fault := some code } else x) }) := by
  show execRangeWalk core s = _
  unfold execRangeWalk
  dsimp only
  rw [hlk, hd, hb, hw]
  dsimp only
  cases walkResult s (s.part (lkPart lk)) w.addr <;> rfl

theorem exec_walk_fails {code : Nat} (hlk : (s.core core).lk = some lk) (hd : (s.part (lkPart lk)).dlock = false) (hb : (s.part (lkPart lk)).busy = false)
    (hw : (s.core core).walks.find? (fun x => x.fault.isNone) = some w) (hres : walkResult s (s.part (lkPart lk)) w.addr = .error code) :
    exec (.rangeWalk core) s = .next (s.setCore core { s.core core with walks := (s.core core).walks.map (fun x => if x = w then { x with fault := some code } else x) }) := by
  rw [exec_walk_ends hlk hd hb hw, hres]

/-- The lowest invalid entry of a table is where a walk installs (20 R355). -/
theorem installAt_lowest {c : Core} {k : Nat} (hk : k < 32) (hfree : mget c.rtt k = none) (hlow : ∀ i, i < k → (mget c.rtt i).isSome = true) : installAt c = some k := by
  have hfind : (List.range 32).find? (fun i => (mget c.rtt i).isNone) = some k := by
    refine List.find?_range_eq_some.mpr ⟨by rw [hfree]; rfl, List.mem_range.mpr hk, fun i hi => ?_⟩
    rw [Option.isNone_eq_false_iff.mpr (hlow i hi)]
    rfl
  unfold installAt
  rw [hfind]

theorem install_eq {c : Core} {k : Nat} (h : installAt c = some k) (fc : Nat) (e : List Nat) : c.install fc e = { c with rtt := mset c.rtt k { words := e, lock := false, used := fc } } := by
  unfold Core.install
  rw [h]

theorem exec_walk_installs {e : List Nat} {k : Nat} (hlk : (s.core core).lk = some lk) (hd : (s.part (lkPart lk)).dlock = false) (hb : (s.part (lkPart lk)).busy = false)
    (hw : (s.core core).walks.find? (fun x => x.fault.isNone) = some w) (hres : walkResult s (s.part (lkPart lk)) w.addr = .ok e) (hk : installAt (s.core core) = some k) :
    exec (.rangeWalk core) s = .next (s.setCore core { s.core core with
      rtt := mset (s.core core).rtt k { words := e, lock := false, used := s.fc }, walks := (s.core core).walks.filter (fun x => x.fault.isSome || !entHas e x.addr) }) := by
  rw [exec_walk_ends hlk hd hb hw, hres]
  dsimp only
  rw [install_eq hk]

theorem walk_left {e : List Nat} {x : Walk} (h : x ∈ (s.core core).walks.filter (fun x => x.fault.isSome || !entHas e x.addr)) :
    x ∈ (s.core core).walks ∧ (x.fault = none → entHas e x.addr = false) := by
  obtain ⟨hmem, hkeep⟩ := List.mem_filter.mp h
  refine ⟨hmem, fun hnone => ?_⟩
  rw [hnone] at hkeep
  exact Bool.not_eq_true' _ ▸ hkeep

end

/-- Settles O44: the binary search of a directory in order ends at the entry that contains the address, by the interval that halves around it. -/
theorem walksFindTheirEntry : Obligations.WalksFindTheirEntry := by
  unfold Obligations.WalksFindTheirEntry
  intro s core lk w p hlk hp hw d failed
  subst hp
  refine ⟨exec_walk_waits hlk, fun hd hb => ⟨fun hcnt => ?_, fun hord hcap => ⟨fun hmiss hcnt => ?_, fun j hj hhas => ⟨fun hbad => ?_, fun hok k hk hfree hlow => ?_⟩⟩⟩⟩
  · exact exec_walk_fails hlk hd hb hw (walkResult_empty hcnt)
  · exact exec_walk_fails hlk hd hb hw (walkResult_misses hcnt hmiss)
  · exact exec_walk_fails hlk hd hb hw ((walkResult_of_has hord hcap hj hhas).trans (if_neg (fun h => Bool.false_ne_true (hbad.symm.trans h))))
  · refine ⟨_, exec_walk_installs hlk hd hb hw ((walkResult_of_has hord hcap hj hhas).trans (if_pos hok)) (installAt_lowest hk hfree hlow), ?_, fun x hx => ?_, rfl, fun n hn => ?_⟩
    · rw [State.core_setCore_same]
    · rw [State.core_setCore_same] at hx
      exact walk_left hx
    · exact State.core_setCore_other _ _ _ _ hn

end Sys2Proof.Machine

/-! PROOFS. Boot and the state of reset (23 R403 R415-R417). -/

namespace Sys2Proof.Machine

section
variable {s : State}

/-! ### Boot -/

theorem bitsAt_zero (x k : Nat) : bitsAt x 0 k = x % 2 ^ k := by
  unfold bitsAt
  rw [Nat.shiftRight_zero]

theorem exec_bootGo_starts {v : BitVec 64} (hgo : v.getLsbD 63 = true) (hst : s.hub.bstate = 0 ∨ s.hub.bstate = 3) :
    exec (.bootGo v) s = .next { s with hub := { s.hub with bstate := 1, len := v.toNat % 2 ^ 22, reason := 0 } } := by
  have hfree : (s.hub.bstate == 0 || s.hub.bstate == 3) = true := by
    rw [Bool.or_eq_true, beq_iff_eq, beq_iff_eq]
    exact hst
  show execBootGo v s = _
  unfold execBootGo
  dsimp only
  rw [hfree, hgo, bitsAt_zero]
  rfl

theorem exec_bootGo_nothing {v : BitVec 64} (h : s.hub.bstate = 1 ∨ s.hub.bstate = 2 ∨ v.getLsbD 63 = false) : exec (.bootGo v) s = .next s := by
  show execBootGo v s = _
  refine if_pos ?_
  rcases h with h | h | h <;> rw [h]
  · rfl
  · rfl
  · exact Bool.or_true _

/-- The reason for which an image is refused: the first check that it does not pass (23 R415). -/
def bootReason (h : Hub) : Option Nat :=
  if bootHeaderOk h.bootWin h.len = false then some 1
  else if Config.signatureOk h.bootWin h.len = false then some 2
  else if Config.certificateOk h.bootWin h.len = false then some 3
  else if Config.configRecordOk h.bootWin h.len = false then some 4
  else none

theorem bootReason_of {h : Hub} {a b c d : Bool} (ha : bootHeaderOk h.bootWin h.len = a) (hb : Config.signatureOk h.bootWin h.len = b) (hc : Config.certificateOk h.bootWin h.len = c)
    (hd : Config.configRecordOk h.bootWin h.len = d) :
    bootReason h = if a = false then some 1 else if b = false then some 2 else if c = false then some 3 else if d = false then some 4 else none := by
  unfold bootReason
  rw [ha, hb, hc, hd]

theorem exec_bootVerifyDone (hst : s.hub.bstate = 1) :
    exec .bootVerifyDone s = .next { s with hub := match bootReason s.hub with
      | some r => { s.hub with bstate := 3, reason := r }
      | none => { s.hub with bstate := 2, ready := true, image := s.hub.bootWin, imageLen := s.hub.len, aliasKey := Config.aliasKey s.hub.bootWin s.hub.len } } := by
  show execBootVerifyDone s = _
  unfold execBootVerifyDone bootReason
  dsimp only
  rw [if_neg (not_not_intro hst)]
  cases bootHeaderOk s.hub.bootWin s.hub.len with
  | false => rfl
  | true =>
    cases Config.signatureOk s.hub.bootWin s.hub.len with
    | false => rfl
    | true =>
      cases Config.certificateOk s.hub.bootWin s.hub.len with
      | false => rfl
      | true => cases Config.configRecordOk s.hub.bootWin s.hub.len <;> rfl

theorem exec_bootVerifyDone_refused {r : Nat} (hst : s.hub.bstate = 1) (h : bootReason s.hub = some r) : exec .bootVerifyDone s = .next { s with hub := { s.hub with bstate := 3, reason := r } } := by
  rw [exec_bootVerifyDone hst, h]

theorem exec_getMeasurements (hst : s.hub.bstate = 2) :
    ∃ d₁ d₂ d₃ sig, exec .getMeasurements s = .next { s with hub := { s.hub with measured := [d₁, d₂, BitVec.ofNat 512 (bootField s.hub.image 4), d₃, sig] } } :=
  ⟨_, _, _, _, if_neg (not_not_intro hst)⟩

/-! ### Reset -/

theorem reset_launch (lk : Nat) : State.reset.launch lk = none := by
  unfold State.launch
  split <;> rfl

theorem reset_dies : ∀ d ∈ State.reset.dies, d.st = 0 ∧ d.onl = true := by
  intro d hd
  rw [show State.reset.dies = List.replicate 4 {} from rfl] at hd
  rw [List.eq_of_mem_replicate hd]
  exact ⟨rfl, rfl⟩

end

/-- Settles O56: the checks of the image in their order, and the fields of the state of reset. -/
theorem bootAndReset : Obligations.BootAndReset := by
  unfold Obligations.BootAndReset
  refine ⟨fun s v hgo hst => exec_bootGo_starts hgo hst, fun s v h => exec_bootGo_nothing h, fun s hst => ?_, fun s hst => ?_, fun s => rfl, rfl, fun a => rfl, fun k => ⟨rfl, rfl⟩, reset_launch, rfl,
    reset_dies, rfl, rfl, rfl, rfl, rfl, fun n => ⟨rfl, rfl, rfl, rfl, rfl, rfl, rfl, rfl, rfl, rfl, rfl, rfl, rfl, rfl, rfl, rfl, rfl, rfl, rfl, rfl, rfl, rfl⟩⟩
  · intro h refused header signature certificate record
    refine ⟨fun hh => ?_, fun hh hs => ?_, fun hh hs hc => ?_, fun hh hs hc hr => ?_, fun hh hs hc hr => ?_⟩
    · exact exec_bootVerifyDone_refused hst (if_pos hh)
    · exact exec_bootVerifyDone_refused hst (bootReason_of hh hs rfl rfl)
    · exact exec_bootVerifyDone_refused hst (bootReason_of hh hs hc rfl)
    · exact exec_bootVerifyDone_refused hst (bootReason_of hh hs hc hr)
    · refine ⟨_, (exec_bootVerifyDone hst).trans (by rw [bootReason_of (h := s.hub) hh hs hc hr]), rfl, rfl, rfl, rfl⟩
  · obtain ⟨d₁, d₂, d₃, sig, hexec⟩ := exec_getMeasurements hst
    exact ⟨_, hexec, rfl, rfl, rfl⟩

end Sys2Proof.Machine

/-! PROOFS. The writes of registers (18 R316, 19 R346, 20 R370, 21 R379 R392). -/

namespace Sys2Proof.Machine

section
variable {s : State} {part : Nat}

/-! ### The trace modes -/

theorem trLeave_other (h : (s.part part).trcMode ≠ 1) : s.trLeave part = s := if_pos h

theorem trOff_eq (h : (s.part part).tracked = false) : s.trOff part = (s.trLeave part).setPart part { (s.trLeave part).part part with trcMode := 0 } := by
  unfold State.trOff
  exact if_neg (fun ht => Bool.false_ne_true (h.symm.trans ht))

/-- The record that ends a recording (19 R346). -/
theorem trailer_word (ovf : Bool) : trWord trTRAILER 0 (if ovf then 1 else 0) = (if ovf then 1 else 0) * 2 ^ 20 + 15 := by
  cases ovf with
  | false => decide
  | true => decide

theorem trLeave_record {a : Nat} (hmode : (s.part part).trcMode = 1) (hroom : (s.part part).trcPos < (s.part part).trcLen.toNat)
    (hpin : s.pinned part ((s.part part).trcBase.toNat + 16 * (s.part part).trcPos) 16 true = some a) :
    s.trLeave part = ({ s with mem := writeBytes s.mem a (leBytes 8 ((if (s.part part).trcOvf then 1 else 0) * 2 ^ 20 + 15) ++ leBytes 8 (s.part part).trcPos) } : State).setPart part
      { s.part part with trcPos := (s.part part).trcPos + 1, trcRec := (s.part part).trcPos + 1 } := by
  have hstore (w0 w1 : Nat) : s.trStore part (s.part part).trcPos w0 w1 = some { s with mem := writeBytes s.mem a (leBytes 8 w0 ++ leBytes 8 w1) } := by
    unfold State.trStore trAddr
    dsimp only
    rw [if_neg (Nat.not_le.mpr hroom), hpin]
    rfl
  unfold State.trLeave
  dsimp only
  rw [if_neg (not_not_intro hmode), hstore, trailer_word]
  rfl

/-- The word that a recording ends with names no overflow (19 R346). -/
theorem trailer_iff (a : Nat) : trType a = trTRAILER ∧ bitAt (trA a) 0 = false ↔ a % 2 ^ 4 = 15 ∧ a.testBit 20 = false := by
  have htype : trType a = a % 2 ^ 4 := bitsAt_zero a 4
  have hbit : bitAt (trA a) 0 = a.testBit 20 := by
    unfold bitAt trA bitsAt
    rw [Nat.testBit_mod_two_pow, Nat.testBit_shiftRight]
    rfl
  rw [htype, hbit]
  rfl

/-- What the recording that bind mode takes has to be (19 R346). -/
def Partition.bindable (p : Partition) (a : Nat) : Prop := trType a = trTRAILER ∧ bitAt (trA a) 0 = false ∧ p.trcOvf = false ∧ 0 < p.trcRec

theorem bindable_iff (p : Partition) (a : Nat) : p.bindable a ↔ 0 < p.trcRec ∧ p.trcOvf = false ∧ a % 2 ^ 4 = 15 ∧ a.testBit 20 = false := by
  unfold Partition.bindable
  rw [← and_assoc, trailer_iff]
  exact ⟨fun ⟨⟨htype, hbit⟩, hovf, hrec⟩ => ⟨hrec, hovf, htype, hbit⟩, fun ⟨hrec, hovf, htype, hbit⟩ => ⟨⟨htype, hbit⟩, hovf, hrec⟩⟩

theorem trBind_of_bindable {a b : Nat} (htrk : (s.part part).tracked = false) (hmode : (s.part part).trcMode ≠ 1) (hread : s.trRead part ((s.part part).trcRec - 1) = some (a, b)) (h : (s.part part).bindable a) :
    s.trBind part = s.setPart part { s.part part with trcMode := 2, trcEnd := (s.part part).trcRec - 1, trcPos := 0, trcUsed := [] } := by
  unfold State.trBind
  dsimp only
  rw [if_neg (by rw [htrk]; exact Bool.false_ne_true), trLeave_other hmode, hread]
  exact if_pos h

theorem trBind_refused {a b : Nat} (htrk : (s.part part).tracked = false) (hmode : (s.part part).trcMode ≠ 1) (hread : s.trRead part ((s.part part).trcRec - 1) = some (a, b)) (h : ¬ (s.part part).bindable a) :
    s.trBind part = s.setPart part { s.part part with trcErr := true } := by
  unfold State.trBind
  dsimp only
  rw [if_neg (by rw [htrk]; exact Bool.false_ne_true), trLeave_other hmode, hread]
  exact if_neg h

theorem trace_refused (h : (s.part part).tracked = true) :
    ∀ i ∈ ([.traceModeOff part, .traceModeRecord part, .traceModeBind part] : List Instr), exec i s = .next (s.setPart part { s.part part with trcErr := true }) := by
  simp only [List.forall_mem_cons]
  exact ⟨congrArg _ (if_pos h), congrArg _ (if_pos h), congrArg _ (if_pos h), List.forall_mem_nil _⟩

/-! ### Exact mode -/

/-- Every listed core's STEP is 0. -/
def State.stepsCleared (s : State) (ks : List Nat) : State := ks.foldl (fun s k => s.setCore k { s.core k with step := 0 }) s

theorem stepsCleared_part (ks : List Nat) (n : Nat) : (s.stepsCleared ks).part n = s.part n := by
  unfold State.stepsCleared
  induction ks generalizing s with
  | nil => rfl
  | cons k ks ih => exact ih

theorem stepsCleared_keeps {ks : List Nat} {n : Nat} (h : (s.core n).step = 0) : ((s.stepsCleared ks).core n).step = 0 := by
  unfold State.stepsCleared
  induction ks generalizing s with
  | nil => exact h
  | cons k ks ih =>
    refine ih ?_
    by_cases hk : n = k
    · rw [hk, State.core_setCore_same]
    · rw [State.core_setCore_other _ _ _ _ hk]
      exact h

theorem stepsCleared_step {ks : List Nat} {n : Nat} (h : n ∈ ks) : ((s.stepsCleared ks).core n).step = 0 := by
  induction ks generalizing s with
  | nil => exact absurd h List.not_mem_nil
  | cons k ks ih =>
    rcases List.mem_cons.mp h with rfl | hin
    · exact stepsCleared_keeps (s := s.setCore n { s.core n with step := 0 }) (by rw [State.core_setCore_same])
    · exact ih (s := s.setCore k { s.core k with step := 0 }) hin

theorem exec_exactModeSet : exec (.exactModeSet part) s = .next ((s.setPart part { s.part part with exact := true, tlim := (s.part part).tlim % 8 }).stepsCleared (s.part part).cores) := by
  have hbit : bitAt (1 + (s.part part).tlim * 2 ^ 4) 0 = true := by
    unfold bitAt
    rw [Nat.testBit_zero]
    exact decide_eq_true (by omega)
  have hlim : bitsAt (1 + (s.part part).tlim * 2 ^ 4) 4 3 = (s.part part).tlim % 8 := by
    unfold bitsAt
    rw [Nat.shiftRight_eq_div_pow]
    omega
  show Host.Outcome.next (s.setTrim part (1 + (s.part part).tlim * 2 ^ 4)) = _
  unfold State.setTrim
  dsimp only
  rw [hbit, hlim]
  rfl

/-! ### Plain registers -/

theorem plainWrite_other {i : Nat} (v : BitVec 64) (h : i ∉ [0x023, 0x103, 0x181, 0x184, 0x185, 0x201, 0x202]) : s.plainWrite part i v = s := by
  simp only [List.mem_cons, List.not_mem_nil, or_false, not_or] at h
  unfold State.plainWrite
  dsimp only
  split
  · exact absurd rfl h.1
  · exact absurd rfl h.2.1
  · exact absurd rfl h.2.2.1
  · exact absurd rfl h.2.2.2.1
  · exact absurd rfl h.2.2.2.2.1
  · exact absurd rfl h.2.2.2.2.2.1
  · exact absurd rfl h.2.2.2.2.2.2
  · rfl

theorem plainWrite_rbmax (v : BitVec 64) : s.plainWrite part 0x181 v = if v.toNat % 16 = 0 then s else s.setPart part { s.part part with rbmax := v.toNat % 16 } := by
  have hlow : bitsAt v.toNat 0 4 = v.toNat % 16 := bitsAt_zero _ _
  show (if bitsAt v.toNat 0 4 = 0 then s else s.setPart part { s.part part with rbmax := bitsAt v.toNat 0 4 }) = _
  rw [hlow]

/-- A write of a trace register, which a tracked launch refuses with ERR (19 R346). -/
theorem traceReg_eq (q : Partition) : (if (s.part part).tracked then s.trRefuse part else s.setPart part q) = s.setPart part (if (s.part part).tracked then { s.part part with trcErr := true } else q) := by
  cases (s.part part).tracked <;> rfl

theorem setDirCount_locked {v : Nat} (h : (s.part part).dlock = true) : s.setDirCount part v = s.setPart part { s.part part with rdirCnt := v % 2 ^ 32 } := if_pos h

theorem setDirCount_unlocked {v : Nat} (h : (s.part part).dlock = false) : s.setDirCount part v = s := if_neg (by rw [h]; exact Bool.false_ne_true)

theorem setPeriod_within {lk v : Nat} {l : Launch} (hl : s.launch lk = some l) (hlow : 128 ≤ v) (hhigh : v ≤ 65536) : (s.setPeriod lk v).launch lk = some { l with period := v } := by
  unfold State.setPeriod
  rw [if_pos ⟨hlow, hhigh⟩]
  exact mapLaunch_launch_same s _ hl

theorem setPeriod_outside {lk v : Nat} (h : v < 128 ∨ 65536 < v) : s.setPeriod lk v = s := if_neg (by omega)

end

/-- Settles O53: each register's write by its equation. -/
theorem registerWrites : Obligations.RegisterWrites := by
  unfold Obligations.RegisterWrites
  refine ⟨fun s part p hp => ?_, fun s lk v l hl => ⟨fun hlow hhigh => ⟨_, rfl, setPeriod_within hl hlow hhigh⟩, fun h => congrArg _ (setPeriod_outside h)⟩⟩
  subst hp
  refine ⟨trace_refused, fun htrk => ⟨congrArg _ (if_neg (by rw [htrk]; exact Bool.false_ne_true)), fun hmode => ?_, fun hmode hroom a hpin => ?_, fun hmode a b hread => ⟨fun hrec hovf htype hbit => ?_, fun hbad => ?_⟩⟩,
    fun t ht => ?_, ⟨_, exec_exactModeSet⟩, rfl, fun v => ⟨fun h => congrArg _ (setDirCount_locked h), fun h => congrArg _ (setDirCount_unlocked h)⟩, fun v => ?_⟩
  · exact congrArg _ ((trOff_eq htrk).trans (by rw [trLeave_other hmode]))
  · have hleave := trLeave_record hmode hroom hpin
    refine ⟨_, congrArg Host.Outcome.next ((trOff_eq htrk).trans (by rw [hleave])), rfl, ?_⟩
    rw [State.part_setPart_same, State.part_setPart_same]
  · exact congrArg _ (trBind_of_bindable htrk hmode hread ((bindable_iff _ _).mpr ⟨hrec, hovf, htype, hbit⟩))
  · refine congrArg _ (trBind_refused htrk hmode hread (fun hgood => ?_))
    obtain ⟨hrec, hovf, htype, hbit⟩ := (bindable_iff _ _).mp hgood
    rcases hbad with h | h | h | h
    · omega
    · exact Bool.false_ne_true (hovf.symm.trans h)
    · exact h htype
    · exact Bool.false_ne_true (hbit.symm.trans h)
  · rw [exec_exactModeSet] at ht
    obtain rfl := (Host.Outcome.next.inj ht).symm
    exact ⟨by rw [stepsCleared_part, State.part_setPart_same], fun k hk => stepsCleared_step hk⟩
  · exact ⟨rfl, rfl, congrArg Host.Outcome.next (plainWrite_rbmax v), rfl, rfl, congrArg Host.Outcome.next (traceReg_eq _), congrArg Host.Outcome.next (traceReg_eq _), fun i hi => congrArg Host.Outcome.next (plainWrite_other v hi)⟩

end Sys2Proof.Machine

/-! PROOFS. The fault queue and error replies (18 R323, 23 R408 R409). -/

namespace Sys2Proof.Machine

/-! ### What leaves device memory and the units as they are -/

/-- Device memory and the units on their way to it are the same. -/
structure SameStore (s t : State) : Prop where
  mem : t.mem = s.mem
  units : t.units = s.units

theorem SameStore.refl (s : State) : SameStore s s := ⟨rfl, rfl⟩

theorem SameStore.trans {s t u : State} (h : SameStore s t) (h' : SameStore t u) : SameStore s u := ⟨h'.mem.trans h.mem, h'.units.trans h.units⟩

theorem SameStore.foldl {α : Type} {f : State → α → State} (h : ∀ s x, SameStore s (f s x)) (xs : List α) (s : State) : SameStore s (xs.foldl f s) := by
  induction xs generalizing s with
  | nil => exact .refl s
  | cons x xs ih => exact (h s x).trans (ih _)

section
variable (s : State)

theorem sameStore_halt (n : Nat) : SameStore s (s.halt n) := by
  unfold State.halt
  dsimp only
  split
  · exact .refl s
  · exact ⟨rfl, rfl⟩

theorem sameStore_answer (id : Nat) (after : Option Nat) (outs : List (Nat × Token)) (fl : Nat) : SameStore s (s.answer id after outs fl) := by
  unfold State.answer
  split
  · exact .refl s
  · exact ⟨rfl, rfl⟩

theorem sameStore_abandon (id : Nat) : SameStore s (s.abandon id) := by
  unfold State.abandon
  split
  · exact .refl s
  · exact ⟨rfl, rfl⟩

theorem sameStore_notice (lk core code info aux : Nat) (o : Origin) : SameStore s (s.notice lk core code info aux o) := by
  unfold State.notice
  split
  · exact sameStore_halt s _
  · exact ⟨rfl, rfl⟩

theorem sameStore_faultNow (a : Arrival) (code info : Nat) : SameStore s (s.faultNow a code info) := (sameStore_abandon s a.req).trans (sameStore_notice _ _ _ _ _ _ _)

theorem sameStore_letGo : SameStore s s.letGo := by
  unfold State.letGo
  refine .trans ?_ (.foldl (fun t x => ?_) _ _)
  · exact ⟨rfl, rfl⟩
  · cases x.granted with
    | none => exact .refl t
    | some g => exact sameStore_answer t _ _ _ _

theorem sameStore_wakeFences : SameStore s s.wakeFences := by
  unfold State.wakeFences
  refine .foldl (fun t r => ?_) _ _
  split
  · split
    · exact sameStore_answer t _ _ _ _
    · exact .refl t
  · exact .refl t

theorem sameStore_wakeResolved : SameStore s s.wakeResolved := by
  unfold State.wakeResolved
  refine .trans ?_ (.foldl (fun t x => ?_) _ _)
  · exact ⟨rfl, rfl⟩
  · split
    · exact sameStore_answer t _ _ _ _
    · exact .refl t

theorem sameStore_wake : SameStore s s.wake := ((sameStore_wakeResolved s).trans (sameStore_wakeFences _)).trans (sameStore_letGo _)

end

section
variable {s : State}

/-! ### The fault queue -/

variable {core part : Nat} {r : FRec} {rest : List FRec}

theorem exec_enqueue_full (hpart : s.partOfCore core = some part) (hrecs : (s.core core).frecs = r :: rest) (hfull : 2 ^ (s.part part).fqlog ≤ (s.part part).fq.length) :
    exec (.faultRecordEnqueue core) s = .next s := by
  show execFaultRecordEnqueue core s = _
  unfold execFaultRecordEnqueue
  rw [hpart, hrecs]
  exact if_pos (.inr hfull)

/-- The address of the ring's place for the next record (18 R323). -/
def Partition.ringPlace (p : Partition) : Nat := p.fqBase.toNat + 64 * (p.fser % 2 ^ p.fqlog)

/-- The virtual functions that vector 1 goes to (18 R323). -/
def State.vectorOne (s : State) (part : Nat) : List (Nat × Nat) :=
  if (s.part part).fq.isEmpty then (s.hub.vfs.filter (fun x => x.2 == part)).map (fun x => (x.1, 1)) else []

/-- The oldest record at a core's port stands in the queue and in the ring (18 R323). -/
def State.enqueued (s : State) (core part a : Nat) (r : FRec) (rest : List FRec) : State :=
  let p := s.part part
  let q : Queued := { fser := p.fser, record := r }
  ({ s.setCore core { s.core core with frecs := rest ++ (s.core core).fwait.take 1, fwait := (s.core core).fwait.drop 1 } with
     mem := writeBytes s.mem a (q.words.flatMap (leBytes 8)), hub := { s.hub with msix := s.hub.msix ++ s.vectorOne part } } : State).setPart part
    { p with fq := p.fq ++ [q], fser := p.fser + 1, sites := p.nameSite r.siteId p.fser }

theorem exec_enqueue_unpinned (hpart : s.partOfCore core = some part) (hrecs : (s.core core).frecs = r :: rest) (hlog : 4 ≤ (s.part part).fqlog)
    (hroom : (s.part part).fq.length < 2 ^ (s.part part).fqlog) (hpin : s.pinned part (s.part part).ringPlace 64 true = none) : exec (.faultRecordEnqueue core) s = .next (s.halt part) := by
  show execFaultRecordEnqueue core s = _
  unfold execFaultRecordEnqueue
  rw [hpart, hrecs]
  dsimp only
  rw [if_neg (by omega), show s.pinned part ((s.part part).fqBase.toNat + 64 * ((s.part part).fser % 2 ^ (s.part part).fqlog)) 64 true = none from hpin]

theorem exec_enqueue_room {a : Nat} (hpart : s.partOfCore core = some part) (hrecs : (s.core core).frecs = r :: rest) (hlog : 4 ≤ (s.part part).fqlog)
    (hroom : (s.part part).fq.length < 2 ^ (s.part part).fqlog) (hpin : s.pinned part (s.part part).ringPlace 64 true = some a) :
    exec (.faultRecordEnqueue core) s = .next (s.enqueued core part a r rest) := by
  show execFaultRecordEnqueue core s = _
  unfold execFaultRecordEnqueue
  rw [hpart, hrecs]
  dsimp only
  rw [if_neg (by omega), show s.pinned part ((s.part part).fqBase.toNat + 64 * ((s.part part).fser % 2 ^ (s.part part).fqlog)) 64 true = some a from hpin]
  rfl

theorem enqueued_core (a : Nat) : (s.enqueued core part a r rest).core core = { s.core core with frecs := rest ++ (s.core core).fwait.take 1, fwait := (s.core core).fwait.drop 1 } :=
  State.core_setCore_same s core _

theorem enqueued_part (a : Nat) : (s.enqueued core part a r rest).part part = { s.part part with
    fq := (s.part part).fq ++ [{ fser := (s.part part).fser, record := r }], fser := (s.part part).fser + 1, sites := (s.part part).nameSite r.siteId (s.part part).fser } := State.part_setPart_same _ _ _

theorem nameSite_named {p : Partition} {id fser : Nat} (hid : id ≠ 0) : ∀ x ∈ p.nameSite id fser, x.id = id → x.fser = some fser := by
  unfold Partition.nameSite
  rw [if_neg hid]
  intro x hx hxid
  obtain ⟨y, -, rfl⟩ := List.mem_map.mp hx
  by_cases hy : y.id = id
  · rw [if_pos hy]
  · rw [if_neg hy] at hxid
    exact absurd hxid hy

theorem vectorOne_mem (hempty : (s.part part).fq = []) {v : Nat × Nat} (hv : v ∈ s.hub.vfs) (hpart : v.2 = part) : (v.1, 1) ∈ s.vectorOne part := by
  unfold State.vectorOne
  rw [hempty]
  exact List.mem_map.mpr ⟨v, List.mem_filter.mpr ⟨hv, beq_iff_eq.mpr hpart⟩, rfl⟩

/-! ### Error replies -/

theorem exec_errorReply_req {r : Req} {p : Part} (hreq : s.reqs.find? (fun x => x.id == r.id && !x.arrived) = some r) (hpart : r.parts.find? (fun x => s.partLost r.admitted x.space x.addr) = some p) :
    exec (.errorReply r.id) s = .next (s.replyAccess r fDieOffline p.addr p.prog) := by
  show execErrorReply r.id s = _
  unfold execErrorReply
  rw [hreq]
  dsimp only
  rw [hpart]

theorem replyAccess_load {r : Req} {code addr prog tag scale : Nat} {v : Bool} (hop : r.op = none) (hcancel : r.cancel = true) (hkind : r.kind = .load tag v scale) :
    s.replyAccess r code addr prog = s.answer r.id none [(0, poisonTok { { s with cur := r.site }.firing with thr := r.thr } tag v code)] := by
  unfold State.replyAccess
  rw [hop]
  dsimp only
  rw [hcancel, hkind]
  rfl

theorem replyAccess_held {r : Req} {code addr prog : Nat} (hop : r.op = none) (hcancel : r.cancel = false) :
    s.replyAccess r code addr prog = ((s.withdraw r.site r.id).forget r.id).raiseLate r code prog := by
  unfold State.replyAccess
  rw [hop]
  dsimp only
  rw [hcancel]
  rfl

/-- The firing that a held site belongs to. -/
def State.lateFiring (s : State) (r : Req) : Firing := { s with cur := r.site }.firing

theorem lateFiring_part (r : Req) : (s.lateFiring r).part = lkPart (s.bank (siteKey r.site)).lk := rfl

/-- The operands that a held access goes on with. -/
def Req.held (r : Req) : Operands := { l := r.ops.getD 0 none, r := r.ops.getD 1 none, p := r.ops.getD 2 none }

/-- The SITE word of a held access (18 R321). -/
def State.lateWord (s : State) (r : Req) (code : Nat) : Word64 :=
  let f := s.lateFiring r
  siteWord code (lkLid f.lk) f.e.core (siteTile f) f.e.bank f.e.idx kindHeld (presentMask r.held) false

/-- The site that a held access opens (08 R214). -/
def State.lateSite (s : State) (r : Req) (code : Nat) : OpenSite :=
  { id := s.nid, fser := none, word0 := s.lateWord r code, lk := r.lk, round := (s.lateFiring r).round, site := r.site, call := none, need := BitVec.ofNat 3 (presentMask r.held), refilled := 0,
    bp := false, ops := r.ops }

/-- A held access with its record at the port and its open site. -/
def State.heldLate (s : State) (r : Req) (code addr : Nat) : State :=
  let t := { s with nid := s.nid + 1 }.sendRecord r.site.core ⟨s.lateWord r code, recordWords r.held addr 0, s.nid⟩
  let n := (s.lateFiring r).part
  let u := t.setPart n { t.part n with sites := (t.part n).sites ++ [s.lateSite r code] }
  u.setElem r.site { u.elem r.site with held := true }

theorem raiseLate_held {r : Req} {code addr : Nat} (hen : (s.part (s.lateFiring r).part).en = true) (hsys : isSysBank (siteKey r.site) = false) : s.raiseLate r code addr = s.heldLate r code addr := by
  have hcheck : s.mustCheck (s.lateFiring r) = false := by
    unfold State.mustCheck
    rw [hen]
    exact hsys
  exact if_neg (by rw [show s.mustCheck ({ s with cur := r.site } : State).firing = false from hcheck]; exact Bool.false_ne_true)

theorem withdraw_lk (e : Site) (id : Nat) : ((s.withdraw e id).bank (siteKey e)).lk = (s.bank (siteKey e)).lk := by
  unfold State.withdraw
  dsimp only
  rw [State.bank_setElem_same]
  rfl

theorem sendRecord_room {core : Nat} {x : FRec} (h : s.portRoom core = true) : s.sendRecord core x = s.setCore core { s.core core with frecs := (s.core core).frecs ++ [x] } := by
  unfold State.sendRecord
  rw [h]
  rfl

/-- A held access whose record finds room at the port (23 R409). -/
theorem heldLate_fields {r : Req} {code addr : Nat} (hroom : s.portRoom r.site.core = true) :
    ((s.heldLate r code addr).elem r.site).held = true ∧ (s.heldLate r code addr).reqs = s.reqs ∧
    ((s.heldLate r code addr).core r.site.core).frecs.length = (s.core r.site.core).frecs.length + 1 ∧
    ((s.heldLate r code addr).part (s.lateFiring r).part).sites = (s.part (s.lateFiring r).part).sites ++ [s.lateSite r code] := by
  have hsend (x : FRec) : ({ s with nid := s.nid + 1 } : State).sendRecord r.site.core x = ({ s with nid := s.nid + 1 } : State).setCore r.site.core { s.core r.site.core with frecs := (s.core r.site.core).frecs ++ [x] } :=
    sendRecord_room (s := ({ s with nid := s.nid + 1 } : State)) hroom
  unfold State.heldLate
  dsimp only
  rw [hsend]
  refine ⟨?_, rfl, ?_, ?_⟩
  · rw [State.elem_setElem_same]
  · rw [State.core_setElem, State.core_setPart, State.core_setCore_same, List.length_append]
    rfl
  · rw [State.part_setElem, State.part_setPart_same]
    rfl

/-! ### A unit refused whole -/

/-- The units and operations that a reply to an arrival at a slice refuses (23 R409). -/
def State.refusedWith (s : State) (a x : Arrival) : Bool :=
  x.lk == a.lk && x.round == a.round && (lkLid a.lk != 0 || x.core == a.core) && s.atSlice x (s.sliceOf (lkPart a.lk) a.addr)

theorem refusedWith_self {a : Arrival} (hdev : a.space = .dev) : s.refusedWith a a = true := by
  unfold State.refusedWith State.atSlice
  simp only [beq_self_eq_true, Bool.true_and, Bool.or_true, hdev]

/-- The notices of the writes and operations that a reply refuses, which leave the units. -/
def State.unitFaults (s : State) (a : Arrival) : State := (s.units.filter (s.refusedWith a)).foldl (fun s x => s.faultNow x fDieOffline x.addr) { s with units := s.units.filter (fun x => !s.refusedWith a x) }

theorem replyUnit_alone {a : Arrival} (hunits : s.units = [a]) (hover : s.overlay = []) (hdev : a.space = .dev) : (s.replyUnit a).units = [] ∧ (s.replyUnit a).mem = s.mem := by
  have hmine := refusedWith_self (s := s) hdev
  have hundone : s.undone = [] := by
    unfold State.undone
    rw [hover]
    rfl
  have hleft : s.units.filter (fun x => !s.refusedWith a x) = [] := by
    rw [hunits, List.filter_cons_of_neg (by rw [hmine]; exact Bool.false_ne_true)]
    rfl
  have hfaults : SameStore { s with units := s.units.filter (fun x => !s.refusedWith a x) } (s.unitFaults a) := .foldl (fun t x => sameStore_faultNow t x _ _) _ _
  have heq : s.replyUnit a = ({ s.unitFaults a with applied := mset (s.unitFaults a).applied (appliedKey a.lk a.core (s.sliceOf (lkPart a.lk) a.addr)) (a.round + 1) } : State).wake := by
    unfold State.replyUnit State.unitFaults
    rw [hdev, hundone]
    rfl
  obtain ⟨hmem, hgone⟩ := hfaults
  have hwake := sameStore_wake ({ s.unitFaults a with applied := mset (s.unitFaults a).applied (appliedKey a.lk a.core (s.sliceOf (lkPart a.lk) a.addr)) (a.round + 1) } : State)
  rw [heq]
  exact ⟨hwake.units.trans (hgone.trans hleft), hwake.mem.trans hmem⟩

theorem exec_errorReply_unit {a : Arrival} (hreqs : s.reqs = []) (hunits : s.units = [a]) (hcut : a.round < s.cutOf a.lk a.core) (hdev : a.space = .dev)
    (hdie : ∃ d, s.dies[dieOfAddr a.addr]? = some d ∧ d.st ≠ 0) : exec (.errorReply a.seq) s = .next (s.replyUnit a) := by
  obtain ⟨d, hd, hst⟩ := hdie
  have hlost : s.partLost false a.space a.addr = true := by
    rw [hdev]
    unfold State.partLost
    rw [hd]
    exact bne_iff_ne.mpr hst
  show execErrorReply a.seq s = _
  unfold execErrorReply
  rw [hreqs, hunits, List.find?_nil, List.find?_cons_of_pos (by rw [beq_self_eq_true, decide_eq_true hcut, hlost]; rfl)]

end

/-- Settles O52: the record by the state it leaves, a held access by its site, a refused unit by what notices and waiters leave unchanged. -/
theorem recordsAndErrorReplies : Obligations.RecordsAndErrorReplies := by
  unfold Obligations.RecordsAndErrorReplies
  refine ⟨fun s core part r rest hpart hrecs hlog => ?_, fun s r p hreq hlost hop => ⟨fun hcancel tag v scale hkind => ?_, fun hcancel hroom hen hsys => ?_⟩, fun s a bs hreqs hunits hover hcut hdev hwrite hdie => ?_⟩
  · intro p
    refine ⟨exec_enqueue_full hpart hrecs, fun hroom a hpin => ?_, fun hroom hpin => exec_enqueue_unpinned hpart hrecs hlog hroom hpin⟩
    refine ⟨_, exec_enqueue_room hpart hrecs hlog hroom hpin, ?_, ?_, ?_, ?_, rfl, fun hid x hx hxid => ?_, fun hempty v hv hvp => List.mem_append_right _ (vectorOne_mem hempty hv hvp)⟩
    · rw [enqueued_core]
    · rw [enqueued_core]
    · rw [enqueued_part]
    · rw [enqueued_part]
    · rw [enqueued_part] at hx
      exact nameSite_named hid x hx hxid
  · exact ⟨_, rfl, rfl, rfl, poisonTok_code _ _ _ (by decide), (exec_errorReply_req hreq hlost).trans (congrArg _ (replyAccess_load hop hcancel hkind))⟩
  · have hpart : (((s.withdraw r.site r.id).forget r.id).lateFiring r).part = lkPart (s.bank (siteKey r.site)).lk := (lateFiring_part r).trans (congrArg lkPart (withdraw_lk _ _))
    have hen' : (((s.withdraw r.site r.id).forget r.id).part (((s.withdraw r.site r.id).forget r.id).lateFiring r).part).en = true := by
      rw [hpart]
      exact hen
    have hfields := heldLate_fields (s := (s.withdraw r.site r.id).forget r.id) (r := r) (code := fDieOffline) (addr := p.prog) hroom
    rw [hpart] at hfields
    obtain ⟨hheld, hreqs, hlen, hsites⟩ := hfields
    exact ⟨_, ((s.withdraw r.site r.id).forget r.id).lateSite r fDieOffline, (exec_errorReply_req hreq hlost).trans (congrArg _ ((replyAccess_held hop hcancel).trans (raiseLate_held hen' hsys))),
      hheld, hreqs, hlen, hsites, rfl, rfl, rfl, _, _, _, _, _, _, rfl⟩
  · obtain ⟨hgone, hmem⟩ := replyUnit_alone hunits hover hdev
    exact ⟨_, exec_errorReply_unit hreqs hunits hcut hdev hdie, hgone, hmem⟩

end Sys2Proof.Machine

/-! PROOFS. Results enter their latches, and tokens hop (02 R20 R22 R23, 03 R54 R55). -/

namespace Sys2Proof.Machine

section
variable {s : State} {e : Site} {i : Instr} {x : Flight} {rest : List Flight} {tok : Token} {t0 : Target} {ts : List Target}

/-! ### The emission of a result -/

/-- A result that is due stands first at output 0 of a site, owed to a round, and nothing stands at output 1. -/
structure DueAt (s : State) (e : Site) (i : Instr) (x : Flight) (rest : List Flight) (tok : Token) (t0 : Target) (ts : List Target) : Prop where
  instr : (s.bank (siteKey e)).instr e.idx = some i
  targets : i.targets = t0 :: ts
  head : (s.elem e).q0 = x :: rest
  single : (s.elem e).q1 = []
  outs : x.outs = some [(0, tok)]
  due : x.due ≤ s.fc
  after : x.after = none
  push : x.push = none
  owed : x.round.isSome = true ∨ (s.elem e).fwd ≤ x.issued

/-- The state that has taken the result out of its queue, with its flags staged. -/
def State.dequeued (s : State) (e : Site) (x : Flight) (rest : List Flight) : State :=
  (s.setElem e { s.elem e with q0 := rest }).flagsOut (siteKey e) (x.round.getD (s.elem e).fwd) x.fl

theorem emitQueue_due (h : DueAt s e i x rest tok t0 ts) :
    s.emitQueue e false = if s.targetAccepts (siteKey e) e.idx 0 t0 then (s.dequeued e x rest).emitTarget (siteKey e) e.idx 0 t0 tok x
      else s.setElem e { s.elem e with q0 := holdFlights s.fc (x :: rest) } := by
  have houts : flightOuts i.targets x = [(0, t0, tok)] := by
    unfold flightOuts
    rw [h.outs, h.targets]
    rfl
  have hsent : (x.round.isNone && decide (x.issued < (s.elem e).fwd)) = false := by
    rcases h.owed with hround | hissued
    · rw [Option.isNone_eq_false_iff.mpr hround, Bool.false_and]
    · rw [decide_eq_false (Nat.not_lt.mpr hissued), Bool.and_false]
  have hq : ((s.bank (siteKey e)).elem e.idx).q0 = x :: rest := h.head
  have hdue : (x.outs.isNone || decide (s.fc < x.due) || x.after.any (fun r => decide ((s.elem e).fwd ≤ r))) = false := by
    rw [h.outs, h.after, decide_eq_false (Nat.not_lt.mpr h.due)]
    rfl
  unfold State.emitQueue
  dsimp only
  rw [if_neg Bool.false_ne_true, hq, h.instr]
  dsimp only
  refine (if_neg ?_).trans ?_
  · rw [show (x.outs.isNone || decide (s.fc < x.due) || x.after.any (fun r => decide (((s.bank (siteKey e)).elem e.idx).fwd ≤ r))) = false from hdue, Bool.false_or]
    split <;> exact Bool.false_ne_true
  · rw [houts, h.push, show (x.round.isNone && decide (x.issued < ((s.bank (siteKey e)).elem e.idx).fwd)) = false from hsent]
    simp only [List.all_cons, List.all_nil, Bool.and_true, Option.all_none]
    rfl

/-- Nothing stands at output 1, and nothing is emitted there. -/
theorem emitQueue_second (h : (s.elem e).q1 = []) : s.emitQueue e true = s := by
  have hq : ((s.bank (siteKey e)).elem e.idx).q1 = [] := h
  unfold State.emitQueue
  dsimp only
  rw [if_pos rfl, hq]

/-- No IDLE waits at the site. -/
theorem wakeIdle_none (h : ∀ x ∈ (s.core e.core).idles, x.1 ≠ e) : s.wakeIdle e = s.setCore e.core (s.core e.core) := by
  have hgone (m : Site × Nat × Nat × Nat → Bool) : (s.core e.core).idles.filter (fun x => x.1 == e && m x) = [] :=
    List.filter_eq_nil_iff.mpr (fun y hy => by rw [beq_false_of_ne (h y hy)]; exact Bool.false_ne_true)
  have hkept (m : Site × Nat × Nat × Nat → Bool) : (s.core e.core).idles.filter (fun x => x.1 != e || m x) = (s.core e.core).idles :=
    List.filter_eq_self.mpr (fun y hy => by rw [bne_iff_ne.mpr (h y hy)]; rfl)
  unfold State.wakeIdle
  dsimp only
  rw [hgone, hkept]
  rfl

/-- A state whose bank at a key is b, and which keeps every other bank, the memories and the value counter. -/
structure BankIs (s : State) (bk : Nat) (b : Bank) (t : State) : Prop where
  bank : t.bank bk = b
  others : ∀ k, k ≠ bk → t.bank k = s.bank k
  mem : t.mem = s.mem
  mtiles : t.mtiles = s.mtiles

theorem bankIs_setBank (bk : Nat) (b : Bank) : BankIs s bk b (s.setBank bk b) := ⟨State.bank_setBank_same _ _ _, fun _ hk => State.bank_setBank_other _ _ _ _ hk, rfl, rfl⟩

theorem BankIs.setBank {bk : Nat} {b c : Bank} {t : State} (h : BankIs s bk b t) : BankIs s bk c (t.setBank bk c) :=
  ⟨State.bank_setBank_same _ _ _, fun k hk => (State.bank_setBank_other _ _ _ _ hk).trans (h.others k hk), h.mem, h.mtiles⟩

/-- A bank whose element at a site is x, with the flags of a result staged. -/
def Bank.dequeued (b : Bank) (idx : Nat) (x : Elem) (ns : List (Nat × BitVec 5)) : Bank := { b.setElem idx x with nstage := ns }

theorem dequeued_bank (x : Flight) (rest : List Flight) :
    ∃ ns, BankIs s (siteKey e) ((s.bank (siteKey e)).dequeued e.idx { s.elem e with q0 := rest } ns) (s.dequeued e x rest) ∧ (s.dequeued e x rest).nid = s.nid := by
  have hbase : BankIs s (siteKey e) ((s.bank (siteKey e)).setElem e.idx { s.elem e with q0 := rest }) (s.setElem e { s.elem e with q0 := rest }) := bankIs_setBank _ _
  unfold State.dequeued State.flagsOut
  by_cases hfl : x.fl = 0
  · rw [if_pos hfl]
    exact ⟨(s.bank (siteKey e)).nstage, hbase, rfl⟩
  · rw [if_neg hfl, hbase.bank]
    exact ⟨_, hbase.setBank, rfl⟩

theorem dequeued_elem_same (b : Bank) (idx : Nat) (x : Elem) (ns : List (Nat × BitVec 5)) : (b.dequeued idx x ns).elem idx = x := Bank.elem_setElem_same b idx x

theorem dequeued_elem_other (b : Bank) {idx j : Nat} (x : Elem) (ns : List (Nat × BitVec 5)) (h : j ≠ idx) : (b.dequeued idx x ns).elem j = b.elem j := Bank.elem_setElem_other b idx j x h

/-! ### What a target does with the result -/

theorem popCancel_eq {x : Elem} {c : Nat} {cs : List Nat} (h : x.pend.getD 0 [] = c :: cs) : x.popCancel 0 = { x with pend := x.pend.set 0 cs } := by
  unfold Elem.popCancel
  cases hp : x.pend with
  | nil =>
    rw [hp] at h
    exact absurd h (List.cons_ne_nil c cs).symm
  | cons p ps =>
    rw [hp] at h
    obtain rfl : p = c :: cs := h
    rfl

/-- A pending cancel takes the result (03 R55). -/
theorem emitTarget_cancelled {u : State} {bk idx c : Nat} {cs : List Nat} (h : ((u.bank bk).elem idx).pend.getD 0 [] = c :: cs) :
    u.emitTarget bk idx 0 t0 tok x = u.setBank bk ((u.bank bk).setElem idx { (u.bank bk).elem idx with pend := ((u.bank bk).elem idx).pend.set 0 cs }) := by
  unfold State.emitTarget
  dsimp only
  rw [h, ← popCancel_eq h]
  rfl

theorem emitTarget_slot {u : State} {bk idx : Nat} {j : BitVec 7} {k : Slot} (hpend : ((u.bank bk).elem idx).pend.getD 0 [] = []) (harcs : arcsOf (u.bank bk) idx 0 (.slot j k) = []) :
    u.emitTarget bk idx 0 (.slot j k) tok x = u.setBank bk ((u.bank bk).deliver j.toNat k tok) := by
  unfold State.emitTarget
  dsimp only
  rw [hpend, harcs]
  rfl

theorem emitTarget_creg {u : State} {bk idx : Nat} {r : BitVec 5} (hpend : ((u.bank bk).elem idx).pend.getD 0 [] = []) :
    u.emitTarget bk idx 0 (.creg r) tok x = { u.setBank bk { u.bank bk with rstage := (u.bank bk).rstage ++ [(x.round.getD ((u.bank bk).elem idx).fwd,
      { key := ⟨gsp (u.bank bk) idx, x.thr, x.k, 0, gsp (u.bank bk) idx⟩, seq := u.nid, reg := r.toNat, val := { tok.stored with chain := none } })] } with nid := u.nid + 1 } := by
  unfold State.emitTarget
  dsimp only
  rw [hpend]
  rfl

theorem setSlot_slot (x : Elem) (k : Slot) (v : InSlot) : (x.setSlot k v).slot k = v := by cases k <;> rfl

/-- A token enters a latch where no anti-token stands (03 R54). -/
theorem deliver_latch {b : Bank} {idx : Nat} {k : Slot} (hanti : ((b.elem idx).slot k).anti = []) :
    (((b.deliver idx k tok).elem idx).slot k = { (b.elem idx).slot k with latch := some tok }) ∧ ∀ n, n ≠ idx → (b.deliver idx k tok).elem n = b.elem n := by
  unfold Bank.deliver
  dsimp only
  rw [hanti]
  refine ⟨?_, fun n hn => Bank.elem_setElem_other _ _ _ _ hn⟩
  rw [Bank.elem_setElem_same, setSlot_slot]

/-! ### Acceptance -/

theorem accepts_cancel {bk idx c : Nat} {cs : List Nat} (h : ((s.bank bk).elem idx).pend.getD 0 [] = c :: cs) : s.targetAccepts bk idx 0 t0 = true := by
  unfold State.targetAccepts
  dsimp only
  rw [h]
  rfl

theorem accepts_creg (bk idx : Nat) (r : BitVec 5) : s.targetAccepts bk idx 0 (.creg r) = true := Bool.or_true _

theorem accepts_slot {bk idx : Nat} {j : BitVec 7} {k : Slot} (hpend : ((s.bank bk).elem idx).pend.getD 0 [] = []) (harcs : arcsOf (s.bank bk) idx 0 (.slot j k) = []) :
    s.targetAccepts bk idx 0 (.slot j k) = latchAccepts (s.bank bk) j.toNat k := by
  unfold State.targetAccepts
  dsimp only
  rw [hpend, harcs]
  rfl

theorem latchAccepts_free {b : Bank} {idx : Nat} {k : Slot} (hempty : ((b.elem idx).slot k).latch = none) (hmarks : ((b.elem idx).slot k).marks ≤ (b.elem idx).fwd) : latchAccepts b idx k = true := by
  unfold latchAccepts
  dsimp only
  rw [hempty, decide_eq_true hmarks, Bool.or_true]
  rfl

theorem latchAccepts_full {b : Bank} {idx : Nat} {k : Slot} (hfull : ((b.elem idx).slot k).latch.isSome = true) (hanti : ((b.elem idx).slot k).anti = []) : latchAccepts b idx k = false := by
  unfold latchAccepts
  dsimp only
  rw [hanti, Option.isNone_eq_false_iff.mpr hfull]
  rfl

/-! ### RESULT_EMIT -/

/-- The state in which no IDLE of a site waits, its result not yet emitted. -/
def State.idleChecked (s : State) (e : Site) : State := s.setCore e.core (s.core e.core)

theorem exec_resultEmit (hrun : isSysBank (siteKey e) = false ∨ (s.part (lkPart (s.bank (siteKey e)).lk)).halted = false) (hidle : ∀ x ∈ (s.core e.core).idles, x.1 ≠ e)
    (hq : (((s.idleChecked e).emitQueue e false).elem e).q1 = []) : exec (.resultEmit e) s = .next ((s.idleChecked e).emitQueue e false) := by
  have hgo : (isSysBank (siteKey e) && (s.part (lkPart (s.bank (siteKey e)).lk)).halted) = false := by
    rw [Bool.and_eq_false_iff]
    exact hrun
  show execResultEmit e s = _
  unfold execResultEmit
  dsimp only
  rw [hgo, if_neg Bool.false_ne_true, wakeIdle_none hidle]
  exact congrArg _ (emitQueue_second hq)

/-- A result that is emitted leaves a bank from which it has been taken. -/
theorem emitQueue_sent (h : DueAt s e i x rest tok t0 ts) (hacc : s.targetAccepts (siteKey e) e.idx 0 t0 = true) {b : List (Nat × BitVec 5) → Bank}
    (hemit : ∀ ns u, BankIs s (siteKey e) ((s.bank (siteKey e)).dequeued e.idx { s.elem e with q0 := rest } ns) u → u.nid = s.nid → BankIs s (siteKey e) (b ns) (u.emitTarget (siteKey e) e.idx 0 t0 tok x)) :
    ∃ ns, BankIs s (siteKey e) (b ns) (s.emitQueue e false) := by
  obtain ⟨ns, hbank, hnid⟩ := dequeued_bank (s := s) (e := e) x rest
  rw [emitQueue_due h, if_pos hacc]
  exact ⟨ns, hemit ns _ hbank hnid⟩

theorem emitQueue_cancelled (h : DueAt s e i x rest tok t0 ts) {c : Nat} {cs : List Nat} (hpend : (s.elem e).pend.getD 0 [] = c :: cs) :
    ∃ ns, BankIs s (siteKey e) (((s.bank (siteKey e)).dequeued e.idx { s.elem e with q0 := rest } ns).setElem e.idx { s.elem e with q0 := rest, pend := (s.elem e).pend.set 0 cs }) (s.emitQueue e false) := by
  refine emitQueue_sent h (accepts_cancel hpend) (fun ns u hu _ => ?_)
  have helem : (u.bank (siteKey e)).elem e.idx = { s.elem e with q0 := rest } := by rw [hu.bank, dequeued_elem_same]
  rw [emitTarget_cancelled (by rw [helem]; exact hpend), helem, hu.bank]
  exact hu.setBank

theorem emitQueue_latched (h : DueAt s e i x rest tok t0 ts) {j : BitVec 7} {k : Slot} (ht : t0 = .slot j k) (hpend : (s.elem e).pend.getD 0 [] = []) (harcs : arcsOf (s.bank (siteKey e)) e.idx 0 t0 = [])
    (hempty : (((s.bank (siteKey e)).elem j.toNat).slot k).latch = none) (hmarks : (((s.bank (siteKey e)).elem j.toNat).slot k).marks ≤ ((s.bank (siteKey e)).elem j.toNat).fwd) :
    ∃ ns, BankIs s (siteKey e) (((s.bank (siteKey e)).dequeued e.idx { s.elem e with q0 := rest } ns).deliver j.toNat k tok) (s.emitQueue e false) := by
  subst ht
  refine emitQueue_sent h ((accepts_slot hpend harcs).trans (latchAccepts_free hempty hmarks)) (fun ns u hu _ => ?_)
  have helem : (u.bank (siteKey e)).elem e.idx = { s.elem e with q0 := rest } := by rw [hu.bank, dequeued_elem_same]
  rw [emitTarget_slot (by rw [helem]; exact hpend) (by rw [hu.bank]; exact harcs), hu.bank]
  exact hu.setBank

theorem emitQueue_staged (h : DueAt s e i x rest tok t0 ts) {r : BitVec 5} (ht : t0 = .creg r) (hpend : (s.elem e).pend.getD 0 [] = []) :
    ∃ ns, BankIs s (siteKey e) { (s.bank (siteKey e)).dequeued e.idx { s.elem e with q0 := rest } ns with rstage := (s.bank (siteKey e)).rstage ++ [(x.round.getD (s.elem e).fwd,
      { key := ⟨gsp (s.bank (siteKey e)) e.idx, x.thr, x.k, 0, gsp (s.bank (siteKey e)) e.idx⟩, seq := s.nid, reg := r.toNat, val := { tok.stored with chain := none } })] } (s.emitQueue e false) := by
  subst ht
  refine emitQueue_sent h (accepts_creg _ _ _) (fun ns u hu hnid => ?_)
  have helem : (u.bank (siteKey e)).elem e.idx = { s.elem e with q0 := rest } := by rw [hu.bank, dequeued_elem_same]
  rw [emitTarget_creg (by rw [helem]; exact hpend), helem, hnid, hu.bank]
  obtain ⟨hbank, hothers, hmem, htiles⟩ := hu.setBank (c := { (s.bank (siteKey e)).dequeued e.idx { s.elem e with q0 := rest } ns with rstage := (s.bank (siteKey e)).rstage ++ [(x.round.getD (s.elem e).fwd,
      { key := ⟨gsp (s.bank (siteKey e)) e.idx, x.thr, x.k, 0, gsp (s.bank (siteKey e)) e.idx⟩, seq := s.nid, reg := r.toNat, val := { tok.stored with chain := none } })] })
  exact ⟨hbank, hothers, hmem, htiles⟩

theorem emitQueue_holds (h : DueAt s e i x rest tok t0 ts) (hacc : s.targetAccepts (siteKey e) e.idx 0 t0 = false) :
    BankIs s (siteKey e) ((s.bank (siteKey e)).setElem e.idx { s.elem e with q0 := holdFlights s.fc (x :: rest) }) (s.emitQueue e false) := by
  rw [emitQueue_due h, hacc, if_neg Bool.false_ne_true]
  exact bankIs_setBank _ _

/-! ### Hops -/

variable {bk j h : Nat} {a : Arc} {p q : Hop}

/-- An arc whose hops h and h + 1 have changed. -/
def State.hopsMoved (s : State) (bk j h : Nat) (a : Arc) (p q : Hop) : State := s.setBank bk { s.bank bk with arcs := (s.bank bk).arcs.set j { a with hops := (a.hops.set h p).set (h + 1) q } }

theorem hopMove_token {t : Token} (ha : (s.bank bk).arcs[j]? = some a) (hp : a.hops[h]? = some p) (hq : a.hops[h + 1]? = some q) (hfwd : p.fwd = some t) :
    s.hopMove bk j h = if q.rev.isSome then s.hopsMoved bk j h a { p with fwd := none } { q with rev := none }
      else if q.fwd.isNone && q.marks == 0 then s.hopsMoved bk j h a { p with fwd := none } { q with fwd := some t } else s := by
  unfold State.hopMove
  dsimp only
  rw [ha]
  dsimp only
  rw [hp, hq]
  dsimp only
  rw [hfwd]
  rfl

theorem hopMove_marker (ha : (s.bank bk).arcs[j]? = some a) (hp : a.hops[h]? = some p) (hq : a.hops[h + 1]? = some q) (hfwd : p.fwd = none) (hmarks : 0 < p.marks) :
    s.hopMove bk j h = s.hopsMoved bk j h a { p with marks := p.marks - 1 } { q with marks := q.marks + 1 } := by
  unfold State.hopMove
  dsimp only
  rw [ha]
  dsimp only
  rw [hp, hq]
  dsimp only
  rw [hfwd]
  exact if_neg (Nat.ne_of_gt hmarks)

end

/-- Settles O45: a result by what its target does with it, a token or a marker by the hop beyond it. -/
theorem tokensMove : Obligations.TokensMove := by
  unfold Obligations.TokensMove
  refine ⟨fun s e b i x rest tok t0 ts hb hrun hidle hinstr htargets hhead hsingle houts hdue hafter hpush howed => ?_, fun s bk j h b a x y hb ha hx hy => ?_⟩
  · subst hb
    have hd : DueAt (s.idleChecked e) e i x rest tok t0 ts := ⟨hinstr, htargets, hhead, hsingle, houts, hdue, hafter, hpush, howed⟩
    have hexec {y : Elem} (helem : ((s.idleChecked e).emitQueue e false).elem e = y) (hq : y.q1 = []) : exec (.resultEmit e) s = .next ((s.idleChecked e).emitQueue e false) :=
      exec_resultEmit hrun hidle (by rw [helem]; exact hq)
    refine ⟨fun c cs hpend => ?_, fun hpend => ⟨fun j k ht harcs hanti hne => ⟨fun hempty hmarks => ?_, fun hfull => ?_⟩, fun r ht => ?_⟩⟩
    · obtain ⟨ns, hbank, hothers, -, -⟩ := emitQueue_cancelled hd hpend
      have helem : ((s.idleChecked e).emitQueue e false).elem e = { s.elem e with q0 := rest, pend := (s.elem e).pend.set 0 cs } := by
        show (((s.idleChecked e).emitQueue e false).bank (siteKey e)).elem e.idx = _
        rw [hbank, Bank.elem_setElem_same]
        rfl
      refine ⟨_, hexec helem hsingle, helem, fun n hn => ?_, hothers⟩
      rw [hbank, Bank.elem_setElem_other _ _ _ _ hn]
      exact dequeued_elem_other _ _ _ hn
    · obtain ⟨ns, hbank, hothers, hmem, htiles⟩ := emitQueue_latched hd ht hpend harcs hempty hmarks
      have hj : ((s.bank (siteKey e)).dequeued e.idx { s.elem e with q0 := rest } ns).elem j.toNat = (s.bank (siteKey e)).elem j.toNat := dequeued_elem_other _ _ _ hne
      obtain ⟨hslot, hkept⟩ := deliver_latch (tok := tok) (b := (s.bank (siteKey e)).dequeued e.idx { s.elem e with q0 := rest } ns) (by rw [hj]; exact hanti)
      have helem : ((s.idleChecked e).emitQueue e false).elem e = { s.elem e with q0 := rest } := by
        show (((s.idleChecked e).emitQueue e false).bank (siteKey e)).elem e.idx = _
        rw [hbank]
        exact (hkept _ (Ne.symm hne)).trans (dequeued_elem_same _ _ _ _)
      refine ⟨_, hexec helem hsingle, helem, ?_, fun n hn hnj => ?_, hothers, hmem, htiles⟩
      · rw [hbank]
        exact hslot.trans (by rw [hj])
      · rw [hbank]
        exact (hkept n hnj).trans (dequeued_elem_other _ _ _ hn)
    · have hacc : (s.idleChecked e).targetAccepts (siteKey e) e.idx 0 t0 = false := by
        rw [ht] at harcs ⊢
        exact (accepts_slot hpend harcs).trans (latchAccepts_full hfull hanti)
      obtain ⟨hbank, -, -, -⟩ := emitQueue_holds hd hacc
      have helem : ((s.idleChecked e).emitQueue e false).elem e = { s.elem e with q0 := holdFlights s.fc (x :: rest) } := by
        show (((s.idleChecked e).emitQueue e false).bank (siteKey e)).elem e.idx = _
        rw [hbank, Bank.elem_setElem_same]
        rfl
      refine ⟨_, hexec helem hsingle, helem, fun n hn => ?_⟩
      rw [hbank]
      exact Bank.elem_setElem_other _ _ _ _ hn
    · obtain ⟨ns, hbank, -, -, -⟩ := emitQueue_staged hd ht hpend
      have helem : ((s.idleChecked e).emitQueue e false).elem e = { s.elem e with q0 := rest } := by
        show (((s.idleChecked e).emitQueue e false).bank (siteKey e)).elem e.idx = _
        rw [hbank]
        exact dequeued_elem_same _ _ _ ns
      refine ⟨_, _, hexec helem hsingle, helem, rfl, ?_⟩
      rw [hbank]
      rfl
  · subst hb
    intro moved
    refine ⟨fun t ht => ⟨fun hrev hfwd hmarks => ?_, fun hrev => ?_, fun hrev hbusy => ?_⟩, fun hfwd hmarks => congrArg _ (hopMove_marker ha hx hy hfwd hmarks)⟩
    · refine congrArg Host.Outcome.next ((hopMove_token ha hx hy ht).trans ?_)
      rw [hrev, hfwd, hmarks]
      rfl
    · exact congrArg Host.Outcome.next ((hopMove_token ha hx hy ht).trans (if_pos hrev))
    · refine congrArg Host.Outcome.next ((hopMove_token ha hx hy ht).trans ?_)
      have hfull : (y.fwd.isNone && y.marks == 0) = false := by
        rw [Bool.and_eq_false_iff]
        exact hbusy.imp (fun hsome => Option.isNone_eq_false_iff.mpr hsome) (fun hpos => beq_false_of_ne (Nat.ne_of_gt hpos))
      rw [hrev, hfull]
      rfl

end Sys2Proof.Machine

/-! PROOFS. An entry reader and a record of the reserved scale (02 R31, 04 R74). -/

namespace Sys2Proof.Machine

/-- A record of one live word, the z64 9, with the reserved scale. -/
def reservedRecord : Stored := { pay := vecPay 64 [2 ^ 56 + 7 * 2 ^ 24 + 3, 9], v := true, scale := 255 }

/-- The bank of the block that the record is for. -/
def readerBank : Bank := { st := 1, lk := 1, blk := 3, h0 := 0xB7, h1 := 2 ^ 43 + 15 }

/-- The launch of the block. -/
def readerLaunch : Launch := { lid := 1, img := 4096, size := 1, cores := [0] }

/-- The image of the launch, at 4,096: one variant of one core, one load, and the block 3, whose entry queue is in tile 2. -/
def readerImage : Memory :=
  [(4104, [0xFF, 0xFF, 0, 0, 1, 0, 0, 0, 64]), (4160, [1, 0, 1, 0, 96]), (4192, [1, 0, 1, 0, 0, 0, 0, 0, 128, 0, 0, 0, 136]), (4224, [3, 0, 0, 0, 0, 0, 0, 0, 0, 0x79]),
    (4288, leBytes 8 0xB7 ++ leBytes 8 (2 ^ 43 + 15))].foldl (fun m (x : Nat × List Byte) => writeBytes m x.1 x.2) []

/-- The record stands in the entry queue, and the ports of the block are free. -/
def reservedEntry : State :=
  { State.reset with
    mem := readerImage
    banks := [(0, readerBank)]
    parts := [(0, { cores := [0], en := true, launches := [(1, readerLaunch)] })]
    cores := [(0, { lk := some 1 })]
    mtiles := [(2, { cfg := .fifo 16 1, recs := [{ val := reservedRecord, round := 0, key := none, seq := 0 }] })] }

/-- What a latch of port 1 reads as, after a step. -/
def wordAtPortOne (x : Host.Outcome State Fault Refusal) : Option Nat :=
  match x with
  | .next t => ((t.bank 0).elem 33).l.latch.map Token.word
  | _ => none

/-- The token that the reader delivers keeps the scale, so that it reads as 0. -/
theorem reader_of_reservedRecord : wordAtPortOne (exec (.entryReaderPop 0) reservedEntry) = some 0 := by decide +kernel

theorem reservedEntry_ports : ∀ j, j ≤ bitsAt (laneOf reservedRecord.pay 64 0) 56 3 →
    mgetD readerBank.drops j [] = [] ∧ (readerBank.elem (32 + j)).l.anti = [] ∧ (readerBank.elem (32 + j)).l.latch = none ∧ (readerBank.elem (32 + j)).l.marks ≤ (readerBank.elem (32 + j)).fwd :=
  fun _ _ => ⟨rfl, rfl, rfl, Nat.le_refl _⟩

/-- Refutes O46: a record of z64 words with the reserved scale. The reader gives the token the record's scale (02 R31), so that it reads as 0 (04 R74), and the statement says that it reads as
the word of the record, 9. -/
theorem not_cancellationAndReaders : ¬ Obligations.CancellationAndReaders := by
  unfold Obligations.CancellationAndReaders
  rintro ⟨-, -, hreader, -⟩
  obtain ⟨-, hdelivers⟩ := hreader reservedEntry 0 2 0 readerBank readerLaunch reservedRecord (by decide +kernel) (by decide +kernel) (by decide +kernel) (by decide +kernel) rfl rfl (by decide +kernel) rfl
  obtain ⟨t, hexec, -, -, hports⟩ := hdelivers (by decide +kernel) reservedEntry_ports
  obtain ⟨tok, hlatch, -, -, -, -, hword⟩ := hports 1 (Nat.le_refl 1) (by decide +kernel)
  have hreads : ((t.bank 0).elem 33).l.latch.map Token.word = some 0 := by
    have h := reader_of_reservedRecord
    rw [hexec] at h
    exact h
  rw [hlatch, Option.map_some, hword (by decide +kernel)] at hreads
  exact absurd hreads (by decide +kernel)

end Sys2Proof.Machine

/-! PROOFS. The injection of markers (02 R25, 18 R312). -/

namespace Sys2Proof.Machine

/-! ### What changes banks alone -/

/-- Only banks differ. -/
def OnlyBanks (s t : State) : Prop := t = { s with banks := t.banks }

theorem OnlyBanks.refl (s : State) : OnlyBanks s s := rfl

theorem OnlyBanks.trans {s t u : State} (h : OnlyBanks s t) (h' : OnlyBanks t u) : OnlyBanks s u := by
  unfold OnlyBanks at h h' ⊢
  rw [h', h]

theorem OnlyBanks.foldl {α : Type} {f : State → α → State} (h : ∀ s x, OnlyBanks s (f s x)) (xs : List α) (s : State) : OnlyBanks s (xs.foldl f s) := by
  induction xs generalizing s with
  | nil => exact .refl s
  | cons x xs ih => exact (h s x).trans (ih _)

theorem onlyBanks_setBank (s : State) (k : Nat) (b : Bank) : OnlyBanks s (s.setBank k b) := rfl

theorem onlyBanks_markSlot (s : State) (bk idx : Nat) (k : Slot) : OnlyBanks s (s.markSlot bk idx k) := rfl

theorem OnlyBanks.core {s t : State} (h : OnlyBanks s t) (n : Nat) : t.core n = s.core n := by rw [h]; rfl

theorem OnlyBanks.part {s t : State} (h : OnlyBanks s t) (n : Nat) : t.part n = s.part n := by rw [h]; rfl

theorem OnlyBanks.launch {s t : State} (h : OnlyBanks s t) (lk : Nat) : t.launch lk = s.launch lk := by rw [h]; rfl

theorem OnlyBanks.mem {s t : State} (h : OnlyBanks s t) : t.mem = s.mem := by rw [h]

theorem OnlyBanks.mtiles {s t : State} (h : OnlyBanks s t) : t.mtiles = s.mtiles := by rw [h]

section
variable {s : State}

/-! ### Chafer's markers -/

/-- Chafer gives a marker to an instruction that no other feeds. -/
def State.injectSource (s : State) (bk i : Nat) : State :=
  if (s.aligned (s.bank bk) i).isEmpty then s.setBank bk ((s.bank bk).setElem i { (s.bank bk).elem i with chafer := ((s.bank bk).elem i).chafer + 1 }) else s

/-- Chafer gives a marker to an instruction, and to its input port. -/
def State.injectAt (s : State) (bk i : Nat) : State :=
  let t := s.injectSource bk i
  if decide (32 ≤ i ∧ i < 48) && t.portOfChafer (t.bank bk) (i - 32) then t.markSlot bk i .l else t

theorem injectBank_eq (bk : Nat) : s.injectBank bk = ((s.bank bk).words.map Prod.fst).foldl (fun s i => s.injectAt bk i) s := rfl

theorem onlyBanks_injectAt (bk i : Nat) : OnlyBanks s (s.injectAt bk i) := by
  have hsource : OnlyBanks s (s.injectSource bk i) := by
    unfold State.injectSource
    split
    · exact onlyBanks_setBank _ _ _
    · exact .refl s
  unfold State.injectAt
  dsimp only
  split
  · exact hsource.trans (onlyBanks_markSlot _ _ _ _)
  · exact hsource

theorem onlyBanks_injectBank (bk : Nat) : OnlyBanks s (s.injectBank bk) := by
  rw [injectBank_eq]
  exact .foldl (fun s i => onlyBanks_injectAt bk i) _ _

/-- The banks of a core that Chafer gives a launch's marker to. -/
def State.fedBanks (s : State) (lk core : Nat) : List Nat := (s.banks.filter (fun (k, b) => bankCore k == core && b.lk == lk && b.st == 1 && b.upper.isNone)).map Prod.fst

/-- The banks of a core with their markers. -/
def State.banksFed (s : State) (lk core : Nat) : State := (s.fedBanks lk core).foldl (fun s k => s.injectBank k) s

theorem onlyBanks_banksFed (lk core : Nat) : OnlyBanks s (s.banksFed lk core) := .foldl (fun _ k => onlyBanks_injectBank k) _ _

theorem injectCore_eq (lk core : Nat) : s.injectCore lk core = (s.banksFed lk core).setCore core { s.core core with inj := mset (s.core core).inj lk (mgetD (s.core core).inj lk 0 + 1) } := by
  unfold State.injectCore
  dsimp only
  rw [show (((s.banks.filter (fun (k, b) => bankCore k == core && b.lk == lk && b.st == 1 && b.upper.isNone)).map Prod.fst).foldl (fun s k => s.injectBank k) s) = s.banksFed lk core from rfl,
    (onlyBanks_banksFed lk core).core]

/-! ### A region of one core -/

variable {lk core : Nat} {l : Launch}

/-- The region after its marker. -/
def State.markerGiven (s : State) (lk core : Nat) : State := (s.injectCore lk core).mapLaunch lk (fun l => { l with round := l.round + 1, since := 0, rmark := none })

theorem exec_markerInject_due (hl : s.launch lk = some l) (hlid : lkLid lk ≠ 0) (hdue : s.markerDue lk l = true) (hcores : l.cores = [core]) (hinj : mgetD (s.core core).inj lk 0 = l.round) :
    exec (.markerInject lk core) s = .next (s.markerGiven lk core) := by
  have hnext : mgetD ((s.injectCore lk core).core core).inj lk 0 = l.round + 1 := by
    rw [injectCore_eq, State.core_setCore_same, mgetD_mset_same, hinj]
  have hgo : (!l.cores.contains core || mgetD (s.core core).inj lk 0 != l.round || !s.markerDue lk l) = false := by
    rw [hcores, hinj, hdue]
    simp
  have hall : (l.cores.all (fun k => decide (l.round < mgetD ((s.injectCore lk core).core k).inj lk 0))) = true := by
    rw [hcores, List.all_cons, hnext]
    simp
  show execMarkerInject lk core s = _
  unfold execMarkerInject
  rw [hl]
  dsimp only
  rw [if_neg hlid, hgo, if_neg Bool.false_ne_true, hall]
  rfl

theorem exec_markerInject_early (hl : s.launch lk = some l) (hlid : lkLid lk ≠ 0) (hdue : s.markerDue lk l = false) : exec (.markerInject lk core) s = .next s := by
  show execMarkerInject lk core s = _
  unfold execMarkerInject
  rw [hl]
  dsimp only
  rw [if_neg hlid, hdue]
  exact if_pos (Bool.or_true _)

theorem injectCore_launch (n : Nat) : (s.injectCore lk core).launch n = s.launch n := by
  rw [injectCore_eq]
  exact (onlyBanks_banksFed lk core).launch n

theorem mapLaunch_core (u : State) (lk n : Nat) (g : Launch → Launch) : (u.mapLaunch lk g).core n = u.core n := by
  rw [mapLaunch_banks]
  rfl

theorem markerGiven_fields (hl : s.launch lk = some l) (hinj : mgetD (s.core core).inj lk 0 = l.round) :
    (s.markerGiven lk core).launch lk = some { l with round := l.round + 1, since := 0, rmark := none } ∧ mgetD ((s.markerGiven lk core).core core).inj lk 0 = l.round + 1 ∧
      (s.markerGiven lk core).mem = s.mem ∧ (s.markerGiven lk core).mtiles = s.mtiles := by
  have honly : OnlyBanks s (s.banksFed lk core) := onlyBanks_banksFed lk core
  unfold State.markerGiven
  refine ⟨mapLaunch_launch_same _ _ ((injectCore_launch _).trans hl), ?_, ?_, ?_⟩
  · rw [mapLaunch_core, injectCore_eq, State.core_setCore_same, mgetD_mset_same, hinj]
  · rw [mapLaunch_banks, injectCore_eq]
    exact honly.mem
  · rw [mapLaunch_banks, injectCore_eq]
    exact honly.mtiles

/-! ### One bank alone -/

variable {k : Nat} {b : Bank}

/-- Blocks that differ in their elements alone. -/
structure SameBlocks (s t : State) : Prop where
  bank : ∀ n, t.bank n = { s.bank n with elems := (t.bank n).elems }
  find : ∀ lk num, t.bankOfNum lk num = s.bankOfNum lk num

theorem SameBlocks.portArc {t : State} (h : SameBlocks s t) (b : Bank) (es : Map Elem) (port : Nat) : t.portArc { b with elems := es } port = s.portArc b port := by
  unfold State.portArc
  simp only [h.find]
  have harcs (n : Nat) : (t.bank n).arcs = (s.bank n).arcs := by rw [h.bank]
  simp only [harcs]

theorem SameBlocks.fedFree {t : State} (h : SameBlocks s t) (b : Bank) (es : Map Elem) (idx : Nat) (k : Slot) : t.fedFree { b with elems := es } idx k = s.fedFree b idx k := by
  have hwriters (n p : Nat) : portWriters (t.bank n) p = portWriters (s.bank n) p := by rw [h.bank]; rfl
  have hfree (n : Nat) : freeConst (t.bank n) = freeConst (s.bank n) := by rw [h.bank]; rfl
  unfold State.fedFree
  simp only [h.portArc, hwriters, hfree]
  rfl

theorem SameBlocks.aligned {t : State} (h : SameBlocks s t) (b : Bank) (es : Map Elem) (idx : Nat) : t.aligned { b with elems := es } idx = s.aligned b idx := by
  unfold State.aligned
  simp only [h.fedFree]
  rfl

theorem SameBlocks.portOfChafer {t : State} (h : SameBlocks s t) (b : Bank) (es : Map Elem) (port : Nat) : t.portOfChafer { b with elems := es } port = s.portOfChafer b port := by
  unfold State.portOfChafer
  simp only [h.find]
  rfl

theorem bank_single (hb : s.banks = [(k, b)]) : s.bank k = b := by
  unfold State.bank
  rw [hb]
  exact congrArg (fun x => Option.getD x ({} : Bank)) (if_pos rfl)

theorem setBank_single (hb : s.banks = [(k, b)]) (c : Bank) : (s.setBank k c).banks = [(k, c)] := by
  unfold State.setBank
  rw [hb]
  exact (if_neg (Nat.lt_irrefl k)).trans (if_pos rfl)

theorem sameBlocks_single {t : State} {es : Map Elem} (hb : s.banks = [(k, b)]) (ht : t.banks = [(k, { b with elems := es })]) : SameBlocks s t := by
  refine ⟨fun n => ?_, fun lk num => ?_⟩
  · unfold State.bank mgetD
    rw [hb, ht]
    unfold mget
    by_cases hk : k = n
    · rw [if_pos hk, if_pos hk]
      rfl
    · rw [if_neg hk, if_neg hk]
  · unfold State.bankOfNum
    rw [hb, ht, List.find?_cons, List.find?_cons]
    dsimp only
    split <;> rfl

/-- What Chafer gives an instruction of a bank: a marker of its own where no other feeds it, and one at its input port (02 R25 R422). -/
structure FedAt (s : State) (b : Bank) (i : Nat) (x : Elem) : Prop where
  fwd : x.fwd = (b.elem i).fwd
  chafer : x.chafer = (b.elem i).chafer + (if s.aligned b i = [] then 1 else 0)
  marks : x.l.marks = (b.elem i).l.marks + (if 32 ≤ i ∧ i < 48 ∧ s.portOfChafer b (i - 32) = true then 1 else 0)

/-- The element that Chafer gives an instruction its own marker in. -/
def sourceElem (s : State) (b : Bank) (i : Nat) : Elem := if (s.aligned b i).isEmpty then { b.elem i with chafer := (b.elem i).chafer + 1 } else b.elem i

/-- A marker at the L slot. -/
def Elem.markedL (x : Elem) : Elem := { x with l := { x.l with marks := x.l.marks + 1 } }

/-- The element that an instruction has after Chafer's markers. -/
def fedElem (s : State) (b : Bank) (i : Nat) : Elem := if decide (32 ≤ i ∧ i < 48) && s.portOfChafer b (i - 32) then (sourceElem s b i).markedL else sourceElem s b i

theorem sourceElem_chafer (i : Nat) : (sourceElem s b i).chafer = (b.elem i).chafer + (if s.aligned b i = [] then 1 else 0) ∧ (sourceElem s b i).fwd = (b.elem i).fwd ∧ (sourceElem s b i).l = (b.elem i).l := by
  unfold sourceElem
  cases hal : s.aligned b i with
  | nil => exact ⟨rfl, rfl, rfl⟩
  | cons y ys => exact ⟨rfl, rfl, rfl⟩

theorem fedElem_fedAt (i : Nat) : FedAt s b i (fedElem s b i) := by
  obtain ⟨hchafer, hfwd, hl⟩ := sourceElem_chafer (s := s) (b := b) i
  unfold fedElem
  by_cases hport : 32 ≤ i ∧ i < 48 ∧ s.portOfChafer b (i - 32) = true
  · have hcond : (decide (32 ≤ i ∧ i < 48) && s.portOfChafer b (i - 32)) = true := by
      rw [Bool.and_eq_true, decide_eq_true_eq]
      exact ⟨⟨hport.1, hport.2.1⟩, hport.2.2⟩
    rw [if_pos hcond]
    refine ⟨hfwd, hchafer, ?_⟩
    rw [if_pos hport, ← hl]
    rfl
  · have hcond : ¬ (decide (32 ≤ i ∧ i < 48) && s.portOfChafer b (i - 32)) = true := by
      rw [Bool.and_eq_true, decide_eq_true_eq, and_assoc]
      exact hport
    rw [if_neg hcond]
    exact ⟨hfwd, hchafer, by rw [if_neg hport, hl]; rfl⟩

theorem injectSource_single (hb : s.banks = [(k, b)]) (i : Nat) : ∃ es, (s.injectSource k i).banks = [(k, { b with elems := es })] ∧
    ({ b with elems := es } : Bank).elem i = sourceElem s b i ∧ ∀ n, n ≠ i → ({ b with elems := es } : Bank).elem n = b.elem n := by
  unfold State.injectSource sourceElem
  rw [bank_single hb]
  by_cases hal : (s.aligned b i).isEmpty = true
  · rw [if_pos hal, if_pos hal]
    exact ⟨_, setBank_single hb _, Bank.elem_setElem_same _ _ _, fun n hn => Bank.elem_setElem_other _ _ _ _ hn⟩
  · rw [if_neg hal, if_neg hal]
    exact ⟨b.elems, hb, rfl, fun n _ => rfl⟩

theorem injectAt_single (hb : s.banks = [(k, b)]) (i : Nat) : ∃ es, (s.injectAt k i).banks = [(k, { b with elems := es })] ∧
    ({ b with elems := es } : Bank).elem i = fedElem s b i ∧ ∀ n, n ≠ i → ({ b with elems := es } : Bank).elem n = b.elem n := by
  obtain ⟨es, hbanks, hsame, hother⟩ := injectSource_single hb i
  have hport : (s.injectSource k i).portOfChafer ((s.injectSource k i).bank k) (i - 32) = s.portOfChafer b (i - 32) := by
    rw [bank_single hbanks]
    exact (sameBlocks_single hb hbanks).portOfChafer b es _
  unfold State.injectAt fedElem
  dsimp only
  rw [hport]
  by_cases hfed : (decide (32 ≤ i ∧ i < 48) && s.portOfChafer b (i - 32)) = true
  · rw [if_pos hfed, if_pos hfed]
    unfold State.markSlot
    dsimp only
    rw [bank_single hbanks, hsame]
    exact ⟨_, setBank_single hbanks _, Bank.elem_setElem_same _ _ _, fun n hn => (Bank.elem_setElem_other _ _ _ _ hn).trans (hother n hn)⟩
  · rw [if_neg hfed, if_neg hfed]
    exact ⟨es, hbanks, hsame, hother⟩

theorem injectAll_single (is : List Nat) : ∀ {s : State} {b : Bank}, s.banks = [(k, b)] → is.Nodup →
    ∃ es, (is.foldl (fun s i => s.injectAt k i) s).banks = [(k, { b with elems := es })] ∧ (∀ i ∈ is, ({ b with elems := es } : Bank).elem i = fedElem s b i) ∧
      ∀ n, n ∉ is → ({ b with elems := es } : Bank).elem n = b.elem n := by
  induction is with
  | nil => exact fun hb _ => ⟨_, hb, fun i hi => absurd hi List.not_mem_nil, fun _ _ => rfl⟩
  | cons j is ih =>
    intro s b hb hnodup
    obtain ⟨hj, hnodup'⟩ := List.nodup_cons.mp hnodup
    obtain ⟨es, hbanks, hsame, hother⟩ := injectAt_single hb j
    obtain ⟨es', hbanks', hfed, hrest⟩ := ih hbanks hnodup'
    have hshape := sameBlocks_single hb hbanks
    refine ⟨es', hbanks', fun i hi => ?_, fun n hn => ?_⟩
    · rcases List.mem_cons.mp hi with rfl | hin
      · exact (hrest i hj).trans hsame
      · have hne : i ≠ j := fun h => hj (h ▸ hin)
        refine (hfed i hin).trans ?_
        unfold fedElem sourceElem
        rw [hshape.aligned, hshape.portOfChafer, hother i hne]
    · obtain ⟨hnj, hnin⟩ := not_or.mp (fun h => hn (List.mem_cons.mpr h))
      exact (hrest n hnin).trans (hother n hnj)

theorem markerGiven_fedAt (hb : s.banks = [(k, b)]) (hcore : bankCore k = core) (hlk : b.lk = lk) (hst : b.st = 1) (hup : b.upper = none) (hnodup : (b.words.map Prod.fst).Nodup) :
    ∀ i ∈ b.words.map Prod.fst, FedAt s b i (((s.markerGiven lk core).bank k).elem i) := by
  obtain ⟨es, hbanks, hfed, -⟩ := injectAll_single (b.words.map Prod.fst) hb hnodup
  have hkeys : s.fedBanks lk core = [k] := by
    unfold State.fedBanks
    rw [hb, List.filter_cons_of_pos (by dsimp only; rw [hcore, hlk, hst, hup]; simp)]
    rfl
  have hbank : (s.markerGiven lk core).bank k = { b with elems := es } := by
    unfold State.markerGiven
    rw [mapLaunch_banks, injectCore_eq]
    show (s.banksFed lk core).bank k = _
    unfold State.banksFed
    rw [hkeys, List.foldl_cons, List.foldl_nil, injectBank_eq, bank_single hb]
    exact bank_single hbanks
  intro i hi
  rw [hbank, hfed i hi]
  exact fedElem_fedAt i

end

end Sys2Proof.Machine

/-! PROOFS. Markers at instructions, banks, memory tiles and nodes (02 R25, 12 R271). -/

namespace Sys2Proof.Machine

section
variable {s : State} {e : Site} {i : Instr}

/-! ### An instruction -/

/-- Elements that differ in the markers at their slots alone. -/
structure MarksApart (x y : Elem) : Prop where
  fwd : y.fwd = x.fwd
  ost : y.ost = x.ost
  q0 : y.q0 = x.q0
  q1 : y.q1 = x.q1
  l : y.l.latch = x.l.latch
  r : y.r.latch = x.r.latch
  p : y.p.latch = x.p.latch
  rein : y.r.rein = x.r.rein

theorem MarksApart.refl (x : Elem) : MarksApart x x := ⟨rfl, rfl, rfl, rfl, rfl, rfl, rfl, rfl⟩

theorem MarksApart.trans {x y z : Elem} (h : MarksApart x y) (h' : MarksApart y z) : MarksApart x z :=
  ⟨h'.fwd.trans h.fwd, h'.ost.trans h.ost, h'.q0.trans h.q0, h'.q1.trans h.q1, h'.l.trans h.l, h'.r.trans h.r, h'.p.trans h.p, h'.rein.trans h.rein⟩

/-- Every element differs in its markers alone. -/
def MarksOnly (s t : State) : Prop := ∀ k n, MarksApart ((s.bank k).elem n) ((t.bank k).elem n)

theorem MarksOnly.refl (s : State) : MarksOnly s s := fun _ _ => .refl _

theorem MarksOnly.trans {s t u : State} (h : MarksOnly s t) (h' : MarksOnly t u) : MarksOnly s u := fun k n => (h k n).trans (h' k n)

theorem MarksOnly.foldl {α : Type} {f : State → α → State} (h : ∀ s x, MarksOnly s (f s x)) (xs : List α) (s : State) : MarksOnly s (xs.foldl f s) := by
  induction xs generalizing s with
  | nil => exact .refl s
  | cons x xs ih => exact (h s x).trans (ih _)

theorem marksOnly_setBank {bk : Nat} {b : Bank} (h : ∀ n, MarksApart ((s.bank bk).elem n) (b.elem n)) : MarksOnly s (s.setBank bk b) := by
  intro k n
  by_cases hk : k = bk
  · rw [hk, State.bank_setBank_same]
    exact h n
  · rw [State.bank_setBank_other _ _ _ _ hk]
    exact .refl _

theorem setSlot_marks (x : Elem) (k : Slot) (m : Nat) : MarksApart x (x.setSlot k { x.slot k with marks := m }) := by
  cases k <;> exact ⟨rfl, rfl, rfl, rfl, rfl, rfl, rfl, rfl⟩

theorem marksOnly_markSlot (s : State) (bk idx : Nat) (k : Slot) : MarksOnly s (s.markSlot bk idx k) := by
  refine marksOnly_setBank (fun n => ?_)
  by_cases hn : n = idx
  · rw [hn, Bank.elem_setElem_same]
    exact setSlot_marks _ _ _
  · rw [Bank.elem_setElem_other _ _ _ _ hn]
    exact .refl _

theorem marksOnly_markArc (s : State) (bk j : Nat) : MarksOnly s (s.markArc bk j) := by
  unfold State.markArc
  dsimp only
  split
  · exact .refl s
  · split
    · exact marksOnly_setBank (fun n => .refl _)
    · split
      · exact .refl s
      · exact marksOnly_markSlot _ _ _ _

theorem marksOnly_markOutputs (s : State) (bk idx : Nat) (ts : List Target) : MarksOnly s (s.markOutputs bk idx ts) := by
  unfold State.markOutputs
  refine .foldl (fun t x => ?_) _ _
  obtain ⟨tg, n⟩ := x
  cases tg with
  | none => exact .refl t
  | creg _ => exact .refl t
  | port p =>
    dsimp only
    split
    · exact .refl t
    · exact .foldl (fun t j => marksOnly_markArc t bk j) _ _
  | slot j k =>
    dsimp only
    split
    · exact marksOnly_markSlot _ _ _ _
    · exact .foldl (fun t j => marksOnly_markArc t bk j) _ _

/-- The element once its instruction has forwarded its marker (02 R25, 05 R106). -/
def forwardedElem (s : State) (e : Site) (i : Instr) : Elem :=
  let el := s.elem e
  let n := el.fwd + 1
  let held (k : InSlot) : List Token := k.rein ++ k.latch.toList
  let rs : InSlot := if hasSticky i then { el.r with latch := none, rein := [] } else el.r
  { el with
    fwd := n, r := rs, snaps := keepSnap n { ost := el.ost, fires := el.fires, l := held el.l, r := held rs, p := held el.p } el.snaps
    sent := el.sent.filter (fun x => decide (s.cutOf (s.bank (siteKey e)).lk e.core ≤ x.1)) }

theorem forwardElem_stays (hi : (s.bank (siteKey e)).instr e.idx = some i) (h : s.markersIn (s.bank (siteKey e)) e.idx = false ∨ s.owes e i = true) : s.forwardElem e = s := by
  unfold State.forwardElem
  dsimp only
  rw [hi]
  refine if_pos ?_
  rcases h with hin | howes
  · exact .inr (.inl (by rw [hin]; rfl))
  · exact .inr (.inr (.inr (.inr howes)))

theorem forwardElem_goes (hi : (s.bank (siteKey e)).instr e.idx = some i) (hst : (s.bank (siteKey e)).st = 1) (hfree : freeConst (s.bank (siteKey e)) e.idx = false)
    (hdead : deadInstr (s.bank (siteKey e)) e.idx i = false) (hin : s.markersIn (s.bank (siteKey e)) e.idx = true) (howes : s.owes e i = false) :
    s.forwardElem e = (s.setElem e (forwardedElem s e i)).markOutputs (siteKey e) e.idx i.targets := by
  unfold State.forwardElem
  dsimp only
  rw [hi]
  refine if_neg ?_
  rw [hst, hin, hfree, hdead, howes]
  simp

theorem forwardedElem_r : (forwardedElem s e i).r = if hasSticky i then { (s.elem e).r with latch := none, rein := [] } else (s.elem e).r := rfl

theorem forwardElem_fields {t : State} (ht : MarksApart (forwardedElem s e i) (t.elem e)) :
    (t.elem e).fwd = (s.elem e).fwd + 1 ∧ (t.elem e).ost = (s.elem e).ost ∧ (t.elem e).q0 = (s.elem e).q0 ∧ (t.elem e).q1 = (s.elem e).q1 ∧ (t.elem e).l.latch = (s.elem e).l.latch ∧
      (t.elem e).p.latch = (s.elem e).p.latch ∧ (t.elem e).r.latch = (if hasSticky i then none else (s.elem e).r.latch) ∧ (t.elem e).r.rein = (if hasSticky i then [] else (s.elem e).r.rein) := by
  refine ⟨ht.fwd, ht.ost, ht.q0, ht.q1, ht.l, ht.p, ht.r.trans ?_, ht.rein.trans ?_⟩
  · rw [forwardedElem_r]
    cases hasSticky i <;> rfl
  · rw [forwardedElem_r]
    cases hasSticky i <;> rfl

/-- The marker of an instruction with one target in its block arrives there. -/
theorem markOutputs_slot {bk idx : Nat} {j : BitVec 7} {k : Slot} (harcs : arcsOf (s.bank bk) idx 0 (.slot j k) = []) : s.markOutputs bk idx [.slot j k, .none] = s.markSlot bk j.toNat k := by
  unfold State.markOutputs
  simp only [List.zipIdx_cons, List.zipIdx_nil, List.foldl_cons, List.foldl_nil]
  rw [harcs]

theorem markSlot_marks (bk idx : Nat) (k : Slot) : ((((s.markSlot bk idx k).bank bk).elem idx).slot k).marks = (((s.bank bk).elem idx).slot k).marks + 1 := by
  unfold State.markSlot
  dsimp only
  rw [State.bank_setBank_same, Bank.elem_setElem_same, setSlot_slot]

/-! ### A bank -/

variable {bk r : Nat}

/-- The writes of NUMF that a marker commits in a bank (18 R316). -/
def State.numfWrites (s : State) (bk r : Nat) : List CsrWrite :=
  commitOrder (s.ordOf (s.bank bk).lk) CsrWrite.key CsrWrite.seq ((s.core (bankCore bk)).csrStage.filter (fun w => w.bank == bk && w.index == 0 && decide (w.round ≤ r)))

theorem commitBank_fields :
    ((s.commitBank bk r).bank bk).mpass = r + 1 ∧ (s.commitBank bk r).mem = s.mem ∧
    ((s.commitBank bk r).bank bk).regs =
      (commitOrder (s.ordOf (s.bank bk).lk) RegWrite.key RegWrite.seq (splitRound r (s.bank bk).rstage).1).foldl (fun m w => mset m w.reg w.val) (s.bank bk).regs ∧
    ((s.commitBank bk r).bank bk).rstage = (splitRound r (s.bank bk).rstage).2 ∧
    ((s.commitBank bk r).bank bk).nstage = (splitRound r (s.bank bk).nstage).2 ∧
    ((s.commitBank bk r).bank bk).numf = (s.numfWrites bk r).foldl (fun (x : BitVec 5) w => (csrCombine w.mode x.toNat w.val).setWidth 5)
      ((splitRound r (s.bank bk).nstage).1.foldl (fun x f => x ||| f) (s.bank bk).numf) := by
  unfold State.commitBank
  dsimp only
  rw [State.bank_setBank_same]
  exact ⟨rfl, rfl, rfl, rfl, rfl, rfl⟩

theorem splitRound_all {α : Type} {xs : List (Nat × α)} (h : ∀ x ∈ xs, x.1 ≤ r) : splitRound r xs = (xs.map Prod.snd, []) := by
  unfold splitRound
  rw [List.filter_eq_self.mpr (fun x hx => decide_eq_true (h x hx)), List.filter_eq_nil_iff.mpr (fun x hx => by rw [decide_eq_true_eq]; exact Nat.not_lt.mpr (h x hx))]

theorem commitOrder_single {α : Type} (ord : Bool) (key : α → Key) (seq : α → Nat) (x : α) : commitOrder ord key seq [x] = [x] := rfl

theorem commitOrder_nil {α : Type} (ord : Bool) (key : α → Key) (seq : α → Nat) : commitOrder ord key seq [] = [] := rfl

/-- The round of a block counts as active where something of it is left (06 R160). -/
def State.countedBusy (s : State) (bk : Nat) : State :=
  if !isQex (s.bank bk) && s.blockBusy bk then s.active (s.bank bk).lk (bankCore bk) (s.bank bk).mpass else s

theorem countedBusy_parts : s.countedBusy bk = { s with parts := (s.countedBusy bk).parts } := by
  unfold State.countedBusy
  split
  · exact mapLaunch_banks _ _ _
  · rfl

theorem forwardBank_goes (hst : (s.bank bk).st = 1) (hup : (s.bank bk).upper = none) (htile : (s.bank bk).tile2 = none) (hinj : (s.bank bk).mpass < s.injOf (s.bank bk).lk (bankCore bk))
    (hlive : ∀ i ∈ s.liveInstrs (s.bank bk), (s.bank bk).mpass < ((s.bank bk).elem i).fwd) (hdrops : ∀ d ∈ (s.bank bk).drops, ∀ x ∈ d.2, (s.bank bk).mpass < x)
    (hrev : ∀ d ∈ (s.bank bk).rev, (s.bank bk).mpass < d.2) : s.forwardBank bk = (s.countedBusy bk).commitBank bk (s.bank bk).mpass := by
  have hlive' : ((s.liveInstrs (s.bank bk)).all (fun i => decide ((s.bank bk).mpass < ((s.bank bk).elem i).fwd))) = true := List.all_eq_true.mpr (fun i hi => decide_eq_true (hlive i hi))
  have hdrops' : ((s.bank bk).drops.any (fun d => d.2.any (fun x => decide (x ≤ (s.bank bk).mpass)))) = false :=
    List.any_eq_false.mpr (fun d hd => Bool.eq_false_iff.mp (List.any_eq_false.mpr (fun x hx => by rw [decide_eq_true_eq]; exact Nat.not_le.mpr (hdrops d hd x hx))))
  have hrev' : ((s.bank bk).rev.any (fun d => decide (d.2 ≤ (s.bank bk).mpass))) = false :=
    List.any_eq_false.mpr (fun d hd => by rw [decide_eq_true_eq]; exact Nat.not_le.mpr (hrev d hd))
  unfold State.forwardBank
  dsimp only
  rw [if_neg (by rw [hst, hup]; simp), decide_eq_true hinj, hlive', hdrops', hrev', htile]
  rfl

/-! ### A memory tile -/

theorem sameStore_commitCheck (part : Nat) (xs : List Arrival) : SameStore s (s.commitCheck part xs) := by
  unfold State.commitCheck
  split
  · exact sameStore_halt s _
  · exact .refl s

theorem writeOrder_write {a : Arrival} (h : a.op.isWrite = true) (ord : Bool) : writeOrder ord [a] = [a] := by
  unfold writeOrder
  cases ord with
  | true => rfl
  | false =>
    rw [if_neg Bool.false_ne_true]
    dsimp only
    rw [List.filter_cons_of_pos (by rw [h]; simp), List.filter_cons_of_neg (by rw [h]; simp), List.filter_nil]
    rw [commitOrder_single, List.foldl_cons, List.foldl_nil, List.filter_nil, commitOrder_nil]
    dsimp only
    rw [List.filter_cons_of_pos (by simp), List.filter_nil]
    rfl

theorem commitOp_write {a : Arrival} {bs : List Byte} (h : a.op = .write bs) : s.commitOp a = (s.commitWrite a bs).forget a.req := by
  have hplain : a.plain = true := by
    unfold Arrival.plain
    rw [h]
    rfl
  unfold State.commitOp State.performOp
  rw [hplain, if_neg (by simp), h]
  rfl

theorem put_unlogged {h : HomeLog} (e : Arrival) (bs : List Byte) (hlog : h.log = []) : h.put e bs = { h with mem := writeBytes h.mem e.addr bs } := if_pos (by rw [hlog]; rfl)

/-- A write to a memory tile at which nothing is logged (12 R270). -/
theorem commitWrite_tile {a : Arrival} {bs : List Byte} {core t : Nat} (hsp : a.space = .tile core t) (hlog : (s.mtile (tileKey core t)).overlay = []) :
    s.commitWrite a bs = s.setMtile (tileKey core t) { s.mtile (tileKey core t) with bytes := writeBytes (s.mtile (tileKey core t)).bytes a.addr bs } := by
  unfold State.commitWrite
  rw [hsp, put_unlogged a bs (show (s.homeLog (.tile core t)).log = [] from hlog)]
  rfl

/-- Requests, waiters and banks alone differ: what an answer may change. -/
def AnswersOnly (s t : State) : Prop := t = { s with banks := t.banks, reqs := t.reqs, waiters := t.waiters }

theorem AnswersOnly.refl (s : State) : AnswersOnly s s := rfl

theorem AnswersOnly.trans {s t u : State} (h : AnswersOnly s t) (h' : AnswersOnly t u) : AnswersOnly s u := by
  unfold AnswersOnly at h h' ⊢
  rw [h', h]

theorem AnswersOnly.foldl {α : Type} {f : State → α → State} (h : ∀ s x, AnswersOnly s (f s x)) (xs : List α) (s : State) : AnswersOnly s (xs.foldl f s) := by
  induction xs generalizing s with
  | nil => exact .refl s
  | cons x xs ih => exact (h s x).trans (ih _)

theorem answersOnly_answer (s : State) (id : Nat) (after : Option Nat) (outs : List (Nat × Token)) (fl : Nat) : AnswersOnly s (s.answer id after outs fl) := by
  unfold State.answer
  split
  · exact .refl s
  · rfl

theorem answersOnly_letGo (s : State) : AnswersOnly s s.letGo := by
  unfold State.letGo
  refine .trans ?_ (.foldl (fun t x => ?_) _ _)
  · rfl
  · cases x.granted with
    | none => exact .refl t
    | some g => exact answersOnly_answer t _ _ _ _

theorem answersOnly_wakeFences (s : State) : AnswersOnly s s.wakeFences := by
  unfold State.wakeFences
  refine .foldl (fun t r => ?_) _ _
  split
  · split
    · exact answersOnly_answer t _ _ _ _
    · exact .refl t
  · exact .refl t

theorem answersOnly_wakeResolved (s : State) : AnswersOnly s s.wakeResolved := by
  unfold State.wakeResolved
  refine .trans ?_ (.foldl (fun t x => ?_) _ _)
  · rfl
  · split
    · exact answersOnly_answer t _ _ _ _
    · exact .refl t

theorem answersOnly_wake (s : State) : AnswersOnly s s.wake := ((answersOnly_wakeResolved s).trans (answersOnly_wakeFences _)).trans (answersOnly_letGo _)

theorem AnswersOnly.mtile {s t : State} (h : AnswersOnly s t) (n : Nat) : t.mtile n = s.mtile n := by rw [h]; rfl

theorem AnswersOnly.core {s t : State} (h : AnswersOnly s t) (n : Nat) : t.core n = s.core n := by rw [h]; rfl

theorem AnswersOnly.launch {s t : State} (h : AnswersOnly s t) (lk : Nat) : t.launch lk = s.launch lk := by rw [h]; rfl

theorem AnswersOnly.mem {s t : State} (h : AnswersOnly s t) : t.mem = s.mem := by rw [h]

theorem AnswersOnly.units {s t : State} (h : AnswersOnly s t) : t.units = s.units := by rw [h]

variable {lk core m : Nat}

/-- A memory tile whose staged writes are on their way. -/
def State.tileTaken (s : State) (lk core m : Nat) (xs : List Arrival) : State := (s.commitCheck (lkPart lk) xs).setMtile (tileKey core m) { s.mtile (tileKey core m) with stage := [] }

/-- A memory tile that a marker has passed, before what waits looks again. -/
def State.tilePassed (s u : State) (lk core m r : Nat) : State :=
  let n := u.mtile (tileKey core m)
  let kept (x : TileCut) : TileCut := if x.lk = lk then x else { x with bytes := carryBytes (s.mtile (tileKey core m)).bytes n.bytes x.bytes }
  let snaps := if lkLid lk = 0 then n.snaps.map kept else n.snaps.filter (fun x => x.lk != lk || decide (r ≤ x.round)) ++ [{ lk := lk, round := r + 1, bytes := n.bytes }]
  u.setMtile (tileKey core m) { n with recs := commitRecs lk r n.recs, pass := mset n.pass lk (r + 1), snaps := snaps }

theorem commitTile_single {a : Arrival} (hlog : (s.mtile (tileKey core m)).overlay = []) (hstage : (s.mtile (tileKey core m)).stage = [a]) (hlk : a.lk = lk) (hround : a.round ≤ r)
    (hwrite : a.op.isWrite = true) : s.commitTile lk core m r = (s.tilePassed ((s.tileTaken lk core m [a]).commitOp a) lk core m r).wake := by
  have hmine : (a.lk == lk && decide (a.round ≤ r)) = true := by
    rw [Bool.and_eq_true, beq_iff_eq, decide_eq_true_eq]
    exact ⟨hlk, hround⟩
  have hkeep : [a].filter (fun a => a.lk == lk && decide (a.round ≤ r)) = [a] := List.filter_cons_of_pos hmine
  have hgone : [a].filter (fun a => !(a.lk == lk && decide (a.round ≤ r))) = [] := List.filter_cons_of_neg (by rw [hmine]; exact Bool.false_ne_true)
  have hundone : (s.mtile (tileKey core m)).undone = [] := by
    unfold MTile.undone
    rw [hlog]
    rfl
  unfold State.commitTile
  dsimp only
  rw [hundone, hstage, hkeep, hgone, List.filter_nil, List.append_nil,
    writeOrder_write hwrite, List.foldl_cons, List.foldl_nil]
  rfl

theorem commitTile_write {a : Arrival} {bs : List Byte} (hlog : (s.mtile (tileKey core m)).overlay = []) (hstage : (s.mtile (tileKey core m)).stage = [a]) (hlk : a.lk = lk) (hround : a.round ≤ r)
    (hsp : a.space = .tile core m) (hop : a.op = .write bs) :
    ((s.commitTile lk core m r).mtile (tileKey core m)).bytes = writeBytes (s.mtile (tileKey core m)).bytes a.addr bs ∧ ((s.commitTile lk core m r).mtile (tileKey core m)).stage = [] ∧
      mgetD ((s.commitTile lk core m r).mtile (tileKey core m)).pass lk 0 = r + 1 ∧ (s.commitTile lk core m r).mem = s.mem := by
  have htaken : (s.tileTaken lk core m [a]).mtile (tileKey core m) = { s.mtile (tileKey core m) with stage := [] } := State.mtile_setMtile_same _ _ _
  have hu : (s.tileTaken lk core m [a]).commitOp a = (((s.tileTaken lk core m [a]).setMtile (tileKey core m)
      { s.mtile (tileKey core m) with stage := [], bytes := writeBytes (s.mtile (tileKey core m)).bytes a.addr bs }).forget a.req) := by
    rw [commitOp_write hop, commitWrite_tile hsp (by rw [htaken]; exact hlog), htaken]
  have hn : ((s.tileTaken lk core m [a]).commitOp a).mtile (tileKey core m) = { s.mtile (tileKey core m) with stage := [], bytes := writeBytes (s.mtile (tileKey core m)).bytes a.addr bs } := by
    rw [hu]
    exact State.mtile_setMtile_same _ _ _
  have hmem : ((s.tileTaken lk core m [a]).commitOp a).mem = s.mem := by
    rw [hu]
    exact (sameStore_commitCheck (lkPart lk) [a]).mem
  have hwake := answersOnly_wake (s.tilePassed ((s.tileTaken lk core m [a]).commitOp a) lk core m r)
  rw [commitTile_single hlog hstage hlk hround (by rw [hop]; rfl), hwake.mtile, hwake.mem]
  unfold State.tilePassed
  dsimp only
  rw [State.mtile_setMtile_same, hn]
  exact ⟨rfl, rfl, mgetD_mset_same _ _ _ _, hmem⟩

theorem forwardTile_goes (hinj : mgetD (s.mtile (tileKey core m)).pass lk 0 < s.injOf lk core) (hpast : s.banksPast lk core (mgetD (s.mtile (tileKey core m)).pass lk 0) = true)
    (hop : s.opUnderway lk core (mgetD (s.mtile (tileKey core m)).pass lk 0) (fun x => x == .tile core m) = false) :
    s.forwardTile lk core m = s.commitTile lk core m (mgetD (s.mtile (tileKey core m)).pass lk 0) := by
  unfold State.forwardTile
  dsimp only
  rw [decide_eq_true hinj, hpast, hop]
  rfl

/-! ### A matrix node -/

theorem forwardNode_goes (hinj : mgetD (s.ctile (tileKey core m)).pass lk 0 < s.injOf lk core) (hpast : s.banksPast lk core (mgetD (s.ctile (tileKey core m)).pass lk 0) = true) :
    s.forwardNode lk core m = s.commitNode lk core m (mgetD (s.ctile (tileKey core m)).pass lk 0) := by
  unfold State.forwardNode
  dsimp only
  rw [decide_eq_true hinj, hpast]
  rfl

theorem commitNode_fields (hlid : lkLid lk ≠ 0) :
    mgetD ((s.commitNode lk core m r).ctile (tileKey core m)).pass lk 0 = r + 1 ∧ ((s.commitNode lk core m r).ctile (tileKey core m)).slots = (s.ctile (tileKey core m)).slots ∧
      ((s.commitNode lk core m r).ctile (tileKey core m)).acc = (s.ctile (tileKey core m)).acc ∧
      { lk := lk, round := r + 1, slots := (s.ctile (tileKey core m)).slots, acc := (s.ctile (tileKey core m)).acc } ∈ ((s.commitNode lk core m r).ctile (tileKey core m)).snaps := by
  unfold State.commitNode
  dsimp only
  rw [State.ctile_setCtile_same, if_neg hlid]
  exact ⟨mgetD_mset_same _ _ _ _, rfl, rfl, List.mem_append_right _ (List.mem_singleton.mpr rfl)⟩

end

end Sys2Proof.Machine

/-! PROOFS. A marker passes the port of a core, and completes a cut (12 R271, 21 R380). -/

namespace Sys2Proof.Machine

/-! ### What a marker at a port leaves -/

/-- Memory, units, launches, the markers that ports have passed and the writes staged there are the same. -/
structure PortsKept (s t : State) : Prop where
  mem : t.mem = s.mem
  units : t.units = s.units
  parts : t.parts = s.parts
  pass : ∀ n, (t.core n).pass = (s.core n).pass
  gstage : ∀ n, (t.core n).gstage = (s.core n).gstage

theorem PortsKept.refl (s : State) : PortsKept s s := ⟨rfl, rfl, rfl, fun _ => rfl, fun _ => rfl⟩

theorem PortsKept.trans {s t u : State} (h : PortsKept s t) (h' : PortsKept t u) : PortsKept s u :=
  ⟨h'.mem.trans h.mem, h'.units.trans h.units, h'.parts.trans h.parts, fun n => (h'.pass n).trans (h.pass n), fun n => (h'.gstage n).trans (h.gstage n)⟩

theorem PortsKept.foldl {α : Type} {f : State → α → State} (h : ∀ s x, PortsKept s (f s x)) (xs : List α) (s : State) : PortsKept s (xs.foldl f s) := by
  induction xs generalizing s with
  | nil => exact .refl s
  | cons x xs ih => exact (h s x).trans (ih _)

theorem PortsKept.launch {s t : State} (h : PortsKept s t) (lk : Nat) : t.launch lk = s.launch lk := by
  unfold State.launch State.part
  rw [h.parts]

section
variable {s : State} {lk core r : Nat}

theorem portsKept_setCore {c : Core} (hpass : c.pass = (s.core core).pass) (hgstage : c.gstage = (s.core core).gstage) : PortsKept s (s.setCore core c) := by
  refine ⟨rfl, rfl, rfl, fun n => ?_, fun n => ?_⟩
  · by_cases hn : n = core
    · rw [hn, State.core_setCore_same, hpass]
    · rw [State.core_setCore_other _ _ _ _ hn]
  · by_cases hn : n = core
    · rw [hn, State.core_setCore_same, hgstage]
    · rw [State.core_setCore_other _ _ _ _ hn]

theorem portsKept_fill (s : State) (e : Site) (id due : Nat) (after : Option Nat) (outs : List (Nat × Token)) : PortsKept s (s.fill e id due after outs) := ⟨rfl, rfl, rfl, fun _ => rfl, fun _ => rfl⟩

theorem portsKept_rttCommit (s : State) : PortsKept s (s.rttCommit core lk r) := by
  unfold State.rttCommit
  refine .trans ?_ (.foldl (fun t x => ?_) _ _)
  · exact portsKept_setCore rfl rfl
  · refine .trans ?_ (portsKept_fill _ x.site x.flight t.fc _ _)
    exact portsKept_setCore rfl rfl

theorem dropped_ports (part : Nat) (vs : List Inval) (c : Core) :
    (vs.foldl (fun (c : Core) v => if s.keepsLines part v then c else c.dropLines v.all v.lo v.hi) c).pass = c.pass ∧
      (vs.foldl (fun (c : Core) v => if s.keepsLines part v then c else c.dropLines v.all v.lo v.hi) c).gstage = c.gstage := by
  induction vs generalizing c with
  | nil => exact ⟨rfl, rfl⟩
  | cons v vs ih =>
    obtain ⟨hpass, hgstage⟩ := ih (if s.keepsLines part v then c else c.dropLines v.all v.lo v.hi)
    refine ⟨hpass.trans ?_, hgstage.trans ?_⟩
    · split <;> rfl
    · split <;> rfl

theorem portsKept_invalMarker (s : State) (part : Nat) : PortsKept s (s.invalMarker core part lk r) := by
  unfold State.invalMarker
  exact portsKept_setCore (dropped_ports part _ _).1 (dropped_ports part _ _).2

/-! ### The port -/

/-- A write that a marker of a launch sends home. -/
def Arrival.sentBy (lk r : Nat) (a : Arrival) : Bool := a.lk == lk && decide (a.round ≤ r)

/-- The core that a marker leaves at its port, and the units on their way (12 R271). -/
structure PortTaken (s : State) (lk core r : Nat) (t : State) : Prop where
  mem : t.mem = s.mem
  units : t.units = s.units ++ (s.core core).gstage.filter (Arrival.sentBy lk r)
  parts : t.parts = s.parts
  pass : (t.core core).pass = mset (s.core core).pass lk (r + 1)
  gstage : (t.core core).gstage = (s.core core).gstage.filter (fun a => !Arrival.sentBy lk r a)

theorem PortTaken.kept {t u : State} (h : PortTaken s lk core r t) (h' : PortsKept t u) : PortTaken s lk core r u :=
  ⟨h'.mem.trans h.mem, h'.units.trans h.units, h'.parts.trans h.parts, (h'.pass core).trans h.pass, (h'.gstage core).trans h.gstage⟩

theorem portTaken_commitPort (hlid : lkLid lk ≠ 0) (hcsr : (s.core core).csrStage = []) : PortTaken s lk core r (s.commitPort lk core r) := by
  unfold State.commitPort
  dsimp only
  simp only [hcsr, List.filter_nil, commitOrder_nil, List.foldl_nil]
  rw [if_pos (Or.inl hlid), if_neg hlid, if_pos (Or.inl hlid)]
  refine PortTaken.kept ?_ ((portsKept_rttCommit _).trans (portsKept_invalMarker _ _))
  refine ⟨rfl, rfl, rfl, ?_, ?_⟩
  · exact congrArg Core.pass (State.core_setCore_same s core _)
  · exact congrArg Core.gstage (State.core_setCore_same s core _)

/-- The port that a marker has passed, with the completed commands of earlier rounds gone. -/
def State.portPassed (s : State) (lk core r : Nat) : State :=
  let t := s.commitPort lk core r
  t.setCore core { t.core core with cmds := (t.core core).cmds.filter (fun x => !(x.lk == lk && x.emitted.any (fun e => decide (e < t.cutOf lk core)))) }

theorem portTaken_portPassed (hlid : lkLid lk ≠ 0) (hcsr : (s.core core).csrStage = []) : PortTaken s lk core r (s.portPassed lk core r) :=
  (portTaken_commitPort hlid hcsr).kept (portsKept_setCore rfl rfl)

theorem PortTaken.launch {t : State} (h : PortTaken s lk core r t) (n : Nat) : t.launch n = s.launch n := by
  unfold State.launch State.part
  rw [h.parts]

theorem forwardPort_completes {l : Launch} (hinj : mgetD (s.core core).pass lk 0 < s.injOf lk core) (hpast : s.banksPast lk core (mgetD (s.core core).pass lk 0) = true)
    (htiles : ∀ m, m < 16 → mgetD (s.core core).pass lk 0 < mgetD (s.mtile (tileKey core m)).pass lk 0 ∧ mgetD (s.core core).pass lk 0 < mgetD (s.ctile (tileKey core m)).pass lk 0)
    (hop : s.opUnderway lk core (mgetD (s.core core).pass lk 0) (fun _ => true) = false) (hl : s.launch lk = some l) (hlid : lkLid lk ≠ 0) (hcores : l.cores = [core]) (hcsr : (s.core core).csrStage = []) :
    s.forwardPort lk core = (s.portPassed lk core (mgetD (s.core core).pass lk 0)).completeCut lk l (mgetD (s.core core).pass lk 0) := by
  have htaken := portTaken_portPassed (s := s) (lk := lk) (core := core) (r := mgetD (s.core core).pass lk 0) hlid hcsr
  have hall : ((List.range 16).all (fun t => decide (mgetD (s.core core).pass lk 0 < mgetD (s.mtile (tileKey core t)).pass lk 0) &&
      decide (mgetD (s.core core).pass lk 0 < mgetD (s.ctile (tileKey core t)).pass lk 0))) = true := by
    refine List.all_eq_true.mpr (fun m hm => ?_)
    obtain ⟨hmem, hnode⟩ := htiles m (List.mem_range.mp hm)
    rw [decide_eq_true hmem, decide_eq_true hnode]
    rfl
  have hlast : (l.cores.all (fun k => decide (mgetD (s.core core).pass lk 0 < mgetD ((s.portPassed lk core (mgetD (s.core core).pass lk 0)).core k).pass lk 0))) = true := by
    rw [hcores, List.all_cons, htaken.pass, mgetD_mset_same]
    simp
  unfold State.forwardPort
  dsimp only
  rw [decide_eq_true hinj, hpast, hall, hop]
  refine (if_neg (by simp)).trans ?_
  have hl' : (s.portPassed lk core (mgetD (s.core core).pass lk 0)).launch lk = some l := (htaken.launch lk).trans hl
  unfold State.portPassed at hl' hlast ⊢
  dsimp only at hl' hlast ⊢
  rw [hl']
  dsimp only
  rw [if_neg hlid]
  exact if_pos hlast

theorem sendFar_keeps (s : State) (cores : List Nat) : s.sendFar lk cores r = { s with
    nid := (s.sendFar lk cores r).nid, units := (s.sendFar lk cores r).units, hostReqs := (s.sendFar lk cores r).hostReqs, remoteUnits := (s.sendFar lk cores r).remoteUnits } := rfl

/-- Writes for device memory stay units (13 R288 R291). -/
theorem sendFar_units {a : Arrival} {cores : List Nat} (ha : a ∈ s.units) (hdev : a.space = .dev) : a ∈ (s.sendFar lk cores r).units := by
  refine List.mem_filter.mpr ⟨ha, ?_⟩
  rw [hdev]
  simp

theorem completeCut_fields (l : Launch) : (∀ n, (s.completeCut lk l r).core n = s.core n) ∧ ((s.completeCut lk l r).launch lk).map Launch.cut = some (r + 1) ∧ (s.completeCut lk l r).mem = s.mem ∧
    ∀ a ∈ s.units, a.space = .dev → a ∈ (s.completeCut lk l r).units := by
  have hgo := answersOnly_letGo ((s.setLaunch lk { s.countQuiets lk l l.cores r with cut := r + 1, rbCut := 0 }).sendFar lk l.cores r)
  unfold State.completeCut
  refine ⟨fun n => ?_, ?_, ?_, fun a ha hdev => ?_⟩
  · rw [hgo.core, setLaunch_parts]
    rfl
  · rw [hgo.launch, show ((s.setLaunch lk { s.countQuiets lk l l.cores r with cut := r + 1, rbCut := 0 }).sendFar lk l.cores r).launch lk = _ from launch_setLaunch_same s lk _]
    rfl
  · rw [hgo.mem, setLaunch_parts]
    rfl
  · rw [hgo.units]
    refine sendFar_units ?_ hdev
    rw [setLaunch_parts]
    exact ha

theorem portPassed_sends {a : Arrival} {t : State} (h : PortTaken s lk core r t) (ha : a ∈ (s.core core).gstage) (hlk : a.lk = lk) (hround : a.round ≤ r) : a ∈ t.units ∧ a ∉ (t.core core).gstage := by
  have hmine : Arrival.sentBy lk r a = true := by
    unfold Arrival.sentBy
    rw [Bool.and_eq_true, beq_iff_eq, decide_eq_true_eq]
    exact ⟨hlk, hround⟩
  rw [h.units, h.gstage]
  refine ⟨List.mem_append_right _ (List.mem_filter.mpr ⟨ha, hmine⟩), fun hmem => ?_⟩
  have hnot := (List.mem_filter.mp hmem).2
  rw [hmine] at hnot
  exact Bool.false_ne_true hnot

theorem countedBusy_bank (bk n : Nat) : (s.countedBusy bk).bank n = s.bank n := by
  rw [countedBusy_parts]
  rfl

theorem countedBusy_numf {bk : Nat} (hcsr : (s.core (bankCore bk)).csrStage = []) : (s.countedBusy bk).numfWrites bk r = [] := by
  have hcore : (s.countedBusy bk).core (bankCore bk) = s.core (bankCore bk) := by
    rw [countedBusy_parts]
    rfl
  unfold State.numfWrites
  rw [hcore, hcsr]
  rfl

end

/-- Settles O47: the marker at each place it passes: Chafer, an instruction, a bank, a memory tile, a node and a port. -/
theorem markersPass : Obligations.MarkersPass := by
  unfold Obligations.MarkersPass
  refine ⟨fun s lk core l hl hlid hdue hcores hinj => ⟨?_, ?_⟩, fun s lk core l hl hlid hdue => exec_markerInject_early hl hlid hdue, ?_, ?_, ?_, ?_, ?_⟩
  · exact ⟨_, exec_markerInject_due hl hlid hdue hcores hinj, markerGiven_fields hl hinj⟩
  · intro k b hb hcore hlk hst hup hnodup
    refine ⟨_, exec_markerInject_due hl hlid hdue hcores hinj, fun i hi => ?_⟩
    obtain ⟨hfwd, hchafer, hmarks⟩ := markerGiven_fedAt hb hcore hlk hst hup hnodup i hi
    exact ⟨hfwd, hchafer, hmarks⟩
  · intro s e b i hb hi hst hfree hdead
    subst hb
    refine ⟨fun h => congrArg Host.Outcome.next (forwardElem_stays hi h), fun hin howes => ?_⟩
    have hgoes := forwardElem_goes hi hst hfree hdead hin howes
    have hmarks := marksOnly_markOutputs (s.setElem e (forwardedElem s e i)) (siteKey e) e.idx i.targets
    have helem : MarksApart (forwardedElem s e i) (((s.setElem e (forwardedElem s e i)).markOutputs (siteKey e) e.idx i.targets).elem e) := by
      have h := hmarks (siteKey e) e.idx
      rw [State.bank_setElem_same, Bank.elem_setElem_same] at h
      exact h
    obtain ⟨hfwd, host, hq0, hq1, hl, hp, hr, hrein⟩ := forwardElem_fields helem
    refine ⟨_, congrArg Host.Outcome.next hgoes, hfwd, host, hq0, hq1, hl, hp, hr, hrein, fun j k ht harcs hne => ?_⟩
    rw [ht, markOutputs_slot (by rw [State.bank_setElem_same]; exact harcs)]
    have hmark := markSlot_marks (s := s.setElem e (forwardedElem s e i)) (siteKey e) j.toNat k
    rw [State.bank_setElem_same, Bank.elem_setElem_other _ _ _ _ hne] at hmark
    exact hmark
  · intro s bk b hb hst hup htile hinj hlive hdrops hrev hcsr
    subst hb
    obtain ⟨hpass, hmem, hregs, hrstage, hnstage, hnumf⟩ := commitBank_fields (s := s.countedBusy bk) (bk := bk) (r := (s.bank bk).mpass)
    rw [countedBusy_bank] at hregs hrstage hnstage hnumf
    rw [countedBusy_numf hcsr, List.foldl_nil] at hnumf
    refine ⟨_, congrArg Host.Outcome.next (forwardBank_goes hst hup htile hinj hlive hdrops hrev), hpass, hmem.trans ?_, fun r w hone hround => ?_, fun hnone => ?_, fun hall => ?_⟩
    · rw [countedBusy_parts]
    · have hsplit : splitRound (s.bank bk).mpass (s.bank bk).rstage = ([w], []) := by
        rw [hone]
        exact splitRound_all (List.forall_mem_singleton.mpr hround)
      rw [hregs, hrstage, hsplit]
      exact ⟨rfl, rfl⟩
    · rw [hregs, hnone]
      rfl
    · rw [hnstage, hnumf, splitRound_all hall]
      exact ⟨rfl, rfl⟩
  · intro s lk core m r t0 ht hm hr hinj hpast hop hlog a bs hstage hlk hround hsp hwrite
    subst ht hr
    exact ⟨_, congrArg Host.Outcome.next (forwardTile_goes hinj hpast hop), commitTile_write hlog hstage hlk hround hsp hwrite⟩
  · intro s lk core m r n hn hr hinj hpast hlid
    subst hn hr
    exact ⟨_, congrArg Host.Outcome.next (forwardNode_goes hinj hpast), commitNode_fields hlid⟩
  · intro s lk core r l hr hinj hpast htiles hop hl hlid hcores hcsr
    subst hr
    have htaken := portTaken_portPassed (s := s) (lk := lk) (core := core) (r := mgetD (s.core core).pass lk 0) hlid hcsr
    obtain ⟨hcore, hcut, hmem, hunits⟩ := completeCut_fields (s := s.portPassed lk core (mgetD (s.core core).pass lk 0)) (lk := lk) (r := mgetD (s.core core).pass lk 0) l
    refine ⟨_, congrArg (fun u => Host.Outcome.next (State.tryEffects u lk core)) (forwardPort_completes hinj hpast htiles hop hl hlid hcores hcsr), ?_, hcut, hmem.trans htaken.mem, fun a ha hlk hround hdev => ?_⟩
    · rw [hcore, htaken.pass, mgetD_mset_same]
    · obtain ⟨hsent, hgone⟩ := portPassed_sends htaken ha hlk hround
      refine ⟨hunits a hsent hdev, ?_⟩
      rw [hcore]
      exact hgone

end Sys2Proof.Machine

/-! PROOFS. What an operation at a home leaves of the clock and of the launches (08 R212-R220). -/

namespace Sys2Proof.Machine

/-- A launch with nothing staged. -/
def Launch.unstaged (l : Launch) : Launch := { l with staged := [] }

/-- The clock stands, and the launches differ in what they have staged alone. -/
structure StagedOnly (s t : State) : Prop where
  fc : t.fc = s.fc
  launches : ∀ n, (t.part n).launches.map (Prod.map id Launch.unstaged) = (s.part n).launches.map (Prod.map id Launch.unstaged)
  handler : ∀ n, (t.part n).handler.map Launch.unstaged = (s.part n).handler.map Launch.unstaged

theorem StagedOnly.refl (s : State) : StagedOnly s s := ⟨rfl, fun _ => rfl, fun _ => rfl⟩

theorem StagedOnly.trans {s t u : State} (h : StagedOnly s t) (h' : StagedOnly t u) : StagedOnly s u :=
  ⟨h'.fc.trans h.fc, fun n => (h'.launches n).trans (h.launches n), fun n => (h'.handler n).trans (h.handler n)⟩

theorem StagedOnly.foldl {α : Type} {f : State → α → State} (h : ∀ s x, StagedOnly s (f s x)) (xs : List α) (s : State) : StagedOnly s (xs.foldl f s) := by
  induction xs generalizing s with
  | nil => exact .refl s
  | cons x xs ih => exact (h s x).trans (ih _)

theorem StagedOnly.of_parts {s t : State} (hfc : t.fc = s.fc) (hparts : t.parts = s.parts) : StagedOnly s t := by
  have hpart (n : Nat) : t.part n = s.part n := by
    unfold State.part
    rw [hparts]
  exact ⟨hfc, fun n => by rw [hpart], fun n => by rw [hpart]⟩

section
variable {s : State}

theorem stagedOnly_setPart {n : Nat} {p : Partition} (hl : p.launches.map (Prod.map id Launch.unstaged) = (s.part n).launches.map (Prod.map id Launch.unstaged))
    (hh : p.handler.map Launch.unstaged = (s.part n).handler.map Launch.unstaged) : StagedOnly s (s.setPart n p) := by
  refine ⟨rfl, fun m => ?_, fun m => ?_⟩
  · by_cases hm : m = n
    · rw [hm, State.part_setPart_same, hl]
    · rw [State.part_setPart_other _ _ _ _ hm]
  · by_cases hm : m = n
    · rw [hm, State.part_setPart_same, hh]
    · rw [State.part_setPart_other _ _ _ _ hm]

/-- A value stored under a key that a map has, and that a function does not tell from the one there. -/
theorem map_mset_same {α β : Type} (f : α → β) (m : Map α) (i : Nat) (x y : α) (h : mget m i = some x) (hf : f y = f x) : (mset m i y).map (Prod.map id f) = m.map (Prod.map id f) := by
  induction m with
  | nil => exact absurd h (by simp [mget])
  | cons z m ih =>
    obtain ⟨k, v⟩ := z
    unfold mget at h
    unfold mset
    by_cases hk : k = i
    · rw [if_pos hk] at h
      obtain rfl := Option.some.inj h
      rw [if_neg (by omega), if_pos hk.symm, List.map_cons, List.map_cons]
      simp only [Prod.map_apply, hf, hk]
    · rw [if_neg hk] at h
      by_cases hlt : i < k
      · rw [if_pos hlt] at h
        exact absurd h (by simp)
      · rw [if_neg hlt] at h
        rw [if_neg hlt, if_neg (fun he => hk he.symm), List.map_cons, List.map_cons, ih h]

theorem stagedOnly_mapLaunch (s : State) (lk : Nat) (g : Launch → Launch) (hg : ∀ l, (g l).unstaged = l.unstaged) : StagedOnly s (s.mapLaunch lk g) := by
  unfold State.mapLaunch
  cases hl : s.launch lk with
  | none => exact .refl s
  | some l =>
    unfold State.launch at hl
    show StagedOnly s (s.setLaunch lk (g l))
    unfold State.setLaunch
    dsimp only
    by_cases hlid : lkLid lk = 0
    · rw [if_pos hlid] at hl ⊢
      exact stagedOnly_setPart rfl (by rw [hl, Option.map_some, Option.map_some, hg])
    · rw [if_neg hlid] at hl ⊢
      exact stagedOnly_setPart (map_mset_same Launch.unstaged _ _ l _ hl (hg l)) rfl

theorem stagedOnly_halt (s : State) (n : Nat) : StagedOnly s (s.halt n) := by
  unfold State.halt
  dsimp only
  split
  · exact .refl s
  · exact stagedOnly_setPart rfl rfl

theorem stagedOnly_sendRecord (s : State) (core : Nat) (r : FRec) : StagedOnly s (s.sendRecord core r) := .of_parts rfl rfl

theorem stagedOnly_notice (s : State) (lk core code info aux : Nat) (o : Origin) : StagedOnly s (s.notice lk core code info aux o) := by
  unfold State.notice
  split
  · exact stagedOnly_halt s _
  · exact stagedOnly_sendRecord s _ _

theorem stagedOnly_abandon (s : State) (id : Nat) : StagedOnly s (s.abandon id) := by
  unfold State.abandon
  split
  · exact .refl s
  · exact .of_parts rfl rfl

theorem stagedOnly_faultNow (s : State) (a : Arrival) (code info : Nat) : StagedOnly s (s.faultNow a code info) := (stagedOnly_abandon s a.req).trans (stagedOnly_notice _ _ _ _ _ _ _)

theorem stagedOnly_setHomeLog (s : State) (sp : Space) (h : HomeLog) : StagedOnly s (s.setHomeLog sp h) := by
  cases sp <;> exact .of_parts rfl rfl

theorem stagedOnly_homeFault (s : State) (commit : Bool) (a : Arrival) (code info : Nat) : StagedOnly s (s.homeFault commit a code info) := by
  unfold State.homeFault
  split
  · exact stagedOnly_faultNow s a code info
  · exact .trans (t := { s with nid := s.nid + 1 }) (.of_parts rfl rfl) (stagedOnly_setHomeLog _ _ _)

theorem stagedOnly_homeWrite (s : State) (sp : Space) (a : Nat) (bs : List Byte) : StagedOnly s (s.homeWrite sp a bs) := stagedOnly_setHomeLog _ _ _

theorem stagedOnly_useTile (s : State) (c t : Nat) : StagedOnly s (s.useTile c t) := .of_parts rfl rfl

theorem stagedOnly_atomicStore (s : State) (commit : Bool) (a : Arrival) (bs : List Byte) : StagedOnly s (s.atomicStore commit a bs) := by
  unfold State.atomicStore
  dsimp only
  split
  · exact stagedOnly_homeWrite s _ _ _
  · split
    · exact .trans (t := { s with nid := s.nid + 1 }) (.of_parts rfl rfl) ((stagedOnly_setHomeLog _ a.space _).trans (stagedOnly_useTile _ _ _))
    · exact .trans (t := { s with nid := s.nid + 1 }) (.of_parts rfl rfl) (stagedOnly_setHomeLog _ a.space _)

theorem stagedOnly_answer (s : State) (id : Nat) (after : Option Nat) (outs : List (Nat × Token)) (fl : Nat) : StagedOnly s (s.answer id after outs fl) := by
  have h := answersOnly_answer s id after outs fl
  exact .of_parts (by rw [h]) (by rw [h])

theorem stagedOnly_performAtomic (s : State) (commit : Bool) (a : Arrival) (op tag : Nat) (u : Bool) (val : Token) (k : Nat) : StagedOnly s (s.performAtomic commit a op tag u val k) := by
  unfold State.performAtomic
  dsimp only
  split
  · exact (stagedOnly_atomicStore s _ _ _).trans (stagedOnly_answer _ _ _ _ _)
  · exact (stagedOnly_atomicStore s _ _ _).trans (stagedOnly_answer _ _ _ _ _)

theorem stagedOnly_park (s : State) (a : Arrival) : StagedOnly s (s.park a) := .of_parts rfl rfl

theorem stagedOnly_waiters (s : State) (ws : List Waiter) : StagedOnly s { s with waiters := ws } := .of_parts rfl rfl

theorem stagedOnly_performBar (s : State) (commit : Bool) (a : Arrival) (copy : Bool) : StagedOnly s (s.performBar commit a copy) := by
  have hpark : StagedOnly s (if copy then s else s.park a) := by
    split
    · exact .refl s
    · exact stagedOnly_park s a
  unfold State.performBar
  split
  · exact stagedOnly_homeFault s _ _ _ _
  · dsimp only
    split
    · exact (hpark.trans (stagedOnly_atomicStore _ _ _ _)).trans (stagedOnly_waiters _ _)
    · exact hpark.trans (stagedOnly_atomicStore _ _ _ _)

theorem stagedOnly_performPermit (s : State) (commit : Bool) (a : Arrival) (give : Bool) : StagedOnly s (s.performPermit commit a give) := by
  unfold State.performPermit
  dsimp only
  split
  · exact stagedOnly_homeFault s _ _ _ _
  · split
    · split
      · refine .trans ?_ (stagedOnly_waiters _ _)
        split
        · exact .refl s
        · exact stagedOnly_atomicStore s _ _ _
      · exact stagedOnly_atomicStore s _ _ _
    · split
      · exact stagedOnly_park s a
      · exact ((stagedOnly_atomicStore s _ _ _).trans (stagedOnly_park _ a)).trans (stagedOnly_waiters _ _)

theorem stagedOnly_stageLaunch (s : State) (a : Arrival) (queue addr : Nat) (ps : List Part) (wait : List RoundOf) : StagedOnly s (s.stageLaunch a queue addr ps wait) := by
  have h := stagedOnly_mapLaunch s a.lk (fun l => { l with
    staged := l.staged ++ [{ round := a.round, key := a.key, seq := s.nid, kind := .launch queue addr ps, core := a.core, org := a.org, wait }] }) (fun _ => rfl)
  exact h.trans (.of_parts rfl rfl)

theorem stagedOnly_logOwn (s : State) (a : Arrival) : StagedOnly s (s.logOwn a) := by
  unfold State.logOwn
  dsimp only
  split
  · exact .refl s
  · exact stagedOnly_setHomeLog s _ _

theorem stagedOnly_jdec (s : State) (commit : Bool) (a : Arrival) (pkt q j : Nat) (rests : List RoundOf) : StagedOnly s (s.jdec commit a pkt q j rests) := by
  unfold State.jdec
  split
  · dsimp only
    have hown (b : Arrival) : StagedOnly s (if commit then s else s.logOwn b) := by
      split
      · exact .refl s
      · exact stagedOnly_logOwn s b
    split
    · exact (hown _).trans (stagedOnly_homeFault _ _ _ _ _)
    · split
      · exact ((hown _).trans (stagedOnly_atomicStore _ _ _ _)).trans (stagedOnly_stageLaunch _ _ _ _ _ _)
      · exact (hown _).trans (stagedOnly_atomicStore _ _ _ _)
  · exact stagedOnly_homeFault s _ _ _ _

theorem stagedOnly_performFutreg (s : State) (commit : Bool) (a : Arrival) (pkt q j : Nat) : StagedOnly s (s.performFutreg commit a pkt q j) := by
  unfold State.performFutreg
  dsimp only
  split
  · exact stagedOnly_atomicStore s _ _ _
  · refine .trans (t := if commit then s else s.atomicStore false a _) ?_ (stagedOnly_jdec _ _ _ _ _ _ _)
    split
    · exact .refl s
    · exact stagedOnly_atomicStore s _ _ _
  · exact stagedOnly_homeFault s _ _ _ _

theorem stagedOnly_performFutres (s : State) (commit : Bool) (a : Arrival) (v : Nat) : StagedOnly s (s.performFutres commit a v) := by
  unfold State.performFutres
  dsimp only
  split
  · exact stagedOnly_atomicStore s _ _ _
  · exact (stagedOnly_atomicStore s _ _ _).trans (stagedOnly_jdec _ _ _ _ _ _ _)
  · exact stagedOnly_homeFault s _ _ _ _
  · exact stagedOnly_homeFault s _ _ _ _

theorem stagedOnly_performFutwait (s : State) (commit : Bool) (a : Arrival) : StagedOnly s (s.performFutwait commit a) := by
  unfold State.performFutwait
  split
  · exact stagedOnly_answer s _ _ _ _
  · split
    · exact stagedOnly_homeFault s _ _ _ _
    · exact stagedOnly_park s a

/-- An operation at its home keeps the clock, and the launches but for what they stage. -/
theorem stagedOnly_performOp (s : State) (commit : Bool) (a : Arrival) : StagedOnly s (s.performOp commit a) := by
  have hforget (t : State) : StagedOnly t (if a.op.silent then t.forget a.req else t) := by
    split
    · exact .of_parts rfl rfl
    · exact .refl t
  unfold State.performOp
  refine .trans ?_ (hforget _)
  cases a.op with
  | write bs => exact stagedOnly_setHomeLog s _ _
  | atomic op tag u val k => exact stagedOnly_performAtomic s _ _ _ _ _ _ _
  | bar copy => exact stagedOnly_performBar s _ _ _
  | permit give => exact stagedOnly_performPermit s _ _ _
  | futreg pkt q j => exact stagedOnly_performFutreg s _ _ _ _ _
  | futres v => exact stagedOnly_performFutres s _ _ _
  | futwait => exact stagedOnly_performFutwait s _ _
  | rsv off => exact stagedOnly_atomicStore s _ _ _
  | fence _ _ => exact .refl s
  | rfence => exact .refl s
  | jdec _ => exact .refl s
  | touch => exact .refl s
  | fault _ _ _ => exact .refl s

end

end Sys2Proof.Machine

/-! PROOFS. What dropping discarded operations leaves of the clock and of the launches (08 R212-R220). -/

namespace Sys2Proof.Machine

/-- A look-up in a map whose values a function has changed. -/
theorem mget_map_values {α β : Type} (m : Map α) (f : α → β) (i : Nat) : mget (m.map (fun x => (x.1, f x.2))) i = (mget m i).map f := by
  induction m with
  | nil => rfl
  | cons z m ih =>
    obtain ⟨k, v⟩ := z
    rw [List.map_cons]
    unfold mget
    dsimp only
    rw [ih]
    split
    · rfl
    · split
      · rfl
      · rfl

section
variable {s : State}

theorem stagedOnly_passTo (s : State) (rests : List RoundOf) (g : RoundOf) (x : Waiter) : StagedOnly s (s.passTo rests g x) := .of_parts rfl rfl

theorem stagedOnly_grantTake (s : State) (a : Arrival) (rests : List RoundOf) : StagedOnly s (s.grantTake a rests) := .of_parts rfl rfl

theorem stagedOnly_handOn (s : State) (x : Waiter) : StagedOnly s (s.handOn x) := by
  unfold State.handOn
  split
  · exact .refl s
  · split
    · exact stagedOnly_passTo s _ _ _
    · exact stagedOnly_atomicStore s _ _ _

theorem stagedOnly_retake (s : State) : StagedOnly s s.retake := by
  unfold State.retake
  refine .foldl (fun t x => ?_) _ _
  split
  · exact .refl t
  · dsimp only
    split
    · exact (stagedOnly_atomicStore t _ _ _).trans (stagedOnly_grantTake _ _ _)
    · exact .refl t

/-- Every partition's launches changed by a function that touches what they have staged alone. -/
theorem stagedOnly_mapParts {t : State} (f : Partition → Partition) (g : Launch → Launch) (hg : ∀ l, (g l).unstaged = l.unstaged)
    (hl : ∀ p, (f p).launches = p.launches.map (fun x => (x.1, g x.2))) (hh : ∀ p, (f p).handler = p.handler.map g)
    (hfc : t.fc = s.fc) (hparts : t.parts = s.parts.map (fun x => (x.1, f x.2))) : StagedOnly s t := by
  have hpart (n : Nat) : t.part n = s.part n ∨ t.part n = f (s.part n) := by
    unfold State.part mgetD
    rw [hparts, mget_map_values]
    cases mget s.parts n with
    | none => exact .inl rfl
    | some p => exact .inr rfl
  refine ⟨hfc, fun n => ?_, fun n => ?_⟩
  · cases hpart n with
    | inl h => rw [h]
    | inr h =>
      rw [h, hl, List.map_map]
      refine List.map_congr_left (fun x _ => ?_)
      show (x.1, (g x.2).unstaged) = (x.1, x.2.unstaged)
      rw [hg]
  · cases hpart n with
    | inl h => rw [h]
    | inr h =>
      rw [h, hh, Option.map_map]
      congr 1
      exact funext hg

/-- A launch that has nothing staged that rests on the given rounds. -/
def Launch.withoutRounds (late : RoundOf → Bool) (l : Launch) : Launch := { l with staged := l.staged.filter (fun e => !e.wait.any late) }

/-- A partition that has nothing staged that rests on the given rounds. -/
def Partition.withoutRounds (late : RoundOf → Bool) (p : Partition) : Partition :=
  { p with
    launches := p.launches.map (fun x => (x.1, x.2.withoutRounds late)), handler := p.handler.map (Launch.withoutRounds late), late := p.late.filter (fun x => !x.2.2.wait.any late) }

theorem stagedOnly_dropLogs (s : State) (late : RoundOf → Bool) : StagedOnly s (s.dropLogs late) := by
  unfold State.dropLogs
  dsimp only
  refine .trans (.trans (.trans ?_ (.foldl stagedOnly_handOn _ _)) (stagedOnly_retake _)) (.foldl (fun t a => ?_) _ _)
  · exact stagedOnly_mapParts (Partition.withoutRounds late) (Launch.withoutRounds late) (fun _ => rfl) (fun _ => rfl) (fun _ => rfl) rfl rfl
  · split
    · exact stagedOnly_performOp t _ _
    · exact .refl t

/-- A launch after changes of what launches have staged. -/
theorem StagedOnly.launch {t : State} (h : StagedOnly s t) (lk : Nat) : (t.launch lk).map Launch.unstaged = (s.launch lk).map Launch.unstaged := by
  unfold State.launch
  by_cases hlid : lkLid lk = 0
  · rw [if_pos hlid, if_pos hlid, h.handler]
  · have hget (u : State) : (mget (u.part (lkPart lk)).launches (lkLid lk)).map Launch.unstaged = mget ((u.part (lkPart lk)).launches.map (Prod.map id Launch.unstaged)) (lkLid lk) :=
      (mget_map_values _ _ _).symm
    rw [if_neg hlid, if_neg hlid, hget, hget, h.launches]

theorem StagedOnly.launchKeys {t : State} (h : StagedOnly s t) (n : Nat) : (t.part n).launches.map Prod.fst = (s.part n).launches.map Prod.fst := by
  have hkeys (u : State) : (u.part n).launches.map Prod.fst = ((u.part n).launches.map (Prod.map id Launch.unstaged)).map Prod.fst := by
    rw [List.map_map]
    rfl
  rw [hkeys, hkeys, h.launches]

end

/-- A log with nothing in it has nothing to settle. -/
theorem drop_empty (m : Memory) (gone : Arrival → Bool) : (⟨[], [], m⟩ : HomeLog).drop gone = ⟨[], [], m⟩ := rfl

/-- With no operation logged at any home and nobody waiting, dropping rounds changes no byte of device memory. -/
theorem dropLogs_mem (s : State) (late : RoundOf → Bool) (ho : s.overlay = []) (hb : s.abase = []) (hw : s.waiters = []) (hm : ∀ x ∈ s.mtiles, x.2.overlay = []) : (s.dropLogs late).mem = s.mem := by
  have htiles : s.mtiles.flatMap (fun x => x.2.overlay) = [] := List.flatMap_eq_nil_iff.mpr hm
  have hlog : s.homeLog .dev = ⟨[], [], s.mem⟩ := by
    unfold State.homeLog
    rw [ho, hb]
  unfold State.dropLogs
  dsimp only
  have hleft : (s.setHomeLog .dev ⟨[], [], s.mem⟩).waiters = [] := hw
  rw [ho, htiles, hw, hlog, drop_empty, hleft]
  rfl

end Sys2Proof.Machine

/-! PROOFS. What the end of a launch does (19 R343, 02 R44). -/

namespace Sys2Proof.Machine

section
variable {s : State} {lk : Nat}

/-- One partition stored, with the launches that it had but for what they have staged. -/
theorem stagedOnly_of_mset {t : State} {n : Nat} {p : Partition} (hfc : t.fc = s.fc) (hparts : t.parts = mset s.parts n p)
    (hl : p.launches.map (Prod.map id Launch.unstaged) = (s.part n).launches.map (Prod.map id Launch.unstaged))
    (hh : p.handler.map Launch.unstaged = (s.part n).handler.map Launch.unstaged) : StagedOnly s t :=
  (stagedOnly_setPart hl hh).trans (.of_parts hfc hparts)

theorem stagedOnly_purge (s : State) (lk : Nat) : StagedOnly s (s.purge lk) :=
  (stagedOnly_dropLogs s _).trans (stagedOnly_of_mset rfl rfl rfl rfl)

theorem purge_banks (s : State) (lk : Nat) : ∀ x ∈ (s.purge lk).banks, x.2.lk = lk → x.2.st = 0 := by
  intro x hx hlk
  have hkept := (List.mem_filter.mp hx).2
  simpa [hlk] using hkept

theorem purge_mem (s : State) (lk : Nat) : (s.purge lk).mem = (s.dropLogs (fun x => x.lk == lk)).mem := rfl

theorem trRecord_untracked (s : State) (part : Nat) (l : Launch) (ty a b : Nat) (h : l.trk = false) : s.trRecord part l ty a b = s := by
  unfold State.trRecord
  exact if_neg (by simp [h])

/-- With nothing staged, the last effects are none. -/
theorem lastEffects_unstaged {l : Launch} (r : Nat) (here : Eff → Bool) (h : s.launch lk = some l) (hst : l.staged = []) :
    s.lastEffects lk r here = s.setPart (lkPart lk) { s.part (lkPart lk) with late := (s.part (lkPart lk)).late ++ [] } := by
  have hnone : s.dispatchEffects lk r here = s := by
    unfold State.dispatchEffects
    rw [h]
    dsimp only
    rw [hst]
    rfl
  unfold State.lastEffects
  rw [h]
  dsimp only
  rw [hnone, hst]
  rfl

theorem mget_of_not_mem {α : Type} (m : Map α) (i : Nat) (h : i ∉ m.map Prod.fst) : mget m i = none := by
  induction m with
  | nil => rfl
  | cons z m ih =>
    obtain ⟨k, v⟩ := z
    rw [List.map_cons, List.mem_cons, not_or] at h
    unfold mget
    rw [if_neg (fun he => h.1 he.symm), ih h.2]
    exact ite_self _

/-- A key taken out of a map that lists each key once. -/
theorem not_mem_mdel {α : Type} (m : Map α) (i : Nat) (h : (m.map Prod.fst).Nodup) : i ∉ (mdel m i).map Prod.fst := by
  induction m with
  | nil => exact List.not_mem_nil
  | cons z m ih =>
    obtain ⟨k, v⟩ := z
    rw [List.map_cons, List.nodup_cons] at h
    unfold mdel
    by_cases hk : k = i
    · rw [if_pos hk, ← hk]
      exact h.1
    · rw [if_neg hk, List.map_cons, List.mem_cons, not_or]
      exact ⟨fun he => hk he.symm, ih h.2⟩

theorem launch_mdel {n : Nat} {p : Partition} (hn : lkPart lk = n) (hlid : lkLid lk ≠ 0) (hkeys : (p.launches.map Prod.fst).Nodup) :
    (s.setPart n { p with launches := mdel p.launches (lkLid lk) }).launch lk = none := by
  unfold State.launch
  rw [if_neg hlid, hn, State.part_setPart_same]
  exact mget_of_not_mem _ _ (not_mem_mdel _ _ hkeys)

/-- The cores, views and units of a launch given back. -/
def State.freed (s : State) (lk : Nat) : State :=
  { s with
    cores := s.cores.map (fun x => (x.1, if x.2.lk = some lk then { x.2 with lk := none } else x.2)), views := s.views.filter (fun v => v.2.1 != lk)
    applied := s.applied.filter (fun x => x.1 / 32768 != lk) }

theorem freed_cores (s : State) (lk : Nat) : ∀ x ∈ (s.freed lk).cores, x.2.lk ≠ some lk := by
  intro x hx
  obtain ⟨y, -, rfl⟩ := List.mem_map.mp hx
  dsimp only
  by_cases hy : y.2.lk = some lk
  · rw [if_pos hy]
    exact Option.some_ne_none _ ∘ Eq.symm
  · rw [if_neg hy]
    exact hy

/-- The same launch with nothing staged, its cores given back. -/
def State.cleared (s : State) (lk : Nat) : State := (s.freed lk).mapLaunch lk Launch.unstaged

theorem cleared_fields (s : State) (lk : Nat) : s.cleared lk = { s.freed lk with parts := (s.cleared lk).parts } := mapLaunch_banks _ _ _

/-- The same with the launch gone from its partition. -/
def State.withoutLaunch (s : State) (lk : Nat) : State := s.setPart (lkPart lk) { s.part (lkPart lk) with launches := mdel (s.part (lkPart lk)).launches (lkLid lk) }

/-- A launch that is not traced, continues nothing and owes no shrink ends with its clearing alone. -/
theorem endLaunch_untracked {l : Launch} (h : s.launch lk = some l) (hlid : lkLid lk ≠ 0) (htrk : l.trk = false) (hcfut : l.cfut = 0) (hshrink : l.shrink = none) :
    s.endLaunch lk 0 = (State.setPart (s.cleared lk) (lkPart lk) { (s.cleared lk).part (lkPart lk) with late := ((s.cleared lk).part (lkPart lk)).late ++ [] }).withoutLaunch lk := by
  have hcleared : (s.cleared lk).launch lk = some l.unstaged := mapLaunch_launch_same (s.freed lk) Launch.unstaged h
  have hlast := lastEffects_unstaged l.cut (fun _ => true) hcleared rfl
  unfold State.endLaunch
  rw [h]
  dsimp only
  rw [trRecord_untracked _ _ _ _ _ _ htrk, if_pos hcfut, hshrink, if_neg hlid, if_neg (by decide)]
  exact congrArg (State.withoutLaunch · lk) hlast

/-- Such an end: the launch is gone, its cores are free, and no bank or byte of device memory changes. -/
theorem endLaunch_fields {l : Launch} (h : s.launch lk = some l) (hlid : lkLid lk ≠ 0) (htrk : l.trk = false) (hcfut : l.cfut = 0) (hshrink : l.shrink = none)
    (hkeys : ((s.part (lkPart lk)).launches.map Prod.fst).Nodup) :
    (s.endLaunch lk 0).launch lk = none ∧ (s.endLaunch lk 0).cores = (s.freed lk).cores ∧ (s.endLaunch lk 0).banks = s.banks ∧ (s.endLaunch lk 0).mem = s.mem := by
  have hclearedKeys : ((s.cleared lk).part (lkPart lk)).launches.map Prod.fst = (s.part (lkPart lk)).launches.map Prod.fst :=
    (stagedOnly_mapLaunch (s.freed lk) lk Launch.unstaged (fun _ => rfl)).launchKeys _
  rw [endLaunch_untracked h hlid htrk hcfut hshrink]
  have hcores : (s.cleared lk).cores = (s.freed lk).cores := by
    rw [cleared_fields]
  have hbanks : (s.cleared lk).banks = (s.freed lk).banks := by
    rw [cleared_fields]
  have hmem : (s.cleared lk).mem = (s.freed lk).mem := by
    rw [cleared_fields]
  refine ⟨launch_mdel rfl hlid ?_, hcores, hbanks, hmem⟩
  rw [State.part_setPart_same]
  exact hclearedKeys ▸ hkeys

/-- A launch with nothing left retires (02 R44). -/
theorem finish_untracked {l : Launch} (h : s.launch lk = some l) (htrk : l.trk = false) : s.finish lk 0 = (s.purge lk).endLaunch lk 0 := by
  have hbound : s.trBound (lkPart lk) l.trk = false := by
    unfold State.trBound
    rw [htrk, Bool.and_false]
  unfold State.finish
  rw [h]
  dsimp only
  rw [hbound, if_pos (by rfl), if_neg (by decide)]

theorem graphRetire_finish {l : Launch} (h : s.launch lk = some l) (hlid : lkLid lk ≠ 0) (hmay : s.mayChange lk l = true) (hway : s.underway lk l = false)
    (hrecs : s.recordsLeft lk l = false) (hall : s.allCommitted lk l = true) : execGraphRetire lk s = .next (s.finish lk 0) := by
  have hdoomed : l.doomed = false := by
    unfold State.mayChange at hmay
    simp only [Bool.and_eq_true, Bool.not_eq_true'] at hmay
    exact hmay.1.1.2
  unfold execGraphRetire
  rw [h]
  dsimp only
  rw [if_neg hlid, if_neg (by simp [hdoomed]), if_pos (by simp [hmay, hway, hrecs, hall])]

theorem mayChange_shrink {l : Launch} (h : s.mayChange lk l = true) : l.shrink = none := by
  unfold State.mayChange at h
  simp only [Bool.and_eq_true, Option.isNone_iff_eq_none] at h
  exact h.1.1.1.2

/-- What is left behind a launch that retires. -/
theorem retired {l : Launch} (h : s.launch lk = some l) (hlid : lkLid lk ≠ 0) (hmay : s.mayChange lk l = true) (hcfut : l.cfut = 0) (htrk : l.trk = false)
    (hkeys : ((s.part (lkPart lk)).launches.map Prod.fst).Nodup) :
    (s.finish lk 0).launch lk = none ∧ (∀ x ∈ (s.finish lk 0).cores, x.2.lk ≠ some lk) ∧ (∀ x ∈ (s.finish lk 0).banks, x.2.lk = lk → x.2.st = 0) ∧
      (s.overlay = [] → s.abase = [] → s.waiters = [] → (∀ x ∈ s.mtiles, x.2.overlay = []) → (s.finish lk 0).mem = s.mem) := by
  have hkept := stagedOnly_purge s lk
  obtain ⟨n, hn, hnl⟩ : ∃ n, (s.purge lk).launch lk = some n ∧ n.unstaged = l.unstaged := by
    have hmap := hkept.launch lk
    rw [h] at hmap
    exact Option.map_eq_some_iff.mp hmap
  have hntrk : n.trk = false := (congrArg Launch.trk hnl).trans htrk
  have hncfut : n.cfut = 0 := (congrArg Launch.cfut hnl).trans hcfut
  have hnshrink : n.shrink = none := (congrArg Launch.shrink hnl).trans (mayChange_shrink hmay)
  obtain ⟨hgone, hcores, hbanks, hmem⟩ := endLaunch_fields hn hlid hntrk hncfut hnshrink ((hkept.launchKeys _).symm ▸ hkeys)
  rw [finish_untracked h htrk]
  refine ⟨hgone, ?_, ?_, fun ho hb hw hm => ?_⟩
  · rw [hcores]
    exact freed_cores _ lk
  · rw [hbanks]
    exact purge_banks s lk
  · rw [hmem, purge_mem, dropLogs_mem s _ ho hb hw hm]

end

end Sys2Proof.Machine

/-! PROOFS. The dispatcher's choice where no trace is bound (19 R341). -/

namespace Sys2Proof.Machine

section
variable {s : State} {part : Nat}

/-- The packet kept of two: the one of the greater EP, on equal EP the one of the lower ASEQ. -/
def pickPacket (f : Packet → Nat) (b : Option Packet) (q : Packet) : Option Packet :=
  match b with
  | none => some q
  | some y => if f y < f q ∨ (f y = f q ∧ q.aseq < y.aseq) then some q else some y

/-- A packet that is not behind x. -/
def behind (f : Packet → Nat) (x y : Packet) : Prop := y = x ∨ f y < f x ∨ f y = f x ∧ x.aseq < y.aseq

theorem pickPacket_keeps {f : Packet → Nat} {x y : Packet} (h : behind f x y) : pickPacket f (some x) y = some x := by
  refine if_neg ?_
  obtain rfl | h | h := h
  · omega
  · omega
  · omega

theorem pickPacket_keeps_all {f : Packet → Nat} {x : Packet} (ys : List Packet) (h : ∀ y ∈ ys, behind f x y) : ys.foldl (pickPacket f) (some x) = some x := by
  induction ys with
  | nil => rfl
  | cons y ys ih =>
    rw [List.foldl_cons, pickPacket_keeps (h y List.mem_cons_self)]
    exact ih (fun z hz => h z (List.mem_cons_of_mem _ hz))

theorem pickPacket_takes {f : Packet → Nat} {x : Packet} (b : Option Packet) (h : ∀ y, b = some y → behind f x y) : pickPacket f b x = some x := by
  cases b with
  | none => rfl
  | some y =>
    obtain rfl | hless := h y rfl
    · exact ite_self _
    · exact if_pos hless

/-- Of packets that are all behind one among them, that one is kept. -/
theorem pickPacket_best {f : Packet → Nat} {x : Packet} (ys : List Packet) (hx : x ∈ ys) (h : ∀ y ∈ ys, behind f x y) (b : Option Packet) (hb : ∀ y, b = some y → behind f x y) :
    ys.foldl (pickPacket f) b = some x := by
  induction ys generalizing b with
  | nil => exact absurd hx List.not_mem_nil
  | cons y ys ih =>
    have hrest : ∀ z ∈ ys, behind f x z := fun z hz => h z (List.mem_cons_of_mem _ hz)
    rw [List.foldl_cons]
    by_cases hyx : y = x
    · rw [hyx, pickPacket_takes b hb]
      exact pickPacket_keeps_all ys hrest
    · refine ih ((List.mem_cons.mp hx).resolve_left (fun he => hyx he.symm)) hrest _ (fun z hz => ?_)
      have hy := h y List.mem_cons_self
      cases b with
      | none =>
        obtain rfl := Option.some.inj hz
        exact hy
      | some w =>
        unfold pickPacket at hz
        dsimp only at hz
        split at hz
        · obtain rfl := Option.some.inj hz
          exact hy
        · obtain rfl := Option.some.inj hz
          exact hb _ rfl

/-- EP of an identity. -/
def Partition.epOf (p : Partition) (i : Nat) : Nat := ((p.priorities.find? (fun x => x.1 == i)).map (fun x => x.2.2)).getD 0

/-- The cores that a packet takes where no trace names them. -/
def State.largestFit (s : State) (part : Nat) (q : Packet) : List Nat :=
  (s.freeCores part).take (variantFor s.mem (pkImg q.words) (s.freeCores part).length (pkMaxc q.words))

/-- The partition after a decision for x: the other ready packets are older. -/
def State.aged (s : State) (part : Nat) (x : Packet) : State :=
  s.setPart part { s.part part with
    queue := (s.part part).queue.map (fun q =>
      if ((s.part part).queue.filter (s.packetReady part)).any (fun y => y.aseq == q.aseq) && q.aseq != x.aseq then { q with age := min 96 (q.age + 1) } else q)
    launches := (s.part part).launches.map (fun y => (y.1, { y.2 with ep := (s.part part).epOf (2 * y.1 + 1) })) }

section
variable (hmode : (s.part part).trcMode ≠ 2)
include hmode

theorem trBound_mode (trk : Bool) : s.trBound part trk = false := by
  unfold State.trBound
  rw [beq_false_of_ne hmode, Bool.false_and]

theorem trackedBad_mode (q : Packet) : s.trackedBad part q = false := by
  unfold State.trackedBad
  rw [trBound_mode hmode, Bool.false_and, Bool.false_and, Bool.false_and]

theorem reserved_mode (free : List Nat) : s.reserved part free = [] := by
  have hnone : (s.part part).queue.find? (fun q => s.trBound part (pkTrk q.words) && s.packetReady part q) = none := by
    refine List.find?_eq_none.mpr (fun q _ => ?_)
    rw [trBound_mode hmode]
    exact Bool.false_ne_true
  unfold State.reserved
  rw [hnone]

theorem unreserved_mode (xs free : List Nat) : xs.filter (fun k => !(s.reserved part free).contains k) = xs := by
  rw [reserved_mode hmode]
  exact List.filter_eq_self.mpr (fun _ _ => rfl)

theorem coresFor_mode (free : List Nat) (q : Packet) : s.coresFor part free q = free.take (variantFor s.mem (pkImg q.words) free.length (pkMaxc q.words)) := by
  unfold State.coresFor
  rw [trBound_mode hmode, if_neg Bool.false_ne_true]

theorem decide_picks {x : Packet} (hlate : s.launchLate part = s) (hhalt : (s.part part).halted = false) (hheld : s.argsHeld part x = false) (hcfuts : (s.part part).cfuts = [])
    (hpick : (((s.part part).queue.filter (s.packetReady part)).filter (fun q => !(s.largestFit part q).isEmpty)).foldl (pickPacket (fun q => (s.part part).epOf (2 * q.aseq))) none = some x) :
    execDecide part s = .next ((s.aged part x).dispatch part x ((s.part part).epOf (2 * x.aseq)) (s.largestFit part x)) := by
  have hbad : (s.part part).queue.find? (s.trackedBad part) = none := List.find?_eq_none.mpr (fun q _ => by simp [trackedBad_mode hmode q])
  have hgone : s.resolveGone part = s := by
    unfold State.resolveGone
    dsimp only
    rw [hcfuts]
    rfl
  unfold execDecide
  rw [hlate]
  dsimp only
  rw [if_neg (by simp [hhalt]), hbad]
  simp only [unreserved_mode hmode, trBound_mode hmode, coresFor_mode hmode, Bool.false_eq_true, if_false, Option.isSome_none]
  split
  · next hnone => exact absurd (hnone.symm.trans hpick) (by simp)
  · next y hsome =>
    obtain rfl : y = x := Option.some.inj (hsome.symm.trans hpick)
    rw [if_neg (by simp [hheld]), hgone]
    rfl

end

end

end Sys2Proof.Machine

/-! PROOFS. The closing marker of a load (02 R38). -/

namespace Sys2Proof.Machine

section
variable {s : State} {lk core : Nat} {l : Launch}

/-- Device memory and the partitions stand. -/
def PartsAndMem (s t : State) : Prop := t.parts = s.parts ∧ t.mem = s.mem

theorem PartsAndMem.trans {s t u : State} (h : PartsAndMem s t) (h' : PartsAndMem t u) : PartsAndMem s u := ⟨h'.1.trans h.1, h'.2.trans h.2⟩

theorem PartsAndMem.foldl {α : Type} {f : State → α → State} (h : ∀ s x, PartsAndMem s (f s x)) (xs : List α) (s : State) : PartsAndMem s (xs.foldl f s) := by
  induction xs generalizing s with
  | nil => exact ⟨rfl, rfl⟩
  | cons x xs ih => exact (h s x).trans (ih _)

theorem PartsAndMem.launch {t : State} (h : PartsAndMem s t) (lk : Nat) : t.launch lk = s.launch lk := by
  unfold State.launch State.part
  rw [h.1]

theorem partsAndMem_injectCore (s : State) (lk core : Nat) : PartsAndMem s (s.injectCore lk core) := by
  have hfed : OnlyBanks s (s.banksFed lk core) := onlyBanks_banksFed lk core
  have hparts : (s.banksFed lk core).parts = s.parts := by
    rw [hfed]
  rw [injectCore_eq]
  exact ⟨hparts, hfed.mem⟩

theorem partsAndMem_injectSystem (s : State) (part core : Nat) : PartsAndMem s (s.injectSystem part core) := by
  unfold State.injectSystem
  split
  · exact partsAndMem_injectCore s _ _
  · exact ⟨rfl, rfl⟩

theorem injectCore_inj (s : State) (lk core : Nat) : ((s.injectCore lk core).core core).inj = mset (s.core core).inj lk (mgetD (s.core core).inj lk 0 + 1) := by
  rw [injectCore_eq, State.core_setCore_same]

/-- A marker of a system bank is none of another region's. -/
theorem injectSystem_inj (s : State) {part : Nat} (h : lk ≠ part * 65536) : mgetD ((s.injectSystem part core).core core).inj lk 0 = mgetD (s.core core).inj lk 0 := by
  unfold State.injectSystem
  split
  · dsimp only
    rw [State.core_setCore_same]
    unfold mgetD
    dsimp only
    rw [injectCore_inj, mget_mset_other _ _ _ _ h]
  · rfl

/-- Nothing of the load waits to be delivered. -/
theorem loadWaits_false (hpushes : l.pushes = []) (hqueues : ∀ x ∈ blockTable s.mem l.img (s.loadOf l), ∀ k, s.entryQueue l x.2.blk = some k → (s.mtile k).recs = []) : s.loadWaits l = false := by
  unfold State.loadWaits
  dsimp only
  rw [hpushes, List.any_nil, Bool.false_or]
  refine List.any_eq_false.mpr (fun b hb => ?_)
  obtain ⟨x, hx, rfl⟩ := List.mem_map.mp hb
  cases hk : s.entryQueue l x.2.blk with
  | none => exact Bool.false_ne_true
  | some k =>
    rw [Option.any_some, hqueues x hx k hk]
    exact Bool.false_ne_true

theorem mayChange_doomed (h : s.mayChange lk l = true) : l.doomed = false := by
  unfold State.mayChange at h
  simp only [Bool.and_eq_true, Bool.not_eq_true'] at h
  exact h.1.1.2

/-- The launch whose load closes with the marker that has just been injected. -/
def Launch.closing (l : Launch) : Launch := { l with round := l.round + 1, since := 0, rmark := none, reconf := some [] }

/-- The state in which the markers of a closing load have gone out. -/
def State.loadClosed (s : State) (lk : Nat) (l : Launch) : State :=
  l.cores.foldl (fun s k => s.injectSystem (lkPart lk) k) ((l.cores.foldl (fun s k => s.injectCore lk k) s).mapLaunch lk Launch.closing)

theorem loadClose_closes (h : s.launch lk = some l) (hlid : lkLid lk ≠ 0) (hload : l.load + 1 < loadCount s.mem l.img l.size) (hmay : s.mayChange lk l = true)
    (hway : s.underway lk l = false) (hwaits : s.loadWaits l = false) (hcut : l.round ≤ l.cut + 1) : execLoadClose lk s = .next (s.loadClosed lk l) := by
  unfold execLoadClose
  rw [h]
  dsimp only
  rw [if_neg (by simp [hlid, hload, hmay, hway, hwaits, mayChange_doomed hmay, hcut])]
  rfl

theorem loadClosed_launch (h : s.launch lk = some l) : (s.loadClosed lk l).launch lk = some l.closing := by
  have hin : PartsAndMem s (l.cores.foldl (fun s k => s.injectCore lk k) s) := .foldl (fun t k => partsAndMem_injectCore t lk k) _ _
  have hout (t : State) : PartsAndMem t (l.cores.foldl (fun s k => s.injectSystem (lkPart lk) k) t) := .foldl (fun t k => partsAndMem_injectSystem t _ k) _ _
  exact ((hout _).launch lk).trans (mapLaunch_launch_same _ _ ((hin.launch lk).trans h))

theorem loadClosed_mem (s : State) (lk : Nat) (l : Launch) : (s.loadClosed lk l).mem = s.mem := by
  have hin : PartsAndMem s (l.cores.foldl (fun s k => s.injectCore lk k) s) := .foldl (fun t k => partsAndMem_injectCore t lk k) _ _
  have hout (t : State) : PartsAndMem t (l.cores.foldl (fun s k => s.injectSystem (lkPart lk) k) t) := .foldl (fun t k => partsAndMem_injectSystem t _ k) _ _
  have hmap : ((l.cores.foldl (fun s k => s.injectCore lk k) s).mapLaunch lk Launch.closing).mem = (l.cores.foldl (fun s k => s.injectCore lk k) s).mem := by
    rw [mapLaunch_banks]
  exact ((hout _).2.trans hmap).trans hin.2

/-- One marker more has been injected at the core of a region of one core. -/
theorem loadClosed_inj (hlid : lkLid lk ≠ 0) (hcores : l.cores = [core]) : mgetD ((s.loadClosed lk l).core core).inj lk 0 = mgetD (s.core core).inj lk 0 + 1 := by
  have hlk : lk ≠ lkPart lk * 65536 := by
    unfold lkLid at hlid
    unfold lkPart
    omega
  unfold State.loadClosed
  rw [hcores, List.foldl_cons, List.foldl_nil, List.foldl_cons, List.foldl_nil, injectSystem_inj _ hlk, mapLaunch_core, injectCore_inj]
  unfold mgetD
  rw [mget_mset_same]
  rfl

end

end Sys2Proof.Machine

/-! PROOFS. The reconfiguration token (02 R39), and the settling of the obligation on launches. -/

namespace Sys2Proof.Machine

section
variable {s : State} {lk core : Nat} {l : Launch}

/-- Where a launch stands among its loads. -/
def Launch.stage (l : Launch) : Nat × Option (List Nat) × Nat := (l.load, l.reconf, l.round)

/-- A launch stands among its loads as before. -/
def StageKept (lk : Nat) (s t : State) : Prop := (t.launch lk).map Launch.stage = (s.launch lk).map Launch.stage

theorem StageKept.refl (lk : Nat) (s : State) : StageKept lk s s := rfl

theorem StageKept.trans {s t u : State} (h : StageKept lk s t) (h' : StageKept lk t u) : StageKept lk s u := Eq.trans h' h

theorem StageKept.foldl {α : Type} {f : State → α → State} (h : ∀ s x, StageKept lk s (f s x)) (xs : List α) (s : State) : StageKept lk s (xs.foldl f s) := by
  induction xs generalizing s with
  | nil => exact .refl lk s
  | cons x xs ih => exact (h s x).trans (ih _)

theorem StageKept.of_parts {t : State} (h : t.parts = s.parts) : StageKept lk s t := by
  unfold StageKept State.launch State.part
  rw [h]

theorem StagedOnly.stageKept {t : State} (h : StagedOnly s t) (lk : Nat) : StageKept lk s t := by
  have hstage (o : Option Launch) : o.map Launch.stage = (o.map Launch.unstaged).map Launch.stage := by
    rw [Option.map_map]
    rfl
  unfold StageKept
  rw [hstage, hstage (s.launch lk), h.launch]

theorem launch_mapLaunch_other {n : Nat} (g : Launch → Launch) (h : lk ≠ n) : (s.mapLaunch n g).launch lk = s.launch lk := by
  unfold State.mapLaunch
  cases s.launch n with
  | none => rfl
  | some x => exact launch_setLaunch_other s _ _ _ h

theorem stageKept_mapLaunch (s : State) (n : Nat) (g : Launch → Launch) (hg : ∀ l, (g l).stage = l.stage) : StageKept lk s (s.mapLaunch n g) := by
  unfold StageKept
  by_cases hn : lk = n
  · subst hn
    cases hl : s.launch lk with
    | none =>
      have hsame : s.mapLaunch lk g = s := by
        unfold State.mapLaunch
        rw [hl]
      rw [hsame, hl]
    | some l => rw [mapLaunch_launch_same s g hl, Option.map_some, Option.map_some, hg]
  · rw [launch_mapLaunch_other g hn]

theorem stageKept_evict (s : State) (bk : Nat) : StageKept lk s (s.evict bk) := by
  have hmap := stageKept_mapLaunch (lk := lk) s (s.bank bk).lk
    (fun l => { l with working := mset l.working (workKey (s.bank bk).origin (s.bank bk).blk) (s.bank bk).cut, kdone := addFires (s.bank bk) l.kdone }) (fun _ => rfl)
  exact hmap.trans (.of_parts rfl)

theorem stageKept_switchUnit (s : State) (n : Nat) (l' : Launch) (core u : Nat) : StageKept lk s (s.switchUnit n l' core u) := by
  unfold State.switchUnit
  dsimp only
  split
  · split
    · exact stageKept_evict s _
    · exact .refl lk s
  · split
    · exact .of_parts rfl
    · split
      · exact .of_parts rfl
      · exact .refl lk s

theorem stageKept_blockNotice (s : State) (n : Nat) (p : Place') (blk step idx : Nat) : StageKept lk s (s.blockNotice n p blk step idx) := by
  unfold State.blockNotice
  split
  · exact (stagedOnly_halt s _).stageKept lk
  · exact (stagedOnly_sendRecord s _ _).stageKept lk

theorem install_parts (s : State) (n : Nat) (l : Launch) (r : LoadRec) (num origin blk : Nat) (pin : Bool) (p : Place') (round : Nat) :
    (s.install n l r num origin blk pin p round).parts = s.parts := by
  unfold State.install
  dsimp only
  split
  · rfl
  · rfl

theorem stageKept_loadBlock (s : State) (n : Nat) (l : Launch) (r : LoadRec) (num : Nat) (e : BlockEnt) (round : Nat) : StageKept lk s (s.loadBlock n l r num e round) := by
  unfold State.loadBlock
  dsimp only
  split
  · exact (stageKept_blockNotice s _ _ _ _ _).trans (stageKept_mapLaunch _ _ _ (fun _ => rfl))
  · exact .of_parts (install_parts s _ _ _ _ _ _ _ _ _)

theorem stageKept_switchBlocks (s : State) (n : Nat) (l' : Launch) (core : Nat) (ks : List Nat) : StageKept lk s (s.switchBlocks n l' core ks) := by
  unfold State.switchBlocks
  refine .foldl (fun t x => ?_) _ _
  dsimp only
  split
  · exact stageKept_loadBlock t _ _ _ _ _ _
  · exact .refl lk t

/-- The units that the token passes now. -/
def State.passing (s : State) (lk : Nat) (l : Launch) (core : Nat) (ks : List Nat) : List Nat := (List.range 96).filter (fun u => !ks.contains (core * 128 + u) && s.tokenAt lk l core u)

/-- The units that the token has then passed. -/
def State.passed (s : State) (lk : Nat) (l : Launch) (core : Nat) (ks : List Nat) : List Nat := ks ++ (s.passing lk l core ks).map (fun u => core * 128 + u)

/-- Every unit of a core is among those passed. -/
def everyUnit (core : Nat) (ks : List Nat) : Bool := (List.range 96).all (fun u => ks.contains (core * 128 + u))

theorem everyUnit_iff {ks : List Nat} : everyUnit core ks = true ↔ ∀ u, u < 96 → core * 128 + u ∈ ks := by
  unfold everyUnit
  simp only [List.all_eq_true, List.mem_range, List.contains_eq_mem, decide_eq_true_eq]

/-- The units and pinned blocks of the next load in place behind the token. -/
def State.switched (s : State) (lk : Nat) (l : Launch) (core : Nat) (ks : List Nat) : State :=
  ((s.passing lk l core ks).foldl (fun s u => s.switchUnit lk { l with load := l.load + 1 } core u) s).switchBlocks lk { l with load := l.load + 1 } core (s.passed lk l core ks)

theorem switched_launch {ks : List Nat} (h : s.launch lk = some l) : ∃ n, (s.switched lk l core ks).launch lk = some n ∧ n.stage = l.stage := by
  have hkept : StageKept lk s (s.switched lk l core ks) := (StageKept.foldl (fun t u => stageKept_switchUnit t _ _ _ u) _ _).trans (stageKept_switchBlocks _ _ _ _ _)
  unfold StageKept at hkept
  rw [h] at hkept
  exact Option.map_eq_some_iff.mp hkept

theorem mem_passed {ks : List Nat} {u : Nat} (hu : u < 96) : core * 128 + u ∈ s.passed lk l core ks ↔ core * 128 + u ∈ ks ∨ s.tokenAt lk l core u = true := by
  unfold State.passed State.passing
  simp only [List.mem_append, List.mem_map, List.mem_filter, List.mem_range, Bool.and_eq_true, Bool.not_eq_true', List.contains_eq_mem, decide_eq_false_iff_not]
  constructor
  · rintro (hk | ⟨v, ⟨-, -, hv⟩, hvu⟩)
    · exact .inl hk
    · obtain rfl : v = u := by omega
      exact .inr hv
  · rintro (hk | ht)
    · exact .inl hk
    · by_cases hk : core * 128 + u ∈ ks
      · exact .inl hk
      · exact .inr ⟨u, ⟨hu, hk, ht⟩, rfl⟩

section
variable {ks : List Nat} (h : s.launch lk = some l) (hks : l.reconf = some ks)
include h hks

/-- Before the closing marker's cut, or in a halted partition, the token stands. -/
theorem reconfigToken_waits (hw : l.cut < l.round ∨ (s.part (lkPart lk)).halted = true) : execReconfigToken lk core s = .next s := by
  unfold execReconfigToken
  rw [h]
  dsimp only
  rw [hks]
  dsimp only
  exact if_pos (.inr hw)

variable (hcores : l.cores = [core])
include hcores

theorem reconfigToken_switches (hcut : l.round ≤ l.cut) (hhalt : (s.part (lkPart lk)).halted = false) : execReconfigToken lk core s =
    if everyUnit core (s.passed lk l core ks) = true ∧ l.round ≤ l.eff then
      .next ((s.switched lk l core ks).mapLaunch lk (fun n => { n with load := n.load + 1, reconf := none, ages := [], swaps := [] }))
    else .next ((s.switched lk l core ks).mapLaunch lk (fun n => { n with reconf := some (s.passed lk l core ks) })) := by
  have hall : l.cores.all (fun k => (List.range 96).all (fun u => (s.passed lk l core ks).contains (k * 128 + u))) = everyUnit core (s.passed lk l core ks) := by
    rw [hcores, List.all_cons, List.all_nil, Bool.and_true]
    rfl
  unfold execReconfigToken
  rw [h]
  dsimp only
  split
  · next hnone => exact absurd (hnone.symm.trans hks) (by simp)
  · next ks' hsome =>
    obtain rfl := Option.some.inj (hsome.symm.trans hks)
    rw [if_neg (by simp [hcores, hcut, hhalt]), ← hall]
    rfl

theorem reconfigToken_last (hcut : l.round ≤ l.cut) (hhalt : (s.part (lkPart lk)).halted = false) (hpassed : ∀ u, u < 96 → core * 128 + u ∈ s.passed lk l core ks) (heff : l.round ≤ l.eff) :
    ∃ t, execReconfigToken lk core s = .next t ∧ (t.launch lk).map Launch.stage = some (l.load + 1, none, l.round) := by
  obtain ⟨n, hn, hstage⟩ := switched_launch (core := core) (ks := ks) h
  have hload : n.load = l.load := congrArg Prod.fst hstage
  have hround : n.round = l.round := congrArg (fun x => x.2.2) hstage
  refine ⟨_, (reconfigToken_switches h hks hcores hcut hhalt).trans (if_pos ⟨everyUnit_iff.mpr hpassed, heff⟩), ?_⟩
  rw [mapLaunch_launch_same _ _ hn, Option.map_some]
  show some (n.load + 1, none, n.round) = _
  rw [hload, hround]

theorem reconfigToken_passes (hcut : l.round ≤ l.cut) (hhalt : (s.part (lkPart lk)).halted = false) (hleft : ∃ u, u < 96 ∧ core * 128 + u ∉ s.passed lk l core ks) :
    ∃ t, execReconfigToken lk core s = .next t ∧ (t.launch lk).map Launch.stage = some (l.load, some (s.passed lk l core ks), l.round) := by
  obtain ⟨n, hn, hstage⟩ := switched_launch (core := core) (ks := ks) h
  have hload : n.load = l.load := congrArg Prod.fst hstage
  have hround : n.round = l.round := congrArg (fun x => x.2.2) hstage
  obtain ⟨u, hu, hnot⟩ := hleft
  refine ⟨_, (reconfigToken_switches h hks hcores hcut hhalt).trans (if_neg (fun hall => hnot (everyUnit_iff.mp hall.1 u hu))), ?_⟩
  rw [mapLaunch_launch_same _ _ hn, Option.map_some]
  show some (n.load, some _, n.round) = _
  rw [hload, hround]

end

end

/-- Settles O49: a decision keeps the best of the ready packets, a launch with nothing left is purged and taken out, a load's closing marker is injected at its cores, and the token's passing keeps the load until it has passed every unit. -/
theorem launchesStartAndEnd : Obligations.LaunchesStartAndEnd := by
  unfold Obligations.LaunchesStartAndEnd
  refine ⟨?_, ?_, ?_, ?_, ?_⟩
  · intro s part hhalt
    exact if_pos hhalt
  · intro s part x hlate hhalt hmode hx hready p ep cores hcores hheld hcfuts hbest
    have hable : x ∈ (p.queue.filter (s.packetReady part)).filter (fun q => !(cores q).isEmpty) := by
      simp only [List.mem_filter, Bool.not_eq_true', List.isEmpty_eq_false_iff]
      exact ⟨⟨hx, hready⟩, hcores⟩
    have hbehind : ∀ y ∈ (p.queue.filter (s.packetReady part)).filter (fun q => !(cores q).isEmpty), behind ep x y := by
      intro y hy
      simp only [List.mem_filter, Bool.not_eq_true', List.isEmpty_eq_false_iff] at hy
      exact hbest y hy.1.1 hy.1.2 hy.2
    have hpick := pickPacket_best _ hable hbehind none (fun _ h => nomatch h)
    exact ⟨s.aged part x, decide_picks hmode hlate hhalt hheld hcfuts hpick, rfl, by rw [State.aged, State.part_setPart_same]⟩
  · intro s lk l h hlid hmay hway hrecs hall hcfut htrk _ hkeys
    exact ⟨s.finish lk 0, graphRetire_finish h hlid hmay hway hrecs hall, retired h hlid hmay hcfut htrk hkeys⟩
  · intro s lk l h hlid hload hmay hway hpushes hqueues hcut
    exact ⟨s.loadClosed lk l, loadClose_closes h hlid hload hmay hway (loadWaits_false hpushes hqueues) hcut, loadClosed_launch h, loadClosed_mem s lk l, fun core hcores => loadClosed_inj hlid hcores⟩
  · intro s lk core l ks h hks hcores
    refine ⟨reconfigToken_waits h hks, fun hcut hhalt => ?_⟩
    intro us
    refine ⟨fun hpassed heff => reconfigToken_last h hks hcores hcut hhalt (fun u hu => (mem_passed hu).mpr (hpassed u hu)) heff, fun ⟨u, hu, hnot, ht⟩ => ?_⟩
    refine reconfigToken_passes h hks hcores hcut hhalt ⟨u, hu, fun hmem => ?_⟩
    obtain hk | hk := (mem_passed hu).mp hmem
    · exact hnot hk
    · exact absurd (hk.symm.trans ht) (by decide)

end Sys2Proof.Machine

/-! PROOFS. The end of a launch keeps the clock (18 R328, 19 R343 R349). -/

namespace Sys2Proof.Machine

section
variable {s : State}

theorem foldl_fc {α : Type} {f : State → α → State} (h : ∀ s x, (f s x).fc = s.fc) (xs : List α) (s : State) : (xs.foldl f s).fc = s.fc := by
  induction xs generalizing s with
  | nil => rfl
  | cons x xs ih => exact (ih _).trans (h s x)

theorem halt_fc (s : State) (n : Nat) : (s.halt n).fc = s.fc := (stagedOnly_halt s n).fc

theorem partNotice_fc (s : State) (part lid code w2 info aux : Nat) : (s.partNotice part lid code w2 info aux).fc = s.fc := by
  unfold State.partNotice
  dsimp only
  split
  · exact halt_fc s _
  · rfl

theorem trStore_fc {t : State} {part i w0 w1 : Nat} (h : s.trStore part i w0 w1 = some t) : t.fc = s.fc := by
  unfold State.trStore at h
  dsimp only at h
  split at h
  · exact nomatch h
  · obtain ⟨a, -, rfl⟩ := Option.map_eq_some_iff.mp h
    rfl

theorem trAppend_fc (s : State) (part w0 w1 : Nat) : (s.trAppend part w0 w1).fc = s.fc := by
  unfold State.trAppend
  dsimp only
  split
  · next t ht =>
    show t.fc = s.fc
    exact trStore_fc ht
  · exact partNotice_fc _ _ _ _ _ _ _

theorem trRecord_fc (s : State) (part : Nat) (l : Launch) (ty a b : Nat) : (s.trRecord part l ty a b).fc = s.fc := by
  unfold State.trRecord
  split
  · exact trAppend_fc s _ _ _
  · rfl

theorem acceptPacket_fc {t : State} {part queue : Nat} {ws : List Nat} {addr vf : Option Nat} {graph : Bool} (h : s.acceptPacket part queue ws addr vf graph = .ok t) : t.fc = s.fc := by
  unfold State.acceptPacket at h
  dsimp only at h
  split at h
  · exact nomatch h
  · split at h
    · exact nomatch h
    · obtain rfl := Except.ok.inj h
      rfl

theorem notice_fc (s : State) (lk core code info aux : Nat) (o : Origin) : (s.notice lk core code info aux o).fc = s.fc := (stagedOnly_notice s lk core code info aux o).fc

theorem doLaunch_fc (s : State) (lk core queue addr : Nat) (ps : List Part) (vf : Option Nat) (o : Origin) : (s.doLaunch lk core queue addr ps vf o).fc = s.fc := by
  unfold State.doLaunch
  split
  · next t ht => exact acceptPacket_fc ht
  · exact notice_fc s _ _ _ _ _ _

theorem doPatch_fc (s : State) (lk core addr slot : Nat) (v : Word64) (o : Origin) : (s.doPatch lk core addr slot v o).fc = s.fc := by
  unfold State.doPatch
  dsimp only
  split
  · exact notice_fc s _ _ _ _ _ _
  · rfl

/-- A fold that carries a list beside the state keeps the clock where each step does. -/
theorem foldl_fst_fc {α β : Type} {f : State × β → α → State × β} (h : ∀ y x, (f y x).1.fc = y.1.fc) (xs : List α) (y : State × β) : (xs.foldl f y).1.fc = y.1.fc := by
  induction xs generalizing y with
  | nil => rfl
  | cons x xs ih => exact (ih _).trans (h y x)

theorem dispatchEffects_fc (s : State) (lk r : Nat) (here : Eff → Bool) : (s.dispatchEffects lk r here).fc = s.fc := by
  unfold State.dispatchEffects
  split
  · rfl
  · dsimp only
    have hlaunches (xs : List Eff) (vf : Option Nat) : (xs.foldl (fun s e => match e.kind with
        | .launch q a ps => s.doLaunch lk e.core q a ps vf e.org
        | _ => s) s).fc = s.fc := by
      refine foldl_fc (fun t e => ?_) _ _
      split
      · exact doLaunch_fc t _ _ _ _ _ _ _
      · rfl
    split
    · refine (mapLaunch_fc _ _ _).trans ((foldl_fst_fc (fun y e => ?_) _ _).trans (hlaunches _ _))
      split
      · split
        · exact notice_fc _ _ _ _ _ _ _
        · exact doPatch_fc _ _ _ _ _ _ _
      · rfl
    · refine (foldl_fst_fc (fun y e => ?_) _ _).trans (hlaunches _ _)
      split
      · split
        · exact notice_fc _ _ _ _ _ _ _
        · exact doPatch_fc _ _ _ _ _ _ _
      · rfl

theorem lastEffects_fc (s : State) (lk r : Nat) (here : Eff → Bool) : (s.lastEffects lk r here).fc = s.fc := by
  unfold State.lastEffects
  split
  · rfl
  · exact dispatchEffects_fc s _ _ _

theorem killWaits_fc (s : State) (part tag : Nat) (early : Bool) : (s.killWaits part tag early).fc = s.fc := by
  unfold State.killWaits
  dsimp only
  split
  · rfl
  · exact foldl_fc (fun t q => partNotice_fc t _ _ _ _ _ _) _ _

theorem futresNow_fc (s : State) (core lk round : Nat) (key : Key) (user : Bool) (addr v : Nat) (o : Origin) : (s.futresNow core lk round key user addr v o).fc = s.fc := by
  unfold State.futresNow
  split
  · exact (stagedOnly_performOp s _ _).fc
  · exact notice_fc s _ _ _ _ _ _

theorem msiDone_fc (s : State) (vf : Option Nat) : (s.msiDone vf).fc = s.fc := by
  cases vf <;> rfl

theorem recall_fc (s : State) (xs : List Arrival) : (s.recall xs).fc = s.fc := by
  refine foldl_fc (fun t a => ?_) _ _
  dsimp only
  split
  · exact (stagedOnly_homeWrite t _ _ _).fc
  · rfl

theorem commitLogged_fc (s : State) (a : Arrival) : (s.commitLogged a).fc = s.fc := by
  unfold State.commitLogged
  dsimp only
  split
  · exact (stagedOnly_faultNow _ _ _ _).fc.trans (stagedOnly_setHomeLog s _ _).fc
  · exact (stagedOnly_setHomeLog s _ _).fc

theorem commitOp_fc (s : State) (a : Arrival) : (s.commitOp a).fc = s.fc := by
  unfold State.commitOp
  split
  · exact commitLogged_fc s a
  · exact (stagedOnly_performOp s _ _).fc

theorem commitCheck_fc (s : State) (part : Nat) (xs : List Arrival) : (s.commitCheck part xs).fc = s.fc := by
  unfold State.commitCheck
  split
  · exact halt_fc s _
  · rfl

theorem wake_fc (s : State) : s.wake.fc = s.fc := by
  rw [answersOnly_wake s]

theorem settle_fc (s : State) (part : Nat) : (s.settle part).fc = s.fc := by
  unfold State.settle
  have hrfences (t : State) : t.wakeRfences.fc = t.fc := by
    refine foldl_fc (fun t r => ?_) _ _
    split
    · exact (stagedOnly_answer t _ _ _ _).fc
    · rfl
  refine (hrfences _).trans (foldl_fc (fun t k => ?_) _ s)
  rfl

theorem sendInval_fc (s : State) (part id : Nat) (all : Bool) (lo hi : Nat) : (s.sendInval part id all lo hi).fc = s.fc := by
  unfold State.sendInval
  exact foldl_fc (fun t k => State.setCore_fc t k _) _ _

theorem sendRinvs_fc (s : State) (part : Nat) : (s.sendRinvs part).fc = s.fc := by
  unfold State.sendRinvs
  refine foldl_fc (fun t v => ?_) _ _
  split
  · rfl
  · exact sendInval_fc t _ _ _ _ _

theorem applyUnit_fc (s : State) (lk core slice r : Nat) : (s.applyUnit lk core slice r).fc = s.fc := by
  have hcommits (t : State) (xs : List Arrival) : (xs.foldl State.commitOp (t.recall xs)).fc = t.fc := (foldl_fc commitOp_fc _ _).trans (recall_fc t xs)
  have htail (t : State) (part : Nat) : ((t.wake.settle part).sendRinvs part).fc = t.fc := (sendRinvs_fc _ _).trans ((settle_fc _ _).trans (wake_fc t))
  unfold State.applyUnit
  refine (htail _ _).trans ?_
  dsimp only
  split
  · split
    · split
      · exact (trRecord_fc _ _ _ _ _ _).trans ((hcommits _ _).trans (commitCheck_fc s _ _))
      · exact (hcommits _ _).trans (commitCheck_fc s _ _)
    · exact (hcommits _ _).trans (commitCheck_fc s _ _)
  · exact (hcommits _ _).trans (commitCheck_fc s _ _)

theorem flushUnits_fc (s : State) (lk core slice n : Nat) : (s.flushUnits lk core slice n).fc = s.fc := by
  induction n generalizing s with
  | zero => rfl
  | succ n ih =>
    unfold State.flushUnits
    split
    · exact (ih _).trans (applyUnit_fc s _ _ _ _)
    · rfl

theorem flushAll_fc (s : State) (lk core : Nat) : (s.flushAll lk core).fc = s.fc := foldl_fc (fun t _ => flushUnits_fc t _ _ _ _) _ _

theorem endLaunch_fc (s : State) (lk status : Nat) : (s.endLaunch lk status).fc = s.fc := by
  have hfut (t : State) (l : Launch) : (if l.cfut = 0 then t else (t.futresNow (l.cores.headD 0) lk l.cut ⟨0, 0, 0, 0, 0⟩ false l.cfut status).msiDone l.vf).fc = t.fc := by
    split
    · rfl
    · exact (msiDone_fc _ _).trans (futresNow_fc t _ _ _ _ _ _ _ _)
  have hshrink (t : State) (l : Launch) : (match l.shrink with
      | some (_, _, some (e, id)) => t.fill e id t.fc none (fork (predTok false))
      | _ => t).fc = t.fc := by
    split
    · rfl
    · rfl
  have hgone (t : State) : (if lkLid lk = 0 then t.setPart (lkPart lk) { t.part (lkPart lk) with handler := none }
      else t.setPart (lkPart lk) { t.part (lkPart lk) with launches := mdel (t.part (lkPart lk)).launches (lkLid lk) }).fc = t.fc := by
    split
    · rfl
    · rfl
  have hwaits (t : State) (l : Launch) : (if status = 1 then t.killWaits (lkPart lk) l.ltag l.released else t).fc = t.fc := by
    split
    · exact killWaits_fc t _ _ _
    · rfl
  unfold State.endLaunch
  split
  · rfl
  · next l hl =>
    exact (hwaits _ l).trans ((hgone _).trans ((hshrink _ l).trans ((lastEffects_fc _ _ _ _).trans ((hfut _ l).trans ((mapLaunch_fc _ _ _).trans (trRecord_fc s _ _ _ _ _))))))

theorem kill_fc (s : State) (lk : Nat) : (s.kill lk).fc = s.fc := by
  have hlast (t : State) (l : Launch) : (if 0 < l.cut then t.lastEffects lk (l.cut - 1) (fun e => decide (l.eff ≤ e.round)) else t).fc = t.fc := by
    split
    · exact lastEffects_fc t _ _ _
    · rfl
  unfold State.kill
  split
  · rfl
  · exact (endLaunch_fc _ _ _).trans ((stagedOnly_purge _ _).fc.trans ((mapLaunch_fc _ _ _).trans ((hlast _ _).trans (flushAll_fc s _ _))))

theorem diverge_fc (s : State) (part ltag : Nat) : (s.diverge part ltag).fc = s.fc :=
  (partNotice_fc _ _ _ _ _ _ _).trans ((foldl_fc (fun t _ => kill_fc t _) _ _).trans rfl)

theorem finish_fc (s : State) (lk status : Nat) : (s.finish lk status).fc = s.fc := by
  have hstop (t : State) : (if status = 1 then t.kill lk else (t.purge lk).endLaunch lk status).fc = t.fc := by
    split
    · exact kill_fc t lk
    · exact (endLaunch_fc _ _ _).trans (stagedOnly_purge t lk).fc
  unfold State.finish
  split
  · rfl
  · dsimp only
    split
    · exact hstop s
    · split
      · split
        · exact hstop s
        · exact diverge_fc s _ _
      · exact diverge_fc s _ _

end

end Sys2Proof.Machine

/-! PROOFS. HALT, TKILL, IDLE, TFETCH and REINJ (18 R326-R334). -/

namespace Sys2Proof.Machine

section
variable {s : State} {o : OpA} {pr : Predicate} {l : Token}

theorem halt_does (hr : s.Runs o.fl false needL pr) : Does s (exec (.halt o) s) (withPm o.fl needL) (fun u => u.halt s.firing.part) {} :=
  anchor_does s { fl := o.fl, need := needL, nums := {}, act := fun s f => s.halt f.part } pr _ hr rfl rfl (fun _ _ => rfl)

theorem operands_r_needL (s : State) (fl : Flags) : (s.operands (withPm fl needL)).r = none := rfl

/-- The firing of TKILL. -/
def tkillFiring (o : OpA) : AnchorFiring :=
  { fl := o.fl, need := needL, check := fun _ f => if f.ops.l.all isZ64 then none else some (fFormat, 0)
    act := fun s f =>
      let lk := f.part * 65536 + launchWordLid f.ops.l
      let ok := lkLid lk != 0 && (s.launch lk).isSome
      (if ok then s.finish lk 1 else s).result f false 1 (fork (predTok ok)) }

section
variable (hr : s.Runs o.fl false needL pr) (hl : (s.operands (withPm o.fl needL)).l = some l) (hz : isZ64 l = true)
include hr hl hz

theorem tkill_runs (eff : State → State)
    (he : ∀ u, Taken s (withPm o.fl needL) { l := true, r := true } u →
      (if lkLid (s.firing.part * 65536 + bitsAt l.word 40 16) != 0 && (u.launch (s.firing.part * 65536 + bitsAt l.word 40 16)).isSome then u.finish (s.firing.part * 65536 + bitsAt l.word 40 16) 1
        else u).result { s.firing with ops := s.operands (withPm o.fl needL) } false 1
        (fork (predTok (lkLid (s.firing.part * 65536 + bitsAt l.word 40 16) != 0 && (u.launch (s.firing.part * 65536 + bitsAt l.word 40 16)).isSome))) = eff u) :
    Does s (exec (.tkill o) s) (withPm o.fl needL) eff := by
  refine anchor_does s (tkillFiring o) pr eff hr ?_ rfl (fun u hu => ?_)
  · show (if (s.operands (withPm o.fl needL)).l.all isZ64 then none else some (fFormat, 0)) = none
    rw [hl, Option.all_some, hz, if_pos rfl]
  · refine Eq.trans ?_ (he u hu)
    unfold tkillFiring launchWordLid
    dsimp only
    rw [hl]
    rfl

theorem tkill_kills {lk : Nat} (hlk : lk = s.firing.part * 65536 + bitsAt l.word 40 16) (hlid : lkLid lk ≠ 0) (hrun : (s.launch lk).isSome = true) :
    Does s (exec (.tkill o) s) (withPm o.fl needL) (fun u => s.emitting (u.finish lk 1) 1 (fork (predTok true))) := by
  subst hlk
  refine tkill_runs hr hl hz _ (fun u hu => ?_)
  have hsome : (u.launch (s.firing.part * 65536 + bitsAt l.word 40 16)).isSome = true := by
    have hmap := congrArg Option.isSome (taken_launch hu (s.firing.part * 65536 + bitsAt l.word 40 16))
    rw [Option.isSome_map, Option.isSome_map] at hmap
    exact hmap.trans hrun
  rw [hsome, bne_iff_ne.mpr hlid, Bool.true_and, if_pos rfl]
  exact result_emitting s _ _ (isFiring_mask s _) ((finish_fc u _ _).trans hu.fc) 1 _

theorem tkill_finds_none {lk : Nat} (hlk : lk = s.firing.part * 65536 + bitsAt l.word 40 16) (hnone : lkLid lk = 0 ∨ s.launch lk = none) :
    Emits s (exec (.tkill o) s) (withPm o.fl needL) 1 (fork (predTok false)) l.numFlags := by
  subst hlk
  have hnums : (s.operands (withPm o.fl needL)).mask { l := true, r := true } = { l := some l, r := none, p := none } := by
    unfold Operands.mask
    simp [hl, operands_r_needL]
  have hread : readFlags (s.operands (withPm o.fl needL)) { l := true, r := true } = l.numFlags := by
    unfold readFlags
    rw [hnums]
    simp only [Option.any_some, Option.any_none, Bool.or_false]
    rfl
  rw [← hread]
  refine Does.emits (tkill_runs hr hl hz _ (fun u hu => ?_))
  have hnot : (lkLid (s.firing.part * 65536 + bitsAt l.word 40 16) != 0 && (u.launch (s.firing.part * 65536 + bitsAt l.word 40 16)).isSome) = false := by
    obtain hlid | hgone := hnone
    · rw [hlid]
      rfl
    · have hmap := congrArg Option.isSome (taken_launch hu (s.firing.part * 65536 + bitsAt l.word 40 16))
      rw [Option.isSome_map, Option.isSome_map, hgone] at hmap
      rw [hmap]
      exact Bool.and_false _
  rw [hnot, if_neg Bool.false_ne_true]
  exact result_emitting s u _ (isFiring_mask s _) hu.fc 1 _

end

/-- The site waits for its events, and for n markers. -/
def State.idling (s u : State) (n : Nat) : State :=
  { u with nid := s.nid + 1 }.setCore s.cur.core { s.core s.cur.core with idles := (s.core s.cur.core).idles ++ [(s.cur, s.nid, n, n)] }

/-- IDLE waits, where no other of its site does. -/
theorem idle_does (hr : s.Runs o.fl false needL pr) (hfree : ∀ x ∈ (s.core s.cur.core).idles, x.1 ≠ s.cur) : Does s (exec (.idle o) s) (withPm o.fl needL) (fun u =>
    s.awaiting ({ u with nid := s.nid + 1 }.setCore s.cur.core { s.core s.cur.core with
      idles := (s.core s.cur.core).idles ++ [(s.cur, s.nid, o.imm.toNat % 2 ^ 16, o.imm.toNat % 2 ^ 16)] }) false s.nid) {} := by
  refine anchor_does s {
    fl := o.fl, need := needL, nums := {}, hold := fun s f => (s.core f.e.core).idles.any (fun x => x.1 == f.e),
    act := fun s f =>
      let (id, s) := s.fresh
      let c := s.core f.e.core
      let n := o.imm.toNat % 2 ^ 16
      (s.setCore f.e.core { c with idles := c.idles ++ [(f.e, id, n, n)] }).await f false false id } pr _ hr rfl ?_ (fun u hu => ?_)
  · refine List.any_eq_false.mpr (fun x hx => ?_)
    show ¬((x.1 == s.cur) = true)
    simpa using hfree x hx
  · have hcore : u.core s.cur.core = s.core s.cur.core := taken_core hu _
    let f : Firing := { s.firing with ops := s.operands (withPm o.fl needL) }
    show (({ u with nid := u.nid + 1 }.setCore s.cur.core { u.core s.cur.core with
      idles := (u.core s.cur.core).idles ++ [(s.cur, u.nid, o.imm.toNat % 2 ^ 16, o.imm.toNat % 2 ^ 16)] } : State).await f false false u.nid) = _
    rw [hcore, hu.nid]
    exact await_awaiting s (s.idling u (o.imm.toNat % 2 ^ 16)) f (isFiring_mask s _) hu.fc false s.nid

/-- TFETCH takes the oldest record, where its targets accept. -/
theorem tfetch_does {q : Queued} {rest : List Queued} (hr : s.Runs o.fl false needL pr) (hfq : (s.part s.firing.part).fq = q :: rest) (hfree : s.targetsFree s.firing o = true) :
    Does s (exec (.tfetch o) s) (withPm o.fl needL) (fun u =>
      s.emitting (u.setPart s.firing.part { u.part s.firing.part with fq := rest }) 1 (fork (vecTok (q.record.word0.toNat :: q.fser :: q.record.rest.map BitVec.toNat)))) {} := by
  refine anchor_does s {
    fl := o.fl, need := needL, nums := {}, hold := fun s f => (s.part f.part).fq.isEmpty || !s.targetsFree f o,
    act := fun s f =>
      let p := s.part f.part
      match p.fq with
      | q :: rest => (s.setPart f.part { p with fq := rest }).result f false 1 (fork (vecTok q.words))
      | [] => s } pr _ hr rfl ?_ (fun u hu => ?_)
  · show ((s.part s.firing.part).fq.isEmpty || !s.targetsFree s.firing o) = false
    rw [hfq, hfree]
    rfl
  · have hufq : (u.part s.firing.part).fq = q :: rest := by
      rw [taken_part hu]
      exact hfq
    dsimp only
    rw [show (u.part ({ s.firing with ops := s.operands (withPm o.fl needL) } : Firing).part).fq = q :: rest from hufq]
    exact result_emitting s (u.setPart s.firing.part { u.part s.firing.part with fq := rest }) _ (isFiring_mask s (s.operands (withPm o.fl needL))) hu.fc 1 _

section
variable {r : Token} (hr : s.Runs o.fl false needLR pr) (hl : (s.operands (withPm o.fl needLR)).l = some l) (hrt : (s.operands (withPm o.fl needLR)).r = some r)
  (hv : isVec64 l = true)
include hr hl hrt hv

/-- REINJ gives the token to the site of the serial number and SITE word that L carries. -/
theorem reinj_runs (eff : State → State)
    (he : ∀ u, Taken s (withPm o.fl needLR) { l := true } u →
      (u.reinject s.firing.part (laneOf l.num 64 1) (BitVec.ofNat 64 (laneOf l.num 64 0)) r (o.fn.toNat % 4)).1.result { s.firing with ops := s.operands (withPm o.fl needLR) } false 1
        (fork (predTok (u.reinject s.firing.part (laneOf l.num 64 1) (BitVec.ofNat 64 (laneOf l.num 64 0)) r (o.fn.toNat % 4)).2)) = eff u) :
    Does s (exec (.reinj o) s) (withPm o.fl needLR) eff { l := true } := by
  refine anchor_does s {
    fl := o.fl, need := needLR, nums := { l := true }, check := fun _ f => if f.ops.l.all isVec64 then none else some (fFormat, 0),
    act := fun s f => match f.ops.l, f.ops.r with
      | some l, some r =>
        let x := s.reinject f.part (laneOf l.num 64 1) (BitVec.ofNat 64 (laneOf l.num 64 0)) r (o.fn.toNat % 4)
        x.1.result f false 1 (fork (predTok x.2))
      | _, _ => s } pr eff hr ?_ rfl (fun u hu => ?_)
  · show (if (s.operands (withPm o.fl needLR)).l.all isVec64 then none else some (fFormat, 0)) = none
    rw [hl, Option.all_some, hv, if_pos rfl]
  · refine Eq.trans ?_ (he u hu)
    dsimp only
    rw [hl, hrt]
    rfl

/-- A token that no site takes leaves everything as it was. -/
theorem reinj_refused (hno : ∀ u, Taken s (withPm o.fl needLR) { l := true } u →
      u.reinject s.firing.part (laneOf l.num 64 1) (BitVec.ofNat 64 (laneOf l.num 64 0)) r (o.fn.toNat % 4) = (u, false)) :
    Emits s (exec (.reinj o) s) (withPm o.fl needLR) 1 (fork (predTok false)) l.numFlags := by
  rw [← readFlags_l hl]
  refine Does.emits (reinj_runs hr hl hrt hv _ (fun u hu => ?_))
  rw [hno u hu]
  exact result_emitting s u _ (isFiring_mask s _) hu.fc 1 _

end

theorem findSite_taken {take nums : Slots} {u : State} (hu : Taken s take nums u) (part fser : Nat) (w : Word64) : findSite (u.part part) fser w = findSite (s.part part) fser w := by
  rw [taken_part hu]
  rfl

theorem reinject_none {part fser : Nat} {w : Word64} {t : Token} {k : Nat} (h : findSite (s.part part) fser w = none) : s.reinject part fser w t k = (s, false) := by
  unfold State.reinject
  rw [h]

theorem reinject_call {part fser fl : Nat} {w : Word64} {t : Token} {k : Nat} {x : OpenSite} (h : findSite (s.part part) fser w = some x) (hc : x.call = some fl) :
    s.reinject part fser w t k = ((s.fill x.site fl s.fc none (fork { t with rv := true })).closeSite part x, true) := by
  unfold State.reinject
  rw [h]
  dsimp only
  rw [hc]

theorem reinject_unneeded {part fser : Nat} {w : Word64} {t : Token} {k : Nat} {x : OpenSite} (h : findSite (s.part part) fser w = some x) (hc : x.call = none)
    (hno : x.need.getLsbD k = false ∨ x.refilled.getLsbD k = true) : s.reinject part fser w t k = (s, false) := by
  unfold State.reinject
  rw [h]
  dsimp only
  rw [hc]
  exact if_pos (by simpa using hno)

/-- The operand that a token brings to slot k of a site: itself, or the retained one. -/
def OpenSite.operand (x : OpenSite) (k : Nat) (r : Token) : Token := if r.tag = 0 ∨ (k = 2 ∧ (x.ops.getD k none).any isOrder = true) then (x.ops.getD k none).getD r else r

/-- The site once slot k has come. -/
def OpenSite.filled (x : OpenSite) (k : Nat) : OpenSite := { x with refilled := x.refilled ||| BitVec.ofNat 3 (2 ^ k) }

/-- The state once a token has come to slot k of a site. -/
def State.refilledSite (u : State) (part : Nat) (x : OpenSite) (k : Nat) (r : Token) : State :=
  let sl : Slot := if k = 0 then .l else if k = 1 then .r else .p
  let v := u.setElem x.site ((u.elem x.site).setSlot sl { (u.elem x.site).slot sl with rein := r :: ((u.elem x.site).slot sl).rein, waits := false })
  let w := v.setPart part { v.part part with sites := (v.part part).sites.map (fun z => if z.id = x.id then x.filled k else z) }
  if (x.filled k).refilled = (x.filled k).need then w.closeSite part (x.filled k) else w

theorem refilledSite_fc (u : State) (part : Nat) (x : OpenSite) (k : Nat) (r : Token) : (u.refilledSite part x k r).fc = u.fc := by
  unfold State.refilledSite
  dsimp only
  split
  · rfl
  · rfl

theorem operand_eq (x : OpenSite) (k : Nat) (r : Token) :
    (if r.tag = 0 then (x.ops.getD k none).getD r else if k = 2 ∧ (x.ops.getD k none).any (fun t => t.tag = 0) then (x.ops.getD k none).getD r else r) = x.operand k r := by
  have horder : (x.ops.getD k none).any isOrder = (x.ops.getD k none).any (fun t => t.tag = 0) := by
    cases x.ops.getD k none with
    | none => rfl
    | some t => rfl
  unfold OpenSite.operand
  rw [horder]
  by_cases htag : r.tag = 0
  · rw [if_pos htag, if_pos (.inl htag)]
  · rw [if_neg htag]
    simp only [htag, false_or]

theorem reinject_operand {part fser : Nat} {w : Word64} {t : Token} {k : Nat} {x : OpenSite} (h : findSite (s.part part) fser w = some x) (hc : x.call = none)
    (hneed : x.need.getLsbD k = true) (hleft : x.refilled.getLsbD k = false) : s.reinject part fser w t k = (s.refilledSite part x k (x.operand k t), true) := by
  rw [← operand_eq]
  unfold State.reinject
  rw [h]
  dsimp only
  have hwanted : ¬((!x.need.getLsbD k || x.refilled.getLsbD k) = true) := by simp [hneed, hleft]
  split
  · next fl hcall => exact absurd (hcall.symm.trans hc) (by simp)
  · exact if_neg hwanted

end

/-- Settles O41: each anchor's firing by its check and its act; a token that REINJ brings goes where the site of its serial number wants it. -/
theorem faultHandlingInstructions : Obligations.FaultHandlingInstructions := by
  unfold Obligations.FaultHandlingInstructions
  intro s o l pr
  refine ⟨?_, ?_⟩
  · rintro need rfl hr hl
    refine ⟨halt_does hr, fun hz lk hlk => ⟨fun hlid hrun => tkill_kills hr hl hz hlk hlid hrun, fun hnone => tkill_finds_none hr hl hz hlk hnone⟩, idle_does hr, fun q rest hfq hfree => tfetch_does hr hfq hfree⟩
  · rintro r need rfl hr hl hrt hv part k found
    refine ⟨fun hnone => ?_, fun x fl hx hc => ?_, fun x hx hc => ⟨fun hno => ?_, fun hneed hleft => ?_⟩⟩
    · exact reinj_refused hr hl hrt hv (fun u hu => reinject_none ((findSite_taken hu _ _ _).trans hnone))
    · refine reinj_runs hr hl hrt hv _ (fun u hu => ?_)
      rw [reinject_call ((findSite_taken hu _ _ _).trans hx) hc, hu.fc]
      exact result_emitting s ((u.fill x.site fl s.fc none (fork { r with rv := true })).closeSite part x) _ (isFiring_mask s _) hu.fc 1 _
    · exact reinj_refused hr hl hrt hv (fun u hu => reinject_unneeded ((findSite_taken hu _ _ _).trans hx) hc hno)
    · refine reinj_runs hr hl hrt hv _ (fun u hu => ?_)
      rw [reinject_operand ((findSite_taken hu _ _ _).trans hx) hc hneed hleft]
      exact result_emitting s (u.refilledSite part x k (x.operand k r)) _ (isFiring_mask s _) ((refilledSite_fc u _ _ _ _).trans hu.fc) 1 _

end Sys2Proof.Machine

/-! PROOFS. The commands of the host: their journal, their refusals, their effects (23 R398-R406 R410 R412 R413). -/

namespace Sys2Proof.Machine

section
variable {s : State} {c : HostCommand}

/-! ### The reserved bits of a command -/

/-- A number below 2^n has no bit in common with the bits from n on. -/
theorem and_high {x n m : Nat} (hx : x < 2 ^ n) (hnm : n ≤ m) : x &&& (2 ^ m - 2 ^ n) = 0 := by
  have hfactor : 2 ^ m - 2 ^ n = 2 ^ n * (2 ^ (m - n) - 1) := by
    rw [Nat.mul_sub, ← Nat.pow_add, Nat.add_sub_cancel' hnm, Nat.mul_one]
  rw [hfactor]
  refine Nat.eq_of_testBit_eq (fun i => ?_)
  rw [Nat.testBit_and, Nat.testBit_two_pow_mul, Nat.zero_testBit]
  by_cases hi : n ≤ i
  · rw [Nat.testBit_lt_two_pow (Nat.lt_of_lt_of_le hx (Nat.pow_le_pow_right (by decide) hi)), Bool.false_and]
  · simp [hi]

theorem reservedClear_iff {free : Nat → Nat} : reservedClear c free = true ↔ c.w 0 < 2 ^ 16 ∧ ∀ i, 1 ≤ i → i ≤ 7 → c.w i &&& (2 ^ 64 - 1 - free i) = 0 := by
  unfold reservedClear
  simp only [Bool.and_eq_true, decide_eq_true_eq, List.all_eq_true, List.mem_range, beq_iff_eq]
  refine and_congr_right (fun _ => ⟨fun h i hlo hhi => ?_, fun h i hi => h (i + 1) (by omega) (by omega)⟩)
  have hprev := h (i - 1) (by omega)
  rwa [Nat.sub_add_cancel hlo] at hprev

theorem clear_zero {i m : Nat} (h : c.w i = 0) : c.w i &&& m = 0 := by rw [h, Nat.zero_and]

theorem clear_all (i : Nat) : c.w i &&& (2 ^ 64 - 1 - allBits) = 0 := by
  unfold allBits
  rw [Nat.sub_self, Nat.and_zero]

theorem clear_low {i n : Nat} (h : c.w i < 2 ^ n) (hn : n ≤ 64) : c.w i &&& (2 ^ 64 - 1 - lowBits n) = 0 := by
  have hbits : 2 ^ 64 - 1 - lowBits n = 2 ^ 64 - 2 ^ n := by
    have hpos : 0 < 2 ^ n := Nat.two_pow_pos n
    unfold lowBits
    omega
  rw [hbits]
  exact and_high h hn

/-! ### The journal of a command -/

/-- The journal stands. -/
def JournalKept (s t : State) : Prop := t.hub.journal = s.hub.journal ∧ t.hub.jrnSeq = s.hub.jrnSeq

theorem JournalKept.of_hub {t : State} (h : t.hub = s.hub) : JournalKept s t := by
  unfold JournalKept
  rw [h]
  exact ⟨rfl, rfl⟩

/-- The state in which a command has been accepted and its effect is to come. -/
@[irreducible] def State.accepting (s : State) (op : Nat) (c : HostCommand) : State := s.journal op c.part 0x1FF 0 false (c.words.getD 1 0) (c.words.getD 2 0)

theorem accepting_jrnSeq (s : State) (op : Nat) (c : HostCommand) : (s.accepting op c).hub.jrnSeq = s.hub.jrnSeq + 1 := by
  unfold State.accepting
  rfl

/-- Accepting a command changes nothing but the journal. -/
theorem accepting_rest (s : State) (op : Nat) (c : HostCommand) :
    s.accepting op c = { s with hub := { s.hub with jrnSeq := (s.accepting op c).hub.jrnSeq, journal := (s.accepting op c).hub.journal } } := by
  unfold State.accepting State.journal
  dsimp only

theorem accepting_parts (op : Nat) : (s.accepting op c).parts = s.parts := by rw [accepting_rest]

theorem accepting_part (op n : Nat) : (s.accepting op c).part n = s.part n := by
  unfold State.part
  rw [accepting_parts]

theorem accepting_core (op n : Nat) : (s.accepting op c).core n = s.core n := by
  rw [accepting_rest]
  rfl

theorem accepting_mem (op : Nat) : (s.accepting op c).mem = s.mem := by rw [accepting_rest]

theorem accepting_vfs (op : Nat) : (s.accepting op c).hub.vfs = s.hub.vfs := by rw [accepting_rest]

theorem accepting_ports (op : Nat) : (s.accepting op c).hub.ports = s.hub.ports := by rw [accepting_rest]

theorem journalDone_part (s : State) (n k : Nat) : (s.journalDone n).part k = s.part k := rfl

theorem getLast?_drop_append {α : Type} (xs : List α) (x : α) (n : Nat) (hn : n ≤ xs.length) : ((xs ++ [x]).drop n).getLast? = some x := by
  rw [List.drop_append_of_le_length hn, List.getLast?_append]
  rfl

theorem journal_getLast (s : State) (op part src status : Nat) (done : Bool) (a b : Word64) : (s.journal op part src status done a b).hub.journal.getLast? =
    some { seq := s.hub.jrnSeq + 1, op := op, part := part, src := src, status := status, done := done, arg0 := a, arg1 := b } := by
  unfold State.journal
  dsimp only
  refine getLast?_drop_append s.hub.journal _ _ ?_
  rw [List.length_append, List.length_singleton]
  omega

/-- An effect that leaves the journal alone, and then DONE. -/
theorem journalled_done {u : State} {op : Nat} (h : JournalKept (s.accepting op c) u) : Journalled s (u.journalDone (s.hub.jrnSeq + 1)) c op 0 := by
  obtain ⟨hjournal, hseq⟩ := h
  refine ⟨hseq.trans (accepting_jrnSeq s op c), ?_⟩
  show (u.hub.journal.map _).getLast? = _
  rw [hjournal, List.getLast?_map]
  unfold State.accepting
  rw [journal_getLast, Option.map_some, if_pos rfl]

/-- A command takes its effect: it is journalled with status 0 and is DONE. -/
def Takes (s : State) (c : HostCommand) (i : Instr) (op : Nat) (effect : State → Prop) : Prop := ∃ t : State, exec i s = .next t ∧ Journalled s t c op 0 ∧ effect t

section
variable {i : Instr} {op : Nat} {free : Nat → Nat} {busy bad : Bool} {act : State → State}

theorem command_takes (hexec : exec i s = .next (s.command op c free busy bad act)) (hw : c.w 0 < 2 ^ 16) (hpart : c.part ≤ 95)
    (hclear : ∀ i, 1 ≤ i → i ≤ 7 → c.w i &&& (2 ^ 64 - 1 - free i) = 0) (hbusy : busy = false) (hbad : bad = false) {effect : State → Prop}
    (hkept : JournalKept (s.accepting op c) (act (s.accepting op c))) (heffect : effect ((act (s.accepting op c)).journalDone (s.hub.jrnSeq + 1))) : Takes s c i op effect := by
  have hstatus : (if !reservedClear c free then 1 else if 95 < c.part then 3 else if busy then 4 else if bad then 6 else 0) = 0 := by
    rw [reservedClear_iff.mpr ⟨hw, hclear⟩, if_neg (by decide), if_neg (by omega), hbusy, hbad]
    rfl
  refine ⟨_, hexec.trans (congrArg Host.Outcome.next ?_), journalled_done hkept, heffect⟩
  unfold State.command
  dsimp only
  rw [hstatus, if_neg (by decide)]
  unfold State.accepting
  rfl

theorem command_reserved (hw : 2 ^ 16 ≤ c.w 0) : s.command op c free busy bad act = s.journal op c.part 0x1FF 1 true (c.words.getD 1 0) (c.words.getD 2 0) := by
  have hreserved : reservedClear c free = false := by
    rw [← Bool.not_eq_true, reservedClear_iff]
    exact fun h => absurd h.1 (by omega)
  unfold State.command
  rw [hreserved]
  rfl

theorem command_unpartitioned (hw : c.w 0 < 2 ^ 16) (hzero : ∀ i, 1 ≤ i → i ≤ 7 → c.w i = 0) (hpart : 95 < c.part) :
    s.command op c free busy bad act = s.journal op c.part 0x1FF 3 true (c.words.getD 1 0) (c.words.getD 2 0) := by
  have hclear : reservedClear c free = true := reservedClear_iff.mpr ⟨hw, fun i hlo hhi => clear_zero (hzero i hlo hhi)⟩
  unfold State.command
  rw [hclear, if_neg (by decide : ¬(!true) = true), if_pos hpart]
  rfl

end

end

end Sys2Proof.Machine

/-! PROOFS. What the commands of the host do (23 R398-R406 R410 R412 R413, 18 R334). -/

namespace Sys2Proof.Machine

section
variable {s : State} {c : HostCommand}

/-- Words that a command assigns up to n, and zeros from there on. -/
theorem clear_from {free : Nat → Nat} (n : Nat) (hzero : ∀ i, n ≤ i → i ≤ 7 → c.w i = 0) (hfree : ∀ i, 1 ≤ i → i < n → c.w i &&& (2 ^ 64 - 1 - free i) = 0) :
    ∀ i, 1 ≤ i → i ≤ 7 → c.w i &&& (2 ^ 64 - 1 - free i) = 0 := by
  intro i hlo hhi
  by_cases hi : i < n
  · exact hfree i hlo hi
  · exact clear_zero (hzero i (by omega) hhi)

theorem bitsAt_eq (w lo n : Nat) : bitsAt w lo n = w / 2 ^ lo % 2 ^ n := by
  unfold bitsAt
  rw [Nat.shiftRight_eq_div_pow]

theorem halt_haltAt (s : State) (n : Nat) : ((s.halt n).part n).halted = true ∧ ((s.part n).halted = false → ((s.halt n).part n).haltAt = (s.part n).launches.map (fun x => (x.1, x.2.round))) := by
  unfold State.halt
  dsimp only
  by_cases h : (s.part n).halted = true
  · rw [if_pos h]
    exact ⟨h, fun hno => absurd (h.symm.trans hno) (by decide)⟩
  · rw [if_neg h, State.part_setPart_same]
    exact ⟨rfl, fun _ => rfl⟩

theorem halt_hub (s : State) (n : Nat) : (s.halt n).hub = s.hub := by
  unfold State.halt
  dsimp only
  split
  · rfl
  · rfl

/-- A command of two whole words. -/
theorem clear_two (hzero : ∀ i, 3 ≤ i → i ≤ 7 → c.w i = 0) : ∀ i, 1 ≤ i → i ≤ 7 → c.w i &&& (2 ^ 64 - 1 - (if i = 1 ∨ i = 2 then allBits else 0)) = 0 := by
  refine clear_from 3 hzero (fun i hlo hi => ?_)
  rw [if_pos (by omega)]
  exact clear_all i

section
variable (hw : c.w 0 < 2 ^ 16) (hpart : c.part ≤ 95)
include hw hpart

/-! ### Commands of one word -/

theorem resume_takes (hzero : ∀ i, 1 ≤ i → i ≤ 7 → c.w i = 0) : Takes s c (.resume c) 0x0A (fun t => t.part c.part = { s.part c.part with halted := false, haltAt := [] }) := by
  refine command_takes (act := fun s => s.setPart c.part { s.part c.part with halted := false, haltAt := [] }) rfl hw hpart (fun i hlo hhi => clear_zero (hzero i hlo hhi)) rfl rfl (.of_hub rfl) ?_
  rw [journalDone_part, State.part_setPart_same, accepting_part]

theorem hostHalt_takes (hzero : ∀ i, 1 ≤ i → i ≤ 7 → c.w i = 0) : Takes s c (.hostHalt c) 0x0E (fun t =>
    (t.part c.part).halted = true ∧ ((s.part c.part).halted = false → (t.part c.part).haltAt = (s.part c.part).launches.map (fun x => (x.1, x.2.round)))) :=
  command_takes (act := fun s => s.halt c.part) rfl hw hpart (fun i hlo hhi => clear_zero (hzero i hlo hhi)) rfl rfl (.of_hub (halt_hub _ _)) (by
    rw [journalDone_part, ← accepting_part (s := s) (c := c) 0x0E]
    exact halt_haltAt (s.accepting 0x0E c) c.part)

theorem fenceClr_takes (hzero : ∀ i, 2 ≤ i → i ≤ 7 → c.w i = 0) (hcore : c.w 1 ≤ 95) : Takes s c (.fenceClr c) 0x09 (fun t => t.core (c.w 1) = { s.core (c.w 1) with fenced := false }) := by
  refine command_takes (act := fun s => s.setCore (c.w 1) { s.core (c.w 1) with fenced := false }) rfl hw hpart (clear_from 2 hzero (fun i hlo hi => ?_)) rfl
    (decide_eq_false (by omega)) (.of_hub rfl) ?_
  · rw [if_pos (by omega)]
    exact clear_all i
  · show ((s.accepting 0x09 c).setCore (c.w 1) _).core (c.w 1) = _
    rw [State.core_setCore_same, accepting_core]

/-! ### Commands of the hub -/

theorem grpSet_takes (hzero : ∀ i, 3 ≤ i → i ≤ 7 → c.w i = 0) (hgroup : c.w 1 ≤ 255) (hok : s.groupOk (c.w 2) = true) :
    Takes s c (.grpSet c) 0x08 (fun t => mget t.hub.groups (c.w 1) = some (memberList s.mem (c.w 2))) := by
  refine command_takes (act := fun s => { s with hub := { s.hub with groups := mset s.hub.groups (c.w 1) (memberList s.mem (c.w 2)) } }) rfl hw hpart (clear_two hzero) rfl ?_ ⟨rfl, rfl⟩ ?_
  · rw [hok, decide_eq_false (by omega)]
    rfl
  · refine (mget_mset_same _ _ _).trans ?_
    rw [accepting_mem]

theorem vfBind_takes (hzero : ∀ i, 3 ≤ i → i ≤ 7 → c.w i = 0) (hvf : c.w 1 ≤ 383) (hto : c.w 2 ≤ 95 ∨ c.w 2 = 0xFF) :
    Takes s c (.vfBind c) 0x0C (fun t => t.hub.vfs = if c.w 2 = 0xFF then mdel s.hub.vfs (c.w 1) else mset s.hub.vfs (c.w 1) (c.w 2)) := by
  refine command_takes (act := fun s => { s with hub := { s.hub with vfs := if c.w 2 = 0xFF then mdel s.hub.vfs (c.w 1) else mset s.hub.vfs (c.w 1) (c.w 2) } })
    rfl hw hpart (clear_two hzero) rfl ?_ ⟨rfl, rfl⟩ ?_
  · obtain hpf | hnone := hto
    · rw [decide_eq_false (by omega), decide_eq_true hpf]
      rfl
    · rw [decide_eq_false (by omega), hnone]
      rfl
  · dsimp only
    rw [← accepting_vfs (s := s) (c := c) 0x0C]
    rfl

theorem rateSet_takes (hzero : ∀ i, 3 ≤ i → i ≤ 7 → c.w i = 0) (hport : c.w 1 ≤ 15) (hlo : 1 ≤ c.w 2) (hhi : c.w 2 ≤ 224) :
    Takes s c (.rateSet c) 0x0D (fun t => mgetD t.hub.ports (c.w 1) {} = { mgetD s.hub.ports (c.w 1) {} with rate := c.w 2 }) := by
  refine command_takes (act := fun s => s.setPort (c.w 1) { s.port (c.w 1) with rate := c.w 2 }) rfl hw hpart (clear_two hzero) rfl (decide_eq_false (by omega)) ⟨rfl, rfl⟩ ?_
  rw [← accepting_ports (s := s) (c := c) 0x0D]
  show (mget (mset (s.accepting 0x0D c).hub.ports (c.w 1) _) (c.w 1)).getD {} = _
  rw [mget_mset_same]
  rfl

theorem peerSet_takes (hzero : ∀ i, 3 ≤ i → i ≤ 7 → c.w i = 0) (hlo : 1 ≤ c.w 1) (hhi : c.w 1 ≤ 255) (hbits : c.w 2 < 2 ^ 39)
    (hports : ∀ q ∈ s.others c.part, q.ports &&& BitVec.ofNat 16 (c.w 2) = 0) : Takes s c (.peerSet c) 0x07 (fun t =>
      (t.part c.part).ports = (s.part c.part).ports ||| BitVec.ofNat 16 (c.w 2) ∧ mget t.hub.peers (c.w 1) = some (c.w 2 % 2 ^ 16, c.w 2 / 2 ^ 16 % 2 ^ 16, c.w 2 / 2 ^ 32 % 2 ^ 7)) := by
  have hmask : BitVec.ofNat 16 (bitsAt (c.w 2) 0 16) = BitVec.ofNat 16 (c.w 2) := by
    refine BitVec.eq_of_toNat_eq ?_
    rw [bitsAt_zero, BitVec.toNat_ofNat, BitVec.toNat_ofNat, Nat.mod_mod]
  refine command_takes (act := fun s =>
    let p := s.part c.part
    let s := s.setPart c.part { p with ports := p.ports ||| BitVec.ofNat 16 (bitsAt (c.w 2) 0 16) }
    { s with hub := { s.hub with peers := mset s.hub.peers (c.w 1) (bitsAt (c.w 2) 0 16, bitsAt (c.w 2) 16 16, bitsAt (c.w 2) 32 7) } }) rfl hw hpart
    (clear_from 3 hzero (fun i hi hi' => ?_)) rfl ?_ ⟨rfl, rfl⟩ ⟨?_, ?_⟩
  · obtain rfl | rfl : i = 1 ∨ i = 2 := by omega
    · exact clear_all 1
    · exact clear_low hbits (by decide)
  · rw [hmask, decide_eq_false (by omega), Bool.false_or]
    exact List.any_eq_false.mpr (fun q hq => by simp [hports q hq])
  · show (((s.accepting 0x07 c).setPart c.part _).part c.part).ports = _
    rw [State.part_setPart_same, hmask, accepting_part]
  · refine (mget_mset_same _ _ _).trans ?_
    rw [bitsAt_zero, bitsAt_eq, bitsAt_eq]

/-! ### Commands of a partition's registers -/

theorem dmaWin_takes (hzero : ∀ i, 5 ≤ i → i ≤ 7 → c.w i = 0) (hwin : c.w 1 ≤ 15) (hrights : c.w 4 ≤ 3) :
    Takes s c (.dmaWin c) 0x06 (fun t => t.part c.part = { s.part c.part with dma := mset (s.part c.part).dma (c.w 1) (c.w 2, c.w 3, (c.w 4).testBit 0, (c.w 4).testBit 1) }) := by
  refine command_takes (act := fun s =>
    let p := s.part c.part
    s.setPart c.part { p with dma := mset p.dma (c.w 1) (c.w 2, c.w 3, bitAt (c.w 4) 0, bitAt (c.w 4) 1) }) rfl hw hpart (clear_from 5 hzero (fun i hlo hi => ?_)) rfl
    (decide_eq_false (by omega)) (.of_hub rfl) ?_
  · by_cases h4 : i = 4
    · rw [if_pos h4, h4]
      exact clear_low (n := 2) (by omega) (by decide)
    · rw [if_neg h4, if_pos (by omega)]
      exact clear_all i
  · rw [journalDone_part, State.part_setPart_same, accepting_part]
    rfl

theorem partReg_takes (hzero : ∀ i, 3 ≤ i → i ≤ 7 → c.w i = 0) (hok : regWritable (c.w 1) (c.w 2) = true) :
    Takes s c (.partReg c) 0x04 (fun t => t.part c.part = (s.part c.part).regWrite (c.w 1) (c.w 2)) := by
  refine command_takes (act := fun s => s.setPart c.part ((s.part c.part).regWrite (c.w 1) (c.w 2))) rfl hw hpart (clear_two hzero) rfl ?_ (.of_hub rfl) ?_
  · rw [hok]
    rfl
  · rw [journalDone_part, State.part_setPart_same, accepting_part]

end

end

end Sys2Proof.Machine

/-! PROOFS. The commands that give a partition its cores and its memory, clear it and start its handler (23 R398-R401 R404, 18 R312 R320). -/

namespace Sys2Proof.Machine

section
variable {s : State} {c : HostCommand}

/-! ### Cores that leave -/

theorem leaveCore_rest (s : State) (k : Nat) : (s.leaveCore k).hub = s.hub ∧ (s.leaveCore k).parts = s.parts ∧ (s.leaveCore k).mem = s.mem := ⟨rfl, rfl, rfl⟩

theorem leaveCores_rest (ks : List Nat) (s : State) : (ks.foldl State.leaveCore s).hub = s.hub ∧ (ks.foldl State.leaveCore s).parts = s.parts ∧ (ks.foldl State.leaveCore s).mem = s.mem := by
  induction ks generalizing s with
  | nil => exact ⟨rfl, rfl, rfl⟩
  | cons k ks ih => exact ih _

/-- The core holds no record. -/
def NoRecords (s : State) (k : Nat) : Prop := (s.core k).frecs = [] ∧ (s.core k).fwait = []

theorem noRecords_leaveCore_same (s : State) (k : Nat) : NoRecords (s.leaveCore k) k := by
  unfold NoRecords State.leaveCore
  dsimp only
  rw [State.core_setCore_same]
  exact ⟨rfl, rfl⟩

theorem noRecords_leaveCore {j : Nat} (s : State) (k : Nat) (h : NoRecords s j) : NoRecords (s.leaveCore k) j := by
  by_cases hj : j = k
  · rw [hj]
    exact noRecords_leaveCore_same s k
  · unfold NoRecords State.leaveCore
    dsimp only
    rw [State.core_setCore_other _ _ _ _ hj]
    exact h

theorem noRecords_leaveCores (ks : List Nat) (s : State) {j : Nat} (h : NoRecords s j ∨ j ∈ ks) : NoRecords (ks.foldl State.leaveCore s) j := by
  induction ks generalizing s with
  | nil => exact h.resolve_right List.not_mem_nil
  | cons k ks ih =>
    refine ih _ ?_
    obtain hs | hmem := h
    · exact .inl (noRecords_leaveCore s k hs)
    · obtain rfl | hmem := List.mem_cons.mp hmem
      · exact .inl (noRecords_leaveCore_same s j)
      · exact .inr hmem

theorem mem_others {n : Nat} {q : Partition} : q ∈ s.others n ↔ ∃ y ∈ s.parts, y.1 ≠ n ∧ y.2 = q := by
  unfold State.others
  simp only [List.mem_map, List.mem_filter, bne_iff_ne, and_assoc]

theorem fields16_getElem {w d : Nat} (hd : d < (fields16 w).length) : (fields16 w).getD d 0 = (fields16 w)[d] := by
  rw [List.getD_eq_getElem?_getD, List.getElem?_eq_getElem hd, Option.getD_some]

theorem mem_fields16 {w x : Nat} : x ∈ fields16 w ↔ ∃ d, d < 4 ∧ (fields16 w).getD d 0 = x := by
  have hlen : (fields16 w).length = 4 := rfl
  rw [List.mem_iff_getElem]
  constructor
  · rintro ⟨d, hd, rfl⟩
    exact ⟨d, hlen ▸ hd, fields16_getElem hd⟩
  · rintro ⟨d, hd, rfl⟩
    exact ⟨d, hlen ▸ hd, (fields16_getElem (hlen ▸ hd)).symm⟩

theorem fields16_getD (w : Nat) {d : Nat} (hd : d < 4) : (fields16 w).getD d 0 = w / 2 ^ (16 * d) % 2 ^ 16 := by
  rw [fields16_getElem (show d < (fields16 w).length from hd)]
  unfold fields16
  rw [List.getElem_map, List.getElem_range, bitsAt_eq]

theorem masks_getD {d : Nat} (hd : d < 4) : [c.w 1, c.w 2, c.w 3, c.w 4].getD d 0 = c.w (d + 1) := by
  obtain rfl | rfl | rfl | rfl : d = 0 ∨ d = 1 ∨ d = 2 ∨ d = 3 := by omega
  · rfl
  · rfl
  · rfl
  · rfl

/-- With no launch and no handler there is nothing to kill. -/
theorem kill_none {n : Nat} (h : (s.part n).handler = none) : s.kill (n * 65536) = s := by
  have hlaunch : s.launch (n * 65536) = none := by
    unfold State.launch lkLid lkPart
    rw [if_pos (Nat.mul_mod_left n 65536), Nat.mul_div_cancel n (by decide)]
    exact h
  unfold State.kill
  rw [hlaunch]

/-! ### The pinned blocks of a handler launch -/

/-- A partition keeps its handler launch, and faults diverted as before. -/
structure HandlerKept (n : Nat) (s t : State) : Prop where
  hub : t.hub = s.hub
  en : (t.part n).en = (s.part n).en
  fser : (t.part n).fser = (s.part n).fser
  img : (t.part n).handler.map Launch.img = (s.part n).handler.map Launch.img

theorem HandlerKept.of_part {n : Nat} {t : State} (hhub : t.hub = s.hub) (h : t.part n = s.part n) : HandlerKept n s t := ⟨hhub, by rw [h], by rw [h], by rw [h]⟩

theorem HandlerKept.refl (n : Nat) (s : State) : HandlerKept n s s := .of_part rfl rfl

theorem HandlerKept.trans {n : Nat} {s t u : State} (h : HandlerKept n s t) (h' : HandlerKept n t u) : HandlerKept n s u :=
  ⟨h'.hub.trans h.hub, h'.en.trans h.en, h'.fser.trans h.fser, h'.img.trans h.img⟩

theorem HandlerKept.foldl {α : Type} {n : Nat} {f : State → α → State} (h : ∀ s x, HandlerKept n s (f s x)) (xs : List α) (s : State) : HandlerKept n s (xs.foldl f s) := by
  induction xs generalizing s with
  | nil => exact .refl n s
  | cons x xs ih => exact (h s x).trans (ih _)

theorem handlerKept_setPart {n m : Nat} {p : Partition} (hen : p.en = (s.part m).en) (hfser : p.fser = (s.part m).fser) (himg : p.handler.map Launch.img = (s.part m).handler.map Launch.img) :
    HandlerKept n s (s.setPart m p) := by
  by_cases hn : n = m
  · subst hn
    exact ⟨rfl, by rw [State.part_setPart_same, hen], by rw [State.part_setPart_same, hfser], by rw [State.part_setPart_same, himg]⟩
  · exact .of_part rfl (State.part_setPart_other _ _ _ _ hn)

theorem handlerKept_halt (n : Nat) (s : State) (m : Nat) : HandlerKept n s (s.halt m) := by
  unfold State.halt
  dsimp only
  split
  · exact .refl n s
  · exact handlerKept_setPart rfl rfl rfl

theorem handlerKept_mapLaunch {n : Nat} (s : State) (lk : Nat) (g : Launch → Launch) (hg : ∀ l, (g l).img = l.img) : HandlerKept n s (s.mapLaunch lk g) := by
  unfold State.mapLaunch
  cases hl : s.launch lk with
  | none => exact .refl n s
  | some l =>
    show HandlerKept n s (s.setLaunch lk (g l))
    unfold State.launch at hl
    unfold State.setLaunch
    dsimp only
    by_cases hlid : lkLid lk = 0
    · rw [if_pos hlid] at hl ⊢
      exact handlerKept_setPart rfl rfl (by rw [hl, Option.map_some, Option.map_some, hg])
    · rw [if_neg hlid]
      exact handlerKept_setPart rfl rfl rfl

theorem handlerKept_blockNotice (n : Nat) (s : State) (lk : Nat) (p : Place') (blk step idx : Nat) : HandlerKept n s (s.blockNotice lk p blk step idx) := by
  unfold State.blockNotice
  split
  · exact handlerKept_halt n s _
  · exact .of_part rfl rfl

theorem handlerKept_loadBlock (n : Nat) (s : State) (lk : Nat) (l : Launch) (r : LoadRec) (num : Nat) (e : BlockEnt) (round : Nat) : HandlerKept n s (s.loadBlock lk l r num e round) := by
  unfold State.loadBlock
  dsimp only
  split
  · exact (handlerKept_blockNotice n s _ _ _ _ _).trans (handlerKept_mapLaunch _ _ _ (fun _ => rfl))
  · unfold State.install
    dsimp only
    split
    · exact .of_part rfl rfl
    · exact .of_part rfl rfl

/-- A core of a handler launch takes its pinned blocks (18 R312). -/
theorem handlerKept_configCore (s : State) (n core round : Nat) : HandlerKept n s (s.configCore (n * 65536) core round) := by
  have hlid : lkLid (n * 65536) = 0 := Nat.mul_mod_left n 65536
  unfold State.configCore
  split
  · exact .refl n s
  · dsimp only
    rw [if_pos hlid, if_pos hlid, if_pos hlid]
    refine .foldl (fun t x => ?_) _ _
    split
    · exact handlerKept_loadBlock n t _ _ _ _ _ _
    · exact .refl n t

section
variable (hw : c.w 0 < 2 ^ 16) (hpart : c.part ≤ 95)
include hw hpart

theorem partCores_takes (hzero : ∀ i, 4 ≤ i → i ≤ 7 → c.w i = 0) (hmask : c.w 2 < 2 ^ 32) (hshares : c.w 3 &&& (2 ^ 64 - 1 - 511 * (1 + 2 ^ 16 + 2 ^ 32 + 2 ^ 48)) = 0)
    (hfree : ∀ k ∈ (s.part c.part).cores, k ∈ maskCores (c.w 1) (c.w 2) ∨ (s.core k).lk = none) (hbw : (s.part c.part).runs = false ∨ (s.part c.part).bw = fields16 (c.w 3))
    (hown : ∀ k ∈ maskCores (c.w 1) (c.w 2), ∀ y ∈ s.parts, y.1 ≠ c.part → k ∉ y.2.cores)
    (hsum : ∀ d, d < 4 → (fields16 (c.w 3)).getD d 0 + ((s.others c.part).map (fun q => q.bw.getD d 0)).sum ≤ 256) :
    Takes s c (.partCores c) 0x01 (fun t => t.part c.part = {
      s.part c.part with
      cores := maskCores (c.w 1) (c.w 2), bw := fields16 (c.w 3),
      sites := (s.part c.part).sites.filter (fun x => ! ((s.part c.part).cores.contains x.site.core && ! (maskCores (c.w 1) (c.w 2)).contains x.site.core)) }) := by
  refine command_takes (act := fun s' =>
    let p := s'.part c.part
    (((s.part c.part).cores.filter (fun k => !(maskCores (c.w 1) (c.w 2)).contains k)).foldl State.leaveCore s').setPart c.part { p with
      cores := maskCores (c.w 1) (c.w 2), bw := fields16 (c.w 3),
      sites := p.sites.filter (fun x => !((s.part c.part).cores.filter (fun k => !(maskCores (c.w 1) (c.w 2)).contains k)).contains x.site.core) }) rfl hw hpart
    (clear_from 4 hzero (fun i hlo hi => ?_)) ?_ ?_ (.of_hub (leaveCores_rest _ _).1) ?_
  · obtain rfl | rfl | rfl : i = 1 ∨ i = 2 ∨ i = 3 := by omega
    · exact clear_all 1
    · exact clear_low hmask (by decide)
    · exact hshares
  · refine Bool.or_eq_false_iff.mpr ⟨List.any_eq_false.mpr (fun k hk => ?_), ?_⟩
    · obtain ⟨hk, hgone⟩ := List.mem_filter.mp hk
      have hnot : k ∉ maskCores (c.w 1) (c.w 2) := by simpa using hgone
      rw [(hfree k hk).resolve_left hnot]
      exact Bool.false_ne_true
    · obtain hruns | hsame := hbw
      · rw [hruns]
        rfl
      · rw [hsame, bne_self_eq_false, Bool.and_false]
  · refine Bool.or_eq_false_iff.mpr ⟨Bool.or_eq_false_iff.mpr ⟨List.any_eq_false.mpr (fun k hk => ?_), List.any_eq_false.mpr (fun x hx => ?_)⟩, List.any_eq_false.mpr (fun d hd => ?_)⟩
    · rw [Bool.not_eq_true]
      refine List.any_eq_false.mpr (fun q hq => ?_)
      obtain ⟨y, hy, hne, rfl⟩ := mem_others.mp hq
      simpa using hown k hk y hy hne
    · obtain ⟨d, hd, rfl⟩ := mem_fields16.mp hx
      have hd' := hsum d hd
      simp only [decide_eq_true_eq]
      omega
    · have hd' := hsum d (List.mem_range.mp hd)
      simp only [decide_eq_true_eq]
      omega
  · rw [journalDone_part, State.part_setPart_same, accepting_part]
    have hsites : (fun x : OpenSite => !((s.part c.part).cores.filter (fun k => !(maskCores (c.w 1) (c.w 2)).contains k)).contains x.site.core) =
        (fun x => !((s.part c.part).cores.contains x.site.core && !(maskCores (c.w 1) (c.w 2)).contains x.site.core)) := by
      funext x
      simp only [List.contains_eq_mem, List.mem_filter, Bool.decide_and, Bool.not_eq_eq_eq_not, Bool.not_true, decide_eq_false_iff_not, decide_not]
    rw [hsites]

theorem partMem_takes (hzero : c.w 7 = 0) (hruns : (s.part c.part).runs = false)
    (hfit : ∀ d, d < 4 → c.w 6 / 2 ^ (16 * d) % 2 ^ 16 + c.w 5 / 2 ^ (16 * d) % 2 ^ 16 ≤ 192 ∧ (c.w 5 / 2 ^ (16 * d) % 2 ^ 16 = 0 ∨ c.w (d + 1) ≠ 0))
    (hown : ∀ q ∈ s.others c.part, ∀ d, d < 4 →
      overlap (d * 2 ^ 38 + c.w 6 / 2 ^ (16 * d) % 2 ^ 16 * 2 ^ 30) (c.w 5 / 2 ^ (16 * d) % 2 ^ 16 * 2 ^ 30) (q.shareB.getD d 0) (q.shareS.getD d 0) = false ∧ c.w (d + 1) &&& q.slices.getD d 0 = 0) :
    Takes s c (.partMem c) 0x02 (fun t => t.part c.part = {
      s.part c.part with
      slices := [c.w 1, c.w 2, c.w 3, c.w 4], shareB := (List.range 4).map (fun d => d * 2 ^ 38 + c.w 6 / 2 ^ (16 * d) % 2 ^ 16 * 2 ^ 30),
      shareS := (List.range 4).map (fun d => c.w 5 / 2 ^ (16 * d) % 2 ^ 16 * 2 ^ 30) }) := by
  refine command_takes (act := fun s => s.setPart c.part { s.part c.part with
    slices := [c.w 1, c.w 2, c.w 3, c.w 4], shareB := (List.range 4).map (fun d => d * 2 ^ 38 + (fields16 (c.w 6)).getD d 0 * 2 ^ 30),
    shareS := (List.range 4).map (fun d => (fields16 (c.w 5)).getD d 0 * 2 ^ 30) }) rfl hw hpart (fun i hlo hhi => ?_) ?_ ?_ (.of_hub rfl) ?_
  · obtain hi | rfl : i ≤ 6 ∨ i = 7 := by omega
    · rw [if_pos ⟨hlo, hi⟩]
      exact clear_all i
    · exact clear_zero hzero
  · rw [hruns, Bool.false_and]
  · refine List.any_eq_false.mpr (fun d hd => ?_)
    have hd4 := List.mem_range.mp hd
    obtain ⟨hle, hmask⟩ := hfit d hd4
    rw [fields16_getD _ hd4, fields16_getD _ hd4, masks_getD hd4, Bool.not_eq_true]
    refine Bool.or_eq_false_iff.mpr ⟨Bool.or_eq_false_iff.mpr ⟨decide_eq_false (by omega), ?_⟩, List.any_eq_false.mpr (fun q hq => ?_)⟩
    · obtain hnone | hsome := hmask
      · rw [hnone]
        rfl
      · rw [beq_false_of_ne hsome, Bool.and_false]
    · obtain ⟨hapart, hslices⟩ := hown q hq d hd4
      dsimp only
      rw [fields16_getD _ hd4, fields16_getD _ hd4, hapart, hslices]
      decide
  · rw [journalDone_part, State.part_setPart_same, accepting_part]
    have hbase : (List.range 4).map (fun d => d * 2 ^ 38 + (fields16 (c.w 6)).getD d 0 * 2 ^ 30) = (List.range 4).map (fun d => d * 2 ^ 38 + c.w 6 / 2 ^ (16 * d) % 2 ^ 16 * 2 ^ 30) :=
      List.map_congr_left (fun d hd => by rw [fields16_getD _ (List.mem_range.mp hd)])
    have hsize : (List.range 4).map (fun d => (fields16 (c.w 5)).getD d 0 * 2 ^ 30) = (List.range 4).map (fun d => c.w 5 / 2 ^ (16 * d) % 2 ^ 16 * 2 ^ 30) :=
      List.map_congr_left (fun d hd => by rw [fields16_getD _ (List.mem_range.mp hd)])
    rw [hbase, hsize]

theorem partClr_takes (hzero : ∀ i, 1 ≤ i → i ≤ 7 → c.w i = 0) (hlaunches : (s.part c.part).launches = []) (hhandler : (s.part c.part).handler = none)
    (hkeys : (s.parts.map Prod.fst).Nodup) : Takes s c (.partClr c) 0x03 (fun t =>
      ((s.part c.part).fq = [] → mget t.parts c.part = none) ∧ ((s.part c.part).fq ≠ [] → mget t.parts c.part = some { fq := (s.part c.part).fq }) ∧ t.mem = s.mem ∧
        ∀ k ∈ (s.part c.part).cores, (t.core k).frecs = [] ∧ (t.core k).fwait = []) := by
  have hkill : (((((s.accepting 0x03 c).part c.part).launches.map Prod.fst).foldl (fun s lid => s.kill (c.part * 65536 + lid)) (s.accepting 0x03 c)).kill (c.part * 65536)) = s.accepting 0x03 c := by
    rw [accepting_part, hlaunches]
    exact kill_none ((congrArg Partition.handler (accepting_part _ _)).trans hhandler)
  obtain ⟨hhub, hparts, hmem⟩ := leaveCores_rest (s.part c.part).cores (s.accepting 0x03 c)
  refine command_takes (act := fun s =>
    let n := c.part
    let s := ((s.part n).launches.map Prod.fst).foldl (fun s lid => s.kill (n * 65536 + lid)) s
    let s := s.kill (n * 65536)
    let s := (s.part n).cores.foldl State.leaveCore s
    let fq := (s.part n).fq
    { s with parts := if fq.isEmpty then mdel s.parts n else mset s.parts n { fq := fq } }) rfl hw hpart (fun i hlo hhi => clear_zero (hzero i hlo hhi)) rfl rfl ?_ ?_
  · dsimp only
    rw [hkill, accepting_part]
    exact .of_hub hhub
  · dsimp only
    rw [hkill, accepting_part]
    have hfq : (((s.part c.part).cores.foldl State.leaveCore (s.accepting 0x03 c)).part c.part).fq = (s.part c.part).fq := by
      show (mgetD ((s.part c.part).cores.foldl State.leaveCore (s.accepting 0x03 c)).parts c.part {}).fq = _
      rw [hparts, accepting_parts]
      rfl
    rw [hfq, hparts, accepting_parts]
    refine ⟨fun hnone => ?_, fun hsome => ?_, hmem.trans (accepting_mem _), fun k hk => noRecords_leaveCores _ _ (.inr hk)⟩
    · show mget (if (s.part c.part).fq.isEmpty then mdel s.parts c.part else _) c.part = none
      rw [if_pos (List.isEmpty_iff.mpr hnone)]
      exact mget_of_not_mem _ _ (not_mem_mdel _ _ hkeys)
    · show mget (if (s.part c.part).fq.isEmpty then mdel s.parts c.part else mset s.parts c.part { fq := (s.part c.part).fq }) c.part = _
      rw [if_neg (fun he => hsome (List.isEmpty_iff.mp he)), mget_mset_same]

theorem hndStart_takes (hzero : ∀ i, 2 ≤ i → i ≤ 7 → c.w i = 0) (hhandler : (s.part c.part).handler = none) (hlo : 4 ≤ (s.part c.part).fqlog) (hhi : (s.part c.part).fqlog ≤ 12)
    (hbase : (s.part c.part).fqBase.toNat % (64 * 2 ^ (s.part c.part).fqlog) = 0) (himage : handlerImageOk s.mem (s.part c.part) (c.w 1) = true) :
    Takes s c (.hndStart c) 0x05 (fun t => (t.part c.part).en = true ∧ (t.part c.part).fser = 0 ∧ ((t.part c.part).handler.map Launch.img) = some (c.w 1)) := by
  let start (s : State) : State :=
    let p := s.part c.part
    s.setPart c.part { p with en := true, handler := some { lid := 0, img := c.w 1, size := variantFor s.mem (c.w 1) p.cores.length 0, cores := p.cores }, fser := 0 }
  let act (s : State) : State := (s.part c.part).cores.foldl (fun s k => s.configCore (c.part * 65536) k (s.injOf (c.part * 65536) k)) (start s)
  have hkept (s : State) : HandlerKept c.part (start s) (act s) := .foldl (fun t k => handlerKept_configCore t c.part k _) _ _
  obtain ⟨hhub, hen, hfser, himg⟩ := hkept (s.accepting 0x05 c)
  refine command_takes (act := act) rfl hw hpart (clear_from 2 hzero (fun i hi hi' => ?_)) rfl ?_ (.of_hub hhub) ⟨?_, ?_, ?_⟩
  · rw [if_pos (by omega)]
    exact clear_all i
  · rw [hhandler, hbase, himage, decide_eq_false (by omega)]
    rfl
  · rw [journalDone_part, hen, State.part_setPart_same]
  · rw [journalDone_part, hfser, State.part_setPart_same]
  · rw [journalDone_part, himg, State.part_setPart_same]
    rfl

end

end

end Sys2Proof.Machine

/-! PROOFS. The settling of the obligation on the commands of the host. -/

namespace Sys2Proof.Machine

/-- The commands of R404 with their opcodes. -/
def ringCommands : List ((HostCommand → Instr) × Nat) :=
  [(.partCores, 0x01), (.partMem, 0x02), (.partClr, 0x03), (.partReg, 0x04), (.hndStart, 0x05), (.dmaWin, 0x06), (.peerSet, 0x07), (.grpSet, 0x08), (.fenceClr, 0x09), (.resume, 0x0A),
    (.dieReset, 0x0B), (.vfBind, 0x0C), (.rateSet, 0x0D), (.hostHalt, 0x0E)]

section
variable {s : State} {c : HostCommand}

theorem dieReset_refused {st : Nat} (hst : st ≠ 0)
    (h : (if !reservedClear c (fun i => if i = 1 then allBits else 0) then 1 else if 95 < c.part then 3
      else if !(s.dies[c.w 1]?).any (fun x => x.st == 0) || decide ((s.dies.filter (fun x => x.st == 0)).length ≤ 1) then 6 else 0) = st) :
    exec (.dieReset c) s = .next (s.journal 0x0B c.part 0x1FF st true (c.words.getD 1 0) (c.words.getD 2 0)) := by
  show execDieReset c s = _
  unfold execDieReset
  dsimp only
  rw [h, if_pos hst, bne_iff_ne.mpr hst]

/-- Every command is refused with a status where `command` and DIE_RESET are. -/
theorem ring_refused {st : Nat} (hall : ∀ op free busy bad act, s.command op c free busy bad act = s.journal op c.part 0x1FF st true (c.words.getD 1 0) (c.words.getD 2 0))
    (hdie : exec (.dieReset c) s = .next (s.journal 0x0B c.part 0x1FF st true (c.words.getD 1 0) (c.words.getD 2 0))) :
    ∀ x ∈ ringCommands, exec (x.1 c) s = .next (s.journal x.2 c.part 0x1FF st true (c.words.getD 1 0) (c.words.getD 2 0)) := by
  have h (op : Nat) (free : Nat → Nat) (busy bad : Bool) (act : State → State) :
      (.next (s.command op c free busy bad act) : Host.Outcome State Fault Refusal) = .next (s.journal op c.part 0x1FF st true (c.words.getD 1 0) (c.words.getD 2 0)) :=
    congrArg Host.Outcome.next (hall _ _ _ _ _)
  unfold ringCommands
  simp only [List.forall_mem_cons, List.not_mem_nil, false_imp_iff, implies_true, and_true]
  exact ⟨h _ _ _ _ _, h _ _ _ _ _, h _ _ _ _ _, h _ _ _ _ _, h _ _ _ _ _, h _ _ _ _ _, h _ _ _ _ _, h _ _ _ _ _, h _ _ _ _ _, h _ _ _ _ _, hdie, h _ _ _ _ _, h _ _ _ _ _, h _ _ _ _ _⟩

theorem ring_reserved (hw : 2 ^ 16 ≤ c.w 0) : ∀ x ∈ ringCommands, exec (x.1 c) s = .next (s.journal x.2 c.part 0x1FF 1 true (c.words.getD 1 0) (c.words.getD 2 0)) := by
  refine ring_refused (fun op free busy bad act => command_reserved hw) (dieReset_refused (by decide) (if_pos ?_))
  rw [Bool.not_eq_true', ← Bool.not_eq_true, reservedClear_iff]
  exact fun h => absurd h.1 (by omega)

theorem ring_unpartitioned (hw : c.w 0 < 2 ^ 16) (hzero : ∀ i, 1 ≤ i → i ≤ 7 → c.w i = 0) (hpart : 95 < c.part) :
    ∀ x ∈ ringCommands, exec (x.1 c) s = .next (s.journal x.2 c.part 0x1FF 3 true (c.words.getD 1 0) (c.words.getD 2 0)) := by
  refine ring_refused (fun op free busy bad act => command_unpartitioned hw hzero hpart) (dieReset_refused (by decide) ?_)
  rw [reservedClear_iff.mpr ⟨hw, fun i hlo hhi => clear_zero (hzero i hlo hhi)⟩, if_neg (by decide), if_pos hpart]

/-- PART_REG writes the fields of its word (18 R320, 20 R356). -/
theorem partReg_fields {q : Partition} (hw : c.w 0 < 2 ^ 16) (hpart : c.part ≤ 95) (hzero : ∀ i, 3 ≤ i → i ≤ 7 → c.w i = 0)
    (hok : regWritable (c.w 1) (c.w 2) = true) (hq : (s.part c.part).regWrite (c.w 1) (c.w 2) = q) : Takes s c (.partReg c) 0x04 (fun t => t.part c.part = q) :=
  hq ▸ partReg_takes hw hpart hzero hok

theorem partReg_each {p : Partition} (hp : p = s.part c.part) (hw : c.w 0 < 2 ^ 16) (hpart : c.part ≤ 95) (hzero : ∀ i, 3 ≤ i → i ≤ 7 → c.w i = 0) :
    ∀ x ∈ ([(0x020, { p with fqlog := c.w 2 / 2 ^ 20 % 16, hcore := c.w 2 % 128 }), (0x021, { p with fqBase := BitVec.ofNat 64 (c.w 2) }), (0x023, { p with hndMsg := BitVec.ofNat 64 (c.w 2) }),
      (0x100, { p with rdirBase := c.w 2 }), (0x102, { p with rdirCap := c.w 2 % 2 ^ 32 })] : List (Nat × Partition)), c.w 1 = x.1 →
      (x.1 = 0x020 → 4 ≤ c.w 2 / 2 ^ 20 % 16 ∧ c.w 2 / 2 ^ 20 % 16 ≤ 12) → Takes s c (.partReg c) 0x04 (fun t => t.part c.part = x.2) := by
  subst hp
  simp only [List.forall_mem_cons, List.not_mem_nil, false_imp_iff, implies_true, and_true]
  refine ⟨fun hi hlog => ?_, fun hi _ => ?_, fun hi _ => ?_, fun hi _ => ?_, fun hi _ => ?_⟩
  · have hlog' : 4 ≤ bitsAt (c.w 2) 20 4 ∧ bitsAt (c.w 2) 20 4 ≤ 12 := by
      rw [bitsAt_eq]
      exact hlog trivial
    refine partReg_fields hw hpart hzero ?_ ?_
    · unfold regWritable
      rw [hi, decide_eq_true hlog']
      rfl
    · rw [hi]
      unfold Partition.regWrite
      rw [bitsAt_eq, bitsAt_zero]
      rfl
  · exact partReg_fields hw hpart hzero (by rw [hi]; rfl) (by rw [hi]; rfl)
  · exact partReg_fields hw hpart hzero (by rw [hi]; rfl) (by rw [hi]; rfl)
  · exact partReg_fields hw hpart hzero (by rw [hi]; rfl) (by rw [hi]; rfl)
  · exact partReg_fields hw hpart hzero (by rw [hi]; rfl) (by rw [hi]; rfl)

theorem vfBind_binds (hw : c.w 0 < 2 ^ 16) (hpart : c.part ≤ 95) (hzero : ∀ i, 3 ≤ i → i ≤ 7 → c.w i = 0) (hvf : c.w 1 ≤ 383) (hto : c.w 2 ≤ 95) :
    Takes s c (.vfBind c) 0x0C (fun t => mget t.hub.vfs (c.w 1) = some (c.w 2)) := by
  obtain ⟨t, hexec, hjournal, hvfs⟩ := vfBind_takes (s := s) hw hpart hzero hvf (.inl hto)
  refine ⟨t, hexec, hjournal, ?_⟩
  dsimp only
  rw [hvfs, if_neg (by omega), mget_mset_same]

theorem vfBind_unbinds (hw : c.w 0 < 2 ^ 16) (hpart : c.part ≤ 95) (hzero : ∀ i, 3 ≤ i → i ≤ 7 → c.w i = 0) (hvf : c.w 1 ≤ 383) (hto : c.w 2 = 0xFF) :
    Takes s c (.vfBind c) 0x0C (fun t => t.hub.vfs = mdel s.hub.vfs (c.w 1)) := by
  obtain ⟨t, hexec, hjournal, hvfs⟩ := vfBind_takes (s := s) hw hpart hzero hvf (.inr hto)
  refine ⟨t, hexec, hjournal, ?_⟩
  dsimp only
  rw [hvfs, if_pos hto]

end

/-- Settles O54: a refused command is journalled alone; an accepted one is journalled, and its effect leaves the journal to be marked DONE. -/
theorem hostCommandsTakeEffect : Obligations.HostCommandsTakeEffect := by
  unfold Obligations.HostCommandsTakeEffect
  intro s c
  refine ⟨fun x hx => ?_, fun hw hpart => ?_⟩
  · intro refused
    exact ⟨fun hreserved => ring_reserved hreserved x hx, fun hw hzero hpart => ring_unpartitioned hw hzero hpart x hx⟩
  · intro p zeroFrom takes
    exact ⟨fun hzero hmask hshares hfree hbw hown hsum => partCores_takes hw hpart hzero hmask hshares hfree hbw hown hsum,
      fun hzero hruns hfit hown => partMem_takes hw hpart hzero hruns hfit hown,
      fun hzero hlaunches hhandler hkeys => partClr_takes hw hpart hzero hlaunches hhandler hkeys,
      fun hzero => partReg_each rfl hw hpart hzero,
      fun hzero hhandler hlo hhi hbase himage => hndStart_takes hw hpart hzero hhandler hlo hhi hbase himage,
      fun hzero hwin hrights => dmaWin_takes hw hpart hzero hwin hrights,
      fun hzero hlo hhi hbits hports => peerSet_takes hw hpart hzero hlo hhi hbits hports,
      fun hzero hgroup hok => grpSet_takes hw hpart hzero hgroup hok,
      fun hzero hcore => fenceClr_takes hw hpart hzero hcore,
      fun hzero => ⟨resume_takes hw hpart hzero, hostHalt_takes hw hpart hzero⟩,
      fun hzero hvf => ⟨fun hto => vfBind_binds hw hpart hzero hvf hto, fun hto => vfBind_unbinds hw hpart hzero hvf hto⟩,
      fun hzero hport hlo hhi => rateSet_takes hw hpart hzero hport hlo hhi⟩

end Sys2Proof.Machine

/-! PROOFS. Dies under reset, pushes, flits, the clamp and the management core (23 R402 R408 R411 R414). -/

namespace Sys2Proof.Machine

section
variable {s : State}

/-! ### Halting several partitions -/

/-- Halting a partition leaves every partition its cores and its handler tile. -/
theorem halt_cores (s : State) (m n : Nat) : ((s.halt m).part n).cores = (s.part n).cores ∧ ((s.halt m).part n).hcore = (s.part n).hcore := by
  unfold State.halt
  dsimp only
  split
  · exact ⟨rfl, rfl⟩
  · by_cases hn : n = m
    · rw [hn, State.part_setPart_same]
      exact ⟨rfl, rfl⟩
    · rw [State.part_setPart_other _ _ _ _ hn]
      exact ⟨rfl, rfl⟩

theorem halt_halted (s : State) (m n : Nat) (h : (s.part n).halted = true ∨ n = m) : ((s.halt m).part n).halted = true := by
  by_cases hn : n = m
  · rw [hn]
    exact (halt_haltAt s m).1
  · have hwas := h.resolve_right hn
    unfold State.halt
    dsimp only
    split
    · exact hwas
    · rw [State.part_setPart_other _ _ _ _ hn]
      exact hwas

theorem halts_cores (ms : List Nat) (s : State) (n : Nat) : ((ms.foldl State.halt s).part n).cores = (s.part n).cores ∧ ((ms.foldl State.halt s).part n).hcore = (s.part n).hcore := by
  induction ms generalizing s with
  | nil => exact ⟨rfl, rfl⟩
  | cons m ms ih => exact ⟨(ih _).1.trans (halt_cores s m n).1, (ih _).2.trans (halt_cores s m n).2⟩

theorem halts_halted (ms : List Nat) (s : State) (n : Nat) (h : (s.part n).halted = true ∨ n ∈ ms) : ((ms.foldl State.halt s).part n).halted = true := by
  induction ms generalizing s with
  | nil => exact h.resolve_right List.not_mem_nil
  | cons m ms ih =>
    refine ih _ ?_
    obtain hwas | hmem := h
    · exact .inl (halt_halted s m n (.inl hwas))
    · obtain hn | hmem := List.mem_cons.mp hmem
      · exact .inl (halt_halted s m n (.inr hn))
      · exact .inr hmem

/-- What halting changes: partitions alone. -/
theorem halts_rest (ms : List Nat) (s : State) : ms.foldl State.halt s = { s with parts := (ms.foldl State.halt s).parts } := by
  induction ms generalizing s with
  | nil => rfl
  | cons m ms ih =>
    have hone : s.halt m = { s with parts := (s.halt m).parts } := by
      unfold State.halt
      dsimp only
      split
      · rfl
      · rfl
    rw [List.foldl_cons]
    refine (ih _).trans ?_
    rw [hone]

/-! ### Dies -/

theorem setDie_eq {n : Nat} {d : Die} (f : Die → Die) (h : s.dies[n]? = some d) : s.setDie n f = { s with dies := s.dies.set n (f d) } := by
  unfold State.setDie
  rw [@List.modify_eq_set _ ⟨d⟩, h]
  rfl

section
variable {n : Nat} {d : Die} (hd : s.dies[n]? = some d)
include hd

theorem dieWriteback_goes_offline (hst : d.st = 1) (hreqs : ∀ r ∈ s.reqs, r.admitted = true → r.onDie n = true → r.arrived = true) :
    execDieWritebackDone n s = .next { s with dies := s.dies.set n { d with st := 2, since := s.fc } } := by
  have hleft : s.reqs.any (fun r => r.admitted && r.onDie n && !r.arrived) = false := by
    refine List.any_eq_false.mpr (fun r hr => ?_)
    simp only [Bool.and_eq_true, Bool.not_eq_true', not_and, Bool.not_eq_false]
    exact fun h => hreqs r hr h.1 h.2
  unfold execDieWritebackDone
  dsimp only
  rw [hleft, hd, if_neg (by simp [hst]), setDie_eq _ hd]

theorem dieRetrain_starts (hst : d.st = 2) (hsince : d.since + 850000 ≤ s.fc) :
    ∃ t, execDieRetrainStart n s = .next t ∧ t.dies = s.dies.set n { d with st := 3, since := s.fc } ∧ (∀ x ∈ t.banks, dieOfCore (bankCore x.1) ≠ n) ∧ t.mem = s.mem := by
  unfold execDieRetrainStart
  rw [hd, if_neg (by simp [hst, hsince])]
  refine ⟨_, rfl, ?_, fun x hx => ?_, rfl⟩
  · dsimp only
    rw [setDie_eq _ hd]
  · simpa using (List.mem_filter.mp hx).2

theorem dieRetrain_ends (hst : d.st = 3) :
    ∃ t, execDieRetrainDone n s = .next t ∧ (t.dies[n]?).map Die.st = some 0 ∧ (∀ e ∈ t.hub.journal, e.seq = d.jrn → e.done = true) ∧ t.hub.journal.length = s.hub.journal.length := by
  unfold execDieRetrainDone
  rw [hd]
  dsimp only
  rw [if_neg (by simp [hst]), setDie_eq _ hd]
  refine ⟨_, rfl, ?_, fun e he hseq => ?_, List.length_map _⟩
  · obtain ⟨hlt, -⟩ := List.getElem?_eq_some_iff.mp hd
    show ((s.dies.set n _)[n]?).map Die.st = some 0
    rw [List.getElem?_set_self hlt]
    rfl
  · obtain ⟨x, -, rfl⟩ := List.mem_map.mp he
    by_cases hx : x.seq = d.jrn
    · rw [if_pos hx]
    · rw [if_neg hx] at hseq
      exact absurd hseq hx

end

end

end Sys2Proof.Machine

/-! PROOFS. The reset of a die, pushes, flits, and the settling of the obligation on them. -/

namespace Sys2Proof.Machine

section
variable {s : State}

/-! ### A die is reset -/

section
variable {c : HostCommand}

/-- The words of a command of one whole word are in order. -/
theorem clear_one (hw : c.w 0 < 2 ^ 16) (hzero : ∀ i, 2 ≤ i → i ≤ 7 → c.w i = 0) : reservedClear c (fun i => if i = 1 then allBits else 0) = true := by
  refine reservedClear_iff.mpr ⟨hw, clear_from 2 hzero (fun i hlo hi => ?_)⟩
  rw [if_pos (by omega)]
  exact clear_all i

/-- The die that is reset, and what is on its way to it. -/
def State.dieClosing (s : State) (c : HostCommand) : State :=
  let u := (s.accepting 0x0B c).setDie (c.w 1) (fun x => { x with st := 1, onl := false, since := (s.accepting 0x0B c).fc, jrn := (s.accepting 0x0B c).hub.jrnSeq })
  { u with reqs := u.reqs.map (fun (r : Req) => if r.onDie (c.w 1) then { r with admitted := true } else r) }

/-- The partitions whose handler tile stands on a die. -/
def State.handledOn (s : State) (d : Nat) : List Nat := (s.parts.filter (fun x => !x.2.cores.isEmpty && dieOfCore x.2.hcore == d)).map Prod.fst

section
variable (hw : c.w 0 < 2 ^ 16) (hpart : c.part ≤ 95) (hzero : ∀ i, 2 ≤ i → i ≤ 7 → c.w i = 0)
include hw hpart hzero

theorem dieReset_last (hlast : (s.dies.filter (fun x => x.st == 0)).length ≤ 1) :
    exec (.dieReset c) s = .next (s.journal 0x0B c.part 0x1FF 6 true (c.words.getD 1 0) (c.words.getD 2 0)) := by
  refine dieReset_refused (by decide) ?_
  rw [clear_one hw hzero, if_neg (by decide), if_neg (by omega), decide_eq_true hlast, Bool.or_true, if_pos rfl]

theorem dieReset_closes {d : Die} (hd : s.dies[c.w 1]? = some d) (hst : d.st = 0) (hmore : 1 < (s.dies.filter (fun x => x.st == 0)).length) (hidle : ∀ x ∈ s.parts, x.2.launches = []) :
    exec (.dieReset c) s = .next ((s.handledOn (c.w 1)).foldl State.halt (s.dieClosing c)) := by
  have hon : (s.dies[c.w 1]?).any (fun x => x.st == 0) = true := by
    rw [hd, Option.any_some, hst]
    rfl
  have hstatus : (if !reservedClear c (fun i => if i = 1 then allBits else 0) then 1 else if 95 < c.part then 3
      else if !(s.dies[c.w 1]?).any (fun x => x.st == 0) || decide ((s.dies.filter (fun x => x.st == 0)).length ≤ 1) then 6 else 0) = 0 := by
    rw [clear_one hw hzero, if_neg (by decide), if_neg (by omega), hon, decide_eq_false (by omega)]
    rfl
  have hjournal : s.journal 0x0B c.part 0x1FF 0 (0 != 0) (c.words.getD 1 0) (c.words.getD 2 0) = s.accepting 0x0B c := by
    unfold State.accepting
    rfl
  have hparts : (s.dieClosing c).parts = s.parts := accepting_parts _
  have hnone : (s.dieClosing c).parts.flatMap (fun (n, p) => (p.launches.filter (fun x => x.2.cores.any (fun k => dieOfCore k == c.w 1))).map (fun x => n * 65536 + x.1)) = [] := by
    rw [hparts]
    refine List.flatMap_eq_nil_iff.mpr (fun x hx => ?_)
    dsimp only
    rw [hidle x hx]
    rfl
  show execDieReset c s = _
  unfold execDieReset
  dsimp only
  rw [hstatus, if_neg (by decide), hjournal]
  unfold State.handledOn
  rw [List.foldl_map, ← hparts]
  exact congrArg (fun lks : List Nat => Host.Outcome.next (((lks.foldl (fun s lk => s.finish lk 1) (s.dieClosing c)).parts.filter (fun x => !x.2.cores.isEmpty && dieOfCore x.2.hcore == c.w 1)).foldl
    (fun s x => s.halt x.1) (lks.foldl (fun s lk => s.finish lk 1) (s.dieClosing c)))) hnone

end

theorem dieClosing_dies (s : State) (c : HostCommand) :
    (s.dieClosing c).dies = s.dies.modify (c.w 1) (fun x => { x with st := 1, onl := false, since := s.fc, jrn := s.hub.jrnSeq + 1 }) := by
  unfold State.dieClosing State.setDie
  dsimp only
  rw [accepting_jrnSeq, accepting_rest]

/-- A partition whose handler tile stands on the die halts. -/
theorem dieReset_halts {y : Nat × Partition} {d : Nat} (hcores : y.2.cores ≠ []) (hhandler : dieOfCore y.2.hcore = d)
    (hget : mget ((s.handledOn d).foldl State.halt (s.dieClosing c)).parts y.1 = some y.2) : y.2.halted = true := by
  have hy : ((s.handledOn d).foldl State.halt (s.dieClosing c)).part y.1 = y.2 := by
    unfold State.part mgetD
    rw [hget]
    rfl
  have hpart : (s.dieClosing c).part y.1 = s.part y.1 := accepting_part (s := s) _ _
  obtain ⟨hsame, htile⟩ := halts_cores (s.handledOn d) (s.dieClosing c) y.1
  rw [hy, hpart] at hsame htile
  have hmem : (y.1, s.part y.1) ∈ s.parts := by
    unfold State.part mgetD at hsame ⊢
    cases hp : mget s.parts y.1 with
    | none =>
      rw [hp] at hsame
      exact absurd hsame hcores
    | some p => exact mem_of_mget hp
  have hnamed : y.1 ∈ s.handledOn d := by
    refine List.mem_map.mpr ⟨(y.1, s.part y.1), List.mem_filter.mpr ⟨hmem, ?_⟩, rfl⟩
    dsimp only
    rw [← hsame, ← htile, hhandler, beq_self_eq_true, Bool.and_true, Bool.not_eq_true', List.isEmpty_eq_false_iff]
    exact hcores
  rw [← hy]
  exact halts_halted _ _ _ (.inr hnamed)

theorem dieReset_takes {d : Die} (hw : c.w 0 < 2 ^ 16) (hpart : c.part ≤ 95) (hzero : ∀ i, 2 ≤ i → i ≤ 7 → c.w i = 0) (hd : s.dies[c.w 1]? = some d) (hst : d.st = 0)
    (hmore : 1 < (s.dies.filter (fun x => x.st == 0)).length) (hidle : ∀ x ∈ s.parts, x.2.launches = []) :
    ∃ t x, exec (.dieReset c) s = .next t ∧ t.dies[c.w 1]? = some x ∧ x.st = 1 ∧ x.onl = false ∧ x.since = s.fc ∧ x.jrn = s.hub.jrnSeq + 1 ∧ (∀ n, n ≠ c.w 1 → t.dies[n]? = s.dies[n]?) ∧
      (∀ y ∈ t.parts, y.2.cores ≠ [] → dieOfCore y.2.hcore = c.w 1 → mget t.parts y.1 = some y.2 → y.2.halted = true) := by
  have hdies : ((s.handledOn (c.w 1)).foldl State.halt (s.dieClosing c)).dies = s.dies.modify (c.w 1) (fun x => { x with st := 1, onl := false, since := s.fc, jrn := s.hub.jrnSeq + 1 }) := by
    rw [halts_rest]
    exact dieClosing_dies s c
  refine ⟨_, { d with st := 1, onl := false, since := s.fc, jrn := s.hub.jrnSeq + 1 }, dieReset_closes hw hpart hzero hd hst hmore hidle, ?_, rfl, rfl, rfl, rfl, fun n hn => ?_,
    fun y _ hcores hhandler hget => dieReset_halts hcores hhandler hget⟩
  · rw [hdies, List.getElem?_modify_eq, hd]
    rfl
  · rw [hdies]
    exact List.getElem?_modify_ne _ _ hn.symm

end

/-! ### Pushes -/

section
variable {vf queue addr part : Nat}

/-- The journal entry of a push. -/
def State.pushed (s : State) (vf queue addr part st : Nat) : State := s.journal 0x80 part vf st true (BitVec.ofNat 64 addr) (BitVec.ofNat 64 queue)

theorem doorbell_unbound (hvf : vf < 384) (hq : queue < 64) (h : mget s.hub.vfs vf = none) : execVfLaunchDoorbell vf queue addr s = .next (s.pushed vf queue addr 0xFF 6) := by
  unfold execVfLaunchDoorbell
  rw [if_neg (by omega)]
  dsimp only
  rw [h]
  rfl

theorem doorbell_outside (hvf : vf < 384) (hq : queue < 64) (h : mget s.hub.vfs vf = some part) (hbad : addr % 128 ≠ 0 ∨ inShare (s.part part) addr 128 = false) :
    execVfLaunchDoorbell vf queue addr s = .next (s.pushed vf queue addr part 6) := by
  unfold execVfLaunchDoorbell
  rw [if_neg (by omega)]
  dsimp only
  rw [h]
  exact if_pos hbad

section
variable (hvf : vf < 384) (hq : queue < 64) (h : mget s.hub.vfs vf = some part) (hline : addr % 128 = 0) (hshare : inShare (s.part part) addr 128 = true)
include hvf hq h hline hshare

theorem doorbell_error {e : Nat} (he : s.acceptPacket part queue (packetWords (readBytes s.mem addr 128)) (some addr) (some vf) false = .error e) :
    execVfLaunchDoorbell vf queue addr s = .next (s.pushed vf queue addr part e) := by
  unfold execVfLaunchDoorbell
  rw [if_neg (by omega)]
  dsimp only
  rw [h]
  dsimp only
  rw [if_neg (by simp [hline, hshare]), he]
  rfl

theorem doorbell_ok {t : State} (ht : s.acceptPacket part queue (packetWords (readBytes s.mem addr 128)) (some addr) (some vf) false = .ok t) :
    execVfLaunchDoorbell vf queue addr s = .next (t.pushed vf queue addr part 0) := by
  unfold execVfLaunchDoorbell
  rw [if_neg (by omega)]
  dsimp only
  rw [h]
  dsimp only
  rw [if_neg (by simp [hline, hshare]), ht]
  rfl

theorem doorbell_full (hfull : 32 ≤ ((s.part part).queue.filter (fun q => q.queue == queue)).length) : execVfLaunchDoorbell vf queue addr s = .next (s.pushed vf queue addr part 5) := by
  refine doorbell_error hvf hq h hline hshare ?_
  unfold State.acceptPacket
  exact if_pos hfull

theorem doorbell_takes (hroom : ((s.part part).queue.filter (fun q => q.queue == queue)).length < 32) (ws : List Nat) (hws : ws = packetWords (readBytes s.mem addr 128))
    (hok : s.packetOk part ws false = true) :
    ∃ (t : State) (q : Packet), execVfLaunchDoorbell vf queue addr s = .next (t.pushed vf queue addr part 0) ∧ t = s.setPart part { s.part part with
      queue := (s.part part).queue ++ [q], aseq := ((s.part part).aseq + 1) % 2 ^ 64 } ∧ q.words = ws ∧ q.addr = some addr ∧ q.queue = queue ∧ q.aseq = (s.part part).aseq ∧ q.age = 0 ∧ q.vf = some vf := by
  subst hws
  refine ⟨_, _, doorbell_ok hvf hq h hline hshare (if_neg (by omega) |>.trans (if_neg (by simp [hok]))), rfl, rfl, rfl, rfl, rfl, rfl, rfl⟩

end

end

/-! ### Flits -/

section
variable {n : Nat} {f : Flit} (hn : n < 16) (hup : (mgetD s.hub.ports n {}).down = false)
include hn hup

theorem open_port : ¬(16 ≤ n ∨ (s.port n).down = true) := by
  rintro (hlarge | hdown)
  · omega
  · exact absurd (hdown.symm.trans hup) (by decide)

theorem flit_bad (hcrc : f.crcOk = false) :
    execFlitReceive n f s = .next (s.setPort n { s.port n with acks := (s.port n).acks ++ [((s.port n).rxSeq, false)] }) := by
  unfold execFlitReceive
  dsimp only
  rw [if_neg (open_port hn hup), if_pos (by simp [hcrc])]

theorem flit_next (hcrc : f.crcOk = true) (hseq : f.seq = (s.port n).rxSeq) :
    execFlitReceive n f s = .next (s.setPort n { s.port n with
      rxSeq := ((s.port n).rxSeq + 1) % 4096, acks := (s.port n).acks ++ [(f.seq, true)], rx := if s.takesFlit n f then (s.port n).rx ++ [f] else (s.port n).rx }) := by
  unfold execFlitReceive
  dsimp only
  rw [if_neg (open_port hn hup), if_neg (by simp [hcrc]), if_neg (fun hne => hne hseq)]

theorem replay_counts (hfails : (s.port n).fails < 8) : execFlitReplay n s = .next (s.setPort n { s.port n with fails := (s.port n).fails + 1 }) := by
  unfold execFlitReplay
  dsimp only
  rw [if_neg (open_port hn hup), if_neg (by omega)]

theorem replay_closes (hfails : 8 ≤ (s.port n).fails) : execFlitReplay n s = .next (s.setPort n { s.port n with down := true }) := by
  unfold execFlitReplay
  dsimp only
  rw [if_neg (open_port hn hup), if_pos hfails]

end

/-! ### Power and the management core -/

theorem thermalLimit_halts (s : State) : ∃ t, execThermalClamp .limit s = .next t ∧ t.hub.thermal = .limit ∧ ∀ n p, mget s.parts n = some p → (t.part n).halted = true := by
  refine ⟨_, rfl, ?_, fun n p hp => halts_halted _ _ _ (.inr (List.mem_map_of_mem (mem_of_mget hp)))⟩
  dsimp only
  rw [halts_rest]

theorem dropWhile_eq_nil {α : Type} {p : α → Bool} {xs : List α} (h : ∀ x ∈ xs, p x = true) : xs.dropWhile p = [] := by
  induction xs with
  | nil => rfl
  | cons x xs ih =>
    obtain ⟨hx, hxs⟩ := List.forall_mem_cons.mp h
    rw [List.dropWhile_cons_of_pos hx]
    exact ih hxs

theorem mgmtReset_rereads (s : State) : ∃ t, execMgmtCoreReset s = .next t ∧ t = { s with hub := { s.hub with head := t.hub.head } } ∧
    ((∀ e ∈ s.hub.journal, e.src = 0x1FF → e.done = true) → t.hub.head % 64 = s.hub.head % 64) := by
  refine ⟨_, rfl, rfl, fun hdone => ?_⟩
  have hback : (s.hub.journal.filter (fun e => e.src == 0x1FF)).dropWhile (fun e => e.done) = [] := by
    refine dropWhile_eq_nil (fun e he => ?_)
    obtain ⟨hmem, hsrc⟩ := List.mem_filter.mp he
    exact hdone e hmem (by simpa using hsrc)
  dsimp only
  rw [hback, List.length_nil]
  omega

end

/-- Settles O55: each step of a die, each answer to a push or a flit and each step of the management core by its definition; the partitions that a die's reset or the limit halts stay halted. -/
theorem diesPushesAndFlits : Obligations.DiesPushesAndFlits := by
  unfold Obligations.DiesPushesAndFlits
  refine ⟨fun s c hw hpart hzero => ⟨dieReset_last hw hpart hzero, fun d hd hst hmore hidle => dieReset_takes hw hpart hzero hd hst hmore hidle⟩,
    fun s n d hd => ⟨dieWriteback_goes_offline hd, dieRetrain_starts hd, dieRetrain_ends hd⟩, fun s vf queue addr part hvf hq => ?_, fun s n f p hn hp hup => ?_, fun s => ⟨?_, thermalLimit_halts s, mgmtReset_rereads s⟩⟩
  · intro logged
    exact ⟨doorbell_unbound hvf hq, fun h => ⟨doorbell_outside hvf hq h, fun hline hshare => ⟨doorbell_full hvf hq h hline hshare, doorbell_takes hvf hq h hline hshare⟩⟩⟩
  · subst hp
    intro port
    exact ⟨flit_bad hn hup, flit_next hn hup, replay_counts hn hup, replay_closes hn hup⟩
  · intro v hv
    obtain rfl | rfl : v = .normal ∨ v = .clamp := by simpa using hv
    · rfl
    · rfl

end Sys2Proof.Machine

/-! PROOFS. Scarab's choice of a block (02 R37, 19 R344) and the end of a shrink (21 R386-R389). -/

namespace Sys2Proof.Machine

section
variable {s : State}

/-! ### The greatest of a list -/

section
variable {α : Type} (f : α → Nat)

/-- The one kept of two: the later where it is greater. -/
def keepGreater (b : Option α) (x : α) : Option α :=
  match b with
  | none => some x
  | some y => if f y < f x then some x else some y

theorem foldl_keepGreater (xs : List α) (y : α) : ∃ z, xs.foldl (keepGreater f) (some y) = some z ∧ (z = y ∨ z ∈ xs) ∧ f y ≤ f z ∧ ∀ x ∈ xs, f x ≤ f z := by
  induction xs generalizing y with
  | nil => exact ⟨y, rfl, .inl rfl, Nat.le_refl _, fun x hx => absurd hx List.not_mem_nil⟩
  | cons x xs ih =>
    by_cases hlt : f y < f x
    · obtain ⟨z, hz, hmem, hle, hall⟩ := ih x
      refine ⟨z, ?_, .inr ?_, by omega, fun w hw => ?_⟩
      · rw [List.foldl_cons, ← hz]
        exact congrArg (fun b => xs.foldl (keepGreater f) b) (if_pos hlt)
      · obtain rfl | hmem := hmem
        · exact List.mem_cons_self
        · exact List.mem_cons_of_mem _ hmem
      · obtain rfl | hw := List.mem_cons.mp hw
        · exact hle
        · exact hall w hw
    · obtain ⟨z, hz, hmem, hle, hall⟩ := ih y
      refine ⟨z, ?_, hmem.imp_right (List.mem_cons_of_mem _), hle, fun w hw => ?_⟩
      · rw [List.foldl_cons, ← hz]
        exact congrArg (fun b => xs.foldl (keepGreater f) b) (if_neg hlt)
      · obtain rfl | hw := List.mem_cons.mp hw
        · omega
        · exact hall w hw

/-- A list that is not empty has a greatest member, and the fold keeps one. -/
theorem greatest_of_ne_nil {xs : List α} (h : xs ≠ []) : ∃ z, xs.foldl (keepGreater f) none = some z ∧ z ∈ xs ∧ ∀ x ∈ xs, f x ≤ f z := by
  obtain ⟨x, ys, rfl⟩ := List.exists_cons_of_ne_nil h
  obtain ⟨z, hz, hmem, hle, hall⟩ := foldl_keepGreater f ys x
  refine ⟨z, hz, ?_, fun w hw => ?_⟩
  · obtain rfl | hmem := hmem
    · exact List.mem_cons_self
    · exact List.mem_cons_of_mem _ hmem
  · obtain rfl | hw := List.mem_cons.mp hw
    · exact hle
    · exact hall w hw

end

/-! ### Scarab -/

theorem foldl_congr_fun {α β : Type} {f g : β → α → β} (h : ∀ b x, f b x = g b x) (xs : List α) (b : β) : xs.foldl f b = xs.foldl g b := by
  rw [funext (fun b => funext (h b))]

theorem scarabChoice_nil (l : Launch) : s.scarabChoice l [] = none := rfl

/-- The choice among blocks that can be loaded: the oldest of those of age 64 or more, or else the one with the most records (02 R37). -/
theorem scarabChoice_spec {l : Launch} {ws : List (Nat × BlockEnt)} (h : ws ≠ []) : ∃ x ∈ ws, s.scarabChoice l ws = some x ∧
    ((∃ y ∈ ws, 64 ≤ mgetD l.ages y.1 0) → ∀ y ∈ ws, mgetD l.ages y.1 0 ≤ mgetD l.ages x.1 0) ∧
    ((∀ y ∈ ws, mgetD l.ages y.1 0 < 64) → ∀ y ∈ ws, s.queueCountAt l y.2.blk y.2.core ≤ s.queueCountAt l x.2.blk x.2.core) := by
  by_cases hold : ws.filter (fun x => decide (64 ≤ mgetD l.ages x.1 0)) = []
  · have hyoung : ∀ y ∈ ws, mgetD l.ages y.1 0 < 64 := fun y hy => by simpa using List.filter_eq_nil_iff.mp hold y hy
    obtain ⟨x, hx, hmem, hall⟩ := greatest_of_ne_nil (fun x : Nat × BlockEnt => s.queueCountAt l x.2.blk x.2.core) h
    refine ⟨x, hmem, ?_, fun ⟨y, hy, hage⟩ => absurd (hyoung y hy) (by omega), fun _ => hall⟩
    unfold State.scarabChoice
    dsimp only
    rw [hold, if_pos (by rfl)]
    exact (foldl_congr_fun (fun b y => by cases b <;> rfl) _ _).trans hx
  · obtain ⟨x, hx, hmem, hall⟩ := greatest_of_ne_nil (fun x : Nat × BlockEnt => mgetD l.ages x.1 0) hold
    obtain ⟨hmem, hage⟩ := List.mem_filter.mp hmem
    have hage : 64 ≤ mgetD l.ages x.1 0 := by simpa using hage
    refine ⟨x, hmem, ?_, fun _ y hy => ?_, fun hyoung => absurd (hyoung x hmem) (by omega)⟩
    · unfold State.scarabChoice
      dsimp only
      rw [if_neg (fun he => hold (List.isEmpty_iff.mp he))]
      exact (foldl_congr_fun (fun b y => by cases b <;> rfl) _ _).trans hx
    · by_cases hy64 : 64 ≤ mgetD l.ages y.1 0
      · exact hall y (List.mem_filter.mpr ⟨hy, by simpa using hy64⟩)
      · omega

section
variable {lk core tile : Nat} {l : Launch}

/-- The swappable blocks of a load whose span holds a tile of a core. -/
def State.swappable (s : State) (l : Launch) (core tile : Nat) : List (Nat × BlockEnt) :=
  (blockTable s.mem l.img (s.loadOf l)).filter (fun x => l.coreOf x.2.core == core && (x.2.tile == tile || x.2.tile2 == tile) && !x.2.pinned)

/-- Those that wait. -/
def State.waitingBlocks (s : State) (lk : Nat) (l : Launch) (core tile : Nat) : List (Nat × BlockEnt) := (s.swappable l core tile).filter (fun x => s.waits lk l x.1 x.2)

/-- The launch with the ages of the blocks that wait no more taken out. -/
def State.agesKept (s : State) (lk : Nat) (l : Launch) (core tile : Nat) : Launch :=
  { l with ages := l.ages.filter (fun y => !(s.swappable l core tile).any (fun x => x.1 == y.1) || (s.waitingBlocks lk l core tile).any (fun x => x.1 == y.1)) }

/-- Of the blocks that wait, those that a free bank serves. -/
def State.readyToLoad (s : State) (lk : Nat) (l : Launch) (core tile : Nat) : List (Nat × BlockEnt) :=
  (s.waitingBlocks lk l core tile).filter (fun x => ((s.setLaunch lk (s.agesKept lk l core tile)).freeSpan core x.2).isSome)

theorem setLaunch_halted (lk n : Nat) (l : Launch) : ((s.setLaunch lk l).part n).halted = (s.part n).halted ∧ ((s.setLaunch lk l).part n).trcMode = (s.part n).trcMode := by
  have hset (p : Partition) (m : Nat) (hp : p.halted = (s.part m).halted ∧ p.trcMode = (s.part m).trcMode) :
      ((s.setPart m p).part n).halted = (s.part n).halted ∧ ((s.setPart m p).part n).trcMode = (s.part n).trcMode := by
    by_cases hn : n = m
    · rw [hn, State.part_setPart_same]
      exact hp
    · rw [State.part_setPart_other _ _ _ _ hn]
      exact ⟨rfl, rfl⟩
  unfold State.setLaunch
  dsimp only
  split
  · exact hset _ _ ⟨rfl, rfl⟩
  · exact hset _ _ ⟨rfl, rfl⟩

section
variable (hlk : (s.core core).lk = some lk) (hl : s.launch lk = some l) (hmay : s.mayChange lk l = true) (hbound : s.trBound (lkPart lk) l.trk = false)
include hlk hl hmay hbound

theorem scarabDecide_eq : execScarabDecide core tile s =
    match (s.setLaunch lk (s.agesKept lk l core tile)).scarabChoice (s.agesKept lk l core tile)
      (if (s.readyToLoad lk l core tile).isEmpty then s.waitingBlocks lk l core tile else s.readyToLoad lk l core tile) with
    | none => .next (s.setLaunch lk (s.agesKept lk l core tile))
    | some x => .next ((s.setLaunch lk (s.agesKept lk l core tile)).scarabServe lk core tile (s.agesKept lk l core tile) (s.waitingBlocks lk l core tile) x) := by
  obtain ⟨hhalted, hmode⟩ := setLaunch_halted (s := s) lk (lkPart lk) (s.agesKept lk l core tile)
  have hfind : (s.core core).lk.bind (fun lk => (s.launch lk).map (fun l => (lk, l))) = some (lk, l) := by
    rw [hlk, Option.bind_some, hl]
    rfl
  have hmay' : (s.setLaunch lk (s.agesKept lk l core tile)).mayChange lk (s.agesKept lk l core tile) = true := by
    unfold State.mayChange at hmay ⊢
    rw [hhalted]
    exact hmay
  have hbound' : (s.setLaunch lk (s.agesKept lk l core tile)).trBound (lkPart lk) l.trk = false := by
    unfold State.trBound at hbound ⊢
    rw [hmode]
    exact hbound
  unfold execScarabDecide
  have hgo : ¬((!(s.setLaunch lk (s.agesKept lk l core tile)).mayChange lk (s.agesKept lk l core tile)) = true) := by
    rw [hmay']
    decide
  have hfree : ¬(((s.setLaunch lk (s.agesKept lk l core tile)).trBound (lkPart lk) l.trk && !((s.setLaunch lk (s.agesKept lk l core tile)).part (lkPart lk)).trcDiv) = true) := by
    rw [hbound', Bool.false_and]
    decide
  rw [hfind]
  refine (if_neg hgo).trans ((if_neg hfree).trans ?_)
  rfl

theorem scarabDecide_idle (hws : s.waitingBlocks lk l core tile = []) : execScarabDecide core tile s = .next (s.setLaunch lk (s.agesKept lk l core tile)) := by
  have hfree : s.readyToLoad lk l core tile = [] := by
    unfold State.readyToLoad
    rw [hws]
    rfl
  rw [scarabDecide_eq hlk hl hmay hbound, hfree, hws, if_pos (by rfl), scarabChoice_nil]

theorem scarabDecide_loads (hfree : s.readyToLoad lk l core tile ≠ []) :
    ∃ x k, x ∈ s.readyToLoad lk l core tile ∧ (s.setLaunch lk (s.agesKept lk l core tile)).freeSpan core x.2 = some k ∧
      execScarabDecide core tile s = .next ((s.setLaunch lk (s.agesKept lk l core tile)).scarabLoad lk core tile (s.agesKept lk l core tile) (s.waitingBlocks lk l core tile) x.1 x.2 k none) ∧
      ((∃ y ∈ s.readyToLoad lk l core tile, 64 ≤ mgetD (s.agesKept lk l core tile).ages y.1 0) →
        ∀ y ∈ s.readyToLoad lk l core tile, mgetD (s.agesKept lk l core tile).ages y.1 0 ≤ mgetD (s.agesKept lk l core tile).ages x.1 0) ∧
      ((∀ y ∈ s.readyToLoad lk l core tile, mgetD (s.agesKept lk l core tile).ages y.1 0 < 64) →
        ∀ y ∈ s.readyToLoad lk l core tile, (s.setLaunch lk (s.agesKept lk l core tile)).queueCountAt (s.agesKept lk l core tile) y.2.blk y.2.core ≤
          (s.setLaunch lk (s.agesKept lk l core tile)).queueCountAt (s.agesKept lk l core tile) x.2.blk x.2.core) := by
  obtain ⟨x, hx, hchoice, hold, hyoung⟩ := scarabChoice_spec (s := s.setLaunch lk (s.agesKept lk l core tile)) (l := s.agesKept lk l core tile) hfree
  obtain ⟨k, hk⟩ := Option.isSome_iff_exists.mp (List.mem_filter.mp hx).2
  refine ⟨x, k, hx, hk, ?_, hold, hyoung⟩
  rw [scarabDecide_eq hlk hl hmay hbound, if_neg (fun he => hfree (List.isEmpty_iff.mp he)), hchoice]
  dsimp only
  unfold State.scarabServe
  rw [hk]

end

end

end

end Sys2Proof.Machine

/-! PROOFS. The cut of a shrink's marker (21 R386-R389), and the settling of the obligation on Scarab and the shrink. -/

namespace Sys2Proof.Machine

section
variable {s : State} {lk m mk : Nat} {l : Launch} {asked : Option (Site × Nat)}

/-- A shrink whose marker's cut is not complete goes on waiting. -/
theorem shrinkCut_waits (hl : (s.releaseLeft lk).launch lk = some l) (hshrink : l.shrink = some (m, mk, asked)) (hcut : l.cut ≤ mk) : execShrinkCut lk s = .next (s.releaseLeft lk) := by
  unfold execShrinkCut
  simp only [hl, hshrink, hcut, true_or, if_true]

theorem shrinkAnswer_false (lk : Nat) (l : Launch) (asked : Option (Site × Nat)) : (s.setLaunch lk l).shrinkAnswer asked false =
    (match asked with
      | some (e, id) => (s.setLaunch lk l).fill e id s.fc none (fork (predTok false))
      | none => s.setLaunch lk l) := by
  have hfc : (s.setLaunch lk l).fc = s.fc := by rw [setLaunch_parts]
  obtain _ | ⟨e, id⟩ := asked
  · rfl
  · show (s.setLaunch lk l).fill e id (s.setLaunch lk l).fc none (fork (predTok false)) = (s.setLaunch lk l).fill e id s.fc none (fork (predTok false))
    rw [hfc]

section
variable (hl : (s.releaseLeft lk).launch lk = some l) (hshrink : l.shrink = some (m, mk, asked)) (hcut : mk < l.cut) (heff : l.cut ≤ l.eff)
  (hhalt : ((s.releaseLeft lk).part (lkPart lk)).halted = false)
include hl hshrink hcut heff hhalt

omit hl hshrink in
theorem shrinkCut_due : ¬(l.cut ≤ mk ∨ l.eff < l.cut ∨ ((s.releaseLeft lk).part (lkPart lk)).halted = true) := by
  rintro (h | h | h)
  · omega
  · omega
  · exact absurd (h.symm.trans hhalt) (by decide)

theorem shrinkCut_refuses (hno : (s.releaseLeft lk).saveArea (lkPart lk) (l.cores.length - m) = none ∨ (s.releaseLeft lk).masksMeet l m = true) :
    execShrinkCut lk s = .next (((s.releaseLeft lk).setLaunch lk { l with shrink := none }).shrinkAnswer asked false) := by
  have hgo := shrinkCut_due hcut heff hhalt
  unfold execShrinkCut
  cases harea : (s.releaseLeft lk).saveArea (lkPart lk) (l.cores.length - m) with
  | none => simp only [hl, hshrink, if_neg hgo, harea]
  | some a =>
    have hmasks := hno.resolve_left (by rw [harea]; exact Option.some_ne_none a)
    simp only [hl, hshrink, if_neg hgo, harea, hmasks, if_true]

section
variable {a : Nat} (harea : (s.releaseLeft lk).saveArea (lkPart lk) (l.cores.length - m) = some a) (hmasks : (s.releaseLeft lk).masksMeet l m = false)
include harea hmasks

theorem shrinkCut_halts (hspoilt : (s.releaseLeft lk).spoilt .dev a ((l.cores.length - m) * saveSize) = true) : execShrinkCut lk s = .next ((s.releaseLeft lk).halt (lkPart lk)) := by
  have hgo := shrinkCut_due hcut heff hhalt
  unfold execShrinkCut
  simp only [hl, hshrink, if_neg hgo, harea, hmasks, hspoilt, Bool.false_eq_true, if_false, if_true]

theorem shrinkCut_folds (hsound : (s.releaseLeft lk).spoilt .dev a ((l.cores.length - m) * saveSize) = false) (htrk : l.trk = false) :
    execShrinkCut lk s = .next (((s.releaseLeft lk).fold lk m l a).shrinkAnswer asked true) := by
  have hbound (t : State) : t.trBound (lkPart lk) l.trk = false := by
    unfold State.trBound
    rw [htrk, Bool.and_false]
  have hgo := shrinkCut_due hcut heff hhalt
  unfold execShrinkCut
  simp only [hl, hshrink, if_neg hgo, harea, hmasks, hsound, hbound, Bool.false_eq_true, if_false]
  split
  · rfl
  · rfl

end

end

end

/-- Settles O50: Scarab keeps the greatest of the blocks that a free bank serves; the cut of a shrink's marker leads to its refusal, its machine check or its fold. -/
theorem blocksAndFolds : Obligations.BlocksAndFolds := by
  unfold Obligations.BlocksAndFolds
  refine ⟨fun s core tile lk l hlk hl hmay hbound => ?_, fun s v lk m mk l asked hv hl hshrink => ?_⟩
  · exact ⟨scarabDecide_idle hlk hl hmay hbound, scarabDecide_loads hlk hl hmay hbound⟩
  · subst hv
    refine ⟨shrinkCut_waits hl hshrink, fun hcut heff hhalt => ⟨fun hno => ?_, fun a harea hmasks => ⟨shrinkCut_halts hl hshrink hcut heff hhalt harea hmasks, shrinkCut_folds hl hshrink hcut heff hhalt harea hmasks⟩⟩⟩
    exact (shrinkCut_refuses hl hshrink hcut heff hhalt hno).trans (congrArg Host.Outcome.next (shrinkAnswer_false _ _ _))

end Sys2Proof.Machine

/-! PROOFS. A rollback and the request of an instruction that its block does not hold (21 R382, 08 R212). -/

namespace Sys2Proof.Machine

/-- A launch in its round 2, with the cut of round 1 complete. -/
def strayLaunch : Launch := { lid := 1, img := 0, size := 1, cores := [0], round := 2, cut := 1 }

/-- An atomic of another launch that had failed on what round 1 of the launch had written, and is performed again when a rollback discards that round. -/
def failedAtomic : Arrival :=
  { lk := 2, core := 0, round := 0, key := ⟨0, 0, 0, 0, 0⟩, seq := 0, space := .dev, addr := 0, op := .fault 0 0 (.atomic 0xA0 0x21 false (z64Tok 1) 0), req := 7, deps := [⟨1, 0, 1⟩] }

/-- Its request, whose site names index 0 of bank 0. -/
def strayRequest : Req := { id := 7, site := siteOf 0 0, lk := 2, round := 0, due := 0, kind := .answer 0, fresh := true, chain := ⟨0, 0, 0, 0⟩, parts := [], thr := 0 }

/-- A second residue mismatch, at a node of the launch's core; the launch's block on bank 0 has no instruction. -/
def strayed : State :=
  { State.reset with
    fc := 3
    cores := [(0, { lk := some 1 })]
    parts := [(0, { rbmax := 1, launches := [(1, strayLaunch)] })]
    banks := [(0, { st := 1, lk := 1 })]
    ctiles := [(0, { resx := 1, kept := [(0, 0, 0, predTok true, 0)] })]
    overlay := [failedAtomic]
    reqs := [strayRequest] }

/-- The rounds that the instructions of launch 1's blocks have forwarded. -/
def forwardedRounds (x : Host.Outcome State Fault Refusal) : List Nat :=
  match x with
  | .next t => (t.banks.filter (fun y => y.2.lk == 1 && y.2.st == 1 && y.2.upper.isNone)).flatMap (fun y => y.2.elems.map (fun z => z.2.fwd))
  | _ => []

/-- The answer of the atomic makes an element at the site, which has forwarded nothing. -/
theorem rollback_of_strayed : forwardedRounds (exec (.residueMismatch 0 0) strayed) = [0] := by decide +kernel

theorem forwardedRounds_of_rolledBack {s t : State} {l : Launch} (h : RolledBack s 1 l t) : ∀ r ∈ forwardedRounds (.next t), r = l.cut := by
  intro r hr
  obtain ⟨x, hx, hr⟩ := List.mem_flatMap.mp hr
  obtain ⟨y, hy, rfl⟩ := List.mem_map.mp hr
  obtain ⟨hx, hmine⟩ := List.mem_filter.mp hx
  simp only [Bool.and_eq_true, beq_iff_eq, Option.isNone_iff_eq_none] at hmine
  exact (h.elems x hx hmine.1.1 hmine.1.2 hmine.2 y hy).1

/-- Refutes O51: its rollback puts every element of the region at the cut in every state; where an operation of another launch is performed again behind the rollback (08 R212) and its request names an instruction that the region's block does not
hold, the answer makes an element there that stands at round 0. -/
theorem not_errorsAreRecovered : ¬ Obligations.ErrorsAreRecovered := by
  unfold Obligations.ErrorsAreRecovered
  rintro ⟨hresidue, -⟩
  obtain ⟨-, hsecond, -⟩ := hresidue strayed 0 0 1 strayLaunch (strayed.ctile (tileKey 0 0)) rfl (by decide +kernel) (by decide +kernel) (by decide +kernel) (by decide +kernel)
  obtain ⟨t, hexec, hrolled, -⟩ := hsecond (by decide +kernel) (by decide +kernel) (by decide +kernel)
  have hzero : 0 ∈ forwardedRounds (.next t) := by
    rw [← hexec, rollback_of_strayed]
    exact List.mem_singleton_self 0
  exact absurd (forwardedRounds_of_rolledBack hrolled 0 hzero) (by decide)

end Sys2Proof.Machine
